-- ==== Sys2Proof/Word.lean ====
section
/-!
DEFINITION. The word types of the Flequadon: what the manual treats as bits and their widths (R1, R2, R13, R121).
-/
namespace Sys2Proof

/-- A byte of any memory space (R2). -/
abbrev Byte := BitVec 8
/-- A dword: scalar registers, special registers, package registers, instruction words. -/
abbrev Word := BitVec 64
/-- A 72-bit address register or virtual address (R13). -/
abbrev Addr := BitVec 72
/-- A vector register of 64 lanes of 32 bits (R121). -/
abbrev VReg := BitVec 2048
/-- One lane of a vector register, also an F32 code. -/
abbrev Lane := BitVec 32
/-- One row of an accumulator tile: 128 F32 values (R150). -/
abbrev TileRow := BitVec 4096

/-- Numbers of scalar registers, s0 to s63. -/
abbrev SNum := Fin 64
/-- Numbers of address registers, a0 to a31. -/
abbrev ANum := Fin 32
/-- Numbers of guards, g0 to g7. -/
abbrev GNum := Fin 8
/-- Numbers of vector registers, v0 to v63. -/
abbrev VNum := Fin 64
/-- Numbers of accumulator tiles, c0 to c3. -/
abbrev TNum := Fin 4
/-- Numbers of matrix barriers, mb0 to mb3. -/
abbrev BNum := Fin 4
/-- Numbers of ring registers, q0 to q15. -/
abbrev QNum := Fin 16
/-- Numbers of route handles, h0 to h7. -/
abbrev HNum := Fin 8

end Sys2Proof
end

