-- ==== Sys2Proof/Machine/Bits.lean ====
section
/-!
DEFINITION. Bit fields, byte order, sign extension and the helper functions of Table 0.2 (R1, R2, R5, R7), and the lanes of vector
registers (R121).
-/
namespace Sys2Proof.Machine

/-- SignExtend(x, n) of a bit string read as a number (Table 0.2). -/
def sx (n x : Nat) : Int := if x % 2 ^ n < 2 ^ (n - 1) then (x % 2 ^ n : Nat) else (x % 2 ^ n : Nat) - (2 ^ n : Nat)

/-- Wrap(v, n) (Table 0.2). -/
def wrap (v : Int) (n : Nat) : Nat := (v % (2 ^ n : Nat)).toNat

/-- Bits [lo+n-1 : lo] of a number. -/
def nbits (x lo n : Nat) : Nat := x / 2 ^ lo % 2 ^ n

/-- Whether bit k of a number is 1. -/
def nbit (x k : Nat) : Bool := x.testBit k

/-- A word's bits [lo+n-1 : lo] as a number. -/
def wbits (w : Word) (lo n : Nat) : Nat := nbits w.toNat lo n

/-- A word of a number. -/
abbrev w64 (n : Nat) : Word := BitVec.ofNat 64 n

/-- A word of an integer, wrapped. -/
abbrev w64i (v : Int) : Word := BitVec.ofInt 64 v

/-- An address of an integer, wrapped modulo 2^72 (R120). -/
abbrev a72i (v : Int) : Addr := BitVec.ofInt 72 v

/-- One bit as a number. -/
abbrev bnat (b : Bool) : Nat := if b then 1 else 0

/-- n bytes of a number, little-endian (R2). -/
def leBytes : Nat → Nat → List Byte
  | 0, _ => []
  | n + 1, x => BitVec.ofNat 8 x :: leBytes n (x / 256)

/-- The number of little-endian bytes (R2). -/
def ofLE : List Byte → Nat
  | [] => 0
  | b :: bs => b.toNat + 256 * ofLE bs

/-- A list of n bytes of 0. -/
abbrev zeros (n : Nat) : List Byte := List.replicate n 0

/-- The numbers from a to a + n - 1. -/
def upto (a : Nat) : Nat → List Nat
  | 0 => []
  | n + 1 => a :: upto (a + 1) n

/-- ceil(a / b). -/
def cdiv (a b : Nat) : Nat := (a + b - 1) / b

/-- floor(log2 x) of x > 0. -/
def ilog2 (x : Nat) : Nat := x.log2

/-! ## Lanes of a vector register -/

/-- Lane i of a vector register (R121). -/
def laneGet (v : VReg) (i : Nat) : Lane := v.extractLsb' (32 * i) 32

/-- The register whose lane i is f i, for i from 0 to n - 1, above the low lanes already built. -/
def lanesFrom (f : Nat → Lane) : Nat → Nat
  | 0 => 0
  | n + 1 => lanesFrom f n + (f n).toNat * 2 ^ (32 * n)

/-- The register whose lane i is f i. -/
def ofLanes (f : Nat → Lane) : VReg := BitVec.ofNat 2048 (lanesFrom f 64)

/-- A register whose lanes first to first + n - 1 come from `x` and whose others come from `old` (R122). -/
def laneMerge (old x : VReg) (first n : Nat) : VReg :=
  ofLanes fun i => if first ≤ i ∧ i < first + n then laneGet x i else laneGet old i

/-- The register of a list of lanes; lanes past the list are zero. -/
def ofLaneList (l : List Lane) : VReg := BitVec.ofNat 2048 (l.foldr (fun x acc => x.toNat + acc * 2 ^ 32) 0)

/-- The lanes 0 to 63 as a list. -/
def lanes (v : VReg) : List Lane := (upto 0 64).map (laneGet v)

/-- Element j of width w of a lane. -/
def elem (x : Lane) (w j : Nat) : Nat := nbits x.toNat (w * j) w

/-- The lane whose element j of width w is f j. -/
def ofElems (w : Nat) (f : Nat → Nat) : Lane :=
  BitVec.ofNat 32 ((upto 0 (32 / w)).foldl (fun acc j => acc + (f j % 2 ^ w) * 2 ^ (w * j)) 0)

end Sys2Proof.Machine
end

