-- ==== Sys2Proof/Syntax.lean ====
section
/-!
DEFINITION. The steps of the machine: one constructor of `Instr` for each row of spec/opcode_table.json. Words of a bundle,
parts of a micro-word, and the events of the package (95_what_each_step_holds.md) are constructors alike; an event names what it
concerns by plain numbers (a shift identifier, a function number, an index of the list of pending messages).
-/
namespace Sys2Proof

/-- The five memory spaces (Table 9.1); the X field SP (Table 3.4). -/
inductive Space where
  | lane | pad | crew | chip | glob
  deriving DecidableEq, Repr

/-- Scopes of synchronising accesses (Table 9.5). -/
inductive Scope where
  | shift | crew | die | pkg | sys
  deriving DecidableEq, Repr

/-- Access sizes of loads and stores (R191). -/
inductive Size where
  | b | h | w | d
  deriving DecidableEq, Repr

/-- Integer conditions (Table 6.4); `nany` is the suffix `.none`. -/
inductive Cond where
  | eq | ne | lt | ge | ltu | geu | any | nany
  deriving DecidableEq, Repr

/-- Floating-point conditions (Table 6.7). -/
inductive FCond where
  | eq | ne | lt | le | un | ord
  deriving DecidableEq, Repr

/-- Element formats by code (Table 5.1). -/
inductive Fmt where
  | f32 | f16 | bf16 | e4m3 | e5m2 | e2m1 | lg6 | s4 | s8 | s16 | s32 | s64 | z8 | z16 | z32 | z64
  deriving DecidableEq, Repr

/-- Element widths of vector integer work: `.w`, `.h`, `.b` (Table 7.3). -/
inductive ElemW where
  | w | h | b
  deriving DecidableEq, Repr

/-- Element types of VADDS and VSUBS (Table 7.3). -/
inductive SatTy where
  | s32 | s16 | s8 | z8
  deriving DecidableEq, Repr

/-- Element types of VMIN and VMAX (Table 7.3). -/
inductive MinTy where
  | s32 | s16 | s8 | z32
  deriving DecidableEq, Repr

/-- Formats of vector floating-point arithmetic (R131). -/
inductive VFmt where
  | f32 | f16 | bf16
  deriving DecidableEq, Repr

/-- Conditions of VCMP (R129). -/
inductive VCond where
  | eq | lt | ltu | flt
  deriving DecidableEq, Repr

/-- Format pairs of VNARROW and VWIDEN (Table 7.6). -/
inductive NarrowTy where
  | bf16 | f16 | s16 | s8
  deriving DecidableEq, Repr

/-- Reduction operations of VRED and VSCAN (Table 7.9). -/
inductive RedOp where
  | add | min | max | minz | maxz | and | or | xor | fadd | fmin | fmax
  deriving DecidableEq, Repr

/-- Special registers of RDSR and WRSR (Table 6.9). -/
inductive SpecReg where
  | vl | stat | tcb | sb | stkb | stkl | rnd | chk
  deriving DecidableEq, Repr

/-- Operations of ATOM (Table 10.4). -/
inductive AtomOp where
  | add | and | or | xor | min | max | minz | maxz | swap | fadd
  deriving DecidableEq, Repr

/-- Kinds of FENCE (R204). -/
inductive FenceKind where
  | acq | rel | full
  deriving DecidableEq, Repr

/-- Modes of XLD and XST (R199). -/
inductive XMode where
  | stream | stride | index
  deriving DecidableEq, Repr

/-- Operations of MSCAN (R220). -/
inductive ScanOp where
  | topk | botk | cntge
  deriving DecidableEq, Repr

/-- Element formats of MSCAN (R220). -/
inductive ScanFmt where
  | f32 | bf16 | s32 | z32
  deriving DecidableEq, Repr

/-- Formats of RECVADD (R288). -/
inductive RecvFmt where
  | f32 | bf16 | s32 | put
  deriving DecidableEq, Repr

/-- Types of MOPA (R167). -/
inductive MopaTy where
  | bf16 | f16 | f32
  deriving DecidableEq, Repr

/-- A memory operand with an index: `[space: base + index*scale + disp]` (R53). -/
structure MemX where
  sp : Space
  xa : ANum
  xi : SNum
  sc : BitVec 2
  disp : BitVec 16
  deriving DecidableEq, Repr

/-- A memory operand without an index (Table 10.1, where XI does not name an index). -/
structure MemB where
  sp : Space
  xa : ANum
  disp : BitVec 16
  deriving DecidableEq, Repr

/-- Selectors of a micro-word (Table 16.4): 0x00 to 0x09, and m0 to m15. -/
inductive Sel where
  | zero | opd | opa | opb | opc | opd1 | vl | imm | ea | mod
  | m (n : Fin 16)
  deriving DecidableEq, Repr

/-- What a fault says of itself: the fields of the frame header that describe it (Table 19.4). -/
structure FaultInfo where
  code : Nat
  cause : Nat := 0
  unit : Nat := 0
  word : Nat := 0
  tstg : Nat := 0
  tlvl : Nat := 0
  num : Nat := 0
  faddr : Addr := 0
  deriving DecidableEq, Repr

/-- A packet that reaches a receive port of this package (R289). -/
structure RxPacket where
  core : Nat
  port : Nat
  ctx : Nat
  off : Nat
  data : List Byte
  deriving DecidableEq, Repr

/-- What a message asks of a home line or of an anchor (R223, R227 to R236). Kinds: 0 open at the anchor (`index` and `count` name the opening core
and package, `off` is 1 where its context holds 256 open bundles), 1 bundle store, 2 commit at the anchor, 3 abort at the anchor, 4 seal, 5 discard,
6 backward fetch, 7 forward fetch (both of `count` bytes from offset `off`; `index` 1 where a forward fetch proves commit), 8 resolution at the
anchor, 9 settle notice, 10 the node that opened the manifest has completed (`index` its place, `count` its package), 11 the anchor's state. `pa` is the
line's local physical address at its home. -/
structure BunAct where
  kind : Nat
  pa : Nat
  name : Nat
  version : Nat
  index : Nat
  count : Nat
  anchor : Nat
  off : Nat
  data : List Byte
  deriving DecidableEq, Repr

/-- What a packet of the fabric asks its home to do (R283 to R289). -/
inductive FabAct where
  | read (pa len : Nat)
  | write (pa : Nat) (data : List Byte)
  | atom (op : AtomOp) (dword : Bool) (pa : Nat) (b : Word)
  | cas (dword : Bool) (pa : Nat) (expect new : Word)
  /-- A barrier instruction: 0 BARINIT, 1 BARINIT.FORCE, 2 BARARR, 3 BARWAIT, with its operand. -/
  | bar (kind pa : Nat) (arg : Word)
  /-- A WAITGE. -/
  | ge (dword signed : Bool) (pa : Nat) (thr : Word)
  | recv (p : RxPacket)
  | bun (b : BunAct)
  /-- The response to operation `op` of this package, as its home gave it; for a read of a line that bears a pennant, its name, its version, and its
  anchor's line plus 1 (0 once the version has settled). -/
  | resp (op : Nat) (data : List Byte) (flags : BitVec 6) (pen : Option (Nat × Nat × Nat))
  deriving DecidableEq, Repr

/-- A packet that arrives over an adit from another node (R279): the package-wide number of the adit, the key of the access, the hop bytes that are left,
and what it asks. -/
structure InPacket where
  adit : Nat
  key : Nat
  hops : List Byte
  act : FabAct
  deriving DecidableEq, Repr

/-- The path by which the host reaches device memory, the PCIe memory path or CXL.mem, and the function that it names (R385, R387). -/
structure HostPath where
  pcie : Bool
  fn : Nat
  deriving DecidableEq, Repr

/-- A read, write or atomic of a UAL peer, at most 64 bytes at one station (R293). -/
inductive UalReq where
  | read (pa len : Nat)
  | write (pa : Nat) (data : List Byte)
  | atom (op : AtomOp) (dword : Bool) (pa : Nat) (b : Word)
  deriving DecidableEq, Repr

/-- Kinds of access that a walk serves (Table 17.5). -/
inductive AccKind where
  | read | write | fetch
  deriving DecidableEq, Repr

/-- The steps of the machine, one for each row of spec/opcode_table.json: the instructions, the parts of a micro-word, and the events. -/
inductive Instr where
  -- scalar half
  | nop
  | add (sd sa sb : SNum)
  | sub (sd sa sb : SNum)
  | mul (sd sa sb : SNum)
  | mulh (sd sa sb : SNum)
  | mulhz (sd sa sb : SNum)
  | div (sd sa sb : SNum)
  | divz (sd sa sb : SNum)
  | rem (sd sa sb : SNum)
  | remz (sd sa sb : SNum)
  | and (sd sa sb : SNum)
  | or (sd sa sb : SNum)
  | xor (sd sa sb : SNum)
  | andn (sd sa sb : SNum)
  | shl (sd sa sb : SNum)
  | shr (sd sa sb : SNum)
  | sra (sd sa sb : SNum)
  | rotl (sd sa sb : SNum)
  | min (sd sa sb : SNum)
  | max (sd sa sb : SNum)
  | minz (sd sa sb : SNum)
  | maxz (sd sa sb : SNum)
  | shli (sd sa : SNum) (n : BitVec 6)
  | shri (sd sa : SNum) (n : BitVec 6)
  | srai (sd sa : SNum) (n : BitVec 6)
  | clz (sd sa : SNum)
  | ctz (sd sa : SNum)
  | popc (sd sa : SNum)
  | sext (sd sa : SNum) (w1 : BitVec 6)
  | zext (sd sa : SNum) (w1 : BitVec 6)
  | bfx (sd sa sb : SNum)
  | bfi (sd sa sb : SNum)
  | sel (sd sa sb : SNum)
  | cmp (cc : Cond) (gd : GNum) (sa sb : SNum)
  | fadd (sd sa sb : SNum)
  | fsub (sd sa sb : SNum)
  | fmul (sd sa sb : SNum)
  | ffma (sd sa sb : SNum)
  | fdiv (sd sa sb : SNum)
  | fsqrt (sd sa : SNum)
  | fmin (sd sa sb : SNum)
  | fmax (sd sa sb : SNum)
  | fcmp (cc : FCond) (gd : GNum) (sa sb : SNum)
  | fcvt (fmt : Fmt) (toF32 rz : Bool) (sd sa : SNum)
  | fclass (sd sa : SNum)
  | gand (gd ga gb : GNum)
  | gor (gd ga gb : GNum)
  | gnot (gd ga : GNum)
  | rddcc (sd : SNum)
  -- address unit
  | adda (ad aa : ANum) (sb : SNum)
  | lea (ad : ANum) (sa sb : SNum)
  | suba (sd : SNum) (aa ab : ANum)
  | movas (hi : Bool) (sd : SNum) (aa : ANum)
  | movsa (ad : ANum) (sa : SNum)
  | cmpa (sd : SNum) (aa ab : ANum)
  | anda (ad aa : ANum) (sb : SNum)
  -- L words
  | addi (sd sa : SNum) (imm : BitVec 32)
  | andi (sd sa : SNum) (imm : BitVec 32)
  | ori (sd sa : SNum) (imm : BitVec 32)
  | xori (sd sa : SNum) (imm : BitVec 32)
  | cmpi (cc : Cond) (gd : GNum) (sa : SNum) (imm : BitVec 32)
  | movi (sd : SNum) (imm : BitVec 32)
  | movhi (sd : SNum) (imm : BitVec 32)
  | addai (ad aa : ANum) (imm : BitVec 32)
  | rdsr (sd : SNum) (r : SpecReg)
  | wrsr (r : SpecReg) (sa : SNum)
  -- vector half
  | vadd (t : ElemW) (vd va vb : VNum)
  | vsub (t : ElemW) (vd va vb : VNum)
  | vmul (t : ElemW) (vd va vb : VNum)
  | vmulh (t : ElemW) (vd va vb : VNum)
  | vadds (t : SatTy) (vd va vb : VNum)
  | vsubs (t : SatTy) (vd va vb : VNum)
  | vmin (t : MinTy) (vd va vb : VNum)
  | vmax (t : MinTy) (vd va vb : VNum)
  | vabs (t : ElemW) (vd va : VNum)
  | vneg (t : ElemW) (vd va : VNum)
  | vand (vd va vb : VNum)
  | vor (vd va vb : VNum)
  | vxor (vd va vb : VNum)
  | vshl (t : ElemW) (vd va vb : VNum)
  | vshr (t : ElemW) (vd va vb : VNum)
  | vsra (t : ElemW) (vd va vb : VNum)
  | vcmp (cc : VCond) (vd va vb : VNum)
  | vsel (vd va vb : VNum)
  | vfadd (t : VFmt) (vd va vb : VNum)
  | vfsub (t : VFmt) (vd va vb : VNum)
  | vfmul (t : VFmt) (vd va vb : VNum)
  | vfma (t : VFmt) (vd va vb : VNum)
  | vfms (t : VFmt) (vd va vb : VNum)
  | vfnma (t : VFmt) (vd va vb : VNum)
  | vfmin (t : VFmt) (vd va vb : VNum)
  | vfmax (t : VFmt) (vd va vb : VNum)
  | vfdiv (vd va vb : VNum)
  | vrcp (vd va : VNum)
  | vrsq (vd va : VNum)
  | vexp2 (vd va : VNum)
  | vlog2 (vd va : VNum)
  | vcvt (dst src : Fmt) (vd va : VNum)
  | vnarrow (t : NarrowTy) (vd va vb : VNum)
  | vwiden (t : NarrowTy) (hi : Bool) (vd va : VNum)
  | vbcast (t : ElemW) (vd : VNum) (sb : SNum)
  | viota (vd : VNum) (sb : SNum)
  | vsetvl (sd sb : SNum)
  | vextr (signed : Bool) (sd : SNum) (va : VNum) (n : BitVec 6)
  | vins (vd : VNum) (sb : SNum) (n : BitVec 6)
  | vperm (vd va vb : VNum)
  | vrot (vd va : VNum) (sb : SNum)
  | vslide (up : Bool) (vd va : VNum) (sb : SNum)
  | vred (op : RedOp) (vd va : VNum)
  | vscan (op : RedOp) (ex : Bool) (vd va : VNum)
  | part (vd va : VNum) (sd : SNum)
  | partn (n1 : BitVec 3) (va : VNum) (sb : SNum)
  | vgath (t : ElemW) (vd va : VNum) (sb : SNum)
  | vscat (t : ElemW) (vs va : VNum) (sb : SNum)
  | vld (vd : VNum) (sb : SNum) (off : BitVec 6)
  | vst (vs : VNum) (sb : SNum) (off : BitVec 6)
  | vldl (vd va : VNum)
  | vstl (vs va : VNum)
  | tenantV (opc : BitVec 6) (vt : BitVec 2) (vd va vb : VNum)
  -- matrix words
  | tcfg (af bf : Fmt) (mb : BNum) (stamp : BitVec 20)
  | mma (kg1 : BitVec 4) (ct : TNum) (mb : BNum) (sa sw ss : SNum) (stamp : BitVec 20)
  | mmaz (kg1 : BitVec 4) (ct : TNum) (mb : BNum) (sa sw ss : SNum) (stamp : BitVec 20)
  | mopa (t : MopaTy) (ct : TNum) (mb : BNum) (va vb : VNum) (stamp : BitVec 20)
  | ald (ct : TNum) (mb : BNum) (sa : SNum) (stamp : BitVec 20)
  | wbld (plain : Option Fmt) (mb : BNum) (aa : ANum) (sd : SNum) (stamp : BitVec 20)
  | wbsel (mb : BNum) (half : Bool) (stamp : BitVec 20)
  | crd (ct : TNum) (mb : BNum) (vd : VNum) (sr : SNum) (stamp : BitVec 20)
  | cwr (ct : TNum) (mb : BNum) (vs : VNum) (sr : SNum) (stamp : BitVec 20)
  | cclr (ct : TNum) (mb : BNum) (stamp : BitVec 20)
  | cst (fmt : Fmt) (ct : TNum) (mb : BNum) (sa : SNum) (stamp : BitVec 20)
  | mbarm (mb : BNum) (stamp : BitVec 20)
  | mbwait (sd : SNum) (mb : BNum)
  | setsb (abs : Bool) (sa : SNum)
  | tenantM (opc : BitVec 4) (ct : TNum) (mb : BNum) (fa fb fc : VNum) (mmod : BitVec 5) (stamp : BitVec 20)
  -- access words
  | ld (sz : Size) (sx : Bool) (sd : SNum) (m : MemX) (lane : Fin 64)
  | st (sz : Size) (sb : SNum) (m : MemX) (lane : Fin 64)
  | lda (sz : Size) (sx : Bool) (sc : Scope) (sd : SNum) (m : MemX)
  | sta (sz : Size) (sc : Scope) (sb : SNum) (m : MemX)
  | xld (mode : XMode) (e1 : Bool) (q : QNum) (sd : SNum) (m : MemX)
  | xst (mode : XMode) (e1 : Bool) (q : QNum) (sd : SNum) (m : MemX)
  | cpy (src : Space) (sd : SNum) (m : MemB) (as : ANum) (sl : SNum)
  | cpy2d (src : Space) (sd : SNum) (m : MemB) (as : ANum) (sp : SNum)
  | atom (op : AtomOp) (dword : Bool) (sc : Scope) (sd : SNum) (m : MemB) (sb : SNum)
  | cas (dword : Bool) (sc : Scope) (sd : SNum) (m : MemB) (sb : SNum)
  | fence (kind : FenceKind) (sc : Scope)
  | waitge (dword signed : Bool) (sc : Scope) (sd : SNum) (m : MemB) (sb : SNum)
  | lockl (sd : SNum) (m : MemX)
  | unlockl (sd : SNum) (m : MemX)
  | pref (l2 : Bool) (m : MemX)
  | rinit (sd : SNum) (q : QNum) (m : MemB) (sg : SNum)
  | rclaim (sd : SNum) (q : QNum)
  | rpub (q : QNum)
  | rwait (sd : SNum) (q : QNum)
  | rrel (q : QNum)
  | barinit (force : Bool) (sc : Scope) (sd : SNum) (m : MemB) (sn : SNum)
  | bararr (sc : Scope) (sd : SNum) (m : MemB)
  | barwait (sc : Scope) (sd : SNum) (m : MemB) (sg : SNum)
  | mscan (op : ScanOp) (fmt : ScanFmt) (sd : SNum) (m : MemB) (sn so : SNum)
  | bopen (sd : SNum) (m : MemB) (sn : SNum)
  | bst (sz : Size) (sb : SNum) (m : MemX)
  | bseal (sc : Scope) (sd : SNum)
  | babort (sd : SNum)
  | viewb (sc : Scope)
  | viewe (sd : SNum)
  | rtld (h : HNum) (m : MemX)
  | rldq (h : HNum) (q : QNum) (sd : SNum) (m : MemX)
  | rst (sz : Size) (sb : SNum) (h : HNum) (m : MemX)
  | ratom (op : AtomOp) (dword : Bool) (sd : SNum) (m : MemB) (sb : SNum) (h : HNum)
  | rstn (sd : SNum) (m : MemB) (st : SNum)
  | recvadd (fmt : RecvFmt) (cnt : Bool) (port : Fin 16) (sd : SNum) (m : MemB) (sg : SNum)
  | rsend (h : HNum) (sd : SNum) (m : MemB) (st : SNum)
  | lfence (sd : SNum)
  | coll (k : BitVec 6) (sd : SNum) (m : MemB) (sl : SNum)
  | adpin (chk : Bool) (sd : SNum) (aw : ANum) (sn : SNum)
  | adunpin (sd sn : SNum)
  | tenantX (opc : BitVec 6) (xmod : BitVec 4) (sd sc : SNum) (m : MemX)
  -- control words
  | br (imm : BitVec 32)
  | bri (sx : SNum) (imm : BitVec 32)
  | jmp (sa : SNum) (imm : BitVec 32)
  | call (imm : BitVec 32)
  | calli (sa : SNum) (imm : BitVec 32)
  | ret
  | loop (sd : SNum) (imm : BitVec 32)
  | halt
  | safept (idx : BitVec 32)
  | yield (idx : BitVec 32)
  | waitev (sd st : SNum) (mask : BitVec 16)
  | sigev (sd st : SNum) (e : BitVec 4)
  | cont
  | trap (n : BitVec 16)
  | brk (n : BitVec 16)
  | tret (fin : Bool) (sd : SNum)
  -- parts of a micro-word: function unit
  | microMov (fd fa : Sel) (imm : BitVec 12)
  | microVectorFop (fop : BitVec 8) (ft : BitVec 2) (fd fa fb : Sel) (imm : BitVec 12)
  | microEngineAlu (fop : BitVec 8) (fd fa fb : Sel) (imm : BitVec 12)
  | zxf (fd fa : Sel) (imm : BitVec 12)
  | lidx (fd : Sel)
  | divpre (fd fa fb : Sel)
  | divq
  | divfin (fd fa : Sel)
  | pnz (fd fa : Sel)
  | pscan (fd fa : Sel)
  | pcomp (fd fa fb : Sel)
  | pcompf (fd fa fb : Sel)
  | ptot (fd fa : Sel)
  | tok (fd fa : Sel) (imm : BitVec 12)
  | pclamp (fd fa : Sel) (imm : BitVec 12)
  | pcnt (fd fa : Sel) (imm : BitVec 12)
  -- parts of a micro-word: address generators (register numbers ma and md, and the word's IMM)
  | padrd (ma md : Fin 16)
  | padwr (ma md : Fin 16)
  | lanerd (ma md : Fin 16)
  | lanewr (ma md : Fin 16)
  | sprd (ma md : Fin 16)
  | spwr (ma md : Fin 16)
  | claim (md : Fin 16) (imm : BitVec 12)
  | pub (imm : BitVec 12)
  | wait (md : Fin 16) (imm : BitVec 12)
  | rel (imm : BitVec 12)
  | xfer (ma md : Fin 16) (imm : BitVec 12)
  | xferb (ma md : Fin 16) (imm : BitVec 12)
  | send (ma md : Fin 16) (imm : BitVec 12)
  | radd (ma md : Fin 16)
  -- parts of a micro-word: tile ports
  | afeed (fa : Sel)
  | bfeed (fb : Sel)
  | bslot
  | outer
  | crow (fd : Sel)
  | crowhi (fd : Sel)
  | cwrow (fd : Sel)
  | cwrowhi (fd : Sel)
  | tclr
  -- parts of a micro-word: sequencing
  | microNext
  | brt (mc : Fin 16) (tgt : BitVec 12)
  | brf (mc : Fin 16) (tgt : BitVec 12)
  | microJmp (tgt : BitVec 12)
  | microLoop (tgt : BitVec 12)
  | microEnd
  | microCont (tgt : BitVec 12)
  -- resets, firmware and package registers
  | coldReset
  | warmReset
  | powerOn
  | powerStepLimit
  | firmwareBoot
  | firmwareStartTimeout
  | fwctlGo (fn : Nat) (v : Word)
  | fwVerifyDone
  | registerWrite (fn off width : Nat) (v : Word)
  | idpkgWrite (fn : Nat) (v : Word)
  -- results, switches and traps of a shift
  | land (sh : Nat)
  | interlockArrival (k : Nat)
  | fullStatePreemption (sh : Nat)
  | shiftSwitch (core slot : Nat)
  | continuationDispatch (sh : Nat)
  | safePointOverrun (sh : Nat)
  | trapDelivery (sh : Nat) (f : FaultInfo)
  | delayedFaultDelivery (sh : Nat) (r : SNum)
  -- vector half
  | tenantImageLoad (core ctx : Nat) (tag : Word)
  | tenantLoadComplete (core bank : Nat)
  -- matrix words
  | wbldSlotValid (sh : Nat)
  | matrixOpIssue (sh : Nat)
  | matrixOpComplete (sh : Nat)
  -- access words
  | copyJobStart (j : Nat)
  | copyPiece (j : Nat)
  | tokenWrite (k : Nat)
  | homeRequest (k : Nat)
  | scanUnitRead (j ch : Nat)
  | scanWaitLimit (j ch : Nat)
  | homeLineBst (k : Nat)
  | homeLineSeal (k : Nat)
  | homeLineDiscard (k : Nat)
  | backwardFetch (k : Nat)
  | forwardFetch (k : Nat)
  | sealAck (k : Nat)
  | pendingResolution (line : Nat)
  | retentionEnd (line : Nat)
  | receivePacket (p : RxPacket)
  -- control words
  | waitevTimeout (sh : Nat)
  | eventLatchSet (k : Nat)
  -- parts of a micro-word: sequencing
  | stepBoundFault (sh unit : Nat)
  -- packets and the dispatcher
  | launch (q idx : Nat)
  | cmo (q idx : Nat)
  | aditx (q idx : Nat) (data : List Byte)
  | nodeCheck (t n : Nat)
  | condEvaluate (t n : Nat)
  | dispatchDecision
  | rebalanceWindowEnd (t n : Nat)
  | nodeComplete (t n : Nat)
  -- fabric and adits
  | tmapcmtGo (fn : Nat) (v : Word)
  | tmapCommitDone
  | linkStateChange (die exit : Nat) (up : Bool)
  | packetForward (k : Nat) (arriving : Option InPacket)
  | failureNotice (op cause : Nat)
  | fabricTimeout (op : Nat)
  | laneOutOfService (adit lane : Nat)
  | lemlnWrite (fn adit : Nat) (v : Word)
  | laneTurnDone (adit : Nat)
  | adctlGo (fn adit : Nat) (v : Word)
  | aditDrainEnd (adit : Nat)
  | aditDrainLimit (adit : Nat)
  | aditTrainDone (adit : Nat) (ok : Bool) (devGib : Nat)
  | adwinOff (fn adit : Nat) (v : Word)
  | adwinCloseDone (adit : Nat)
  -- translation
  | pageWalk (unit ctx : Nat) (va : Addr) (kind : AccKind)
  | tlbiPage (fn port : Nat) (v : Word)
  | tlbiRegion (fn port : Nat) (v : Word)
  | tlbiContext (fn port : Nat) (v : Word)
  | tlbiS2Page (fn port : Nat) (v : Word)
  | tlbiS2Context (fn port : Nat) (v : Word)
  | tlbiAll (fn port : Nat) (v : Word)
  | invalidationComplete (port : Nat)
  | collapseAck (k die : Nat)
  -- tenancy
  | keydWrite (fn : Nat) (v : Word)
  | keyLoad (fn : Nat) (v : Word)
  | keyRetire (fn : Nat) (v : Word)
  | keySweepLine (slot line : Nat)
  | keySweepEnd (slot : Nat)
  | hostMemoryAccess (fn : HostPath) (pa : Nat) (len : Nat) (write : Option (List Byte))
  | vfReset (fn vf : Nat) (v : Word)
  | vfEnable (fn vf : Nat) (v : Word)
  | adrevRevoke (fn ctx : Nat) (v : Word)
  | adrevClear (fn ctx : Nat) (v : Word)
  | attnWrite (fn port : Nat) (v : Word)
  | attestGo (fn port : Nat) (v : Word)
  | attestDone (port : Nat)
  -- errors and management
  | scrubCommand (stack : Nat)
  | scrubQuarterEnd (stack : Nat)
  | pgretGo (fn : Nat) (v : Word)
  | deputyMismatch
  | hewerWatchdog (h : Nat)
  | thermalPlacementLimit (die : Nat) (above : Bool)
  | thermalLimit (die : Nat)
  -- host queues
  | qcfgEnable (fn q : Nat) (v : Word)
  | qcfgDisable (fn q : Nat) (v : Word)
  | queueDrainEnd (q : Nat)
  | qtailWrite (fn q : Nat) (v : Word)
  | packetParse (q : Nat) (readable : Bool)
  | packetStart (q idx : Nat)
  | qcheadWrite (fn q : Nat) (v : Word)
  | completionWrite (q : Nat)
  | interruptTimer (q : Nat)
  | memilWrite (fn : Nat) (v : Word)
  | freezeGo (fn ctx : Nat) (v : Word)
  | freezeImageWrite (ctx : Nat)
  | thaw (fn ctx : Nat) (v : Word)
  | registerRead (fn off width : Nat)
  | settleNotice (k : Nat)
  | onDieScrubPathFailure (stack : Nat) (working : Bool)
  | thawComplete (ctx : Nat)
  | adapterEviction (ctx idx : Nat)
  | ualRequest (adit : Nat) (r : UalReq)
  deriving DecidableEq, Repr

end Sys2Proof
end

