-- ==== Sys2Proof/Machine/Numbers.lean ====
section
/-!
DEFINITION. Number formats, exact values and the one rounding of a result (chapter 5: R82 to R100). A finite value is held exactly; a
result changes width only in `roundTo`.
-/
namespace Sys2Proof

/-- Width in bits of a format (Table 5.1). -/
def Fmt.width : Fmt → Nat
  | .f32 | .s32 | .z32 => 32
  | .f16 | .bf16 | .s16 | .z16 => 16
  | .e4m3 | .e5m2 | .s8 | .z8 => 8
  | .e2m1 | .s4 => 4
  | .lg6 => 6
  | .s64 | .z64 => 64

/-- Whether a format is a two's-complement integer format. -/
def Fmt.isS : Fmt → Bool
  | .s4 | .s8 | .s16 | .s32 | .s64 => true
  | _ => false

/-- Whether a format is an unsigned integer format. -/
def Fmt.isZ : Fmt → Bool
  | .z8 | .z16 | .z32 | .z64 => true
  | _ => false

/-- Whether a format is an integer format. -/
def Fmt.isInt (f : Fmt) : Bool := f.isS || f.isZ

end Sys2Proof

namespace Sys2Proof.Machine

/-- Rounding modes (Table 5.5). -/
inductive RMode where
  | rne | rz | ru | rd | sr
  deriving DecidableEq, Repr

/-- A finite nonzero value: ± n / d × 2^e, with n and d above 0. -/
structure Ex where
  neg : Bool
  n : Nat
  d : Nat
  e : Int
  deriving DecidableEq, Repr

/-- A value of a format (R83, R84). -/
inductive FV where
  | nan (signalling : Bool)
  | inf (neg : Bool)
  | zero (neg : Bool)
  | fin (x : Ex)
  deriving DecidableEq, Repr

/-- The sticky flags in the positions of STAT[5:0] (Table 5.6). -/
abbrev fNV : BitVec 6 := 1
/-- Division by zero. -/
abbrev fDZ : BitVec 6 := 2
/-- Overflow. -/
abbrev fOF : BitVec 6 := 4
/-- Underflow. -/
abbrev fUF : BitVec 6 := 8
/-- Inexact. -/
abbrev fPE : BitVec 6 := 16
/-- Saturated. -/
abbrev fSAT : BitVec 6 := 32

/-- The fraction width, the bias, the largest exponent field of a finite number, the largest finite code and whether the format has
infinities (Tables 5.2, 5.3). -/
structure Layout where
  ew : Nat
  fw : Nat
  bias : Int
  maxCode : Nat
  infs : Bool
  deriving DecidableEq, Repr

/-- The layout of a floating-point format (Table 5.2); LG6 and the integers have none. -/
def layout : Fmt → Layout
  | .f16 => { ew := 5, fw := 10, bias := 15, maxCode := 0x7BFF, infs := true }
  | .bf16 => { ew := 8, fw := 7, bias := 127, maxCode := 0x7F7F, infs := true }
  | .e5m2 => { ew := 5, fw := 2, bias := 15, maxCode := 0x7B, infs := true }
  | .e4m3 => { ew := 4, fw := 3, bias := 7, maxCode := 0x7E, infs := false }
  | .e2m1 => { ew := 2, fw := 1, bias := 1, maxCode := 0x7, infs := false }
  | _ => { ew := 8, fw := 23, bias := 127, maxCode := 0x7F7FFFFF, infs := true }

/-- The canonical NaN of a format (Table 5.3); +0 where the format has none (R92). -/
def canonNaN : Fmt → Nat
  | .f32 => 0x7FC00000 | .f16 => 0x7E00 | .bf16 => 0x7FC0 | .e5m2 => 0x7E | _ => 0

/-- The exact linear significands of LG6 (Table 5.4). -/
def lg6Tab (q : Nat) : Nat :=
  match q with
  | 0 => 0x800000 | 1 => 0x9837F0 | 2 => 0xB504F3 | _ => 0xD744FD

/-- The value of a sign and an exponent of t quarter steps (R88). -/
def lg6Val (neg : Bool) (t : Int) : Ex := { neg := neg, n := lg6Tab (t % 4).toNat, d := 1, e := t / 4 - 23 }

/-- EL of an LG6 code (R88). -/
def lg6El (code : Nat) : Int := sx 5 (code % 32)

/-- Whether an LG6 code is the one zero (R88). -/
def lg6Zero (code : Nat) : Bool := code % 64 == 0x30

/-- The value of an integer. -/
def ofInt (v : Int) : FV := if v = 0 then .zero false else .fin { neg := decide (v < 0), n := v.natAbs, d := 1, e := 0 }

/-- The value of a floating-point code (R83, R84). -/
def decodeFloat (f : Fmt) (code : Nat) : FV :=
  let l := layout f
  let w := f.width
  let neg := nbit code (w - 1)
  let E := nbits code l.fw l.ew
  let F := nbits code 0 l.fw
  if l.infs && E = 2 ^ l.ew - 1 then
    if F = 0 then .inf neg else .nan (!nbit F (l.fw - 1))
  else if f = .e4m3 ∧ E = 15 ∧ F = 7 then .nan false
  else if E = 0 then
    if F = 0 then .zero neg else .fin { neg := neg, n := F, d := 1, e := 1 - l.bias - l.fw }
  else .fin { neg := neg, n := 2 ^ l.fw + F, d := 1, e := (E : Int) - l.bias - l.fw }

/-- The value of a code of any format (Table 5.1); LG6 at SO = 0. -/
def decodeFV (f : Fmt) (code : Nat) : FV :=
  if f.isS then ofInt (sx f.width code)
  else if f.isZ then ofInt (code % 2 ^ f.width : Nat)
  else if f = .lg6 then (if lg6Zero code then .zero false else .fin (lg6Val (nbit code 5) (lg6El code)))
  else decodeFloat f code

/-- Whether a code is a nonzero subnormal of its format. -/
def isSubnormal (f : Fmt) (code : Nat) : Bool :=
  let l := layout f
  nbits code l.fw l.ew == 0 && nbits code 0 l.fw != 0

/-- An operand of an F32 operation under STAT.FTZ (R87). -/
def decodeFtz (ftz : Bool) (f : Fmt) (code : Nat) : FV :=
  if ftz && f == .f32 && isSubnormal f code then .zero (nbit code 31) else decodeFV f code

/-! ## Exact arithmetic -/

/-- n × 2^e as a numerator above a power of two: (n × 2^e, 1) or (n, 2^-e). -/
def shiftN (n d : Nat) (e : Int) : Nat × Nat := if e < 0 then (n, d * 2 ^ (-e).toNat) else (n * 2 ^ e.toNat, d)

/-- The exact sum; `none` where it is zero. -/
def Ex.add (x y : Ex) : Option Ex :=
  let e := min x.e y.e
  let a : Int := x.n * y.d * 2 ^ (x.e - e).toNat
  let b : Int := y.n * x.d * 2 ^ (y.e - e).toNat
  let v := (if x.neg then -a else a) + (if y.neg then -b else b)
  if v = 0 then none else some { neg := decide (v < 0), n := v.natAbs, d := x.d * y.d, e := e }

/-- The exact product. -/
def Ex.mul (x y : Ex) : Ex := { neg := x.neg != y.neg, n := x.n * y.n, d := x.d * y.d, e := x.e + y.e }

/-- The exact quotient. -/
def Ex.div (x y : Ex) : Ex := { neg := x.neg != y.neg, n := x.n * y.d, d := x.d * y.n, e := x.e - y.e }

/-- Whether x < y. -/
def Ex.lt (x y : Ex) : Bool :=
  match x.add { y with neg := !y.neg } with
  | none => false
  | some v => v.neg

/-- floor of the square root, by bits from 2^k down. -/
def isqrtFrom (n : Nat) : Nat → Nat → Nat
  | 0, r => r
  | k + 1, r => let t := r + 2 ^ k; isqrtFrom n k (if t * t ≤ n then t else r)

/-- floor of the square root. -/
def isqrt (n : Nat) : Nat := isqrtFrom n (n.log2 / 2 + 1) 0

/-- A value with a marker below its last bit where it is not exact: 2 n, or 2 n + 1 for a value that lies between n and n + 1. -/
def stickyEx (n : Nat) (exact : Bool) (e : Int) (neg : Bool) : Ex := { neg := neg, n := 2 * n + (if exact then 0 else 1), d := 1, e := e - 1 }

/-- The square root of a value n × 2^e, exact or with its marker. -/
def Ex.sqrt (x : Ex) : Ex :=
  let n := if x.e % 2 = 0 then x.n else 2 * x.n
  let e := if x.e % 2 = 0 then x.e else x.e - 1
  let m := n * 2 ^ 256
  let r := isqrt m
  stickyEx r (r * r == m) (e / 2 - 128) false

/-- 1 over the square root of a value n × 2^e, exact or with its marker. -/
def Ex.rsqrt (x : Ex) : Ex :=
  let n := if x.e % 2 = 0 then x.n else 2 * x.n
  let e := if x.e % 2 = 0 then x.e else x.e - 1
  let r := isqrt (2 ^ 512 / n)
  stickyEx r (r * r * n == 2 ^ 512) (-(e / 2) - 256) false

/-- Bits of the fixed point in which 2^a and log2 a are formed (log 7). -/
abbrev fixP : Nat := 320

/-- ln 2 in fixed point: the sum of 1 / (k 2^k), k from 1 to 330. -/
def ln2Fix : Nat := (upto 1 330).foldl (fun acc k => acc + 2 ^ fixP / (k * 2 ^ k)) 0

/-- exp x of a fixed-point x below 1, by 90 terms of the series. -/
def expFix (x : Nat) : Nat :=
  ((upto 1 90).foldl (fun (p : Nat × Nat) k => let t := p.2 * x / 2 ^ fixP / k; (p.1 + t, t)) (2 ^ fixP, 2 ^ fixP)).1

/-- ln m of m = (1 + y) / (1 - y) with fixed-point y, by 110 terms of the series. -/
def atanhFix (y : Nat) : Nat :=
  let y2 := y * y / 2 ^ fixP
  2 * ((upto 0 110).foldl (fun (p : Nat × Nat) k => (p.1 + p.2 / (2 * k + 1), p.2 * y2 / 2 ^ fixP)) (0, y)).1

/-- 2^a of a finite value (R134): exact for an integral a, else to 2^-300 with its marker (log 7). -/
def Ex.exp2 (x : Ex) : Ex :=
  let p := shiftN x.n x.d x.e
  let fl := p.1 / p.2
  let r := p.1 % p.2
  let f := r * 2 ^ fixP / p.2
  if r = 0 then { neg := false, n := 1, d := 1, e := if x.neg then -(fl : Int) else fl }
  else if x.neg then
    stickyEx (expFix ((2 ^ fixP - f - 1) * ln2Fix / 2 ^ fixP)) false (-(fl : Int) - 1 - fixP) false
  else stickyEx (expFix (f * ln2Fix / 2 ^ fixP)) false ((fl : Int) - fixP) false

/-- log2 a of a finite value above 0 and other than a power of two, to 2^-290 with its marker (R134, log 7); `none` stands for 0. -/
def Ex.log2 (x : Ex) : Option Ex :=
  let k := x.n.log2
  let E : Int := x.e + k
  let y := (x.n - 2 ^ k) * 2 ^ fixP / (x.n + 2 ^ k)
  let v : Int := E * 2 ^ fixP + (atanhFix y * 2 ^ fixP / ln2Fix : Nat)
  if x.n = 2 ^ k then (if E = 0 then none else some { neg := decide (E < 0), n := E.natAbs, d := 1, e := 0 })
  else some { neg := decide (v < 0), n := 2 * v.natAbs + 1, d := 1, e := -(fixP : Int) - 1 }

/-! ## Rounding -/

/-- Whether the magnitude is rounded up from `fl`, with `rem / den` of the step left, under a mode (Table 5.5); `draw` is r of R93. -/
def roundUp (rm : RMode) (neg : Bool) (fl rem den draw : Nat) : Bool :=
  if rem = 0 then false
  else match rm with
    | .rne => decide (den < 2 * rem) || (decide (2 * rem = den) && fl % 2 == 1)
    | .rz => false
    | .ru => !neg
    | .rd => neg
    | .sr => if neg then !decide (draw * den < (den - rem) * 2 ^ 32) else decide (draw * den < rem * 2 ^ 32)

/-- floor(log2 (n / d)). -/
def floorLog2 (n d : Nat) : Int :=
  let k : Int := (n.log2 : Int) - d.log2
  let p := shiftN 1 1 k
  if n * p.2 < d * p.1 then k - 1 else k

/-- The rounding of a finite value to a format with infinities or without, but not LG6 (R91, R92, R87). A format without infinities has no neighbour
above its largest number, so that every value beyond it saturates, in every mode (log 62). -/
def roundFloat (f : Fmt) (rm : RMode) (ftz : Bool) (draw : Nat) (x : Ex) : Nat × BitVec 6 :=
  let l := layout f
  let sign := if x.neg then 2 ^ (f.width - 1) else 0
  let emin : Int := 1 - l.bias
  let E := floorLog2 x.n x.d + x.e
  let q := max E emin - l.fw
  let p := shiftN x.n x.d (x.e - q)
  let fl := p.1 / p.2
  let rem := p.1 % p.2
  let m := if roundUp rm x.neg fl rem p.2 draw then fl + 1 else fl
  let code : Nat := if m < 2 ^ l.fw then m else (m + (((q - (emin - l.fw)).toNat) * 2 ^ l.fw))
  let maxQ : Int := (nbits l.maxCode l.fw l.ew : Int) - l.bias - l.fw
  let maxM := 2 ^ l.fw + nbits l.maxCode 0 l.fw
  let tiny := decide (E < emin)
  -- the magnitude in steps of the largest quantum
  let h := shiftN x.n x.d (x.e - maxQ)
  let beyond := decide (maxM * h.2 < h.1)
  let half := decide (2 * maxM * h.2 + h.2 ≤ 2 * h.1)
  if l.infs && beyond then
    let inf := (2 ^ l.ew - 1) * 2 ^ l.fw
    let up := match rm with
      | .rne => half
      | .sr => half || decide (draw * h.2 < (h.1 - maxM * h.2) * 2 ^ 32)
      | .rz => false
      | .ru => !x.neg
      | .rd => x.neg
    if up then (sign + inf, fOF ||| fPE)
    else (sign + l.maxCode, if half then fOF ||| fPE else fPE)
  else if !l.infs && beyond then (sign + l.maxCode, fOF ||| fPE)
  else if ftz && f == .f32 && m != 0 && m < 2 ^ l.fw then (sign, fUF ||| fPE)
  else (sign + code, if rem = 0 then 0 else if tiny then fUF ||| fPE else fPE)

/-- The largest EL whose value is at most the magnitude, from a start downward. -/
def lg6Floor (x : Ex) : Nat → Int → Int
  | 0, t => t
  | k + 1, t => if Ex.lt x (lg6Val false t) then lg6Floor x k (t - 1) else t

/-- The rounding of a finite value to LG6 (R88, R91, R92); every value beyond the largest number saturates (log 62). -/
def roundLg6 (rm : RMode) (draw : Nat) (x : Ex) : Nat × BitVec 6 :=
  let m : Ex := { x with neg := false }
  let least : Int := if x.neg then -15 else -16
  let maxCode := if x.neg then 0x2F else 0x0F
  if Ex.lt (lg6Val false 15) m then (maxCode, fOF ||| fPE)
  else
    let tiny := Ex.lt m (lg6Val false (-16))
    let codeOf (t : Int) : Nat × BitVec 6 :=
      if t < least then (0x30, 0) else ((if x.neg then 32 else 0) + wrap t 5, 0)
    if Ex.lt m (lg6Val false least) then
      -- between zero and the smallest magnitude
      let q := m.div (lg6Val false least)
      let p := shiftN q.n q.d q.e
      let up := match rm with
        | .rne => decide (p.2 < 2 * p.1)
        | _ => roundUp rm x.neg 0 p.1 p.2 draw
      let r := if up then codeOf least else (0x30, 0)
      (r.1, r.2 ||| (if tiny then fUF ||| fPE else fPE))
    else
      let t := lg6Floor m 40 15
      let lo := lg6Val false t
      match m.add { lo with neg := true }, (lg6Val false (t + 1)).add { lo with neg := true } with
      | some dx, some st =>
        let q := dx.div st
        let p := shiftN q.n q.d q.e
        let up := match rm with
          | .rne => decide (p.2 < 2 * p.1) || (decide (2 * p.1 = p.2) && t % 2 != 0)
          | _ => roundUp rm x.neg 0 p.1 p.2 draw
        let r := codeOf (if up then t + 1 else t)
        (r.1, r.2 ||| fPE)
      | _, _ => codeOf t

/-- The smallest and largest values of an integer format (R90). -/
def intRange (f : Fmt) : Int × Int :=
  if f.isS then (-(2 ^ (f.width - 1) : Int), 2 ^ (f.width - 1) - 1) else (0, 2 ^ f.width - 1)

/-- A finite value rounded to an integer under a mode, and whether that was exact. -/
def roundInt (rm : RMode) (draw : Nat) (x : Ex) : Int × Bool :=
  let p := shiftN x.n x.d x.e
  let fl := p.1 / p.2
  let rem := p.1 % p.2
  let m := if roundUp rm x.neg fl rem p.2 draw then fl + 1 else fl
  (if x.neg then -(m : Int) else m, rem == 0)

/-- Round(v, fmt, mode) (Table 0.2): the code and the flags of the rounding (R91, R92). -/
def roundTo (f : Fmt) (rm : RMode) (ftz : Bool) (draw : Nat) (v : FV) : Nat × BitVec 6 :=
  if f.isInt then
    let r := intRange f
    match v with
    | .nan _ => (0, fNV)
    | .inf neg => (wrap (if neg then r.1 else r.2) f.width, fNV)
    | .zero _ => (0, 0)
    | .fin x =>
      let i := roundInt rm draw x
      if i.1 < r.1 then (wrap r.1 f.width, fNV)
      else if r.2 < i.1 then (wrap r.2 f.width, fNV)
      else (wrap i.1 f.width, if i.2 then 0 else fPE)
  else if f = .lg6 then
    match v with
    | .nan _ => (0x30, fNV)
    | .inf neg => (if neg then 0x2F else 0x0F, fOF ||| fPE)
    | .zero _ => (0x30, 0)
    | .fin x => roundLg6 rm draw x
  else
    let l := layout f
    let sign (neg : Bool) : Nat := if neg then 2 ^ (f.width - 1) else 0
    match v with
    | .nan _ => (canonNaN f, if f = .e4m3 ∨ f = .e2m1 then fNV else 0)
    | .inf neg => if l.infs then (sign neg + (2 ^ l.ew - 1) * 2 ^ l.fw, 0) else (sign neg + l.maxCode, fOF ||| fPE)
    | .zero neg => (sign neg, 0)
    | .fin x => roundFloat f rm ftz draw x

/-- NV where an operand is a signalling NaN (R85). -/
def snan (l : List FV) : BitVec 6 := if l.any (fun v => match v with | .nan true => true | _ => false) then fNV else 0

/-- Whether a value is a NaN. -/
def FV.isNan : FV → Bool
  | .nan _ => true
  | _ => false

/-- Whether a value is infinite. -/
def FV.isInf : FV → Bool
  | .inf _ => true
  | _ => false

/-- Whether a value is a zero. -/
def FV.isZero : FV → Bool
  | .zero _ => true
  | _ => false

/-- The sign of a value. -/
def FV.neg : FV → Bool
  | .nan _ => false
  | .inf n => n
  | .zero n => n
  | .fin x => x.neg

/-- The value with its sign turned. -/
def FV.flip : FV → FV
  | .nan b => .nan b
  | .inf n => .inf (!n)
  | .zero n => .zero (!n)
  | .fin x => .fin { x with neg := !x.neg }

/-- The exact sum (R85, R86). -/
def fvAdd (rm : RMode) (a b : FV) : FV × BitVec 6 :=
  if a.isNan || b.isNan then (.nan false, snan [a, b])
  else match a, b with
    | .inf n, .inf m => if n = m then (.inf n, 0) else (.nan false, fNV)
    | .inf n, _ => (.inf n, 0)
    | _, .inf n => (.inf n, 0)
    | .zero n, .zero m => (.zero (if n = m then n else decide (rm = .rd)), 0)
    | .zero _, v => (v, 0)
    | v, .zero _ => (v, 0)
    | .fin x, .fin y =>
      (match x.add y with | none => .zero (decide (rm = .rd)) | some v => .fin v, 0)
    | _, _ => (.nan false, 0)

/-- The exact product (R85, R86). -/
def fvMul (a b : FV) : FV × BitVec 6 :=
  if a.isNan || b.isNan then (.nan false, snan [a, b])
  else if (a.isInf && b.isZero) || (a.isZero && b.isInf) then (.nan false, fNV)
  else
    let neg := a.neg != b.neg
    if a.isInf || b.isInf then (.inf neg, 0)
    else match a, b with
      | .fin x, .fin y => (.fin (x.mul y), 0)
      | _, _ => (.zero neg, 0)

/-- a × b + c with one rounding to come (R85, R112, R131): an invalid product gives NaN with NV, whatever c is. -/
def fvFma (rm : RMode) (a b c : FV) : FV × BitVec 6 :=
  let p := fvMul a b
  if p.1.isNan || c.isNan then (.nan false, p.2 ||| snan [a, b, c])
  else fvAdd rm p.1 c

/-- a ÷ b (R85, R112, R133). -/
def fvDiv (a b : FV) : FV × BitVec 6 :=
  let neg := a.neg != b.neg
  if a.isNan || b.isNan then (.nan false, snan [a, b])
  else match a, b with
    | .zero _, .zero _ => (.nan false, fNV)
    | .inf _, .inf _ => (.nan false, fNV)
    | .inf _, _ => (.inf neg, 0)
    | _, .inf _ => (.zero neg, 0)
    | .zero _, _ => (.zero neg, 0)
    | _, .zero _ => (.inf neg, fDZ)
    | .fin x, .fin y => (.fin (x.div y), 0)
    | _, _ => (.nan false, 0)

/-- √a (R85, R112). -/
def fvSqrt (a : FV) : FV × BitVec 6 :=
  match a with
  | .nan s => (.nan false, if s then fNV else 0)
  | .zero n => (.zero n, 0)
  | .inf n => if n then (.nan false, fNV) else (.inf false, 0)
  | .fin x => if x.neg then (.nan false, fNV) else (.fin x.sqrt, 0)

/-- 1 ÷ √a (Table 7.5). -/
def fvRsq (a : FV) : FV × BitVec 6 :=
  match a with
  | .nan s => (.nan false, if s then fNV else 0)
  | .zero n => (.inf n, fDZ)
  | .inf n => if n then (.nan false, fNV) else (.zero false, 0)
  | .fin x => if x.neg then (.nan false, fNV) else (.fin x.rsqrt, 0)

/-- 2^a (Table 7.5). -/
def fvExp2 (a : FV) : FV × BitVec 6 :=
  match a with
  | .nan s => (.nan false, if s then fNV else 0)
  | .zero _ => (.fin { neg := false, n := 1, d := 1, e := 0 }, 0)
  | .inf n => (if n then .zero false else .inf false, 0)
  | .fin x =>
    -- beyond 2^±300 every F32 result overflows or underflows alike
    if !(Ex.lt { x with neg := false } { neg := false, n := 1, d := 1, e := 9 }) then
      (.fin { neg := false, n := 2 ^ 60 + 1, d := 1, e := if x.neg then -600 else 400 }, 0)
    else (.fin x.exp2, 0)

/-- log2 a (Table 7.5). -/
def fvLog2 (a : FV) : FV × BitVec 6 :=
  match a with
  | .nan s => (.nan false, if s then fNV else 0)
  | .zero _ => (.inf true, fDZ)
  | .inf n => if n then (.nan false, fNV) else (.inf false, 0)
  | .fin x => if x.neg then (.nan false, fNV) else (match x.log2 with | none => .zero false | some v => .fin v, 0)

/-- Ordered comparison a < b; −0 equals +0. -/
def fvLt (a b : FV) : Bool :=
  match a, b with
  | .nan _, _ => false
  | _, .nan _ => false
  | .inf n, .inf m => n && !m
  | .inf n, _ => n
  | _, .inf m => !m
  | .zero _, .zero _ => false
  | .zero _, .fin y => !y.neg
  | .fin x, .zero _ => x.neg
  | .fin x, .fin y => Ex.lt x y

/-- Ordered equality; −0 equals +0. -/
def fvEq (a b : FV) : Bool := !a.isNan && !b.isNan && !fvLt a b && !fvLt b a

/-- FMIN or FMAX of two codes of a format (R113, R132): the code and NV for a signalling operand. -/
def fvMinMax (isMax : Bool) (f : Fmt) (ftz : Bool) (ca cb : Nat) : Nat × BitVec 6 :=
  let fl (c : Nat) : Nat := if ftz && f == .f32 && isSubnormal f c then (if nbit c 31 then 2 ^ 31 else 0) else c
  let a := decodeFtz ftz f ca
  let b := decodeFtz ftz f cb
  let nv := snan [a, b]
  if a.isNan && b.isNan then (canonNaN f, nv)
  else if a.isNan then (fl cb, nv)
  else if b.isNan then (fl ca, nv)
  else
    -- −0 counts as less than +0
    let less := fvLt a b || (a.isZero && b.isZero && a.neg && !b.neg)
    (if less != isMax then fl ca else fl cb, nv)

/-- One conversion between formats with a floating or LG6 format on either side (R91, R92, R97). -/
def convert (dst src : Fmt) (rm : RMode) (ftz : Bool) (draw code : Nat) : Nat × BitVec 6 :=
  let v := decodeFtz ftz src code
  let r := roundTo dst rm ftz draw v
  (r.1, r.2 ||| snan [v])

/-- One conversion between integer formats: SatS or SatZ with SAT (R97). -/
def convertInt (dst src : Fmt) (code : Nat) : Nat × BitVec 6 :=
  let v : Int := if src.isS then sx src.width code else (code % 2 ^ src.width : Nat)
  let r := intRange dst
  if v < r.1 then (wrap r.1 dst.width, fSAT) else if r.2 < v then (wrap r.2 dst.width, fSAT) else (wrap v dst.width, 0)

/-! ## Stochastic generators (R93) -/

/-- Step of a generator. -/
def genStep (y : BitVec 32) : BitVec 32 :=
  let y := y ^^^ (y <<< 13)
  let y := y ^^^ (y >>> 17)
  y ^^^ (y <<< 5)

/-- The state of generator i seeded with x. -/
def genSeed (x : Word) (i : Nat) : BitVec 32 :=
  let st := x.extractLsb' 0 32 ^^^ x.extractLsb' 32 32 ^^^ BitVec.ofNat 32 (i * 0x9E3779B9)
  let st := if st = 0 then 1 else st
  (List.replicate 8 ()).foldl (fun y _ => genStep y) st

/-- The 66 generators seeded with x. -/
def seedAll (x : Word) : Vector (BitVec 32) 66 := Vector.ofFn fun i => genSeed x i.val

end Sys2Proof.Machine
end

