-- ==== Sys2Proof/Config.lean ====
section
/-!
DEFINITION. What each part fixes for itself and the values the manual leaves open: constants with no body, so that nothing can be proved
of their values (log 5, log 12).
-/
namespace Sys2Proof.Config

/-- IDSER.SERIAL, fused at manufacture (Table 1.10). -/
opaque serial : Word
/-- The pair of key slot 0, drawn by the boot ROM (R350). -/
opaque slot0Pair : BitVec 512
/-- Whether the boot ROM or the running image finds the signature of firmware image n good (R384): 0 is the image stored at State.reset. -/
opaque firmwareValid : Nat → Bool
/-- The number of the firmware image that stands in some bytes, each with its offset from FWCTL.ADDR (R384; log 5): the manual gives an image no layout. -/
opaque firmwareAt : List (Nat × Byte) → Nat
/-- The cores of a crew that fail their power-up self test, at the n-th free value (R379). -/
opaque selfTestFails : Nat → BitVec 8
/-- Occupancy of the command queue of channel ch, by 32 × stack + channel, in a cycle, in 1/256 (R377, R404; log 24). -/
opaque occupancy : Nat → Nat → BitVec 8
/-- The bank of a stack in which an address lies, of which the manual gives no layout (R376; log 24). -/
opaque bankOf : Nat → BitVec 8
/-- IDFW.VERSION of firmware image n (R19). -/
opaque firmwareVersion : Nat → BitVec 32
/-- IDFW.BUILD of firmware image n (R19). -/
opaque firmwareBuild : Nat → BitVec 32
/-- SHA-256 digest of firmware image n (R360). -/
opaque firmwareDigest : Nat → BitVec 256
/-- The RSA-3072 signature of a digest under the part's fused identity key (R360). -/
opaque signature : BitVec 256 → BitVec 3072
/-- The key slot under which the accesses of a UALink peer meet memory: the manual names none (log 22). -/
opaque ualKey : BitVec 8
/-- Values that the manual leaves open: the n-th free dword (log 12). -/
opaque freeWord : Nat → Word
/-- A micro-word of the base region that the manual does not print (R301, R302; log 13): fixed in silicon, and read by no program. -/
opaque baseWord : Nat → BitVec 128
/-- What scrub command n finds in its line (R376): 1 an error that it corrects, 2 one that it cannot, else none (log 24). -/
opaque scrubFinds : Nat → BitVec 2
/-- Byte b of the picture of a continuation record in a trap frame, of which the manual gives the place and not the layout (log 14). -/
opaque contByte : Nat → Nat → Byte

end Sys2Proof.Config
end

