-- ==== Sys2Proof/Machine/State.lean ====
section
/-!
DEFINITION. The state of the machine as plain data: what Table 2.2 gives a shift, what the chapters give a core, a die and the package,
and the few fields that are the model's own (`agenda`, `turn`, `cur`, `free`). Maps are lists of (key, value) in rising key order that
leave out default values.
-/
namespace Sys2Proof.Machine

/-- A reason to stop with a fault. -/
inductive Fault where
  /-- Raised by `step` when power has been removed (R383) and no event is due: the machine does nothing more. Safe. -/
  | powerOff
  deriving DecidableEq, Repr

/-- A reason to refuse a step. -/
inductive Refusal where
  /-- Raised by the dispatcher of instructions for one that has no meaning yet. Safe. -/
  | notModelled (mnemonic : String)
  deriving DecidableEq, Repr

/-- Bytes by address; rising addresses, no entry holds 0. -/
abbrev Mem := List Host.Cell
/-- Values by number; rising keys. -/
abbrev NMap (α : Type) := List (Nat × α)
/-- Sticky flags in the positions of STAT[5:0] (Table 5.6): SAT PE UF OF DZ NV. -/
abbrev Flags := BitVec 6

/-! ## A shift -/

/-- A register that a word names, or an implicit source (R46, R56). -/
inductive RegRef where
  | s (n : SNum) | a (n : ANum) | g (n : GNum) | v (n : VNum) | h (n : HNum) | sp (r : SpecReg)
  deriving DecidableEq, Repr

/-- Where a fixed-latency result goes (Table 19.6); the value beside it. -/
inductive LandTo where
  /-- A landing that a handler dropped, or one of flags alone. -/
  | nothing
  | s (r : SNum) (x : Word)
  | a (r : ANum) (x : Addr)
  | g (r : GNum) (b : Bool)
  /-- Lanes first to first + n - 1 of a vector register. -/
  | v (r : VNum) (first n : Nat) (x : VReg)
  | special (r : SpecReg) (x : Word)
  /-- A CRD; `held` where it issued when ready, so that its registers are interlocked until it lands (R169). -/
  | crd (r : VNum) (lo hi : VReg) (held : Bool)
  | part (r : VNum) (t f : VReg) (sd : SNum) (nt : Word)
  | vsetvl (sd : SNum) (n : Word)
  | pad (base : Nat) (data : List Byte)
  | padElems (w : Nat) (els : List (Nat × List Byte))
  /-- Elements (lane, offset, bytes); `single` for the LANE write of ST. -/
  | lane (single : Option Nat) (els : List (Nat × Nat × List Byte))
  | partn (base arms : Nat) (counts : List Nat) (idx : List (List Nat))
  deriving DecidableEq, Repr

/-- A pending fixed-latency result (R30, R36): the counted cycles left, its issue rank, its flags. -/
structure Landing where
  left : Nat
  seq : Nat
  flags : Flags
  dst : LandTo
  deriving DecidableEq, Repr

/-- The registers of a shift (Table 2.2). -/
structure Regs where
  pc : Nat
  s : Vector Word 64
  a : Vector Addr 32
  g : Vector Bool 8
  v : Vector VReg 64
  deriving DecidableEq, Repr

/-- The special registers of a shift (Table 6.9) and the generators of RND (R93). -/
structure Spec where
  vl : Nat
  stat : Word
  tcb : Word
  sb : Word
  stkb : Word
  stkl : Word
  seed : Word
  gens : Vector (BitVec 32) 66
  chk : Word
  deriving DecidableEq, Repr

/-- A ring register qN (Table 10.7). -/
structure Ring where
  v : Bool
  space : Nat
  prod : BitVec 4
  cons : BitVec 4
  log2sz : Nat
  hc : Bool
  hw : Bool
  hk : Nat
  base : Nat
  deriving DecidableEq, Repr

/-- A route handle hN (Table 14.7). -/
structure Handle where
  v : Bool
  dstpkg : Nat
  len : Nat
  gen : Nat
  hops : List Byte
  deriving DecidableEq, Repr

/-- A delayed fault of an interlocked register (R285, R364): the register, the fault, raised at the first bundle that reads it. -/
structure Delayed where
  reg : SNum
  info : FaultInfo
  deriving DecidableEq, Repr

/-- The open bundle of a shift (R227 to R230, Table 19.12). -/
structure Bundle where
  v : Bool
  full : Bool
  version : Nat
  name : Nat
  manifest : Nat
  key : Nat
  members : List Nat
  /-- The virtual line addresses of the members, for the scope check of BSEAL. -/
  vas : List Nat
  deriving DecidableEq, Repr

/-- The explicit view of a shift (R235, Table 19.12). -/
structure View where
  v : Bool
  expired : Bool
  overflow : Bool
  scope : Scope
  vers : List (Nat × Nat)
  lines : List Nat
  deriving DecidableEq, Repr

/-- A continuation record (R316). -/
structure Cont where
  tgt : Nat
  m : Vector VReg 16
  instr : Instr
  vl : Nat
  tag : Word
  stat : Word
  deriving DecidableEq, Repr

/-- A unit that runs a micro-routine: the record of Table 19.7 and what the unit has latched (R305, R306). In an engine a
micro-temporary is the low 72 bits. -/
structure MicroUnit where
  v : Bool
  halt : Bool
  ten : Bool
  code : Nat
  cause : Nat
  tstg : Nat
  tlvl : Nat
  faddr : Addr
  steps : Nat
  bound : Nat
  mpc : Nat
  m : Vector VReg 16
  instr : Instr
  tag : Word
  bank : Option Nat
  opd : VReg
  opa : VReg
  opb : VReg
  opc : VReg
  wopd : Bool
  wopa : Bool
  wopb : Bool
  wopc : Bool
  vl : Nat
  stat : Word
  ea : Addr
  held : List (Nat × Nat × Bool)
  flags : Flags
  ain : VReg
  bin : VReg
  /-- The B input where it came from a weight slot: its body where the slot was VALID, its format, and the free values beside it. -/
  bsl : Option (Option (BitVec 512) × Fmt × Nat)
  banken : BitVec 32
  /-- Registers that the routine's word names and no word of the routine writes (Table 24.4). -/
  idle : List RegRef
  /-- The cycle of the unit's last micro-step: a unit runs one in a cycle (the model's own; log 1). -/
  last : Option Nat
  deriving DecidableEq, Repr

/-- One relocated footprint of a shift (R177, R178): runs of `len` bytes, `rows` of them, `rstride` apart. Modes: 0 RD, 1 WR, 2 SYNC. -/
structure Foot where
  space : Space
  mode : Nat
  host : Bool
  base : Int
  len : Nat
  rows : Nat
  rstride : Int
  deriving DecidableEq, Repr

/-- A footprint descriptor (Table 9.3); `good` says that its fields keep their limits (R178). -/
structure Desc where
  space : Space
  mode : Nat
  host : Bool
  base : Nat
  len : Nat
  rows : Nat
  sstride : Int
  rstride : Int
  good : Bool
  deriving DecidableEq, Repr

/-- A ring entry (R66). -/
structure RingEnt where
  q : Nat
  ring : Nat
  prod : Nat
  cons : Nat
  deriving DecidableEq, Repr

/-- A binding register of a resident context (Table 3.15, R321). -/
structure Binding where
  cls : Nat
  opc : Nat
  entry : Nat
  steps : Nat
  rclass : Nat
  tag : Word
  deriving DecidableEq, Repr

/-- What the part keeps of the image header of a placed shift (R62 to R66, R178, R182, R321). -/
structure Image where
  ev : Nat
  start : Nat
  lim : Nat
  spbound : Nat
  live : List (Word × Word × Word)
  feet : List Foot
  binds : List Binding
  base : Addr
  /-- Virtual address of the tenant image (R323), 0 for none. -/
  timg : Nat
  deriving DecidableEq, Repr

/-- Where a shift stands and for whom (R247, R248, R368). -/
structure Place where
  core : Nat
  ctx : Nat
  table : Nat
  node : Nat
  stage : Nat
  slot : Nat
  index : Nat
  banks : BitVec 32
  mx : Bool
  lkq : Nat
  /-- The shift that this handler serves, and the frame's address. -/
  serves : Option Nat
  frame : Addr
  fpbase : Addr
  deriving DecidableEq, Repr

/-- The timing state of a shift (Table 2.2): SPC, the stall cycles owed, the lane-sequencer occupancy left, the issue rank, the DCC at
which it stopped, the count of its turn (R252), and the flags and events that arrived since its last trap frame was written (R375). -/
structure Timing where
  spc : Nat
  owed : Nat
  laneBusy : Nat
  /-- The rank of the next bundle, and that of the tenant V word whose routine holds the lane sequencer. -/
  seq : Nat
  laneSeq : Nat
  stopped : Option Nat
  turnUsed : Nat
  started : Bool
  /-- A WAITEV's wait: the DCC at which it times out, 0 for never. -/
  waitFrom : Option Nat
  /-- The timeout of a WAITEV has passed (R267). -/
  timedOut : Bool
  /-- The live-mask entry of the safe point at which the shift stands (R264), and whether a YIELD ended its turn. -/
  safe : Option Nat
  yields : Bool
  /-- A SAFEPT or YIELD that waits for the results of its own bundle (R37): its entry, and whether it yields. -/
  safeWait : Option (Nat × Bool)
  /-- A HALT or TRET that waits for the work of its own bundle (R263, R374). -/
  halting : Option Instr
  /-- The tenant image for which its bundle waits, and whether a load has begun since (R324, R326). -/
  waitLoad : Option (Word × Bool)
  /-- What a31 held at the last safe-point switch whose live mask does not mark it: the shift reads zero from then on (R37), and a trap still finds the
  stack there (R368, R414, R415; log 97). -/
  stackAt : Option Addr
  statSince : Flags
  /-- The flags that reached STAT and are first seen in cycle `statAt`, which a WRSR to STAT that lands in that cycle keeps (R96). -/
  statNow : Flags
  statAt : Nat
  evlSince : BitVec 16
  /-- What its last trap frame marks: registers that await a result (R371), and the units that had halted (0 the lane sequencer, 1 AE0,
  2 AE1). -/
  shownS : BitVec 64
  shownV : BitVec 64
  shownHalt : BitVec 3
  deriving DecidableEq, Repr

/-- A barrier group (R155), with the entry rank of the operation that gave the code. -/
structure Group where
  count : Nat
  flags : Flags
  code : Nat
  cs : Nat
  deriving DecidableEq, Repr

/-- A matrix barrier mbB (R155). -/
structure MBar where
  opn : Group
  arm : Group
  armed : Bool
  phase : BitVec 32
  lastCode : Nat
  lastFlags : Flags
  deriving DecidableEq, Repr

/-- An operation of the matrix queue or in progress (R152 to R155). -/
structure MOp where
  raw : Word
  instr : Instr
  /-- Target cycle; none is "ready". -/
  target : Option Nat
  /-- First cycle at which it may issue. -/
  entry : Nat
  stat : Word
  /-- Which group it counts on now: true once its group has been armed. -/
  armed : Bool
  /-- Operand registers latched at the bundle's issue. -/
  sa : Word
  sb : Word
  sc : Word
  aa : Addr
  issued : Option Nat
  /-- The cycle at which it completes, once that is known. -/
  done : Option Nat
  flags : Flags
  code : Nat
  /-- Entry rank, by which the earliest faulting operation gives its group's code. -/
  rank : Nat
  /-- The rank of its bundle among those of its shift. -/
  seq : Nat
  /-- The tile's new rows (row, bits), or the bytes of a CST, held until completion. -/
  rows : List (Nat × TileRow)
  bytes : List Byte
  /-- The weight slots that an MMA reads or a WBLD writes: `r` of them from `slot` on, in `half`; how many a WBLD has done. -/
  r : Nat
  half : Bool
  slot : Nat
  occ : Nat
  /-- VL, and the vector operands of a tenant operation, as they stood at the word's issue (R305). -/
  vl : Nat
  regs : List VReg
  deriving DecidableEq, Repr

/-- A slot of the weight buffer (R161): state 0 VALID, 1 LOADING, 2 FAILED; the code of the WBLD that failed. -/
structure WSlot where
  state : Nat
  code : Nat
  body : BitVec 512
  deriving DecidableEq, Repr

/-- The matrix state of a shift (R150 to R164). -/
structure Matrix where
  tiles : NMap TileRow
  slots : NMap WSlot
  queue : List MOp
  active : List MOp
  bars : Vector MBar 4
  lastIssue : Nat
  arrayFree : Nat
  ports : Vector Nat 4
  haltCode : Nat
  rank : Nat
  /-- Registers of CRDs issued when ready whose results have not landed (R169). -/
  ready : List VNum
  deriving DecidableEq, Repr

/-- Interlocks of a shift (R33, R371): marks, delayed faults, the first posted failure since LFENCE (R290). -/
structure Pend where
  s : BitVec 64
  v : BitVec 64
  a : BitVec 32
  h : BitVec 8
  delayed : List Delayed
  posted : Option (Nat × Nat)
  /-- Pending program trap raised by TRAP (R269), and the other faults pending at the boundary (R366). -/
  trap : Option Nat
  faults : List FaultInfo
  preempt : Bool
  /-- A FENCE that holds the next bundle (R204): 0 none, 1 `.acq`, 2 `.rel` or `.full`. -/
  fence : Nat
  /-- A tenant routine has met a bundle whose LANE or PAD access waits until the routine ends (R313). -/
  routine : Bool
  deriving DecidableEq, Repr

/-- A shift: one context's program on one core. -/
structure Shift where
  regs : Regs
  sp : Spec
  landings : List Landing
  rings : Vector Ring 16
  handles : Vector Handle 8
  pend : Pend
  evl : BitVec 16
  bundle : Bundle
  view : View
  /-- Observed-pennant table, most recently used first: (NAME, VERSION, manifest line plus 1, or 0 once the version has settled). -/
  opt : List (Nat × Nat × Nat)
  conts : List Cont
  lane : MicroUnit
  tim : Timing
  mx : Matrix
  img : Image
  place : Place
  deriving DecidableEq, Repr

/-! ## Memory and requests -/

/-- Pennant of a line: name, version, index, count (R222); and beside them the fabric line number of the bundle's anchor, which a reader asks (R234). -/
structure Pennant where
  name : Nat
  version : Nat
  index : Nat
  count : Nat
  anchor : Nat
  deriving DecidableEq, Repr

/-- The side entry of a line (R222, R233): a pending or a retained version, with its key, its bytes and its DCC times. -/
structure Side where
  pending : Bool
  name : Nat
  version : Nat
  index : Nat
  anchor : Nat
  key : Nat
  data : List Byte
  poison : BitVec 128
  pennant : Option Pennant
  since : Nat
  settled : Option Nat
  deriving DecidableEq, Repr

/-- Side metadata of a line of stacked memory or a window: key tag, poison, pennant, side entry (R222, R350, R376). A line is poisoned
while `poison` is not 0: its bits are the bytes that no write has covered since. -/
structure Line where
  tag : Nat
  poison : BitVec 128
  pennant : Option Pennant
  side : Option Side
  deriving DecidableEq, Repr

/-- A line that a device cache holds (R393, R395): the bytes of memory at its home, and the bytes that the device has written since and memory lacks. -/
structure Held where
  home : List Byte
  dirty : BitVec 128
  deriving DecidableEq, Repr

/-- A vector of a function's MSI-X table (R385): its message, whether it is masked, and whether a masked one waits (log 96). -/
structure Msix where
  addr : Word
  data : BitVec 32
  masked : Bool
  pending : Bool
  deriving DecidableEq, Repr

/-- A physical place: PAD of a core, a crew share, CHIP of a die, local physical memory under a key, or a fabric region. -/
inductive Home where
  | lane (core lane off : Nat)
  | pad (core off : Nat)
  | crew (crew off : Nat)
  | chip (die off : Nat)
  | glob (pa key : Nat)
  | fab (pkg pa key : Nat)
  deriving DecidableEq, Repr

/-- A fetch that repairs a read (R236): forward or backward, the name and the version. -/
structure Fetch where
  fwd : Bool
  name : Nat
  version : Nat
  deriving DecidableEq, Repr

/-- What a request asks of its home. -/
inductive HomeOp where
  | read (n : Nat) (sx : Bool)
  | write (data : List Byte)
  | atom (op : AtomOp) (dword : Bool) (b : Word)
  | cas (dword : Bool) (e n : Word)
  | barinit (force : Bool) (c : Word)
  | bararr
  /-- The state byte of a ring slot at the home: FULL for RPUB, EMPTY for RREL. -/
  | rpub
  | rrel
  /-- A bundle store, or a message to an anchor of another package. -/
  | bst (b : BunAct)
  deriving DecidableEq, Repr

/-- A request on its way to its home (R33, R175): its shift (or none for the host and the part), issue rank, kind, order marks. -/
structure Req where
  sh : Option Nat
  seq : Nat
  at_ : Home
  op : HomeOp
  acq : Bool
  rel : Bool
  dst : Option SNum
  va : Addr
  /-- The hops of its route, for a home in another package. -/
  via : List Byte
  /-- The leaf entry of a duplicated page that it writes (R347). -/
  collapse : Option Nat
  /-- The fetch by which its read is being repaired (R236). -/
  fetch : Option Fetch
  /-- The cycle of its issue, by which a drain tells what was in flight (R296). -/
  since : Nat
  deriving DecidableEq, Repr

/-- A collapse-pending record (R347): the leaf entry, the page, the dies still to acknowledge. -/
structure Collapse where
  leaf : Nat
  page : Nat
  size : Nat
  /-- RSH of its region. -/
  rsh : Nat
  dies : List Nat
  deriving DecidableEq, Repr

/-- What a write of the part does to the bytes of its line: it puts them there, or sets or clears bits in them. -/
inductive OwnOp where
  | put | set | clear
  deriving DecidableEq, Repr

/-- Messages on their way: requests, arrivals of results, tokens, events, the messages between homes and anchors of bundles, and writes of the part
itself that a pending version holds (R222): bytes, or bits to set or to clear. -/
inductive Msg where
  | req (r : Req)
  | arrive (sh : Nat) (dst : Option SNum) (x : Word) (flags : Flags) (bad : Option FaultInfo)
  | arriveH (sh : Nat) (h : HNum) (x : Handle)
  | token (sh : Nat) (dst : SNum) (x : Word) (job : Option Nat)
  | event (src seq sh : Nat) (bits : BitVec 16)
  | seal (line name version count anchor : Nat)
  | discard (line name version : Nat)
  | sealAck (anchor name version member : Nat)
  | settle (line name version : Nat)
  | own (pa : Nat) (key : Option Nat) (op : OwnOp) (data : List Byte) (page : Option Collapse)
  deriving DecidableEq, Repr

/-- Why a party waits at a home (R193). -/
inductive WaitFor where
  | claim (ring : Home) | full (ring : Home)
  | ge (at_ : Home) (dword signed : Bool) (thr : Word)
  | bar (at_ : Home) (gen : BitVec 32)
  | anchor (line : Nat)
  deriving DecidableEq, Repr

/-- A waiter at a home: the shift, the unit (0 the issue unit, 1 the lane sequencer, 2 AE0, 3 AE1, 4 the link engine), what it waits
for, and the answer once the home has given one, with the bytes of a read of another package and the fault of one that failed. -/
structure Waiter where
  sh : Nat
  unit : Nat
  why : WaitFor
  answer : Option Word
  data : List Byte
  bad : Option FaultInfo
  deriving DecidableEq, Repr

/-- A job of an address engine, the copy engine or the link engine (R184 to R186, Table 19.10). Engines: 0 copy, 1 AE0, 2 AE1, 3 link.
States: 1 queued, 2 running, 3 stopped. -/
structure Job where
  id : Nat
  sh : Nat
  core : Nat
  eng : Nat
  raw : Word
  instr : Instr
  desc : Word
  opi : Word
  opx : Word
  ea : Addr
  src : Addr
  tok : SNum
  state : Nat
  reads : List Foot
  writes : List Foot
  done : Nat
  seq : Nat
  unit : MicroUnit
  /-- MSCAN: channels still to read; RSTN, RSEND, RLDQ: operations out. -/
  todo : List Nat
  best : List (Word × Nat)
  count : Nat
  cause : Option (Nat × Nat)
  /-- Bytes read and not yet written or sent. -/
  buf : Option (List Byte)
  handles : Vector Handle 8
  /-- The cycle in which it started, and the last read of each scan unit, from which the unit's next one waits (R404). -/
  began : Nat
  scans : NMap Nat
  deriving DecidableEq, Repr

/-! ## The core, the crew and the package -/

/-- A tenant bank (R324): state 0 EMPTY, 1 LOADING, 2 READY, 3 FAILED; its tag, its words, when an issuing shift last used it. -/
structure Bank where
  state : Nat
  ctx : Nat
  tag : Word
  words : NMap (BitVec 128)
  image : Addr
  used : Nat
  deriving DecidableEq, Repr

/-- An armed receive port (R288, R289). -/
structure Port where
  armed : Bool
  ctx : Nat
  sh : Nat
  fmt : RecvFmt
  cnten : Bool
  window : Nat
  wlen : Nat
  elen : Nat
  cnt : Nat
  received : Nat
  flags : Flags
  job : Nat
  deriving DecidableEq, Repr

/-- A core: the issuing shift (by slot), residency order, tenant banks, LDERR, receive ports, line locks. -/
structure Core where
  issuing : Option Nat
  order : List Nat
  banks : Vector Bank 2
  ldFails : Nat
  ldCtx : Nat
  ldCode : Nat
  ports : NMap Port
  /-- Locked lines: (context, line). -/
  locks : List (Nat × Nat)
  halts : List (Nat × Nat)
  deriving DecidableEq, Repr

/-- A crew's link engine store (R327): the image tag and its words, with its CTAB. -/
structure LinkStore where
  tag : Word
  ctx : Nat
  /-- The nodes that use it, by table and index (R328). -/
  users : List (Nat × Nat)
  words : NMap (BitVec 128)
  ctab : List (BitVec 32)
  deriving DecidableEq, Repr

/-- An entry that a walk used (R338): its stage and level, its place, the value read, and the address that the stage translates. -/
structure PathEnt where
  stage : Nat
  level : Nat
  at_ : Nat
  value : Nat
  addr : Nat
  deriving DecidableEq, Repr

/-- A cached translation (R341, R348): the unit that caches it, its page, and what it composes. -/
structure Tlb where
  unit : Nat
  ctx : Nat
  va : Nat
  size : Nat
  pa : Nat
  gpa : Nat
  key : Nat
  fab : Option (Nat × Nat)
  wr : Bool
  nx : Bool
  rsh : Nat
  /-- The entries of the walk (R338). -/
  path : List PathEnt
  /-- The leaf entries, of the first stage and then of the second, in which a write sets DT; and which of them is a member of a 64 KiB group
  (R337), so that another address of the page has another member. -/
  leaves : List Nat
  group1 : Bool
  group2 : Bool
  /-- The leaf that carries RDUP (R346), and the page of that leaf: its primary and its size. -/
  dup : Option Nat
  dupPage : Nat × Nat
  /-- Granules that the entry remembers as logged (R348). -/
  logged : List Nat
  acSet : Bool
  dtSet : Bool
  deriving DecidableEq, Repr

/-- A cached table entry above the leaf (R341): its context, stage and level, the first address that it serves, its place, and the value read. -/
structure Upper where
  ctx : Nat
  stage : Nat
  level : Nat
  base : Nat
  at_ : Nat
  value : Nat
  deriving DecidableEq, Repr

/-- An adapter of the pin table (R357): pin count, REVOKED, the cached copy's offset and length, and the VERSION at which it was filled (0 without a copy). -/
structure Pin where
  count : Nat
  revoked : Bool
  copy : Option (Nat × Nat)
  version : Word
  deriving DecidableEq, Repr

/-- An adapter that has no pin and no copy. -/
def Pin.zero : Pin := { count := 0, revoked := false, copy := none, version := 0 }

/-- The registers of one context (Tables 17.1, 18.3, 19.2, 27.1, R386) and its pin table. -/
structure Ctx where
  rt : Word
  s2 : Word
  dl : Word
  dll : Word
  own : Word
  tvimg : Word
  tvfrm : Word
  tvctl : Word
  traps : Nat
  lastTrap : Nat
  adtb : Word
  adlim : Word
  adcb : Word
  adrev : Word
  pins : NMap Pin
  frzAddr : Word
  frzState : Nat
  frzErr : Nat
  frzShifts : Nat
  deriving DecidableEq, Repr

/-- A function's registers: its invalidation port, attestation port and HKEY; for a virtual device VFCTL and VFST. -/
structure Func where
  tlbia : Word
  tlbic : Word
  tdone : BitVec 32
  /-- The open invalidation: KIND, CTX, ADDR (R344). -/
  topen : Option (Nat × Nat × Nat)
  attctl : Word
  /-- The last four dwords written to ATTN, the oldest first. -/
  nonce : List Word
  /-- The report under way: its address, its function, its nonce, and its place among the requests of all ports (R360). -/
  attReq : Option (Nat × Nat × List Word × Nat)
  attDone : Bool
  hkey : Word
  en : Bool
  vst : Nat
  kmiss : Nat
  /-- The MSI-X table, 2048 vectors (R385); a vector that is not listed has no message set (log 96). -/
  msix : NMap Msix
  deriving DecidableEq, Repr

/-- A key slot (R350, R352): 0 FREE, 1 LIVE, 2 RETIRING; the pair, data key first. -/
structure KeySlot where
  st : Nat
  pair : BitVec 512
  deriving DecidableEq, Repr

/-- A packet that a hewer accepted and that has not completed (R392 to R396). -/
structure Pkt where
  idx : Nat
  dw : List Word
  bufs : List (Nat × Nat × Nat)
  started : Bool
  table : Option Nat
  /-- Bytes that an ADITX has moved, once its first piece has started. -/
  moved : Option Nat
  deriving DecidableEq, Repr

/-- A completion that waits for room in its ring (R397 to R399). -/
structure Cpl where
  tag : Word
  status : Nat
  detail : Word
  irq : Bool
  write : Bool
  deriving DecidableEq, Repr

/-- A host queue (Table 21.1, R389 to R400). -/
structure HQueue where
  cfg : Word
  base : Word
  tail : BitVec 32
  head : BitVec 32
  st : Nat
  errst : Nat
  cpl : Word
  cwrite : BitVec 32
  chead : BitVec 32
  int : Word
  /-- QINT as the last completion entry found it (R389). -/
  live : Word
  pkts : List Pkt
  cpls : List Cpl
  counted : Nat
  oldest : Option Nat
  /-- The cycle of its last interrupt, whose message covers every entry written in it (R400). -/
  sent : Option Nat
  /-- Its STATE at the first step of the last freeze of its context (R427, R428). -/
  atFreeze : Nat
  deriving DecidableEq, Repr

/-- A shift of a placement (R182, R247): its core, slot, stage, slot number within its crew and stage index, what it was given, its
relocated footprints, and whether it has raised its halt line (R253). -/
structure Placed where
  core : Nat
  slot : Nat
  stage : Nat
  unum : Nat
  index : Nat
  banks : BitVec 32
  mx : Bool
  lkq : Nat
  feet : List Foot
  halted : Bool
  /-- It was withdrawn for rebalancing (R250), and its core is free again. -/
  withdrawn : Bool
  /-- Switched out for a node that outranks its own (R251): it is not resident, and the bytes of its PAD banks are kept here. -/
  away : Bool
  saved : List (Nat × List Byte)
  deriving DecidableEq, Repr

/-- A ring object (R211, R241): its space by code, the core, crew or die that shares it, its base, its node, and whether the node declares
it. -/
structure RingObj where
  space : Nat
  dom : Nat
  base : Nat
  table : Nat
  node : Nat
  decl : Bool
  deriving DecidableEq, Repr

/-- What the dispatcher keeps of a stage's image once it has checked it (R245): its address, header, entry, stack, rings, descriptors. -/
structure StageImg where
  img : Image
  chk : Bool
  entry : Nat
  stack : Nat
  rings : List RingEnt
  descs : List Desc
  deriving DecidableEq, Repr

/-- A ring of a node sampled at its home (R249): its object, the cycles in which it was full and starved. -/
structure Sample where
  node : Nat
  space : Nat
  dom : Nat
  base : Nat
  full : Nat
  starved : Nat
  deriving DecidableEq, Repr

/-- A node of a resident graph table (R240, R242): its 32 dwords as copied, and what the dispatcher keeps. States: 0 IDLE, 1 WAITING,
2 READY, 3 RUNNING, 4 DONE, 5 FAILED. -/
structure Node where
  dw : List Word
  status : Nat
  state : Nat
  iter : Nat
  pred : Nat
  ready : Nat
  checked : Bool
  cond : Bool
  images : List StageImg
  placed : List Placed
  deriving DecidableEq, Repr

/-- A pending rebalancing move (R249, R250). -/
structure Move2 where
  crew : Nat
  fromStage : Nat
  toStage : Nat
  until_ : Nat
  sh : Nat
  deriving DecidableEq, Repr

/-- A resident graph table (R238): its place, its bytes, its nodes, the edges added by R181, the packet it serves. -/
structure GTable where
  ctx : Nat
  addr : Addr
  bytes : List Word
  nodes : List Node
  /-- Edges added by R181: the earlier node's table and number, and the later node of this table. -/
  edges : List (Nat × Nat × Nat)
  /-- The nodes that have FAILED in this launch, with their statuses (R246). -/
  fails : NMap Nat
  queue : Nat
  pkt : Nat
  prioCap : Nat
  /-- Rings under rebalancing, and the start of each node's window. -/
  samples : List Sample
  windows : NMap Nat
  moves : List Move2
  deriving DecidableEq, Repr

/-- A fabric operation injected here (R280): who waits for it and how. Kinds of waiting: 0 posted, 1 interlocked, 2 job, 3 an
interlocked acquire, 4 nobody any more (its shift has ended, or its job), 5 the weight stream, 6 a message about a bundle between a home and an anchor (log 71), 7 the fetch of a line of code (R335),
8 the write of a line of a trap frame, 9 the read of one (R335, R368). -/
structure FabOp where
  id : Nat
  sh : Option Nat
  kind : Nat
  dst : Option SNum
  job : Option Nat
  since : Nat
  die : Nat
  pkg : Nat
  act : FabAct
  info : FaultInfo
  /-- Whether its value is sign-extended in its destination. -/
  sx : Bool
  /-- The rank of its access in its shift, and whether it is a release (R187). -/
  seq : Nat
  rel : Bool
  /-- The hops of its route and its key. -/
  hops : List Byte
  key : Nat
  /-- The adit over which its request left the package (R296), and the dies that it had crossed, which its response retraces (R276). -/
  adit : Option Nat
  path : List Nat
  /-- A response that waits until a bundle of an evicted entry has settled (R234): its bytes and pennant. -/
  late : Option (List Byte × Option (Nat × Nat × Nat))
  deriving DecidableEq, Repr

/-- A packet at a router of this package (R279): its number, its operation (none for one of another package), request or response, the die it is on, the
hops left, and the dies that it has crossed, which its response retraces (R276). -/
structure Packet where
  id : Nat
  op : Option Nat
  /-- The adit over which it came in, where it is of another package; its response leaves over it. -/
  src : Option Nat
  resp : Bool
  die : Nat
  hops : List Byte
  key : Nat
  act : FabAct
  path : List Nat
  data : List Byte
  flags : Flags
  /-- The pennant of the line that a read met, as in a response of another package. -/
  pen : Option (Nat × Nat × Nat)
  /-- The home refused the access: the cause of the route fault, or 16 more than that of a memory-model fault (R223, Table 14.4). -/
  refused : Option Nat
  /-- A failure notice and its cause (R280). -/
  note : Option Nat
  /-- It has reached its home, where it waits. -/
  waits : Bool
  /-- It was injected on the die that it is on, and came there over no link (R279). -/
  fresh : Bool
  deriving DecidableEq, Repr

/-- A request of another package that has crossed this one (R276): its packet's number, the adit over which it left, the dies that it crossed, and the
adit over which it had come in. Its response retraces them. -/
structure Crossing where
  id : Nat
  out : Nat
  path : List Nat
  src : Nat
  deriving DecidableEq, Repr

/-- An adit: ADCTL, ADST, ADWIN and LEMLN (Tables 14.5, 15.3 to 15.5). States: 0 DOWN, 1 UP, 2 STOP, 3 DRAIN, 4 FENCE, 5 TRAIN, 6 MAP,
7 RESUME. -/
structure Adit where
  drainlg : Nat
  pers : Nat
  poisoned : Nat
  err : Nat
  st : Nat
  cur : Nat
  winEn : Bool
  winBase : Nat
  winSize : Nat
  closing : Bool
  /-- The cycles at which a drain began and at which the window was told to close (R296, R298). -/
  drainFrom : Nat
  offFrom : Nat
  turn : Bool
  good : BitVec 8
  lcur : BitVec 8
  dir : BitVec 8
  /-- The egress lanes that the peer asks for, and its healthy lanes, as the link reports them (R282). -/
  peerDir : BitVec 8
  peerGood : BitVec 8
  /-- The width at which MEM trained, and the ports that are up in UAL or UEC (R299). -/
  width : Nat
  ports : BitVec 4
  down : Bool
  deriving DecidableEq, Repr

/-- A memory stack's error state (Tables 20.1, 20.2, R377). -/
structure Stack where
  ce : Nat
  ue : Nat
  ecsok : Bool
  esc : Nat
  thresh : Nat
  passlg : Nat
  fben : Bool
  quarter : Nat
  scrubbed : Nat
  /-- The cycle at which the pass began. -/
  passAt : Nat
  /-- Errors found in each bank, as the stack's mode registers count them (R376). -/
  banks : NMap Nat
  deriving DecidableEq, Repr

/-- One entry of the topology snapshot (Table 14.1). -/
structure MapEnt where
  pkg : Nat
  die : Nat
  exit : Nat
  srcsw : Bool
  peersw : Bool
  peerpkg : Nat
  peerdie : Nat
  peerexit : Nat
  pers : Nat
  lanes : Nat
  good : Nat
  up : Bool
  ord : Nat
  deriving DecidableEq, Repr

/-- The fabric state of the package (chapters 14 and 15). -/
structure Fabric where
  tmapbase : Word
  tbusy : Bool
  terr : Bool
  tgen : Nat
  snapshot : List MapEnt
  adits : Vector Adit 36
  /-- Live state of the die-to-die links, by 4 × sending die + receiving die. -/
  links : BitVec 16
  ops : List FabOp
  pkts : List Packet
  nextOp : Nat
  /-- The exits, by number and network, that last served a packet in transit (R279). -/
  transit : List Nat
  /-- Requests of UALink peers that wait at their homes (R296): the adit and the request. -/
  uals : List (Nat × UalReq)
  /-- Requests of other packages that have crossed this one and are not answered yet (R276). -/
  crossed : List Crossing
  deriving DecidableEq, Repr

/-- A black-box event (R381). -/
structure Event where
  dcc : Nat
  kind : Nat
  unit : Nat
  code : Nat
  /-- Dwords 2 and 3: an address or a count. -/
  data : BitVec 128
  deriving DecidableEq, Repr

/-- Management state (chapters 1, 20 and 22). -/
structure Mgmt where
  idpkg : Nat
  version : Nat
  build : Nat
  regerr : Nat
  drop : Nat
  retired : List Nat
  pgAddr : Nat
  stks : Vector Stack 16
  coresvc : BitVec 256
  mismatch : Nat
  mmTimes : List Nat
  hewers : BitVec 8
  box : List Event
  boxHead : Nat
  bbsel : Nat
  hot : BitVec 4
  powered : Bool
  /-- Units that the power-up sequence has dealt with, of the 101 of Table 20.6, and those of them that were left off (R382). -/
  powerStep : Nat
  off : List Nat
  /-- The black box has been flushed, so that it outlasts the loss of power (R383). -/
  flushed : Bool
  fwAddr : Nat
  fwErr : Bool
  fwBusy : Bool
  fwState : Nat
  /-- The image that runs, the image stored, by the numbers that Config gives them. -/
  fwImage : Nat
  fwStored : Nat
  fwSince : Nat
  dil : BitVec 12
  scanThresh : Nat
  scanWaitlg : Nat
  maxout : Vector Nat 4
  ways : Vector Nat 4
  dspcfg : Word
  /-- The queue from which the hewers last took a packet, for each PRIO (R391). -/
  served : NMap Nat
  deriving DecidableEq, Repr

/-- The key unit (R350, R352). -/
structure Keys where
  slots : NMap KeySlot
  seq : List Word
  id : Nat
  deriving DecidableEq, Repr

/-- One move of the agenda: an event of the outside world or a choice of the order among the part's own steps, or one cycle. -/
inductive Move where
  | act (i : Instr)
  | cycle
  /-- An error of the cells in a line, found by a read or by the stack's own scrub: one that is corrected, or one that cannot be (R376). -/
  | upset (pa : Nat) (bad : Bool)
  /-- A device cache takes a line, or gives one back (R393; log 60). -/
  | cache (line : Nat) (drop : Bool)
  /-- The host sets a vector of a function's MSI-X table (R385; log 96). -/
  | msix (fn vec : Nat) (addr : Word) (data : BitVec 32) (masked : Bool)
  deriving DecidableEq, Repr

/-- The word being executed: its shift, its bundle's address, the address after the bundle, its stall count, the word's index, whether
the checks of its bundle have passed, and the unit (0 the issue unit, 1 the lane sequencer, 2 AE0, 3 AE1, 4 the link engine). -/
structure Cur where
  sh : Option Nat
  at_ : Nat
  npc : Nat
  stall : Nat
  word : Nat
  checked : Bool
  unit : Nat
  job : Option Nat
  raw : Word
  taken : Option Nat
  /-- The word's part of the present micro-step: register values before the step. -/
  old : Option MicroUnit
  imm : BitVec 12
  /-- How the word's checks came out: 0 it issued, 1 its bundle is held, 2 it was trapped. -/
  verdict : Nat
  deriving DecidableEq, Repr

/-- The state of the package. -/
structure State where
  /-- The deterministic cycle counter (R11). -/
  dcc : Nat
  /-- What moves next (the model's own; log 1). -/
  agenda : List Move
  /-- The next core of the present cycle (the model's own; log 1). -/
  turn : Nat
  /-- The word being executed (the model's own; log 1). -/
  cur : Cur
  /-- Counter of free values (the model's own; log 12). -/
  free : Nat
  glob : Mem
  pad : Mem
  lane : Mem
  crew : Mem
  chip : Mem
  host : Mem
  lines : NMap Line
  /-- The lines that device caches hold, by line number; `glob` holds what the device and coherent accesses see (R385, R393, R395). -/
  cache : NMap Held
  /-- Shifts by 8 × core + slot; slots 4 to 7 are the handlers of slots 0 to 3 (R368). -/
  shifts : NMap Shift
  cores : NMap Core
  links : NMap LinkStore
  jobs : List Job
  nextJob : Nat
  msgs : List Msg
  waiters : List Waiter
  /-- Cached translations, the latest used first, and cached upper-level entries (R341). -/
  tlb : List Tlb
  uppers : List Upper
  collapses : List Collapse
  ctxs : NMap Ctx
  funcs : NMap Func
  keys : Keys
  queues : NMap HQueue
  tables : NMap GTable
  /-- Ring objects made by RINIT, until their node completes (R211). -/
  rings : List RingObj
  /-- Manifest lines from their first BOPEN (R223): (fabric line number, table, node); for one that another package opened, table is 65536 plus the
  package, and node the place of its node there. -/
  manifests : List (Nat × Nat × Nat)
  /-- The members of a committed bundle that have acknowledged its seal, by their fabric line numbers, each with the line of its anchor (R232). -/
  acks : List (Nat × Nat)
  /-- Bundles open per context (R226, R227). -/
  opens : NMap Nat
  fab : Fabric
  mg : Mgmt
  /-- Interrupts sent: (function, vector) (R400), oldest first. -/
  irqs : List (Nat × Nat)
  /-- What goes out as an answer: register reads and device-memory reads of the host (R17, R385), completions for a UALink peer, bytes that an
  ADITX sends. -/
  replies : List (List Byte)
  deriving DecidableEq, Repr

/-! ## Reset -/

/-- A ring register that names no ring. -/
def Ring.zero : Ring :=
  { v := false, space := 0, prod := 0, cons := 0, log2sz := 0, hc := false, hw := false, hk := 0, base := 0 }

/-- A route handle that holds no route. -/
def Handle.zero : Handle := { v := false, dstpkg := 0, len := 0, gen := 0, hops := List.replicate 24 0 }

/-- An idle unit. -/
def MicroUnit.zero : MicroUnit :=
  { v := false, halt := false, ten := false, code := 0, cause := 0, tstg := 0, tlvl := 0, faddr := 0, steps := 0, bound := 0, mpc := 0,
    m := Vector.replicate 16 0, instr := .nop, tag := 0, bank := none, opd := 0, opa := 0, opb := 0, opc := 0, wopd := false,
    wopa := false, wopb := false, wopc := false, vl := 0, stat := 0, ea := 0, held := [], flags := 0, ain := 0, bin := 0,
    bsl := none, banken := 0, idle := [], last := none }

/-- An empty barrier group. -/
def Group.zero : Group := { count := 0, flags := 0, code := 0, cs := 0 }

/-- An empty matrix barrier (R155). -/
def MBar.zero : MBar :=
  { opn := Group.zero, arm := Group.zero, armed := false, phase := 0, lastCode := 0, lastFlags := 0 }

/-- The matrix state at the start of a shift (R155, R159, R161): every slot VALID and zero, barriers empty. -/
def Matrix.zero : Matrix :=
  { tiles := [], slots := [], queue := [], active := [], bars := Vector.replicate 4 MBar.zero, lastIssue := 0, arrayFree := 0,
    ports := Vector.replicate 4 0, haltCode := 0, rank := 0, ready := [] }

/-- The registers all zero; g0 reads true through its accessor. -/
def Regs.zero : Regs :=
  { pc := 0, s := Vector.replicate 64 0, a := Vector.replicate 32 0, g := Vector.replicate 8 false, v := Vector.replicate 64 0 }

/-- The special registers at their reset values: VL 64, TCB 0x22. -/
def Spec.zero : Spec :=
  { vl := 64, stat := 0, tcb := 0x22, sb := 0, stkb := 0, stkl := 0, seed := 0, gens := Vector.replicate 66 0, chk := 0 }

/-- No bundle is open. -/
def Bundle.zero : Bundle := { v := false, full := false, version := 0, name := 0, manifest := 0, key := 0, members := [], vas := [] }

/-- No view is open. -/
def View.zero : View := { v := false, expired := false, overflow := false, scope := .shift, vers := [], lines := [] }

/-- Nothing is interlocked or pending. -/
def Pend.zero : Pend :=
  { s := 0, v := 0, a := 0, h := 0, delayed := [], posted := none, trap := none, faults := [], preempt := false, fence := 0, routine := false }

/-- The timing state at the start of a shift. -/
def Timing.zero : Timing :=
  { spc := 0, owed := 0, laneBusy := 0, seq := 0, laneSeq := 0, stopped := none, turnUsed := 0, started := false, waitFrom := none,
    timedOut := false, safe := none, yields := false, safeWait := none, halting := none, waitLoad := none, stackAt := none, statSince := 0, statNow := 0, statAt := 0, evlSince := 0, shownS := 0, shownV := 0,
    shownHalt := 0 }

/-- No image. -/
def Image.zero : Image :=
  { ev := 3, start := 0, lim := 0, spbound := 65536, live := [], feet := [], binds := [], base := 0, timg := 0 }

/-- No place. -/
def Place.zero : Place :=
  { core := 0, ctx := 0, table := 0, node := 0, stage := 0, slot := 0, index := 0, banks := 0, mx := false, lkq := 0, serves := none,
    frame := 0, fpbase := 0 }

/-- A shift with every register zero, before R248 sets what it sets. -/
def Shift.zero : Shift :=
  { regs := Regs.zero, sp := Spec.zero, landings := [], rings := Vector.replicate 16 Ring.zero,
    handles := Vector.replicate 8 Handle.zero, pend := Pend.zero, evl := 0, bundle := Bundle.zero, view := View.zero, opt := [],
    conts := [], lane := MicroUnit.zero, tim := Timing.zero, mx := Matrix.zero, img := Image.zero, place := Place.zero }

/-- An EMPTY tenant bank (R324). -/
def Bank.zero : Bank := { state := 0, ctx := 0, tag := 0, words := [], image := 0, used := 0 }

/-- A core with no resident shift. -/
def Core.zero : Core :=
  { issuing := none, order := [], banks := Vector.replicate 2 Bank.zero, ldFails := 0, ldCtx := 0, ldCode := 0, ports := [],
    locks := [], halts := [] }

/-- The registers of a context at reset: CTXOWN.FN is 0x40. -/
def Ctx.zero : Ctx :=
  { rt := 0, s2 := 0, dl := 0, dll := 0, own := 0x40, tvimg := 0, tvfrm := 0, tvctl := 0, traps := 0, lastTrap := 0, adtb := 0,
    adlim := 0, adcb := 0, adrev := 0, pins := [], frzAddr := 0, frzState := 0, frzErr := 0, frzShifts := 0 }

/-- The registers of function f at reset: ATTCTL.VF is f. -/
def Func.zero (f : Nat) : Func :=
  { tlbia := 0, tlbic := 0, tdone := 0, topen := none, attctl := BitVec.ofNat 64 (4 * f), nonce := [0, 0, 0, 0], attReq := none,
    attDone := false, hkey := 0, en := false, vst := 0, kmiss := 0, msix := [] }

/-- A queue at reset: QCFG.FN 0x40, QINT.CNT 1. -/
def HQueue.zero : HQueue :=
  { cfg := 0x0040_0000_0000_0000, base := 0, tail := 0, head := 0, st := 0, errst := 0, cpl := 0, cwrite := 0, chead := 0, int := 1, live := 1,
    pkts := [], cpls := [], counted := 0, oldest := none, sent := none, atFreeze := 0 }

/-- An adit at reset (R294, Tables 14.5, 15.3 to 15.5). -/
def Adit.zero : Adit :=
  { drainlg := 0x18, pers := 0, poisoned := 0, err := 0, st := 0, cur := 0, winEn := false, winBase := 0, winSize := 0,
    closing := false, drainFrom := 0, offFrom := 0, turn := false, good := 0xFF, lcur := 0x0F, dir := 0x0F, peerDir := 0xF0, peerGood := 0xFF, width := 0,
    ports := 0, down := false }

/-- A memory stack at reset (Tables 20.1, 20.2). -/
def Stack.zero : Stack :=
  { ce := 0, ue := 0, ecsok := true, esc := 0, thresh := 0x40, passlg := 0x24, fben := true, quarter := 0, scrubbed := 0, passAt := 0, banks := [] }

/-- The fabric at reset. Every link between dies is up, and so is that of each die to itself, which Table 1.1 does not name (log 74). -/
def Fabric.zero : Fabric :=
  { tmapbase := 0, tbusy := false, terr := false, tgen := 0, snapshot := [], adits := Vector.replicate 36 Adit.zero, links := 0xFFFF,
    ops := [], pkts := [], nextOp := 0, transit := [], uals := [], crossed := [] }

/-- Management state at reset. -/
def Mgmt.zero : Mgmt :=
  { idpkg := 0xFFF, version := 0, build := 0, regerr := 0, drop := 0, retired := [], pgAddr := 0,
    stks := Vector.replicate 16 Stack.zero, coresvc := BitVec.allOnes 256, mismatch := 0, mmTimes := [], hewers := 0xFF, box := [],
    boxHead := 0, bbsel := 0, hot := 0, powered := true, powerStep := 101, off := [], flushed := false, fwAddr := 0, fwErr := false, fwBusy := false, fwState := 0,
    fwImage := 0, fwStored := 0, fwSince := 0, dil := 0, scanThresh := 0x80, scanWaitlg := 0x10, maxout := Vector.replicate 4 0x100,
    ways := Vector.replicate 4 4, dspcfg := 0x0040_0100_7E10_0000, served := [] }

/-- The keys at reset: slot 0 LIVE (R350). -/
def Keys.zero : Keys := { slots := [(0, { st := 1, pair := Config.slot0Pair })], seq := [], id := 0 }

/-- No word is being executed. -/
def Cur.zero : Cur :=
  { sh := none, at_ := 0, npc := 0, stall := 0, word := 0, checked := false, unit := 0, job := none, raw := 0, taken := none,
    old := none, imm := 0, verdict := 0 }

/-- The machine right after cold reset: DCC 0 (R11), every register at its reset value, no shift resident, memory with nothing listed. -/
def State.reset : State :=
  { dcc := 0, agenda := [], turn := 0, cur := Cur.zero, free := 0, glob := [], pad := [], lane := [], crew := [], chip := [], cache := [],
    host := [], lines := [], shifts := [], cores := [], links := [], jobs := [], nextJob := 0, msgs := [], waiters := [], tlb := [], uppers := [],
    collapses := [], ctxs := [], funcs := [], keys := Keys.zero, queues := [], tables := [], rings := [], manifests := [], acks := [], opens := [], fab := Fabric.zero,
    mg := Mgmt.zero, irqs := [], replies := [] }

end Sys2Proof.Machine
end

