-- ==== Sys2Proof/Machine/Store.lean ====
section
/-!
DEFINITION. Maps and memories in their canonical form: rising keys, no entry that equals what an unlisted key reads as. What an unlisted
byte reads as is 0 (log 3).
-/
namespace Sys2Proof.Machine

/-! ## Memories -/

/-- What a byte that nothing has written reads as (log 3). -/
def unlisted : Byte := 0

/-- The byte at an address. -/
def Mem.get : Mem → Nat → Byte
  | [], _ => unlisted
  | (k, b) :: m, a => if a = k then b else if a < k then unlisted else Mem.get m a

/-- The memory with one byte written. -/
def Mem.set : Mem → Nat → Byte → Mem
  | [], a, x => if x = unlisted then [] else [(a, x)]
  | (k, b) :: m, a, x =>
    if a = k then (if x = unlisted then m else (k, x) :: m)
    else if a < k then (if x = unlisted then (k, b) :: m else (a, x) :: (k, b) :: m)
    else (k, b) :: Mem.set m a x

/-- Every listed byte lies above `lo` in rising order and differs from what an unlisted byte reads as. -/
def Mem.above : Option Nat → Mem → Bool
  | _, [] => true
  | lo, (k, b) :: m => (match lo with | none => true | some l => decide (l < k)) && b != unlisted && Mem.above (some k) m

/-- The canonical form of a memory. -/
def Mem.wf (m : Mem) : Bool := Mem.above none m

/-- n bytes from an address on. -/
def Mem.bytes (m : Mem) (a : Nat) : Nat → List Byte
  | 0 => []
  | n + 1 => Mem.get m a :: Mem.bytes m (a + 1) n

/-- The memory with bytes written from an address on. -/
def Mem.put (m : Mem) (a : Nat) : List Byte → Mem
  | [] => m
  | b :: bs => Mem.put (Mem.set m a b) (a + 1) bs

/-- The little-endian number of n bytes at an address. -/
def Mem.num (m : Mem) (a n : Nat) : Nat := ofLE (m.bytes a n)

/-! ## Maps -/

/-- The value at a key. -/
def NMap.get? {α : Type} : NMap α → Nat → Option α
  | [], _ => none
  | (k, v) :: m, a => if a = k then some v else if a < k then none else NMap.get? m a

/-- The map with a value set. -/
def NMap.set {α : Type} : NMap α → Nat → α → NMap α
  | [], a, x => [(a, x)]
  | (k, v) :: m, a, x => if a = k then (k, x) :: m else if a < k then (a, x) :: (k, v) :: m else (k, v) :: NMap.set m a x

/-- The map without a key. -/
def NMap.del {α : Type} : NMap α → Nat → NMap α
  | [], _ => []
  | (k, v) :: m, a => if a = k then m else (k, v) :: NMap.del m a

/-- The value at a key, or a default. -/
def NMap.getD {α : Type} (m : NMap α) (a : Nat) (d : α) : α := (NMap.get? m a).getD d

/-- The map with a value set, or its key left out where the value is the default. -/
def NMap.put {α : Type} [DecidableEq α] (m : NMap α) (a : Nat) (d x : α) : NMap α := if x = d then NMap.del m a else NMap.set m a x

/-- The n-th entry of a list removed. -/
def dropAt {α : Type} (l : List α) (k : Nat) : List α := l.take k ++ l.drop (k + 1)

/-- The n-th entry of a list replaced. -/
def setAt {α : Type} (l : List α) (k : Nat) (x : α) : List α := l.take k ++ (match l.drop k with | [] => [] | _ :: r => x :: r)

/-- Whether a list holds a value that passes. -/
def has {α : Type} (l : List α) (p : α → Bool) : Bool := l.any p

/-! ## Parts of the state by number -/

/-- A shift by its number. -/
def State.sh? (s : State) (i : Nat) : Option Shift := NMap.get? s.shifts i

/-- The state with a shift replaced; nothing where no such shift is resident. -/
def State.modSh (s : State) (i : Nat) (f : Shift → Shift) : State :=
  match NMap.get? s.shifts i with
  | none => s
  | some x => { s with shifts := NMap.set s.shifts i (f x) }

/-- A core by its number. -/
def State.core (s : State) (c : Nat) : Core := NMap.getD s.cores c Core.zero

/-- The state with a core replaced. -/
def State.modCore (s : State) (c : Nat) (f : Core → Core) : State :=
  { s with cores := NMap.put s.cores c Core.zero (f (s.core c)) }

/-- The shift that issues on a core: the handler where one runs in the slot's place (R368). -/
def State.issuer (s : State) (core : Nat) : Option Nat :=
  match (s.core core).issuing with
  | none => none
  | some slot =>
    if (s.sh? (8 * core + slot + 4)).isSome then some (8 * core + slot + 4)
    else if (s.sh? (8 * core + slot)).isSome then some (8 * core + slot) else none

/-- The registers of a context. -/
def State.ctx (s : State) (c : Nat) : Ctx := NMap.getD s.ctxs c Ctx.zero

/-- The state with a context's registers replaced. -/
def State.modCtx (s : State) (c : Nat) (f : Ctx → Ctx) : State := { s with ctxs := NMap.put s.ctxs c Ctx.zero (f (s.ctx c)) }

/-- The registers of a function. -/
def State.func (s : State) (f : Nat) : Func := NMap.getD s.funcs f (Func.zero f)

/-- The state with a function's registers replaced. -/
def State.modFunc (s : State) (f : Nat) (g : Func → Func) : State :=
  { s with funcs := NMap.put s.funcs f (Func.zero f) (g (s.func f)) }

/-- A queue by its number. -/
def State.queue (s : State) (q : Nat) : HQueue := NMap.getD s.queues q HQueue.zero

/-- The state with a queue replaced. -/
def State.modQueue (s : State) (q : Nat) (f : HQueue → HQueue) : State :=
  { s with queues := NMap.put s.queues q HQueue.zero (f (s.queue q)) }

/-! ## Local physical memory -/

/-- The first address above the stacked memory (R401). -/
abbrev stackedEnd : Nat := 0xC000000000

/-- The adit whose open window holds an address (R297). -/
def State.windowOf (s : State) (pa : Nat) : Option Nat :=
  (upto 0 36).find? fun a =>
    match s.fab.adits[a]? with
    | none => false
    | some w => w.winEn && decide (w.winBase * 2 ^ 30 ≤ pa) && decide (pa < (w.winBase + w.winSize) * 2 ^ 30)

/-- Where the device of an adit is held, above every local physical address. -/
def deviceBase (adit : Nat) : Nat := (64 + adit) * 2 ^ 47

/-- Where a byte of local physical memory is held: at its address, or in an open window at the device's own address, counted from 0 at the window's
base (R297). -/
def State.globAt (s : State) (pa : Nat) : Nat :=
  if pa < stackedEnd then pa
  else match s.windowOf pa with
    | none => pa
    | some a => deviceBase a + (pa - ((s.fab.adits[a]?).map (·.winBase)).getD 0 * 2 ^ 30)

/-- Side metadata of a line at reset (log 3): tag 0, no poison, pennant null, no side entry. -/
def Line.zero : Line := { tag := 0, poison := 0, pennant := none, side := none }

/-- The number under which a line of local physical memory is held. -/
def State.lineKey (s : State) (n : Nat) : Nat := s.globAt (n * 128) / 128

/-- The line of local physical memory that is held under a number: where that is a device's own, the line of its adit's window. -/
def State.lineOfKey (s : State) (key : Nat) : Nat :=
  if key * 128 < deviceBase 0 then key
  else
    let a := key * 128 / 2 ^ 47 - 64
    ((s.fab.adits[a]?).map (·.winBase)).getD 0 * 2 ^ 23 + (key * 128 - deviceBase a) / 128

/-- Side metadata of a line. -/
def State.line (s : State) (n : Nat) : Line := NMap.getD s.lines (s.lineKey n) Line.zero

/-- The state with a line's metadata replaced. -/
def State.modLine (s : State) (n : Nat) (f : Line → Line) : State := { s with lines := NMap.put s.lines (s.lineKey n) Line.zero (f (s.line n)) }

/-- The state with management fields replaced. -/
def State.modMg (s : State) (f : Mgmt → Mgmt) : State := { s with mg := f s.mg }

/-- The state with fabric fields replaced. -/
def State.modFab (s : State) (f : Fabric → Fabric) : State := { s with fab := f s.fab }

/-- The adit of a number. -/
def State.adit (s : State) (a : Nat) : Adit := (s.fab.adits[a]?).getD Adit.zero

/-- The state with an adit changed. -/
def State.modAdit (s : State) (a : Nat) (f : Adit → Adit) : State :=
  s.modFab fun b => match b.adits[a]? with
    | none => b
    | some x => { b with adits := b.adits.setIfInBounds a (f x) }

/-- A message about a bundle on its way to a home or anchor of another package, on whose behalf a shift may wait. The manual gives it no route; it stays
among the operations until its answer comes (log 71). -/
def State.sendBun (s : State) (sh : Option Nat) (pkg : Nat) (b : BunAct) : State :=
  s.modFab fun f =>
    { f with
      ops := f.ops ++ [{ id := f.nextOp, sh := sh, kind := 6, dst := none, job := none, since := s.dcc, die := 0, pkg := pkg, act := .bun b,
                         info := { code := 0x0E }, sx := false, seq := 0, rel := false, hops := [], key := 0, adit := none, path := [], late := none }],
      nextOp := f.nextOp + 1 }

/-- The line number in its package of a fabric line number (R223). -/
def localLine (line : Nat) : Nat := line % 2 ^ 45

/-- The package of a fabric line number. -/
def linePkg (line : Nat) : Nat := line / 2 ^ 45

/-- A message to the line or anchor of a fabric line number. -/
def bunTo (kind line name version : Nat) : BunAct :=
  { kind := kind, pa := localLine line * 128, name := name, version := version, index := 0, count := 0, anchor := line, off := 0, data := [] }

/-- A message added to those on their way. -/
def State.post (s : State) (m : Msg) : State := { s with msgs := s.msgs ++ [m] }

/-- The state with a job replaced. -/
def State.modJob (s : State) (j : Nat) (f : Job → Job) : State :=
  { s with jobs := s.jobs.map fun x => if x.id = j then f x else x }

/-- A job by its number. -/
def State.job? (s : State) (j : Nat) : Option Job := s.jobs.find? fun x => x.id == j

/-- A resident graph table by its number. -/
def State.table? (s : State) (t : Nat) : Option GTable := NMap.get? s.tables t

/-- The state with a resident table replaced. -/
def State.modTable (s : State) (t : Nat) (f : GTable → GTable) : State :=
  match NMap.get? s.tables t with
  | none => s
  | some x => { s with tables := NMap.set s.tables t (f x) }

/-- The place of a node among those of this package, by which another package's anchor knows the node that opened its manifest. -/
def nodePlace (t n : Nat) : Nat := t * 65536 + n

/-- The number under which the accesses of an ended shift go on: shift i of the node at a place of this package (R253, R254). -/
def strayOf (place i : Nat) : Nat := (place + 1) * 2048 + i

/-- The core of a shift, ended or not. -/
def coreOf (i : Nat) : Nat := i % 2048 / 8

/-- Whether an access of an ended shift of a node that `p` names is still on its way: a request, or a fabric operation. -/
def State.straying (s : State) (p : Nat → Bool) : Bool :=
  let has (o : Option Nat) : Bool := match o with | some i => decide (2048 ≤ i) && p (i / 2048 - 1) | none => false
  (s.msgs.any fun m => match m with | .req r => has r.sh | _ => false) || s.fab.ops.any fun o => o.kind != 6 && has o.sh

/-- The context of a shift; of one that has ended, that of its node's table. -/
def State.ctxOf (s : State) (i : Nat) : Option Nat :=
  match s.sh? i with
  | some x => some x.place.ctx
  | none => if i < 2048 then none else (s.table? ((i / 2048 - 1) / 65536)).map (·.ctx)

/-- The cycle with which a core sees a flag that reaches STAT now: the next, where its results of this cycle have landed (R96). -/
def State.flagCycle (s : State) (core : Nat) : Nat := if core < s.turn then s.dcc + 1 else s.dcc

/-- An operation of this package injected into the fabric (R278, R280): its packet at the router of its die. -/
def State.inject (s : State) (op : FabOp) : State :=
  let id := s.fab.nextOp
  s.modFab fun f =>
    { f with
      ops := f.ops ++ [{ op with id := id, since := s.dcc }],
      pkts := f.pkts ++ [{ id := id, op := some id, src := none, resp := false, die := op.die, hops := op.hops, key := op.key, act := op.act, path := [],
                           data := [], flags := 0, pen := none, refused := none, note := none, waits := false, fresh := true }],
      nextOp := id + 1 }

/-- An operation as it is injected from a core: who waits for it and how, what it asks of its home, its route and its key. -/
def newOp (sh : Option Nat) (kind core : Nat) (job : Option Nat) (pkg : Nat) (act : FabAct) (va : Addr) (hops : List Byte) (key : Nat) : FabOp :=
  { id := 0, sh := sh, kind := kind, dst := none, job := job, since := 0, die := core / 64, pkg := pkg, act := act, info := { code := 0x0E, faddr := va },
    sx := false, seq := 0, rel := false, hops := hops, key := key, adit := none, path := [], late := none }

/-- The events that the black box keeps: the last 4096 (R381). -/
def keptEvents (l : List Event) : List Event := if l.length ≤ 4096 then l else l.drop (l.length - 4096)

/-- The management fields with an event logged. -/
def Mgmt.logged (g : Mgmt) (e : Event) : Mgmt := { g with box := keptEvents (g.box ++ [e]), boxHead := (g.boxHead + 1) % 8192 }

/-- A black-box event logged (R381). -/
def State.log (s : State) (kind unit code : Nat) (data : BitVec 128) : State := s.modMg fun g => g.logged (Event.mk s.dcc kind unit code data)

/-- n + k, at most the largest value of a saturating counter of w bits. -/
def satAdd (w n k : Nat) : Nat := if n + k < 2 ^ w then n + k else 2 ^ w - 1

/-- A register-access error counted (R4, R17, R381). Its entry of the black box bears 0 in UNIT and CODE, and the count that REGERR has come to (log 6). -/
def State.regErr (s : State) : State :=
  (s.modMg fun g => { g with regerr := satAdd 32 g.regerr 1 }).log 7 0 0 (BitVec.ofNat 128 (satAdd 32 s.mg.regerr 1))

end Sys2Proof.Machine
end

