-- ==== Sys2Proof/Machine/Flags.lean ====
section
/-!
DEFINITION. STAT and its flags, the stochastic generators of a shift, and the conditions of compares (R87, R93 to R96, R109, R114).
-/
namespace Sys2Proof.Machine

/-- The rounding mode of STAT.RM (Table 5.5). -/
def rmOf (stat : Word) : RMode :=
  match wbits stat 13 3 with
  | 1 => .rz | 2 => .ru | 3 => .rd | 4 => .sr | _ => .rne

/-- STAT.FTZ. -/
def ftzOf (stat : Word) : Bool := stat.getLsbD 12

/-- Whether WRSR accepts a value of STAT (R95). -/
def statLegal (v : Word) : Bool := wbits v 16 48 == 0 && wbits v 6 6 == 0 && decide (wbits v 13 3 ≤ 4)

/-- Whether WRSR accepts a value of CHK (R55). -/
def chkLegal (v : Word) : Bool := wbits v 2 30 == 0

/-- STAT with flags ORed in (R96). -/
def orFlags (stat : Word) (f : Flags) : Word := stat ||| f.setWidth 64

/-- The flags that have reached STAT since the core's results of the cycle before `now` landed, so that it first sees them in cycle `now` (R96). -/
def Shift.flagsNow (x : Shift) (now : Nat) : Flags := if x.tim.statAt = now then x.tim.statNow else 0

/-- The shift with flags ORed into STAT, first seen in cycle `now`, and kept for a WRSR of that cycle and for a TRET (R96, R375). -/
def Shift.orStat (x : Shift) (now : Nat) (f : Flags) : Shift :=
  { x with
    sp := { x.sp with stat := orFlags x.sp.stat f },
    tim := { x.tim with statSince := x.tim.statSince ||| f, statNow := x.flagsNow now ||| f, statAt := now } }

/-- One draw of generator g (R93). -/
def Shift.draw (x : Shift) (g : Nat) : Nat × Shift :=
  let y := genStep ((x.sp.gens[g]?).getD 0)
  (y.toNat, { x with sp := { x.sp with gens := x.sp.gens.setIfInBounds g y } })

/-- One draw of generator g where the mode is SR, else none (R94). -/
def Shift.drawIf (x : Shift) (rm : RMode) (g : Nat) : Nat × Shift := if rm = .sr then x.draw g else (0, x)

/-- The generators seeded by a write of RND (R93). -/
def Shift.reseed (x : Shift) (seed : Word) : Shift := { x with sp := { x.sp with seed := seed, gens := seedAll seed } }

/-- The integer conditions (Table 6.4). -/
def condHolds (c : Cond) (a b : Word) : Bool :=
  match c with
  | .eq => a == b
  | .ne => a != b
  | .lt => decide (a.toInt < b.toInt)
  | .ge => decide (b.toInt ≤ a.toInt)
  | .ltu => decide (a.toNat < b.toNat)
  | .geu => decide (b.toNat ≤ a.toNat)
  | .any => a &&& b != 0
  | .nany => a &&& b == 0

/-- The floating-point conditions and the NV they raise (Table 6.7). -/
def fcondHolds (c : FCond) (a b : FV) : Bool × Flags :=
  let un := a.isNan || b.isNan
  let q := snan [a, b]
  match c with
  | .eq => (fvEq a b, q)
  | .ne => (!fvEq a b, q)
  | .lt => (fvLt a b, if un then fNV else 0)
  | .le => (fvLt a b || fvEq a b, if un then fNV else 0)
  | .un => (un, q)
  | .ord => (!un, q)

/-- An F32 operand of a scalar register under STAT.FTZ (R87, R112). -/
def f32Of (stat : Word) (v : Word) : FV := decodeFtz (ftzOf stat) .f32 (wbits v 0 32)

/-- The mask of FCLASS (Table 6.8). -/
def fclassMask (code : Nat) : Nat :=
  let neg := nbit code 31
  match decodeFV .f32 code with
  | .nan s => if s then 2 ^ 8 else 2 ^ 9
  | .inf _ => if neg then 1 else 2 ^ 7
  | .zero _ => if neg then 2 ^ 3 else 2 ^ 4
  | .fin _ => if isSubnormal .f32 code then (if neg then 2 ^ 2 else 2 ^ 5) else (if neg then 2 else 2 ^ 6)

end Sys2Proof.Machine
end

