-- ==== Sys2Proof/Machine/Operands.lean ====
section
/-!
DEFINITION. Register operands: s0 and g0 (R51), reads in the issue cycle (R46), the effective address (R53), and the posting and landing of
fixed-latency results (R30, R31, R96).
-/
namespace Sys2Proof.Machine

/-- s[n]; s0 reads zero (R51). -/
def Shift.rs (x : Shift) (n : SNum) : Word := if n = 0 then 0 else x.regs.s[n]

/-- a[n]. -/
def Shift.ra (x : Shift) (n : ANum) : Addr := x.regs.a[n]

/-- g[n]; g0 reads true (R48, R51). -/
def Shift.rg (x : Shift) (n : GNum) : Bool := if n = 0 then true else x.regs.g[n]

/-- v[n]. -/
def Shift.rv (x : Shift) (n : VNum) : VReg := x.regs.v[n]

/-- The shift with s[n] written; a write of s0 is discarded (R51). -/
def Shift.setS (x : Shift) (n : SNum) (w : Word) : Shift :=
  if n = 0 then x else { x with regs := { x.regs with s := x.regs.s.set n w } }

/-- The shift with a[n] written. -/
def Shift.setA (x : Shift) (n : ANum) (w : Addr) : Shift := { x with regs := { x.regs with a := x.regs.a.set n w } }

/-- The shift with g[n] written; g0 keeps reading true (R51). -/
def Shift.setG (x : Shift) (n : GNum) (b : Bool) : Shift :=
  if n = 0 then x else { x with regs := { x.regs with g := x.regs.g.set n b } }

/-- The shift with v[n] written. -/
def Shift.setV (x : Shift) (n : VNum) (w : VReg) : Shift := { x with regs := { x.regs with v := x.regs.v.set n w } }

/-- The shift with VL set. -/
def Shift.setVL (x : Shift) (n : Nat) : Shift := { x with sp := { x.sp with vl := n } }

/-- The register after n, modulo 64 (the second of a pair). -/
def nextNum (n : Fin 64) : Fin 64 := n + 1

/-! ## The shift whose word is being executed -/

/-- The shift of the word being executed. -/
def State.x (s : State) : Shift := (s.cur.sh.bind s.sh?).getD Shift.zero

/-- The number of that shift. -/
def State.me (s : State) : Nat := s.cur.sh.getD 0

/-- The state with that shift replaced. -/
def State.modX (s : State) (f : Shift → Shift) : State :=
  match s.cur.sh with
  | none => s
  | some i => s.modSh i f

/-- The core of that shift. -/
def State.myCore (s : State) : Nat := s.x.place.core

/-- The outcome of an instruction. -/
abbrev Out := Host.Outcome State Fault Refusal

/-- s[n] of the executing shift. -/
abbrev State.rs (s : State) (n : SNum) : Word := s.x.rs n
/-- a[n] of the executing shift. -/
abbrev State.ra (s : State) (n : ANum) : Addr := s.x.ra n
/-- v[n] of the executing shift. -/
abbrev State.rv (s : State) (n : VNum) : VReg := s.x.rv n

/-! ## Results of fixed latency -/

/-- The shift with a result of latency k posted (R30); its issue rank is that of its bundle (Table 19.6, SEQ). -/
def Shift.post (x : Shift) (k : Nat) (fl : Flags) (d : LandTo) : Shift :=
  { x with landings := x.landings ++ [{ left := k, seq := x.tim.seq, flags := fl, dst := d }] }

/-- The next issue rank: an instruction that issues from the matrix queue has one of its own (Table 19.6, SEQ). -/
def Shift.nextRank (x : Shift) : Shift := { x with tim := { x.tim with seq := x.tim.seq + 1 } }

/-- Land(d, x, k) of the executing shift (R30), with the flags that are ORed in when it lands (R96). -/
def State.land (s : State) (k : Nat) (fl : Flags) (d : LandTo) : State := s.modX fun x => x.post k fl d

/-- Whether WRSR accepts a value (Table 6.9). -/
def specLegal (r : SpecReg) (v : Word) : Bool :=
  match r with
  | .vl => decide (v.toNat ≤ 64)
  | .stat => statLegal v
  | .stkb | .stkl => wbits v 0 4 == 0
  | .chk => chkLegal v
  | .rnd => true
  | .tcb | .sb => true

/-- A special register written. -/
def Shift.setSpec (x : Shift) (r : SpecReg) (v : Word) : Shift :=
  match r with
  | .vl => { x with sp := { x.sp with vl := v.toNat } }
  | .stat => { x with sp := { x.sp with stat := v } }
  | .tcb => { x with sp := { x.sp with tcb := v } }
  | .sb => { x with sp := { x.sp with sb := v } }
  | .stkb => { x with sp := { x.sp with stkb := v } }
  | .stkl => { x with sp := { x.sp with stkl := v } }
  | .rnd => x.reseed v
  | .chk => { x with sp := { x.sp with chk := v } }

/-- A special register read (R118). -/
def Shift.getSpec (x : Shift) (r : SpecReg) : Word :=
  match r with
  | .vl => w64 x.sp.vl
  | .stat => x.sp.stat
  | .tcb => x.sp.tcb
  | .sb => x.sp.sb
  | .stkb => x.sp.stkb
  | .stkl => x.sp.stkl
  | .rnd => x.sp.seed
  | .chk => x.sp.chk

/-- The words that PARTN writes (R144): eight counts at B, then the indices of arm j at B + 32 + 256 j. -/
def partnWrites (base : Nat) (counts : List Nat) (idx : List (List Nat)) : List (Nat × List Byte) :=
  (upto 0 8).map (fun j => (base + 4 * j, leBytes 4 (counts.getD j 0))) ++
  (upto 0 idx.length).map fun j => (base + 32 + 256 * j, (idx.getD j []).flatMap fun i => leBytes 4 i)

/-- Key of a PAD byte of a core. -/
def padKey (core off : Nat) : Nat := core * 2 ^ 20 + off

/-- Key of a LANE byte of a core. -/
def laneKey (core lane off : Nat) : Nat := (core * 64 + lane) * 4096 + off

/-- The state with bytes of a core's PAD written. -/
def State.putPad (s : State) (core off : Nat) (bs : List Byte) : State := { s with pad := s.pad.put (padKey core off) bs }

/-- The state with bytes of a LANE slice written. -/
def State.putLane (s : State) (core lane off : Nat) (bs : List Byte) : State :=
  { s with lane := s.lane.put (laneKey core lane off) bs }

/-- The interlock of the registers of a CRD issued when ready released as it lands (R169). -/
def Shift.crdLanded (x : Shift) (r : VNum) : Shift :=
  if x.mx.ready.contains r then
    { x with
      pend := { x.pend with v := x.pend.v &&& ~~~((1 : BitVec 64) <<< r.val) &&& ~~~((1 : BitVec 64) <<< (nextNum r).val) },
      mx := { x.mx with ready := x.mx.ready.filter (· != r) } }
  else x

/-- What a landing writes of the registers of its shift. -/
def LandTo.toShift (d : LandTo) (x : Shift) : Shift :=
  match d with
  | .s r w => x.setS r w
  | .a r w => x.setA r w
  | .g r b => x.setG r b
  | .v r first n w => x.setV r (laneMerge (x.rv r) w first n)
  | .special r w => x.setSpec r w
  | .crd r lo hi held => let y := (x.setV r lo).setV (nextNum r) hi; if held then y.crdLanded r else y
  | .part r t f sd nt => ((x.setV r t).setV (nextNum r) f).setS sd nt
  | .vsetvl sd n => (x.setS sd n).setVL n.toNat
  | .nothing | .pad _ _ | .padElems _ _ | .lane _ _ | .partn _ _ _ _ => x

/-- What a landing writes of PAD and LANE (R149). -/
def LandTo.toMem (d : LandTo) (core : Nat) (s : State) : State :=
  match d with
  | .pad b data => s.putPad core b data
  | .padElems _ els => els.foldl (fun s e => s.putPad core e.1 e.2) s
  | .lane _ els => els.foldl (fun s e => s.putLane core e.1 e.2.1 e.2.2) s
  | .partn b _ counts idx => (partnWrites b counts idx).foldl (fun s e => s.putPad core e.1 e.2) s
  | _ => s

/-- One landing of shift i: a written STAT first, then the flags (R96). -/
def State.landOne (s : State) (i : Nat) (l : Landing) : State :=
  l.dst.toMem (i / 8) (s.modSh i fun x => (l.dst.toShift x).orStat s.dcc l.flags)

/-- Whether a landing is one of a WRSR to STAT. -/
def Landing.isStat (l : Landing) : Bool := match l.dst with | .special .stat _ => true | _ => false

/-- The landings of one cycle: a WRSR to STAT before every flag of the cycle, those that arrived earlier in it among them (R96), then the others in
issue order (R31). -/
def State.landAll (s : State) (i : Nat) (ls : List Landing) : State :=
  let t := (ls.filter (·.isStat)).foldl (fun s l => s.landOne i l) s
  let t := if ls.any (·.isStat) then t.modSh i fun x => x.orStat t.dcc (x.flagsNow t.dcc) else t
  (ls.filter fun l => !l.isStat).foldl (fun s l => s.landOne i l) t

/-- The shift with the counted cycle ended: every distance one less (R30). -/
def Shift.tickLandings (x : Shift) : Shift := { x with landings := x.landings.map fun l => { l with left := l.left - 1 } }

/-! ## Memory operands -/

/-- The effective address a[XA] + s[XI] × 2^SC + SignExtend(DISP, 16), exact (R53); s0 means no index. DESIGN CHOICE (log 84): the index is
read as a signed number. -/
def Shift.eaX (x : Shift) (m : MemX) : Int :=
  ((x.ra m.xa).toNat : Int) + (x.rs m.xi).toInt * 2 ^ m.sc.toNat + m.disp.toInt

/-- The effective address of an operand without an index. -/
def Shift.eaB (x : Shift) (m : MemB) : Int := ((x.ra m.xa).toNat : Int) + m.disp.toInt

end Sys2Proof.Machine
end

