-- ==== Sys2Proof/Machine/Footprints.lean ====
section
/-!
DEFINITION. Footprints and the bytes that they cover (R177 to R179), spaces and the cores, crews and dies that share them, and the fields of a node
entry, from which follow the shifts that it may have (R240, R248).
-/
namespace Sys2Proof.Machine

/-! ## Footprints -/

/-- The kinds of Table 9.2, and those of a barrier object, whose bytes must lie in a SYNC footprint (Table 9.6): a BARWAIT, and a read-modify-write. -/
inductive Acc where
  | read | write | acq | rel | rmw | barAcq | barRmw
  deriving DecidableEq, Repr

/-- Whether a kind writes. -/
def Acc.writes : Acc → Bool
  | .read | .acq | .barAcq => false
  | .write | .rel | .rmw | .barRmw => true

/-- Whether a kind is a synchronising access. -/
def Acc.sync : Acc → Bool
  | .read | .write => false
  | .acq | .rel | .rmw | .barAcq | .barRmw => true

/-- Whether a mode (0 RD, 1 WR, 2 SYNC) permits a kind (Table 9.4). -/
def Acc.permitted (k : Acc) (mode : Nat) : Bool :=
  match k with
  | .read => mode != 2
  | .write => mode == 1
  | .acq => true
  | .rel | .rmw => mode != 0
  | .barAcq | .barRmw => mode == 2

/-- Whether some run of a footprint shares a byte with [lo, lo + n) (R178). -/
def Foot.meets (f : Foot) (lo : Int) (n : Nat) : Bool :=
  let hi := lo + n - 1
  let last : Int := (f.rows : Int) - 1
  let run (j : Int) : Bool := decide (f.base + j * f.rstride ≤ hi) && decide (lo < f.base + j * f.rstride + f.len)
  if n = 0 ∨ f.rows = 0 then false
  else if f.rows = 1 ∨ f.rstride = 0 then run 0
  else if 0 < f.rstride then (if hi < f.base then false else run (min last ((hi - f.base) / f.rstride)))
  else
    let j := (f.base - hi + (-f.rstride) - 1) / (-f.rstride)
    let j := if j < 0 then 0 else j
    if last < j then false else run j

/-- The end of a run of a footprint that covers byte b: the byte after it. -/
def Foot.runEnd (f : Foot) (b : Int) : Option Int :=
  let last : Int := (f.rows : Int) - 1
  let try_ (j : Int) : Option Int :=
    let lo := f.base + j * f.rstride
    if lo ≤ b ∧ b < lo + f.len then some (lo + f.len) else none
  if f.rows = 0 then none
  else if f.rows = 1 ∨ f.rstride = 0 then try_ 0
  else if 0 < f.rstride then (if b < f.base then none else try_ (min last ((b - f.base) / f.rstride)))
  else
    let j := (f.base - b + (-f.rstride) - 1) / (-f.rstride)
    let j := if j < 0 then 0 else j
    if last < j then none else try_ j

/-- Whether a list of footprints covers every byte of [p, p + n), by steps of at least one byte. -/
def coversFrom (fs : List Foot) : Nat → Int → Int → Bool
  | 0, p, hi => decide (hi ≤ p)
  | k + 1, p, hi =>
    if hi ≤ p then true
    else match fs.filterMap (fun f => f.runEnd p) with
      | [] => false
      | e :: es => coversFrom fs k (es.foldl max e) hi

/-- Whether two footprints share a byte (R181, R202): exact, run by run of the first. -/
def Foot.overlaps (f g : Foot) : Bool :=
  f.space == g.space && (upto 0 f.rows).any fun j => g.meets (f.base + (j : Int) * f.rstride) f.len

/-- Every byte of every run of f is covered by the list. -/
def Foot.coveredBy (f : Foot) (fs : List Foot) : Bool :=
  let same := fs.filter fun g => g.space == f.space
  (upto 0 f.rows).all fun j => let lo := f.base + (j : Int) * f.rstride; coversFrom same f.len lo (lo + f.len)

/-- The ranges of Table 9.1. -/
def spLimit : Space → Nat
  | .lane => 0x1000 | .pad => 0x100000 | .crew => 0x200000 | .chip => 0x4000000 | .glob => 2 ^ 72

/-- The core, crew or die that shares a space with a core (Table 9.1). -/
def spDom (sp : Space) (core : Nat) : Nat :=
  match sp with
  | .lane | .pad => core
  | .crew => core / 8
  | .chip => core / 64
  | .glob => 0

/-- The code of a space, by which rings name theirs. -/
def spNum : Space → Nat
  | .lane => 0 | .pad => 1 | .crew => 2 | .chip => 3 | .glob => 4

/-- The space of a code. -/
def spaceOfNum : Nat → Space
  | 0 => .lane | 1 => .pad | 2 => .crew | 3 => .chip | _ => .glob

/-- The highest bank of a mask. -/
def topBank (banks : BitVec 32) : Nat := banks.toNat.log2

/-- The lowest bank of a mask. -/
def lowBank (banks : BitVec 32) : Nat := ((upto 0 32).find? fun i => banks.getLsbD i).getD 0

/-- Whether a PAD offset lies in a bank of the mask (R22). -/
def ownsBank (banks : BitVec 32) (off : Nat) : Bool := banks.getLsbD (off / 0x8000)

/-- Whether a PAD offset lies in the save area (Table 9.6). -/
def inSaveArea (banks : BitVec 32) (off : Nat) : Bool :=
  let b := topBank banks * 0x8000
  decide (b + 0x3000 ≤ off) && decide (off < b + 0x8000)

/-- The number of slots of a ring object, from its header. -/
def Mem.ringSlots (m : Mem) (base : Nat) : Nat := (Mem.get m base).toNat % 64 + 1

/-- log2 of the slot size in a ring header. -/
def Mem.ringLog2 (m : Mem) (base : Nat) : Nat := (Mem.get m (base + 1)).toNat

/-- Where the bytes of PAD, CREW or CHIP stand: the memory and the key of offset 0. -/
def State.spaceMem (s : State) (sp : Space) (dom : Nat) : Mem × Nat :=
  match sp with
  | .lane => (s.lane, dom * 64 * 4096)
  | .pad => (s.pad, dom * 2 ^ 20)
  | .crew => (s.crew, dom * 2 ^ 21)
  | .chip => (s.chip, dom * 2 ^ 26)
  | .glob => (s.glob, 0)

/-- The ring objects of the space a core shares. -/
def State.ringsAt (s : State) (sp : Space) (core : Nat) : List RingObj :=
  s.rings.filter fun r => r.space == spNum sp && r.dom == spDom sp core

/-- Whether an offset lies in a ring header (Table 9.6). -/
def State.inRingHeader (s : State) (sp : Space) (core off : Nat) : Bool :=
  (s.ringsAt sp core).any fun r => decide (r.base ≤ off) && decide (off < r.base + 0x80)

/-- Whether an offset lies in the slot array of a ring (Table 9.6). -/
def State.inRingSlots (s : State) (sp : Space) (core off : Nat) : Bool :=
  (s.ringsAt sp core).any fun r =>
    let m := s.spaceMem sp (spDom sp core)
    let lo := r.base + 0x80
    decide (lo ≤ off) && decide (off < lo + m.1.ringSlots (m.2 + r.base) * 2 ^ m.1.ringLog2 (m.2 + r.base))

/-- Whether a shift holds the ring slot that an offset lies in (Table 9.6). -/
def Shift.holdsSlotAt (x : Shift) (sp : Space) (off : Nat) : Bool :=
  x.rings.toList.any fun q =>
    let lo := q.base + 0x80 + q.hk * 2 ^ q.log2sz
    q.v && (q.hc || q.hw) && q.space == spNum sp && decide (lo ≤ off) && decide (off < lo + 2 ^ q.log2sz)

/-- The modes of the footprints, declared and implicit, of a shift that cover a byte (R178, R180). -/
def Shift.modesAt (x : Shift) (sp : Space) (b : Int) : List Nat :=
  let decl := (x.img.feet.filter fun f => f.space == sp && f.meets b 1).map (·.mode)
  let stack := sp == .pad && decide ((x.sp.stkb.toNat : Int) ≤ b) && decide (b < (x.sp.stkl.toNat : Int))
  if stack then 1 :: decl else decl

/-- Order of the scopes (Table 9.5). -/
def scRank : Scope → Nat
  | .shift => 0 | .crew => 1 | .die => 2 | .pkg => 3 | .sys => 4

/-- The footprint of the shift with stage index i (R178): `pad` is the offset of the lowest owned bank, `fpb` the footprint base. -/
def Desc.at (d : Desc) (i : Nat) (pad : Nat) (fpb : Nat) : Foot :=
  let rel : Int := match d.space with | .glob => fpb | .pad => pad | _ => 0
  { space := d.space, mode := d.mode, host := d.host, base := (d.base : Int) + rel + (i : Int) * d.sstride, len := d.len, rows := d.rows,
    rstride := d.rstride }

/-! ## Node entries (Table 12.2) -/

/-- Dword k of a node entry as copied (Table 12.2). -/
def Node.d (n : Node) (k : Nat) : Nat := ((n.dw[k]?).getD 0).toNat

/-- KIND: 0 KERNEL, 1 COND, 2 JOIN. -/
def Node.kind (n : Node) : Nat := nbits (n.d 0) 62 2
/-- PRIO. -/
def Node.prio (n : Node) : Nat := nbits (n.d 0) 55 7
/-- The number of stages. -/
def Node.stages (n : Node) : Nat := nbits (n.d 0) 53 2 + 1
/-- The number of ring declarations. -/
def Node.nring (n : Node) : Nat := nbits (n.d 0) 49 4
/-- RBLOG2. -/
def Node.rblog2 (n : Node) : Nat := nbits (n.d 0) 44 5
/-- CREWMASK. -/
def Node.crewMask (n : Node) : Nat := nbits (n.d 2) 32 32
/-- SUCCCNT. -/
def Node.succCnt (n : Node) : Nat := nbits (n.d 2) 16 16
/-- EXITCNT. -/
def Node.exitCnt (n : Node) : Nat := nbits (n.d 2) 0 16
/-- MIN of a stage. -/
def Node.minOf (n : Node) (st : Nat) : Nat := nbits (n.d 8) (16 * st) 4
/-- MAX of a stage. -/
def Node.maxOf (n : Node) (st : Nat) : Nat := nbits (n.d 8) (16 * st + 8) 4
/-- BANKS of a stage. -/
def Node.banksOf (n : Node) (st : Nat) : Nat := nbits (n.d (11 + st)) 0 6
/-- Whether a stage needs the matrix unit. -/
def Node.mxOf (n : Node) (st : Nat) : Bool := nbit (n.d (11 + st)) 8
/-- LKQ of a stage. -/
def Node.lkqOf (n : Node) (st : Nat) : Nat := nbits (n.d (11 + st)) 16 11
/-- The image address of a stage. -/
def Node.imageOf (n : Node) (st : Nat) : Addr := BitVec.ofNat 72 (n.d (15 + 2 * st) + nbits (n.d (16 + 2 * st)) 0 8 * 2 ^ 64)
/-- FPBASE. -/
def Node.fpbase (n : Node) : Nat := n.d 7 + nbits (n.d 5) 8 8 * 2 ^ 64
/-- SIGADDR. -/
def Node.sigaddr (n : Node) : Nat := n.d 4 + nbits (n.d 5) 0 8 * 2 ^ 64
/-- CONDADDR. -/
def Node.condaddr (n : Node) : Nat := n.d 8 + nbits (n.d 5) 16 8 * 2 ^ 64

/-- The crews of a mask, in increasing order. -/
def crewsOf (mask : Nat) : List Nat := (upto 0 32).filter fun c => nbit mask c

/-- The shifts that a node may have: stage, stage index, crew (R248). -/
def Node.slots (n : Node) : List (Nat × Nat × Nat) :=
  let cs := crewsOf n.crewMask
  (upto 0 n.stages).flatMap fun st => (cs.zip (upto 0 cs.length)).flatMap fun c =>
    (upto 0 (n.maxOf st)).map fun u => (st, c.2 * n.maxOf st + u, c.1)

/-- The footprints of a stage's shift, its PAD ones against bank 0. -/
def Node.feetOf (n : Node) (st i pad : Nat) : List Foot :=
  match n.images[st]? with
  | none => []
  | some g => g.descs.map fun d => d.at i pad n.fpbase

end Sys2Proof.Machine
end

