-- ==== Sys2Proof/Machine/Memory.lean ====
section
/-!
DEFINITION. Addresses and the checks of accesses: required scopes (R182), the run-time checks of Table 9.7 (R183), translation (R334 to
R349), routes (R277), and the bytes of every home under keys, poison and retirement (R173, R350, R351, R376, R378).
-/
namespace Sys2Proof.Machine

/-! ## Required scopes -/

/-- A party of R182: which shift it is (its table, node, stage and index; a handler counts as a stage of its own), a core from which its crew and die
follow, and its footprints. -/
structure Party where
  name : Nat × Nat × Nat × Nat
  core : Nat
  feet : List Foot

/-- The parties of a context (R182): its resident shifts, and every shift that its nodes with checked headers have or may be given, by a placement still to
come or by rebalancing. PAD is a core's own, so that only the shift on it covers its bytes. -/
def State.parties (s : State) (ctx : Nat) : List Party :=
  (s.shifts.filter fun e => e.2.place.ctx == ctx).map (fun e =>
    let p := e.2.place
    { name := (p.table, p.node, p.stage + (if p.serves.isSome then 4 else 0), p.index), core := e.1 / 8, feet := e.2.img.feet }) ++
  (s.tables.filter fun t => t.2.ctx == ctx).flatMap fun t =>
    ((t.2.nodes.zip (upto 0 t.2.nodes.length)).filter fun n => n.1.kind == 0 && decide (1 ≤ n.1.state ∧ n.1.state ≤ 3) && n.1.images != []).flatMap fun n =>
      n.1.slots.map fun q =>
        { name := (t.1, n.2, q.1, q.2.1), core := 8 * q.2.2, feet := (n.1.feetOf q.1 q.2.1 0).filter fun f => f.space != .pad }

/-- The required scope of a SYNC byte (R182). -/
def State.requiredScope (s : State) (ctx : Nat) (sp : Space) (core : Nat) (b : Int) (fab : Bool) : Nat :=
  let ps := (s.parties ctx).filter fun p => spDom sp p.core == spDom sp core
  let host := ps.any fun p => p.feet.any fun f => f.host && f.space == sp && f.meets b 1
  if fab || host then 4
  else
    let cover := ps.filter fun p => p.feet.any fun f => f.mode == 2 && f.space == sp && f.meets b 1
    match cover with
    | [] => 0
    | p :: rest =>
      if rest.all fun q => q.name == p.name then 0
      else if rest.all fun q => q.core / 8 == p.core / 8 then 1
      else if rest.all fun q => q.core / 64 == p.core / 64 then 2
      else 3

/-- Whether a job belongs to a shift, or to the shift that this handler serves (R185, R369). -/
def Job.ownedBy (j : Job) (i : Nat) (x : Shift) : Bool := j.sh == i || x.place.serves == some j.sh

/-- Whether an access overlaps an outstanding job of the shift (R185). -/
def State.jobClash (s : State) (i : Nat) (x : Shift) (k : Acc) (sp : Space) (b : Int) (n : Nat) : Bool :=
  s.jobs.any fun j =>
    j.ownedBy i x && (j.writes.any (fun f => f.space == sp && f.meets b n) ||
      (k.writes && j.reads.any fun f => f.space == sp && f.meets b n))

/-! ## Local physical memory -/

/-- The adit that counts a write to no open window (R298): the first whose closed window lies there. -/
def State.closedAt (s : State) (pa : Nat) : Option Nat :=
  (upto 0 36).find? fun a =>
    match s.fab.adits[a]? with
    | none => false
    | some w => !w.winEn && decide (w.winBase * 2 ^ 30 ≤ pa) && decide (pa < (w.winBase + w.winSize) * 2 ^ 30)

/-- Whether an address is stacked memory or lies in an open window (NOMEM of Table 17.5). -/
def State.memThere (s : State) (pa : Nat) : Bool := decide (pa < stackedEnd) || (s.windowOf pa).isSome

/-- The die that holds a stacked-memory address (Table 22.1). -/
def State.dieAt (s : State) (pa : Nat) : Nat := if s.mg.dil.getLsbD (nbits pa 36 4) then nbits pa 34 2 else nbits pa 14 2

/-- The package-wide stack of a stacked-memory address (Table 22.1). -/
def State.stackAt (s : State) (pa : Nat) : Nat := 4 * s.dieAt pa + nbits pa 12 2

/-- Whether the stack of an address, or its die, was left off at power-up (R382, Table 20.6; log 94). -/
def State.stackOff (s : State) (pa : Nat) : Bool := !s.mg.off.isEmpty && (s.mg.off.contains (12 + s.stackAt pa) || s.mg.off.contains (28 + s.dieAt pa))

/-- Whether an address carries no traffic: its stack was left off (R382); or it lies in no window, or the window's adit is not UP or closes it (R292, R298). -/
def State.windowShut (s : State) (pa : Nat) : Bool :=
  if pa < stackedEnd then s.stackOff pa
  else match s.windowOf pa with
    | none => true
    | some a =>
      match s.fab.adits[a]? with
      | none => true
      | some w => w.st != 1 || w.cur != 0 || w.closing

/-- Whether a page is retired (R378). -/
def State.retiredAt (s : State) (pa : Nat) : Bool := decide (pa < stackedEnd) && s.mg.retired.contains (pa / 4096)

/-- Whether a key slot is LIVE (R350). -/
def State.keyLive (s : State) (k : Nat) : Bool :=
  match NMap.get? s.keys.slots k with
  | some e => e.st == 1
  | none => false

/-- n accesses counted in KMISS of a device (R351); no device counts where no function is named. -/
def State.kmissBy (s : State) (fn : Option Nat) (n : Nat) : State :=
  match fn with
  | none => s
  | some f => if f < 64 ∧ n ≠ 0 then s.modFunc f fun x => { x with kmiss := satAdd 32 x.kmiss n } else s

/-- KMISS of a device counted (R351). -/
def State.kmiss (s : State) (fn : Option Nat) : State := s.kmissBy fn 1

/-- What a read meets at a line's home (R351, R376, R378): its bytes, whether it is poisoned, and whether it counts in KMISS. All the bytes
lie in one line. -/
def State.peek (s : State) (pa n : Nat) (key : Option Nat) : List Byte × Bool × Bool :=
  let l := s.line (pa / 128)
  let bad := l.poison != 0 || s.retiredAt pa || s.windowShut pa
  let bs := s.glob.bytes (s.globAt pa) n
  match key with
  | none => (bs, bad, false)
  | some k => if k = l.tag ∧ s.keyLive k then (bs, bad, false) else (zeros n, bad, true)

/-- The state with one more dropped write counted at an adit (R298). -/
def State.countPoison (s : State) (a : Nat) : State :=
  s.modFab fun f => match f.adits[a]? with
    | none => f
    | some w => { f with adits := f.adits.setIfInBounds a { w with poisoned := satAdd 32 w.poisoned 1 } }

/-- The mask of the bytes from offset o, n of them, of a line. -/
def byteMask (o n : Nat) : BitVec 128 := BitVec.ofNat 128 ((2 ^ n - 1) * 2 ^ o)

/-- Bytes of a line written by the device: those of a cached line are dirty (R393). -/
def State.dirtied (s : State) (line : Nat) (m : BitVec 128) : State :=
  match NMap.get? s.cache line with
  | none => s
  | some h => { s with cache := NMap.set s.cache line { h with dirty := h.dirty ||| m } }

/-- The bytes of a line: those of a mask from the first list, the others from the second. -/
def mergeLine (m : BitVec 128) (a b : List Byte) : List Byte :=
  (upto 0 128).map fun k => if m.getLsbD k then (a[k]?).getD 0 else (b[k]?).getD 0

/-- A cached line written back to its home, where only its dirty bytes go, and then dropped where `drop` says so, so that the device sees what memory holds
(R393, R395; log 60). -/
def State.cacheBack (s : State) (drop : Bool) (line : Nat) : State :=
  match NMap.get? s.cache line with
  | none => s
  | some h =>
    let at_ := s.globAt (line * 128)
    let home := mergeLine h.dirty (s.glob.bytes at_ 128) h.home
    if drop then { s with glob := s.glob.put at_ home, cache := NMap.del s.cache line }
    else { s with cache := NMap.set s.cache line { home := home, dirty := 0 } }

/-- A line taken by a device cache, whose home keeps its bytes from then on (R393). -/
def State.cacheTake (s : State) (line : Nat) : State :=
  if (NMap.get? s.cache line).isSome then s
  else { s with cache := NMap.set s.cache line { home := s.glob.bytes (s.globAt (line * 128)) 128, dirty := 0 } }

/-- A write of bytes of one line at its home (R351, R376, R378, R298): dropped on a retired page or a shut window, dropped under a key that is
not LIVE; else under another key the line is retagged and its other bytes become zero. -/
def State.poke (s : State) (pa : Nat) (bs : List Byte) (key : Option Nat) : State :=
  let n := pa / 128
  let l := s.line n
  if s.retiredAt pa then s.modMg fun g => { g with drop := satAdd 32 g.drop 1 }
  else if s.windowShut pa then
    match (s.windowOf pa).orElse fun _ => s.closedAt pa with
    | none => s
    | some a => s.countPoison a
  else
    let at_ := s.globAt pa
    let clean (l : Line) : Line := { l with poison := l.poison &&& ~~~byteMask (pa % 128) bs.length }
    match key with
    | none => ({ s with glob := s.glob.put at_ bs }.dirtied n (byteMask (pa % 128) bs.length)).modLine n clean
    | some k =>
      if !s.keyLive k then s
      else if k = l.tag then ({ s with glob := s.glob.put at_ bs }.dirtied n (byteMask (pa % 128) bs.length)).modLine n clean
      else
        ({ s with glob := (s.glob.put (at_ / 128 * 128) (zeros 128)).put at_ bs }.dirtied n (BitVec.allOnes 128)).modLine n fun l =>
          { l with tag := k, poison := 0 }

/-- A dword that the part reads of a structure named by local physical address alone (R435). -/
def State.physDword (s : State) (pa : Nat) : Nat := s.glob.num (s.globAt pa) 8

/-- Bytes that the part reads so (R435). -/
def State.physBytes (s : State) (pa n : Nat) : List Byte := s.glob.bytes (s.globAt pa) n

/-- Whether a line holds a pending version, under which a write waits (R222). -/
def State.pendLine (s : State) (line : Nat) : Bool :=
  match (s.line line).side with
  | some e => e.pending
  | none => false

/-- The pennant of a line made null and its side entry freed, as a write leaves them (R222). -/
def State.unpennant (s : State) (line : Nat) : State := s.modLine line fun l => { l with pennant := none, side := none }

/-- Whether a write to a line is dropped: on a retired page (R378), at a shut window (R298), under a key that is not LIVE (R351). -/
def State.dropsOwn (s : State) (pa : Nat) (key : Option Nat) : Bool := s.retiredAt pa || s.windowShut pa || key.any fun k => !s.keyLive k

/-- A write of bytes of one line: where it is performed, the line's pennant becomes null and its side entry is freed (R222). -/
def State.writeLine (s : State) (pa : Nat) (key : Option Nat) (bs : List Byte) : State :=
  if s.dropsOwn pa key then s.poke pa bs key else (s.poke pa bs key).unpennant (pa / 128)

/-- Bits set or cleared in bytes of one line by the part (R273, R338, R348), as an atomic write of that line; on poison it writes nothing (log 18). -/
def State.bitsAt (s : State) (pa : Nat) (key : Option Nat) (f : Byte → Byte → Byte) (bs : List Byte) : State :=
  let old := s.peek pa bs.length key
  if old.2.1 then s else s.writeLine pa key ((old.1.zip bs).map fun p => f p.1 p.2)

/-- What a write of the part does to its line: bytes put there, or bits set or cleared. -/
def State.ownAct (s : State) (pa : Nat) (key : Option Nat) (op : OwnOp) (bs : List Byte) : State :=
  match op with
  | .put => s.writeLine pa key bs
  | .set => s.bitsAt pa key (fun a b => a ||| b) bs
  | .clear => s.bitsAt pa key (fun a b => a &&& ~~~b) bs

/-- Whether one of some messages is a write that waits for the line of an address (R222). -/
def ownAhead (ms : List Msg) (pa : Nat) : Bool := ms.any fun m => match m with | .own a _ _ _ _ => a / 128 == pa / 128 | _ => false

/-- Whether one of some messages is a change of bits of a table or a log that still waits: the bytes that the part writes after it stand behind it, so that
an access is not performed before its own AC, DT and log bits (R338, R348). -/
def bitsAhead (ms : List Msg) : Bool := ms.any fun m => match m with | .own _ _ op _ _ => op != .put | _ => false

/-- A write of the part to one line (R222): held as a message under a pending version, else performed at once. -/
def State.ownWrite (s : State) (pa : Nat) (key : Option Nat) (op : OwnOp) (bs : List Byte) : State :=
  if s.pendLine (pa / 128) || ownAhead s.msgs pa || (op == .put && bitsAhead s.msgs) then s.post (.own pa key op bs none)
  else s.ownAct pa key op bs

/-! ## Translation -/

/-- A walk that cannot complete: cause, stage and level (Table 17.5); cause 16 stands for a memory error that a walker met (R342, R364). -/
structure WalkFault where
  cause : Nat
  stage : Nat
  level : Nat
  deriving DecidableEq, Repr

/-- The end of one stage's walk: base of the page, its size, WR over the walk, NX, whether RDUP, the leaf entry, whether it is a member of a 64 KiB group,
and the entries used. -/
structure Leaf where
  base : Nat
  size : Nat
  wr : Bool
  nx : Bool
  rdup : Bool
  leaf : Nat
  group : Bool
  path : List PathEnt
  deriving DecidableEq, Repr

/-- The size of a page at a level. -/
def levelSize (level : Nat) : Nat := 2 ^ (12 + 9 * level)

/-- A dword as a walker reads it: a plain read (R342), which meets poison as any other does. -/
def State.walkDword (s : State) (pa : Nat) : Option Nat := if (s.peek pa 8 none).2.1 then none else some (s.physDword pa)

/-- Whether two values of an entry differ in AC and DT alone (R338). -/
def sameEntry (a b : Nat) : Bool := a ||| (3 * 2 ^ 55) == b ||| (3 * 2 ^ 55)

/-- The cached upper-level entry that serves an address (R341): one whose AC still has to be set is used only while its entry holds (R338). -/
def State.upper? (s : State) (ctx stage level addr at_ : Nat) : Option Nat :=
  (s.uppers.find? fun u => u.ctx == ctx && u.stage == stage && u.level == level && u.at_ == at_ && u.base == addr / levelSize (level + 1) * levelSize (level + 1) &&
    (nbit u.value 56 || (s.walkDword at_).any (sameEntry u.value))).map (·.value)

/-- Whether the aligned group of 16 entries around an entry maps one 64 KiB page (R337). -/
def State.group64 (s : State) (ea : Nat) : Bool :=
  let lo := ea / 128 * 128
  let rd (a : Nat) : Nat := (s.walkDword a).getD 0
  let e0 := rd lo
  (upto 0 16).all fun j =>
    let e := rd (lo + 8 * j)
    nbit e 63 && nbits e 61 2 == 2 && nbits e 57 4 == nbits e0 57 4 && nbits e 12 40 == nbits e0 12 40 + j
  && nbits e0 12 40 % 16 == 0

/-- The other entries of the group of a 64 KiB page, which the walk has read too (R337). -/
def State.groupPath (s : State) (stage ea addr : Nat) : List PathEnt :=
  ((upto 0 16).filter fun j => ea / 128 * 128 + 8 * j != ea).map fun j =>
    let a := ea / 128 * 128 + 8 * j
    { stage := stage, level := 0, at_ := a, value := (s.walkDword a).getD 0, addr := addr }

/-- One stage's walk of an address from the table at `tab`, down from `level` (R337, R339). `ptr` translates a table pointer; first-stage
entries need UA; a write needs WR of every entry where `wrChecked`; a fetch needs a leaf without NX. -/
def State.walkFrom (s : State) (ctx stage : Nat) (ptr : Nat → Except WalkFault (Nat × List PathEnt)) (write fetch : Bool)
    (addr : Nat) : Nat → Nat → Bool → List PathEnt → Except WalkFault Leaf
  | fuel, tab, wr, path =>
    let level := fuel
    let ea := tab + 8 * nbits addr (12 + 9 * level) 9
    match (s.upper? ctx stage level addr ea).orElse fun _ => s.walkDword ea with
    | none => .error { cause := 16, stage := stage, level := level }
    | some e =>
    let ty := nbits e 61 2
    let path := path ++ [{ stage := stage, level := level, at_ := ea, value := e, addr := addr }]
    let wr := wr && nbit e 60
    let size := if ty = 2 then 4096 else levelSize level
    let base := nbits e 12 40 * 4096
    let bad := ty == 3 || (ty == 0 && level == 0) || (ty == 1 && decide (2 < level)) || (ty == 2 && level != 0) ||
      (ty == 1 && base % size != 0)
    if !nbit e 63 then .error { cause := 2, stage := stage, level := level }
    else if bad then .error { cause := 6, stage := stage, level := level }
    else if stage = 1 ∧ !nbit e 57 then .error { cause := 4, stage := stage, level := level }
    else if write ∧ !nbit e 60 then .error { cause := 3, stage := stage, level := level }
    else if ty ≠ 0 then
      if fetch ∧ nbit e 59 then .error { cause := 5, stage := stage, level := level }
      else
        let big := ty == 2 && s.group64 ea
        .ok { base := if big then base / 65536 * 65536 else base, size := if big then 65536 else size, wr := wr, nx := nbit e 59,
              rdup := nbit e 58, leaf := ea, group := big, path := if big then path ++ s.groupPath stage ea addr else path }
    else match fuel with
      | 0 => .error { cause := 6, stage := stage, level := 0 }
      | k + 1 =>
        match ptr base with
        | .error f => .error (if f.cause = 7 ∧ f.level = 9 then { cause := 7, stage := stage, level := k } else f)
        | .ok (pa, more) => s.walkFrom ctx stage ptr write fetch addr k pa wr (path ++ more)

/-- A local physical address used as it is; NOMEM (marked with level 9 for its caller) where no memory is there. -/
def State.directPtr (s : State) (a : Nat) : Except WalkFault (Nat × List PathEnt) :=
  if s.memThere a then .ok (a, []) else .error { cause := 7, stage := 1, level := 9 }

/-- The second-stage walk of a guest physical address (R337, R340). -/
def State.walk2 (s : State) (ctx root : Nat) (write fetch : Bool) (gpa : Nat) : Except WalkFault Leaf :=
  match s.directPtr root with
  | .error _ => .error { cause := 7, stage := 2, level := 4 }
  | .ok _ => s.walkFrom ctx 2 s.directPtr write fetch gpa 4 root true []

/-- A guest physical table pointer through the second stage: a read, whose WR is not checked (R340). -/
def State.guestPtr (s : State) (ctx root gpa : Nat) : Except WalkFault (Nat × List PathEnt) :=
  match s.walk2 ctx root false false gpa with
  | .error f => .error f
  | .ok l =>
    let pa := l.base + gpa % l.size
    if s.memThere pa then .ok (pa, l.path) else .error { cause := 7, stage := 2, level := (l.path.getLast?.map (·.level)).getD 0 }

/-- The fault of a failed walk (Table 19.1): translation, code 0x0C, or the memory error of a walker's read. -/
def WalkFault.info (f : WalkFault) (unit : Nat) (va : Int) : FaultInfo :=
  if f.cause = 16 then { code := 0x13, unit := unit, faddr := a72i va }
  else { code := 0x0C, cause := f.cause, unit := unit, tstg := f.stage, tlvl := f.level, faddr := a72i va }

/-- Whether a page of local physical memory may be read-duplicated (R346, R406): every replica lies in stacked memory. -/
def dupAllowed (pa size rsh : Nat) : Bool := rsh != 0 && (upto 0 4).all fun d => decide (pa - nbits pa rsh 2 * 2 ^ rsh + d * 2 ^ rsh + size ≤ stackedEnd)

/-- A walk from the region entry down, of a virtual address, for a unit and a context (R334 to R340). A region entry that lies in no memory cannot be read,
so that NOMEM is its cause (log 79). -/
def State.walk (s : State) (unit ctx va : Nat) (write fetch : Bool) : Except WalkFault Tlb :=
  let c := s.ctx ctx
  let top := { cause := 6, stage := 1, level := 5 : WalkFault }
  let rea := wbits c.rt 12 40 * 4096 + 16 * nbits va 57 15
  let r0 := s.physDword rea
  let r1 := s.physDword (rea + 8)
  let fab := nbit r0 62
  let rsh := nbits r0 48 6
  let root := nbits r1 12 40 * 4096
  if !c.rt.getLsbD 63 then .error { top with cause := 1 }
  else if !s.memThere rea then .error { top with cause := 7 }
  else if (s.peek rea 16 none).2.1 then .error { top with cause := 16 }
  else if !nbit r0 63 then .error { top with cause := 1 }
  else if nbit r0 35 || nbits r0 0 32 != 0 || nbits r1 52 12 != 0 || nbits r1 0 12 != 0 || (fab && rsh != 0) ||
      (!fab && nbits r0 36 12 != 0) || (rsh != 0 && (decide (rsh < 30) || decide (49 < rsh))) then .error top
  else
    let two := c.s2.getLsbD 63 && !fab
    let root2 := wbits c.s2 12 40 * 4096
    let ptr := if two then s.guestPtr ctx root2 else s.directPtr
    match ptr root with
    | .error f => .error (if f.cause = 7 ∧ f.level = 9 then { cause := 7, stage := 1, level := 4 } else f)
    | .ok (tab, pre) =>
      match s.walkFrom ctx 1 ptr write fetch (va % 2 ^ 57) 4 tab true pre with
      | .error f => .error f
      | .ok l =>
        let gpa := l.base + va % l.size
        let key := nbits r0 54 8
        let lev := (l.path.getLast?.map (·.level)).getD 0
        if two then
          match s.walk2 ctx root2 write fetch gpa with
          | .error f => .error f
          | .ok l2 =>
            let pa := l2.base + gpa % l2.size
            let size := min l.size l2.size
            let page := pa / size * size
            let dup := l2.rdup && dupAllowed page size rsh
            if !s.memThere pa then .error { cause := 7, stage := 2, level := (l2.path.getLast?.map (·.level)).getD 0 }
            else .ok { unit := unit, ctx := ctx, va := va / size * size, size := size, pa := page,
                       gpa := gpa / size * size, key := key, fab := none, wr := l.wr && l2.wr, nx := l.nx || l2.nx,
                       rsh := if dup then rsh else 0, path := l.path ++ l2.path, leaves := [l.leaf, l2.leaf], group1 := l.group, group2 := l2.group,
                       dup := if dup then some l2.leaf else none, dupPage := (l2.base, l2.size), logged := [], acSet := false, dtSet := false }
        else if !fab ∧ !s.memThere gpa then .error { cause := 7, stage := 1, level := lev }
        else
          let dup := l.rdup && !fab && dupAllowed l.base l.size rsh
          .ok { unit := unit, ctx := ctx, va := va / l.size * l.size, size := l.size, pa := l.base, gpa := l.base, key := key,
                fab := if fab then some (nbits r0 36 12, nbits r0 32 3) else none, wr := l.wr, nx := l.nx,
                rsh := if dup then rsh else 0, path := l.path, leaves := [l.leaf], group1 := l.group, group2 := false,
                dup := if dup then some l.leaf else none, dupPage := (l.base, l.size), logged := [], acSet := false, dtSet := false }

/-- The member of a 64 KiB group that an address of its stage falls in (R337). -/
def memberOf (group : Bool) (leaf addr : Nat) : Nat := if group then leaf / 128 * 128 + 8 * (addr / 4096 % 16) else leaf

/-- The leaf entries of an access, of the first stage and then of the second. -/
def Tlb.leavesAt (e : Tlb) (va : Nat) : List Nat :=
  match e.leaves with
  | [a] => [memberOf e.group1 a va]
  | [a, b] => [memberOf e.group1 a va, memberOf e.group2 b (e.gpa + (va - e.va))]
  | l => l

/-- The leaf of an access that carries RDUP: that of its last stage (R346). -/
def Tlb.dupAt (e : Tlb) (va : Nat) : Option Nat := if e.dup.isSome then (e.leavesAt va).getLast? else none

/-- Whether a translation of a duplicated page goes back to a leaf entry or to another member of its group. -/
def Tlb.dupBy (e : Tlb) (leaf : Nat) : Bool :=
  match e.dup with
  | none => false
  | some d => d == leaf || ((if e.leaves.length = 2 then e.group2 else e.group1) && d / 128 == leaf / 128)

/-- Whether no entry of the walk has changed since it was read, but for AC and DT (R338). -/
def State.unchanged (s : State) (e : Tlb) : Bool := e.path.all fun p => (s.walkDword p.at_).any fun v => sameEntry v p.value

/-- Whether a cached entry serves an access without a new walk (R338, R341). -/
def State.usable (s : State) (e : Tlb) (write fetch : Bool) : Bool :=
  (!write || e.wr) && (!fetch || !e.nx) && ((e.acSet && (!write || e.dtSet)) || s.unchanged e)

/-- The cached entry of a page. -/
def State.tlbFind (s : State) (unit ctx va : Nat) : Option Tlb :=
  s.tlb.find? fun e => e.unit == unit && e.ctx == ctx && decide (e.va ≤ va) && decide (va < e.va + e.size)

/-- The translation of a virtual address: cached or walked. -/
def State.translate (s : State) (unit ctx va : Nat) (write fetch : Bool) : Except WalkFault Tlb :=
  match s.tlbFind unit ctx va with
  | some e => if s.usable e write fetch then .ok e else s.walk unit ctx va write fetch
  | none => s.walk unit ctx va write fetch

/-- The entries that the TLB of a unit holds (R341): 4096 in an issue unit, 8 in a stream TLB; the manual limits no other (log 72). -/
def tlbRoom (unit : Nat) : Option Nat := if 2048 ≤ unit then none else if unit % 8 = 0 then some 4096 else if unit % 8 ≤ 4 then some 8 else none

/-- The first n entries of a unit, and every entry of another. -/
def keepRoom (unit : Nat) : Nat → List Tlb → List Tlb
  | _, [] => []
  | n, e :: l => if e.unit = unit then (match n with | 0 => keepRoom unit 0 l | k + 1 => e :: keepRoom unit k l) else e :: keepRoom unit n l

/-- The upper-level entries that a translation was built from (R341). -/
def Tlb.uppers (e : Tlb) : List Upper :=
  (e.path.filter fun p => nbits p.value 61 2 == 0).map fun p =>
    { ctx := e.ctx, stage := p.stage, level := p.level, base := p.addr / levelSize (p.level + 1) * levelSize (p.level + 1), at_ := p.at_, value := p.value }

/-- A translation cached in its unit's TLB as the latest used, in place of those of the same page; the least recently used makes room (R341). -/
def State.cacheTlb (s : State) (e : Tlb) : State :=
  let rest := s.tlb.filter fun x => !(x.unit == e.unit && x.ctx == e.ctx && decide (x.va < e.va + e.size) && decide (e.va < x.va + x.size))
  let new := e.uppers
  { s with
    tlb := match tlbRoom e.unit with | none => e :: rest | some n => keepRoom e.unit n (e :: rest),
    uppers := new ++ s.uppers.filter fun u => !(new.any fun v => v.ctx == u.ctx && v.stage == u.stage && v.level == u.level && v.base == u.base) }

/-- The granule of a logged write and whether it is logged (R348): none where nothing is logged. -/
def State.granule (s : State) (e : Tlb) (va : Nat) : Option Nat :=
  let c := s.ctx e.ctx
  if c.dl.getLsbD 63 ∧ e.fab.isNone then
    let a := (if c.s2.getLsbD 63 then e.gpa else e.pa) + (va - e.va)
    some (if c.dl.getLsbD 62 then a / 65536 else a / 4096)
  else none

/-- LOGLIM of a write (R349). -/
def State.logLim (s : State) (e : Tlb) (va : Nat) : Bool :=
  match s.granule e va with
  | none => false
  | some n => decide (wbits (s.ctx e.ctx).dll 0 40 ≤ n)

/-- The bits that an access still has to set in an entry of a table: AC, and DT where it is a leaf of a write (R338); none in an entry that has become
invalid or unreadable. -/
def State.entryBits (s : State) (write : Bool) (leaves : List Nat) (pa : Nat) : Option Nat :=
  match s.walkDword pa with
  | none => none
  | some e =>
    let bits := 2 ^ 56 + (if write && leaves.contains pa then 2 ^ 55 else 0)
    if !nbit e 63 ∨ e ||| bits = e then none else some bits

/-- An entry of a table with its bits set (R338). -/
def State.touchEntry (s : State) (write : Bool) (leaves : List Nat) (pa : Nat) : State :=
  match s.entryBits write leaves pa with
  | none => s
  | some bits => s.ownWrite pa none .set (leBytes 8 bits)

/-- The byte of the dirty log in which a granule's bit stands (R348). -/
def State.logByte (s : State) (ctx n : Nat) : Nat := wbits (s.ctx ctx).dl 3 49 * 8 + n / 8

/-- The dirty-log bit of a granule set under key slot 0 (R348, R431). -/
def State.logGranule (s : State) (ctx n : Nat) : State :=
  s.ownWrite (s.logByte ctx n) (some 0) .set (leBytes 1 (2 ^ (n % 8)))

/-- The entries of an access: those of its walk above the leaves, and its own leaves. -/
def Tlb.entriesAt (e : Tlb) (va : Nat) : List Nat :=
  let grouped (a : Nat) : Bool := (e.leaves.zip [e.group1, e.group2]).any fun l => if l.2 then l.1 / 128 == a / 128 else l.1 == a
  ((e.path.map (·.at_)).filter fun a => !grouped a) ++ e.leavesAt va

/-- Whether an access has nothing to set in its tables. -/
def Tlb.settled (e : Tlb) (write : Bool) : Bool := e.acSet && (e.dtSet || !write) && !e.group1 && !e.group2

/-- Whether an access must wait before it takes effect, because a line in which it has to set AC, DT or a log bit holds a pending version (R222, R338,
R348). -/
def State.useWaits (s : State) (e : Tlb) (va : Nat) (write : Bool) : Bool :=
  let held (pa : Nat) : Bool := s.pendLine (pa / 128) || ownAhead s.msgs pa
  (!e.settled write && (e.entriesAt va).any fun p => (s.entryBits write (e.leavesAt va) p).isSome && held p) ||
    match (if write then s.granule e va else none) with
    | some n => !e.logged.contains n && held (s.logByte e.ctx n)
    | none => false

/-- Whether an access that passed its check must wait so. -/
def State.accessWaits (s : State) (t : Option Tlb) (ea : Int) (write : Bool) : Bool := t.any fun e => s.useWaits e ea.toNat write

/-- What an access that takes effect does to the tables, the dirty log and the TLB (R338, R348). -/
def State.useEntry (s : State) (e : Tlb) (va : Nat) (write : Bool) : State :=
  let s := if e.settled write then s else (e.entriesAt va).foldl (fun s p => s.touchEntry write (e.leavesAt va) p) s
  let g := if write then s.granule e va else none
  let s := match g with
    | some n => if e.logged.contains n then s else s.logGranule e.ctx n
    | none => s
  s.cacheTlb { e with acSet := true, dtSet := e.dtSet || write,
                      logged := match g with | some n => if e.logged.contains n then e.logged else e.logged ++ [n] | none => e.logged }

/-- Whether a leaf entry still marks its page as duplicated. -/
def State.dupLeaf (s : State) (leaf : Nat) : Bool := nbit ((s.walkDword leaf).getD 0) 58

/-- The record that a write of a duplicated page opens (R347), for the whole page of its leaf: the writer's die needs no acknowledgement; a write of the
part waits for every die. -/
def Tlb.collapse (e : Tlb) (va : Nat) (die : Option Nat) : Collapse :=
  { leaf := (e.dupAt va).getD 0, page := e.dupPage.1, size := e.dupPage.2, rsh := e.rsh, dies := (upto 0 4).filter fun d => some d != die }

/-- A duplicated page made single (R347): RDUP of its leaf cleared, and no cached translation of the leaf left. Under a pending version of the leaf's line
the clear is held, and the state stays as it is (R222). -/
def State.clearDup (s : State) (leaf : Nat) : State :=
  if s.pendLine (leaf / 128) || ownAhead s.msgs leaf then s
  else
    let t := { s with tlb := s.tlb.filter fun t => !t.dupBy leaf, collapses := s.collapses.filter fun c => c.leaf != leaf }
    if s.dupLeaf leaf then t.ownAct leaf none .clear (leBytes 8 (2 ^ 58)) else t

/-- Whether a collapse of a page is under way, so that every write to it stalls (R347). -/
def State.collapsing (s : State) (pa : Nat) : Bool := s.collapses.any fun c => decide (c.page ≤ pa) && decide (pa < c.page + c.size)

/-- The local physical address of an access of a die: the replica of its die for a read of a duplicated page (R346), the primary while a collapse is
under way (R347) or where the die has no part in it. -/
def State.physOf (s : State) (e : Tlb) (va : Nat) (die : Option Nat) (write : Bool) : Nat :=
  let pa := e.pa + (va - e.va)
  match die with
  | none => pa
  | some d =>
    if e.dup.isSome ∧ !write ∧ !s.collapsing pa then pa - nbits pa e.rsh 2 * 2 ^ e.rsh + d % 4 * 2 ^ e.rsh else pa

/-! ## Routes -/

/-- The snapshot's entry of (node, die, exit) (R271, R277). -/
def State.mapEnt (s : State) (pkg die exit : Nat) (sw : Bool) : Option MapEnt :=
  s.fab.snapshot.find? fun e => e.pkg == pkg && (sw || e.die == die) && e.exit == exit && e.srcsw == sw

/-- The order number of the reverse of an entry. -/
def State.reverseOrd (s : State) (e : MapEnt) : Nat := ((s.mapEnt e.peerpkg e.peerdie e.peerexit e.peersw).map (·.ord)).getD 0

/-- Pairs (class, ORD) strictly increase. -/
def rising : List (Nat × Nat) → Bool
  | a :: b :: l => (decide (a.1 < b.1) || (a.1 == b.1 && decide (a.2 < b.2))) && rising (b :: l)
  | _ => true

/-- The walk of a route against the snapshot (R277): none where it passes, else the cause of Table 14.4. -/
def State.routeFrom (s : State) (dst : Nat) : List Byte → Nat → Nat → Bool → List (Nat × Nat × Nat) → Option Nat
  | [], _, _, _, _ => some 1
  | h :: rest, pkg, die, sw, seq =>
    let x := h.toNat / 16
    let vc := h.toNat / 4 % 4
    if h.toNat % 4 ≠ 0 ∨ x = 13 ∨ x = 14 then some 1
    else if x = 15 then
      if rest ≠ [] ∨ sw then some 1
      else if pkg ≠ dst then some 3
      else if rising (seq.map fun p => (p.1, p.2.1)) && rising (seq.reverse.map fun p => (3 - p.1, p.2.2)) then none
      else some 4
    else match s.mapEnt pkg die x sw with
      | none => some 2
      | some e =>
        if !e.up || e.pers != 3 then some 2
        else s.routeFrom dst rest e.peerpkg e.peerdie e.peersw (seq ++ [(vc, e.ord, s.reverseOrd e)])

/-- The check of a handle at injection from a die (R277, R278): none where it passes. -/
def State.routeCheck (s : State) (h : Handle) (die : Nat) : Option Nat :=
  if !h.v then some 6
  else if s.mg.idpkg = 0xFFF ∧ 1 < h.len then some 2
  else if h.gen = s.fab.tgen % 2 ^ 32 then none
  else if h.len < 1 ∨ 24 < h.len then some 1
  else s.routeFrom h.dstpkg (h.hops.take h.len) s.mg.idpkg die false []

/-- The check of a route for an operation to a package (R278, R335): the handle's own, then PKG. -/
def State.routeTo (s : State) (h : Handle) (die pkg : Nat) : Option Nat :=
  match s.routeCheck h die with
  | some c => some c
  | none => if h.dstpkg = pkg then none else some 5

/-! ## The run-time check -/

/-- A memory-model fault (code 0x0B). -/
def memFault (unit cause : Nat) (ea : Int) : FaultInfo := { code := 0x0B, cause := cause, unit := unit, faddr := a72i ea }

/-- An alignment fault (code 0x0D). -/
def alignFault (unit : Nat) (ea : Int) : FaultInfo := { code := 0x0D, unit := unit, faddr := a72i ea }

/-- Checks 4 to 8 of Table 9.7 on the bytes of an access; `fab`: the byte lies in a fabric region. -/
def State.footCheck (s : State) (i : Nat) (x : Shift) (unit : Nat) (k : Acc) (scope : Scope) (ring : Bool) (sp : Space) (ea : Int) (n : Nat)
    (fab : Bool) : Option FaultInfo :=
  let core := x.place.core
  let bytes := (upto 0 n).map fun (j : Nat) => ea + (j : Int)
  let slot (b : Int) : Bool := !ring && s.inRingSlots sp core b.toNat
  if bytes.any fun b => !slot b && (x.modesAt sp b).isEmpty then some (memFault unit 3 ea)
  else if bytes.any fun b => !slot b && !((x.modesAt sp b).any k.permitted) then some (memFault unit 4 ea)
  else if k.sync && bytes.any fun b => !slot b && (x.modesAt sp b).contains 2 &&
      decide (scRank scope < s.requiredScope x.place.ctx sp core b fab) then some (memFault unit 5 ea)
  else if bytes.any fun b => slot b && (k.sync || !x.holdsSlotAt sp b.toNat) then some (memFault unit 6 ea)
  else if s.jobClash i x k sp ea n then some (memFault unit 7 ea)
  else none

/-- The party for which packets of the fabric wait at the homes of this package. -/
abbrev fabParty : Nat := 65536

/-- The number under which a shift's wait for a line of code stands among the waiters (R335). -/
abbrev codeWait : Nat := 6

/-- The unit number of the TLB of a shift's unit: 0 the issue unit, 1 AE0, 2 AE1, 3 the copy engine, 4 the weight stream, of a core. -/
def tlbUnit (core u : Nat) : Nat := core * 8 + u

/-- Checks 1 to 3 of Table 9.7 outside GLOB. -/
def State.rangeCheck (s : State) (x : Shift) (unit : Nat) (ring micro : Bool) (sp : Space) (ea : Int) (n : Nat) : Option FaultInfo :=
  let core := x.place.core
  let bytes := (upto 0 n).map fun (j : Nat) => (ea + (j : Int)).toNat
  if ea < 0 ∨ (spLimit sp : Int) < ea + n then some (memFault unit 1 ea)
  else if sp = .pad ∧ bytes.any (fun b => !ownsBank x.place.banks b) then
    some (if micro then { code := 0x0A, unit := unit, faddr := a72i ea } else memFault unit 2 ea)
  else if !ring && bytes.any (fun b => (sp == .pad && inSaveArea x.place.banks b) || s.inRingHeader sp core b) then some (memFault unit 8 ea)
  else none

/-- The fabric line number of a line of a translation's package. -/
def State.fabLineOf (s : State) (e : Tlb) (line : Nat) : Nat := (match e.fab with | some (pkg, _) => pkg | none => s.mg.idpkg) * 2 ^ 45 + line

/-- Whether a line, by its fabric line number, is a manifest in use (R223). -/
def State.isManifest (s : State) (line : Nat) : Bool := s.manifests.any fun m => m.1 == line

/-- The run-time check of an access of at most one sector by the party of a shift (R174, R183, R194 but alignment): the translation of a GLOB
access, or the fault. -/
def State.checkAccess (s : State) (i : Nat) (x : Shift) (unit tlb : Nat) (k : Acc) (scope : Scope) (ring micro bundleOp : Bool) (sp : Space)
    (ea : Int) (n : Nat) : Except FaultInfo (Option Tlb) :=
  let core := x.place.core
  match sp with
  | .lane => if ea < 0 ∨ 0x1000 < ea + n then .error (memFault unit 1 ea) else .ok none
  | .glob =>
    if ea < 0 ∨ (2 ^ 72 : Int) ≤ ea then .error ({ cause := 9, stage := 1, level := 5 : WalkFault }.info unit ea)
    else match s.translate (tlbUnit core tlb) x.place.ctx ea.toNat k.writes false with
      | .error f => .error (f.info unit ea)
      | .ok e =>
        let line := (e.pa + (ea.toNat - e.va)) / 128
        if k.writes ∧ s.logLim e ea.toNat then .error ({ cause := 8, stage := 1, level := 0 : WalkFault }.info unit ea)
        else if k.writes ∧ !bundleOp ∧ s.isManifest (s.fabLineOf e line) then .error (memFault unit 8 ea)
        else match s.footCheck i x unit k scope ring sp ea n e.fab.isSome with
          | some f => .error f
          | none =>
            match e.fab with
            | none => .ok (some e)
            | some (pkg, h) =>
              match s.routeTo ((x.handles[h]?).getD Handle.zero) (core / 64) pkg with
              | some c => .error { code := 0x0E, cause := c, unit := unit, faddr := a72i ea }
              | none => .ok (some e)
  | _ =>
    match s.rangeCheck x unit ring micro sp ea n with
    | some f => .error f
    | none =>
      match s.footCheck i x unit k scope ring sp ea n false with
      | some f => .error f
      | none => .ok none

/-- The home of an access that passed its check (Table 9.1). -/
def State.homeOf (s : State) (core : Nat) (sp : Space) (lane : Nat) (ea : Int) (t : Option Tlb) (write : Bool) : Home :=
  let a := ea.toNat
  match sp with
  | .lane => .lane core lane a
  | .pad => .pad core a
  | .crew => .crew (core / 8) a
  | .chip => .chip (core / 64) a
  | .glob =>
    match t with
    | none => .glob a 0
    | some e =>
      match e.fab with
      | some (pkg, _) => .fab pkg (e.pa + (a - e.va)) e.key
      | none => .glob (s.physOf e a (some (core / 64)) write) e.key

/-! ## Bytes at a home -/

/-- Bytes of a home, whether they are poisoned, and whether the read counts in KMISS. The bytes lie in one line. -/
def State.homeRead (s : State) (h : Home) (n : Nat) : List Byte × Bool × Bool :=
  match h with
  | .lane c l o => (s.lane.bytes (laneKey c l o) n, false, false)
  | .pad c o => (s.pad.bytes (padKey c o) n, false, false)
  | .crew c o => (s.crew.bytes (c * 2 ^ 21 + o) n, false, false)
  | .chip d o => (s.chip.bytes (d * 2 ^ 26 + o) n, false, false)
  | .glob pa k => s.peek pa n (some k)
  | .fab _ _ _ => (zeros n, true, false)

/-- Bytes written at a home. -/
def State.homeWrite (s : State) (h : Home) (bs : List Byte) : State :=
  match h with
  | .lane c l o => s.putLane c l o bs
  | .pad c o => s.putPad c o bs
  | .crew c o => { s with crew := s.crew.put (c * 2 ^ 21 + o) bs }
  | .chip d o => { s with chip := s.chip.put (d * 2 ^ 26 + o) bs }
  | .glob pa k => s.poke pa bs (some k)
  | .fab _ _ _ => s

/-- Whether a home lies in a fabric region. -/
def Home.isFab (h : Home) : Bool := match h with | .fab _ _ _ => true | _ => false

/-- The sector of a home: two homes share a sector when these are equal (R175). -/
def Home.sector : Home → Nat × Nat × Nat
  | .lane c l o => (0, c * 64 + l, o / 32)
  | .pad c o => (1, c, o / 32)
  | .crew c o => (2, c, o / 32)
  | .chip d o => (3, d, o / 32)
  | .glob pa _ => (4, 0, pa / 32)
  | .fab p pa _ => (5, p, pa / 32)

/-- The home n bytes further on. -/
def Home.plus (h : Home) (n : Nat) : Home :=
  match h with
  | .lane c l o => .lane c l (o + n)
  | .pad c o => .pad c (o + n)
  | .crew c o => .crew c (o + n)
  | .chip d o => .chip d (o + n)
  | .glob pa k => .glob (pa + n) k
  | .fab p pa k => .fab p (pa + n) k

/-- The virtual device that owns a context (R386), for KMISS. -/
def State.deviceOf (s : State) (ctx : Nat) : Option Nat :=
  let f := wbits (s.ctx ctx).own 0 7
  if f < 64 then some f else none

end Sys2Proof.Machine
end

