-- ==== Sys2Proof/Machine/Image.lean ====
section
/-!
DEFINITION. Code images: reads through a context's translation, the kernel header and its checks (R62 to R67), footprint descriptors and
their relocation (R177 to R179).
-/
namespace Sys2Proof.Machine

/-! ## Reads of the part through a context's translation -/

/-- The die of a unit that caches translations; the part's own units have none (log 73). -/
def unitDie (unit : Nat) : Option Nat := if unit < 2048 then some (unit / 512) else none

/-- n bytes at a virtual address, none of which leaves its line, as a unit of the part reads them: the bytes and the entry used. -/
def State.virtLine (s : State) (unit ctx : Nat) (va n : Nat) (fetch : Bool) : Except FaultInfo (List Byte × Tlb) :=
  if 2 ^ 72 ≤ va then .error (({ cause := 9, stage := 1, level := 5 } : WalkFault).info 0 va)
  else match s.translate unit ctx va false fetch with
  | .error f => .error (f.info 0 va)
  | .ok e =>
    match e.fab with
    | some _ => .error { code := 0x0E, cause := 6, faddr := a72i va }
    | none =>
      let r := s.peek (s.physOf e va (unitDie unit) false) n (some e.key)
      if r.2.1 then .error { code := 0x13, faddr := a72i va } else .ok (r.1, e)

/-- n bytes at a virtual address, line by line; `fuel` bounds the lines. -/
def State.virtFrom (s : State) (unit ctx : Nat) (fetch : Bool) : Nat → Nat → Nat → Except FaultInfo (List Byte)
  | 0, _, _ => .ok []
  | fuel + 1, va, n =>
    let k := min n (128 - va % 128)
    if n = 0 then .ok []
    else match s.virtLine unit ctx va k fetch with
      | .error f => .error f
      | .ok r =>
        match s.virtFrom unit ctx fetch fuel (va + k) (n - k) with
        | .error f => .error f
        | .ok rest => .ok (r.1 ++ rest)

/-- n bytes at a virtual address. -/
def State.virtBytes (s : State) (unit ctx : Nat) (va n : Nat) (fetch : Bool) : Except FaultInfo (List Byte) :=
  s.virtFrom unit ctx fetch (n / 128 + 2) va n

/-- The lines of a range of one page that a read under its key misses (R351). -/
def State.missLines (s : State) (e : Tlb) (va n : Nat) : Nat :=
  let lo := e.pa + (va - e.va)
  if n = 0 then 0
  else ((upto (lo / 128) ((lo + n - 1) / 128 - lo / 128 + 1)).filter fun l => (s.line l).tag != e.key || !s.keyLive e.key).length

/-- What reads of a range leave: the entries that they used, kept with AC set (R338), and the lines that missed their key counted (R351). -/
def State.touchVirt (s : State) (unit ctx : Nat) (va n : Nat) (write : Bool) : State :=
  (upto 0 (n / 4096 + 2)).foldl (fun s j =>
    let lo := max va (va / 4096 * 4096 + 4096 * j)
    let hi := min (va + n) (va / 4096 * 4096 + 4096 * (j + 1))
    if lo < hi ∧ lo < 2 ^ 72 then
      match s.translate unit ctx lo write false with
      | .ok e => (if write then s else s.kmissBy (s.deviceOf ctx) (s.missLines e lo (hi - lo))).useEntry e lo write
      | .error _ => s
    else s) s

/-- A line of the part's own write made through a translation (R222, R347): it waits as a message while the line holds a pending version or its page is
read-duplicated, which it collapses. -/
def State.ownLine (s : State) (e : Tlb) (va : Nat) (bs : List Byte) : State :=
  let pa := e.pa + (va - e.va)
  let s := if s.keyLive e.key then s else s.kmiss (s.deviceOf e.ctx)
  if ((e.dupAt va).filter s.dupLeaf).isSome then s.post (.own pa (some e.key) .put bs (some (e.collapse va (unitDie e.unit))))
  else s.ownWrite pa (some e.key) .put bs

/-- Bytes written by the part through a context's translation, line by line. -/
def State.virtPutFrom (s : State) (unit ctx : Nat) : Nat → Nat → List Byte → Except FaultInfo State
  | 0, _, _ => .ok s
  | fuel + 1, va, bs =>
    let k := min bs.length (128 - va % 128)
    if bs.isEmpty then .ok s
    else if 2 ^ 72 ≤ va then .error (({ cause := 9, stage := 1, level := 5 } : WalkFault).info 0 va)
    else match s.translate unit ctx va true false with
      | .error f => .error (f.info 0 va)
      | .ok e =>
        if s.logLim e va then .error (({ cause := 8, stage := 1, level := 0 } : WalkFault).info 0 va)
        else match e.fab with
          | some _ => .error { code := 0x0E, cause := 6, faddr := a72i va }
          | none => ((s.useEntry e va true).ownLine e va (bs.take k)).virtPutFrom unit ctx fuel (va + k) (bs.drop k)

/-- Bytes written by the part through a context's translation. -/
def State.virtPut (s : State) (unit ctx : Nat) (va : Nat) (bs : List Byte) : Except FaultInfo State :=
  s.virtPutFrom unit ctx (bs.length / 128 + 2) va bs

/-- Whether a page of local physical memory holds a line with a pending version. -/
def State.pendPage (s : State) (pa : Nat) : Bool :=
  let lo := s.globAt pa / 4096
  s.lines.any fun l => l.1 / 32 == lo && (match l.2.side with | some e => e.pending | none => false)

/-- A write of the part that a delivery waits for (R222, R347): none where it may be made now, else the state, in which the collapse of a duplicated page
has begun. -/
def State.virtWait (s : State) (unit ctx : Nat) (va n : Nat) : Option State :=
  let step (r : State × Bool) (j : Nat) : State × Bool :=
    let a := va / 4096 * 4096 + 4096 * j
    if va + n ≤ a then r
    else match r.1.translate unit ctx a true false with
      | .error _ => r
      | .ok e =>
        match (e.dupAt a).filter r.1.dupLeaf with
        | none => (r.1, r.2 || (e.fab.isNone && (r.1.pendPage (e.pa + (a - e.va)) || r.1.collapsing (e.pa + (a - e.va)))))
        | some leaf =>
          (if r.1.collapses.any fun c => c.leaf == leaf then r.1 else { r.1 with collapses := r.1.collapses ++ [e.collapse a (unitDie unit)] }, true)
  let r := (upto 0 (n / 4096 + 2)).foldl step (s, false)
  if r.2 then some r.1 else none

/-! ## Footprint descriptors -/

/-- Dword k of a list of bytes. -/
def dwordAt (bs : List Byte) (k : Nat) : Nat := ofLE ((bs.drop (8 * k)).take 8)

/-- A descriptor of its 64 bytes (Table 9.3). -/
def readDesc (bs : List Byte) : Desc :=
  let d := dwordAt bs
  let sp := nbits (d 0) 0 3
  let glob := sp == 4
  let len := nbits (d 2) 0 48
  let rows := nbits (d 3) 0 32
  { space := spaceOfNum sp, mode := nbits (d 0) 3 2, host := nbit (d 0) 5, base := d 1 + nbits (d 0) 16 8 * 2 ^ 64, len := len, rows := rows,
    sstride := sx 64 (d 4), rstride := sx 64 (d 5),
    good := nbits (d 0) 24 40 == 0 && nbits (d 0) 6 10 == 0 && decide (1 ≤ sp ∧ sp ≤ 4) && nbits (d 0) 3 2 != 3 &&
      (glob || (nbits (d 0) 16 8 == 0 && !nbit (d 0) 5)) && nbits (d 2) 48 16 == 0 && decide (1 ≤ len ∧ len ≤ 2 ^ 40) &&
      nbits (d 3) 32 32 == 0 && decide (1 ≤ rows) && d 6 == 0 && d 7 == 0 }

/-- Whether every run of a footprint lies from lo to hi - 1. -/
def Foot.within (f : Foot) (lo hi : Int) : Bool :=
  let last := f.base + ((f.rows : Int) - 1) * (if f.rows = 1 then 0 else f.rstride)
  decide (lo ≤ f.base) && decide (f.base + f.len ≤ hi) && decide (lo ≤ last) && decide (last + f.len ≤ hi)

/-- Whether a relocated footprint breaks R178 or R248: outside its space, or PAD bytes in a bank that is not owned, or on the stack. -/
def Foot.bad (f : Foot) (banks : BitVec 32) (stkb stkl : Nat) : Bool :=
  match f.space with
  | .pad =>
    !f.within 0 0x100000 || ((upto 0 32).any fun b => !banks.getLsbD b && f.overlaps { f with base := (b : Int) * 0x8000, len := 0x8000, rows := 1 }) ||
      (decide (stkb < stkl) && f.overlaps { f with base := stkb, len := stkl - stkb, rows := 1 })
  | _ => !f.within 0 (spLimit f.space)

/-- Whether two footprints of one stage that share a byte differ in mode (R179). -/
def footsClash : List Foot → Bool
  | [] => false
  | f :: fs => fs.any (fun g => f.mode != g.mode && f.overlaps g) || footsClash fs

/-! ## The kernel header -/

/-- A stage entry (Table 3.14). -/
structure StageEnt where
  stage : Nat
  fpfirst : Nat
  fpcount : Nat
  entry : Nat
  stack : Nat
  deriving DecidableEq, Repr

/-- A header that has been read (Table 3.13). -/
structure Hdr where
  ev : Nat
  chk : Bool
  start : Nat
  lim : Nat
  spbound : Nat
  stages : List StageEnt
  live : List (Word × Word × Word)
  fps : List Desc
  binds : List Binding
  rings : List RingEnt
  timg : Nat
  deriving DecidableEq, Repr

/-- Whether two ranges of bytes share none. -/
def apart (a b : Nat × Nat) : Bool := decide (a.1 + a.2 ≤ b.1) || decide (b.1 + b.2 ≤ a.1) || a.2 == 0 || b.2 == 0

/-- Whether ranges are pairwise apart. -/
def allApart : List (Nat × Nat) → Bool
  | [] => true
  | r :: rs => rs.all (apart r) && allApart rs

/-- Whether the numbers of a list differ. -/
def distinct : List Nat → Bool
  | [] => true
  | a :: l => !l.contains a && distinct l

/-- Whether an opcode lies in a tenant quarter that a version defines (Table 3.12); classes 0 V, 1 M, 2 X. -/
def tenantQuarter (ev cls opc : Nat) : Bool :=
  match cls with
  | 0 => decide (2 ≤ ev) && decide (0xC0 ≤ opc ∧ opc ≤ 0xFF)
  | 1 => decide (3 ≤ ev) && decide (0x30 ≤ opc ∧ opc ≤ 0x3F)
  | 2 => decide (2 ≤ ev) && decide (0xC0 ≤ opc ∧ opc ≤ 0xFF)
  | _ => false

/-- A list of records of n bytes each. -/
def chunks (n : Nat) : Nat → List Byte → List (List Byte)
  | 0, _ => []
  | k + 1, bs => bs.take n :: chunks n k (bs.drop n)

/-- A binding entry (Table 3.15) and whether it keeps R65, R67 and R320. -/
def readBind (ev : Nat) (bs : List Byte) : Binding × Bool :=
  let d := dwordAt bs 0
  let cls := nbits d 60 2
  let opc := nbits d 52 8
  let rc := nbits d 25 4
  let steps := nbits d 29 13
  ({ cls := cls, opc := opc, entry := nbits d 42 10, steps := steps, rclass := rc, tag := w64 (dwordAt bs 1) },
   nbits d 62 2 == 0 && nbits d 0 25 == 0 && tenantQuarter ev cls opc && decide (1 ≤ steps ∧ steps ≤ 4096) &&
     ((rc == 0 && cls == 0) || (rc == 1 && cls == 1) || ((rc == 2 || rc == 3) && cls == 2)))

/-- The header of an image whose bytes `rd offset count` gives, checked in the order of Table 3.16 for a node of `nst` stages, `nrg` ring declarations and
the bindings `seen` in other headers: the status of Table 12.4 of the first check that fails; 0x0F where a part cannot be read. -/
def readHdr (rd : Nat → Nat → Option (List Byte)) (nst nrg : Nat) (seen : List Binding) : Except Nat Hdr :=
  match rd 0 128 with
  | none => .error 0x0F
  | some fx =>
    let d := dwordAt fx
    let ev := nbits (d 0) 8 8
    let start := nbits (d 1) 0 32
    let lim := nbits (d 1) 32 32
    let spb := nbits (d 2) 0 17
    let cnt (k : Nat) := nbits (d k) 48 16
    let off (k : Nat) := nbits (d k) 0 32
    let timg := nbits (d 8) 0 32
    let sizes := [(3, 16), (4, 24), (5, 64), (6, 16), (7, 16)]
    let tabs := sizes.map fun p => (off p.1, cnt p.1 * p.2)
    let fixedBad := nbits (d 0) 32 32 != 0x4B485046 || nbits (d 0) 16 16 != 0 || nbits (d 0) 1 7 != 0 || nbits (d 2) 17 47 != 0 ||
      [3, 4, 5, 6, 7].any (fun k => nbits (d k) 32 16 != 0) || nbits (d 8) 32 32 != 0 || (upto 9 7).any (fun k => d k != 0)
    let layoutBad := decide (lim ≤ start) || start % 8 != 0 || lim % 8 != 0 || decide (4096 < cnt 4) || decide (1024 < cnt 5) ||
      decide (144 < cnt 6) || decide (16 < cnt 7) || sizes.any (fun p => (off p.1 == 0) != (cnt p.1 == 0)) ||
      tabs.any (fun t => t.2 != 0 && (t.1 % 8 != 0 || decide (t.1 < 128) || decide (start < t.1 + t.2))) || !allApart tabs ||
      (timg != 0 && (timg % 128 != 0 || decide (timg < lim) || decide (2 ^ 32 < timg + 256)))
    if fixedBad then .error 1
    else if ev < 1 ∨ 3 < ev then .error 2
    else if layoutBad then .error 3
    else if spb < 1 ∨ 65536 < spb then .error 4
    else if cnt 3 < 1 ∨ 4 < cnt 3 then .error 5
    else match rd (off 3) (16 * cnt 3), rd (off 4) (24 * cnt 4), rd (off 5) (64 * cnt 5), rd (off 6) (16 * cnt 6), rd (off 7) (16 * cnt 7) with
      | some bst, some blv, some bfp, some bbd, some brg =>
        let rawSt := chunks 16 (cnt 3) bst
        let stages := rawSt.map fun b =>
          { stage := nbits (dwordAt b 0) 48 8, fpfirst := nbits (dwordAt b 1) 48 16, fpcount := nbits (dwordAt b 0) 32 16,
            entry := nbits (dwordAt b 0) 0 32, stack := nbits (dwordAt b 1) 0 32 : StageEnt }
        let stageBad := rawSt.any (fun b => nbits (dwordAt b 0) 56 8 != 0 || nbits (dwordAt b 1) 32 16 != 0) ||
          !distinct (stages.map (·.stage)) || stages.any fun e =>
            decide (nst ≤ e.stage) || decide (e.entry < start) || decide (lim ≤ e.entry) || e.entry % 8 != 0 || e.stack % 16 != 0 ||
            decide (cnt 5 < e.fpfirst + e.fpcount)
        let live := (chunks 24 (cnt 4) blv).map fun b => (w64 (dwordAt b 0), w64 (dwordAt b 1), w64 (dwordAt b 2))
        let liveBad := live.any fun e => e.1.getLsbD 0 || e.2.2.getLsbD 32 || wbits e.2.2 40 24 != 0
        let bs := (chunks 16 (cnt 6) bbd).map (readBind ev)
        let bindBad := bs.any (fun b => !b.2) || (cnt 6 != 0 && timg == 0) || !distinct (bs.map fun b => b.1.cls * 256 + b.1.opc) ||
          bs.any fun b => seen.any fun o => o.cls == b.1.cls && o.opc == b.1.opc && o != b.1
        let rawRg := chunks 16 (cnt 7) brg
        let rings := rawRg.map fun b =>
          { q := nbits (dwordAt b 0) 0 4, ring := nbits (dwordAt b 0) 8 8, prod := nbits (dwordAt b 0) 16 4,
            cons := nbits (dwordAt b 0) 20 4 : RingEnt }
        let ringBad := rawRg.any (fun b => nbits (dwordAt b 0) 4 4 != 0 || nbits (dwordAt b 0) 24 40 != 0 || dwordAt b 1 != 0) ||
          !distinct (rings.map (·.q)) || rings.any fun r =>
            decide (nrg ≤ r.ring) || r.prod == 0 || r.cons == 0 || decide (2 ^ nst ≤ r.prod) || decide (2 ^ nst ≤ r.cons)
        if stageBad then .error 5
        else if liveBad then .error 6
        else if bindBad then .error 7
        else if ringBad then .error 8
        else .ok { ev := ev, chk := nbit (d 0) 0, start := start, lim := lim, spbound := spb, stages := stages, live := live,
                   fps := (chunks 64 (cnt 5) bfp).map readDesc, binds := bs.map (·.1), rings := rings, timg := timg }
      | _, _, _, _, _ => .error 0x0F

/-- The descriptors of a stage. -/
def Hdr.descs (h : Hdr) (e : StageEnt) : List Desc := (h.fps.drop e.fpfirst).take e.fpcount

/-- The image of a placed shift, with its footprints relocated. -/
def Hdr.image (h : Hdr) (base : Addr) (feet : List Foot) : Image :=
  { ev := h.ev, start := h.start, lim := h.lim, spbound := h.spbound, live := h.live, feet := feet, binds := h.binds, base := base,
    timg := if h.timg = 0 then 0 else base.toNat + h.timg }

/-- The header of the image at a virtual address of a context. -/
def State.hdrAt (s : State) (ctx : Nat) (base : Addr) (nst nrg : Nat) (seen : List Binding) : Except Nat Hdr :=
  readHdr (fun off n => (s.virtBytes (2 ^ 20) ctx (base.toNat + off) n false).toOption) nst nrg seen

/-- The entries that the reads of a header used, kept with AC set (R338): up to its code, or its fixed part where that cannot be read. -/
def State.sawHeader (s : State) (ctx : Nat) (base : Addr) : State :=
  let n := match s.virtBytes (2 ^ 20) ctx base.toNat 16 false with
    | .ok bs => let k := ofLE ((bs.drop 8).take 4); if k ≤ 2 ^ 18 then max 128 k else 128
    | .error _ => 128
  s.touchVirt (2 ^ 20) ctx base.toNat n false

end Sys2Proof.Machine
end

