-- ==== Sys2Proof/Machine/Nodes.lean ====
section
/-!
DEFINITION. Graph nodes as the dispatcher keeps them, and the packets and completions of a queue (R238 to R246, R253, R397 to R400).
-/
namespace Sys2Proof.Machine

/-! ## Packets and completions -/

/-- Field of a packet header, dword 0 (Table 21.2). -/
def Pkt.hd (p : Pkt) : Nat := (p.dw.headD 0).toNat

/-- The unit of the part's own translations (log 73): the dispatcher, the hewers and the loader. -/
abbrev partUnit : Nat := 2 ^ 20

/-- The cached lines of a range of a context written back, and dropped where `drop` says so, page by page (R393, R395). -/
def State.cacheRange (s : State) (drop : Bool) (ctx : Nat) : Nat → Nat → Nat → State
  | 0, _, _ => s
  | fuel + 1, va, n =>
    if n = 0 ∨ 2 ^ 72 ≤ va ∨ s.cache.isEmpty then s
    else match s.translate partUnit ctx va false false with
      | .error _ => s.cacheRange drop ctx fuel (va / 4096 * 4096 + 4096) (va + n - (va / 4096 * 4096 + 4096))
      | .ok e =>
        let pa := e.pa + (va - e.va)
        let k := min n (max 1 (e.va + e.size - va))
        let t := if e.fab.isSome then s
          else ((s.cache.map (·.1)).filter fun l => decide (pa / 128 ≤ l ∧ l * 128 < pa + k)).foldl (fun (s : State) l => s.cacheBack drop l) s
        t.cacheRange drop ctx fuel (va + k) (n - k)

/-- The buffers of a LAUNCH whose modes are among those given acted on (R395): each is its address, its length and its mode. -/
def State.cacheBufs (s : State) (drop : Bool) (ctx : Nat) (p : Pkt) (modes : List Nat) : State :=
  if nbits p.hd 0 8 ≠ 1 then s
  else (p.bufs.filter fun b => modes.contains b.2.2).foldl (fun (s : State) b => s.cacheRange drop ctx (b.2.1 / 4096 + 2) b.1 b.2.1) s

/-- A completion of a queue made to wait for its entry (R397, R399): failures always write one (Table 21.2). -/
def State.finishPkt (s : State) (q idx status detail : Nat) : State :=
  match (s.queue q).pkts.find? fun p => p.idx == idx with
  | none => s
  | some p =>
    -- the write-backs of OUT and INOUT buffers, before the entry (R395)
    (s.cacheBufs false (wbits (s.queue q).cfg 28 12) p [2, 3]).modQueue q fun Q =>
      { Q with pkts := Q.pkts.filter fun x => x.idx != idx,
               cpls := if nbit p.hd 8 || status != 0 then
                 Q.cpls ++ [{ tag := w64 (nbits p.hd 32 32), status := status, detail := w64 detail, irq := nbit p.hd 9, write := true }]
               else Q.cpls }

/-! ## Nodes -/

/-- Dword 1 of a node entry as the dispatcher writes it back (Table 12.2). -/
def Node.dword1 (n : Node) : Nat :=
  n.status % 256 * 2 ^ 56 + n.state % 16 * 2 ^ 52 + n.iter % 65536 * 2 ^ 32 + n.pred % 65536

/-- A half-word of a resident table. -/
def GTable.half (t : GTable) (off : Nat) : Nat := nbits ((t.bytes[off / 8]?).getD 0).toNat (8 * (off % 8)) 16

/-- A dword of a resident table. -/
def GTable.dword (t : GTable) (off : Nat) : Nat := ((t.bytes[off / 8]?).getD 0).toNat

/-- The successors of a node: the first SUCCCNT entries of its list. -/
def GTable.succs (t : GTable) (n : Node) : List Nat := (upto 0 n.succCnt).map fun k => t.half (nbits (n.d 3) 0 32 + 2 * k)

/-- The exit successors of a COND node. -/
def GTable.exits (t : GTable) (n : Node) : List Nat :=
  (upto n.succCnt n.exitCnt).map fun k => t.half (nbits (n.d 3) 0 32 + 2 * k)

/-- A node of a resident table. -/
def State.node? (s : State) (t n : Nat) : Option Node := (s.table? t).bind fun T => T.nodes[n]?

/-- The placement of a shift, or of the one that a handler serves. -/
def State.placedOf (s : State) (i : Nat) : Option Placed :=
  (s.sh? i).bind fun x => (s.node? x.place.table x.place.node).bind fun n => n.placed.find? fun p => p.core == i / 8 && p.slot == i % 4 && !p.withdrawn

/-- A node changed; the dispatcher writes dword 1 of its entry back (R238). A write that faults is lost. -/
def State.setNode (s : State) (t n : Nat) (f : Node → Node) : State :=
  match s.table? t with
  | none => s
  | some T =>
    match T.nodes[n]? with
    | none => s
    | some x =>
      let y := f x
      let s := s.modTable t fun T => { T with nodes := setAt T.nodes n y }
      if y.dword1 = x.dword1 then s
      else match s.virtPut partUnit T.ctx (T.addr.toNat + 0x40 + 256 * n + 8) (leBytes 8 y.dword1) with
        | .ok s' => s'
        | .error _ => s

/-- Whether a node of the launch has FAILED, now or before it was re-armed (R246). -/
def GTable.failed (t : GTable) : Bool := !t.fails.isEmpty || t.nodes.any fun n => n.state == 5

/-- A node made READY, unless a node of its launch has FAILED (R246). -/
def State.makeReady (s : State) (t n : Nat) : State :=
  match s.table? t with
  | none => s
  | some T => if T.failed then s else s.setNode t n fun x => { x with state := 2, ready := s.dcc, checked := false }

/-- Whether every shift of a placement has raised its halt line (R253). -/
def Node.allHalted (n : Node) : Bool := n.placed.all (·.halted)

/-- A launch finished where no node is READY or RUNNING and no shift of it is left (R246): the packet completes, the table is free. -/
def State.launchFinish (s : State) (t : Nat) : State :=
  match s.table? t with
  | none => s
  | some T =>
    if T.nodes.any fun n => n.state == 2 || n.state == 3 || !n.allHalted then s
    else
      let s := { s with tables := NMap.del s.tables t }
      match T.fails with
      | [] => s.finishPkt T.queue T.pkt 0 0
      | (k, status) :: _ => s.finishPkt T.queue T.pkt 1 (k * 2 ^ 32 + status)

/-- The manifests that a node opened are free for any write (R223); an anchor of another package is told. -/
def State.freeManifests (s : State) (t n : Nat) : State :=
  let mine := s.manifests.filter fun m => m.2.1 == t && m.2.2 == n
  (mine.filter fun m => linePkg m.1 != s.mg.idpkg).foldl
    (fun s m => s.sendBun none (linePkg m.1) { bunTo 10 m.1 0 0 with index := nodePlace t n, count := s.mg.idpkg })
    { s with manifests := s.manifests.filter fun m => !(m.2.1 == t && m.2.2 == n) }

/-- Nodes that no longer use their link stores; a store is emptied when the last node that uses it leaves (R328). -/
def State.leaveLinks (s : State) (gone : Nat × Nat → Bool) : State :=
  { s with links := s.links.filterMap fun l =>
      let us := l.2.users.filter fun u => !gone u
      if us.isEmpty then none else some (l.1, { l.2 with users := us }) }

/-- The cores, banks, locks, rings, manifests and link stores of a node given back (R207, R211, R223, R253, R328). -/
def State.releaseNode (s : State) (t n : Nat) : State :=
  match s.table? t, s.node? t n with
  | some T, some x =>
    let s := x.placed.foldl (fun s p => s.modCore p.core fun c => { c with locks := c.locks.filter fun l => l.1 != T.ctx }) s
    let s := { s with rings := s.rings.filter fun r => !(r.table == t && r.node == n) }.freeManifests t n
    let s := s.modTable t fun T => { T with nodes := setAt T.nodes n { x with placed := [] } }
    s.leaveLinks fun u => u == (t, n)
  | _, _ => s

/-- A node made FAILED with a status (R245, R246); what it holds is given back once its shifts have ended. -/
def State.failOnly (s : State) (t n status : Nat) : State :=
  match s.node? t n with
  | none => s
  | some x =>
    let s := if x.state = 5 then s
      else (s.setNode t n fun x => { x with state := 5, status := status }).modTable t fun T => { T with fails := NMap.set T.fails n status }
    if x.allHalted then s.releaseNode t n else s

/-- One decrement of a node's PRED (R242): READY at 0; a decrement that finds 0 fails the node with BADNODE. -/
def State.decrement (s : State) (t n : Nat) : State :=
  match s.node? t n with
  | none => s
  | some x =>
    if x.pred = 0 then s.failOnly t n 0x0B
    else
      let s := s.setNode t n fun x => { x with pred := x.pred - 1 }
      if x.pred = 1 ∧ x.state = 1 then s.makeReady t n else s

/-- The edges that R181 added out of a node taken away, each with its decrement (R243). -/
def State.dropEdges (s : State) (t n : Nat) : State :=
  let later := s.tables.flatMap fun u => (u.2.edges.filter fun e => e.1 == t && e.2.1 == n).map fun e => (u.1, e.2.2)
  let s := { s with tables := s.tables.map fun u => (u.1, { u.2 with edges := u.2.edges.filter fun e => !(e.1 == t && e.2.1 == n) }) }
  later.foldl (fun s p => s.decrement p.1 p.2) s

/-- A node FAILED, its edges dropped, and the launch finished where nothing of it is left (R243, R246). -/
def State.nodeFail (s : State) (t n status : Nat) : State := ((s.failOnly t n status).dropEdges t n).launchFinish t

/-- The halt line of a placed shift raised (R253): the shift leaves its core, with the line locks of its context there (R207); its slot and banks stay the
node's until the node completes. A FAILED node whose shifts have all ended is released. -/
def State.raiseHalt (s : State) (i : Nat) : State :=
  match s.sh? i with
  | none => s
  | some x =>
    let p := x.place
    let s := { s with shifts := NMap.del s.shifts i }
    let s := s.modCore p.core fun c =>
      { c with
        order := c.order.filter (· != p.slot), issuing := if c.issuing = some p.slot then none else c.issuing,
        locks := if s.shifts.any fun e => e.1 / 8 == p.core && e.2.place.ctx == p.ctx then c.locks else c.locks.filter fun l => l.1 != p.ctx }
    let s := s.modTable p.table fun T =>
      { T with
        moves := T.moves.filter fun m => m.sh != i,
        nodes := match T.nodes[p.node]? with
          | none => T.nodes
          | some n => setAt T.nodes p.node
              { n with placed := n.placed.map fun q => if q.core = p.core ∧ q.slot = p.slot then { q with halted := true } else q } }
    match s.node? p.table p.node with
    | none => s
    | some n => if n.state = 5 ∧ n.allHalted then (s.releaseNode p.table p.node).launchFinish p.table else s

end Sys2Proof.Machine
end

