-- ==== Sys2Proof/Machine/Frame.lean ====
section
/-!
DEFINITION. The trap frame (R370 to R373, R436; Tables 19.3 to 19.12): what the part writes, and what TRET reads back (R375).
-/
namespace Sys2Proof.Machine

/-- A list of bytes made n long: cut, or filled with zeros. -/
def padTo (n : Nat) (bs : List Byte) : List Byte := bs.take n ++ zeros (n - bs.length)

/-- Dwords as bytes. -/
def dwords (l : List Nat) : List Byte := l.flatMap (leBytes 8)

/-- A number of fields (low bit, value). -/
def fields (l : List (Nat × Nat)) : Nat := l.foldl (fun a p => a + p.2 * 2 ^ p.1) 0

/-- The number of a special register (Table 6.9). -/
def specNum : SpecReg → Nat
  | .vl => 0 | .stat => 1 | .tcb => 2 | .sb => 3 | .stkb => 4 | .stkl => 5 | .rnd => 6 | .chk => 7

/-- A ring register (Table 10.7). -/
def Ring.dword (q : Ring) : Nat :=
  fields [(63, bnat q.v), (60, q.space % 8), (56, q.prod.toNat), (52, q.cons.toNat), (42, q.log2sz % 32), (41, bnat q.hc), (40, bnat q.hw),
    (34, q.hk % 64), (0, q.base % 2 ^ 26)]

/-- A route handle, 32 bytes (Table 14.7). -/
def Handle.bytes (h : Handle) : List Byte :=
  leBytes 8 (fields [(63, bnat h.v), (40, h.dstpkg % 4096), (35, h.len % 32), (0, h.gen % 2 ^ 32)]) ++ padTo 24 h.hops

/-- A vector register as 256 bytes. -/
def vregBytes (v : VReg) : List Byte := leBytes 256 v.toNat

/-- The kind, destination, count, X2, AUX, addresses and value of a landing (Table 19.6). -/
def LandTo.entry (d : LandTo) : Nat × Nat × Nat × Nat × Nat × List Byte × List Byte :=
  match d with
  | .nothing => (0, 0, 0, 0, 0, [], [])
  | .s r w => (1, r.val, 0, 0, 0, [], leBytes 8 w.toNat)
  | .a r w => (2, r.val, 0, 0, 0, [], leBytes 16 w.toNat)
  | .g r b => (3, r.val, 0, 0, 0, [], leBytes 8 (bnat b))
  | .v r first n w => (4, r.val, 0, 0, 0, [], vregBytes (laneMerge 0 w first n))
  | .special r w => (5, specNum r, 0, 0, 0, [], leBytes 8 w.toNat)
  | .crd r lo hi _ => (6, r.val, 0, 0, 0, [], vregBytes lo ++ vregBytes hi)
  | .part r t f sd nt => (7, r.val, 0, sd.val, nt.toNat, [], vregBytes t ++ vregBytes f)
  | .vsetvl sd n => (8, sd.val, 0, 0, 0, [], leBytes 8 n.toNat)
  | .pad b data => (0x10, 0, data.length % 256, 0, b, [], data)
  | .padElems w els => (0x11, 0, els.length, w, 0, els.flatMap fun e => leBytes 4 e.1, els.flatMap (·.2))
  | .lane one els => (0x12, one.getD 0, els.length, 0, 0, els.flatMap fun e => leBytes 4 e.2.1, els.flatMap (·.2.2))
  | .partn b arms counts idx =>
    (0x13, 0, arms, 0, b, [], ((upto 0 8).flatMap fun j => leBytes 4 (counts.getD j 0)) ++ idx.flatMap fun l => l.flatMap (leBytes 4))

/-- Words cut from bytes in the sizes of given lists. -/
def regroup : List (List Nat) → List Byte → List (List Nat)
  | [], _ => []
  | l :: ls, bs =>
    (upto 0 l.length).map (fun j => ofLE ((bs.drop (4 * j)).take 4)) :: regroup ls (bs.drop (4 * l.length))

/-- A landing with the VALUE of its entry edited (R375): its places and sizes stay. -/
def LandTo.edit (d : LandTo) (val : List Byte) : LandTo :=
  let w (o : Nat) : Word := w64 (ofLE ((val.drop o).take 8))
  let v (o : Nat) : VReg := BitVec.ofNat 2048 (ofLE ((val.drop o).take 256))
  match d with
  | .nothing => .nothing
  | .s r _ => .s r (w 0)
  | .a r _ => .a r (BitVec.ofNat 72 (ofLE (val.take 9)))
  | .g r _ => .g r ((w 0).getLsbD 0)
  | .v r first n _ => .v r first n (v 0)
  | .special r _ => .special r (w 0)
  | .crd r _ _ b => .crd r (v 0) (v 256) b
  | .part r _ _ sd nt => .part r (v 0) (v 256) sd nt
  | .vsetvl sd _ => .vsetvl sd (w 0)
  | .pad b data => .pad b (val.take data.length)
  | .padElems n els => .padElems n ((upto 0 els.length).map fun j => ((els.getD j (0, [])).1, (val.drop (n * j)).take n))
  | .lane one els =>
    .lane one ((els.foldl (fun (p : Nat × List (Nat × Nat × List Byte)) e =>
      (p.1 + e.2.2.length, p.2 ++ [(e.1, e.2.1, (val.drop p.1).take e.2.2.length)])) (0, [])).2)
  | .partn b arms _ idx =>
    .partn b arms ((upto 0 8).map fun j => ofLE ((val.drop (4 * j)).take 4)) (regroup idx (val.drop 32))

/-- The issue ranks of landings: the position of each one's sequence number among those of the record. -/
def ranksOf (ls : List Landing) : List Nat :=
  let seqs := ls.foldl (fun acc l => if acc.contains l.seq then acc else acc ++ [l.seq]) []
  ls.map fun l => ((upto 0 seqs.length).find? fun k => seqs[k]? == some l.seq).getD 0

/-- A landing entry, 1 KiB (Table 19.6). -/
def Landing.bytes (l : Landing) (rank : Nat) : List Byte :=
  let e := l.dst.entry
  padTo 1024 (padTo 256 (dwords [fields [(56, e.1), (48, e.2.1 % 256), (40, l.left % 256), (32, rank % 256), (24, e.2.2.1 % 256),
    (16, e.2.2.2.1 % 256), (0, l.flags.toNat)], e.2.2.2.2.1]) ++ padTo 256 e.2.2.2.2.2.1 ++ e.2.2.2.2.2.2)

/-- A unit record: its header, then m0 to m15 (Table 19.7). -/
def MicroUnit.record (u : MicroUnit) (lane : Bool) : List Byte :=
  if !u.v then []
  else
    padTo 256 (dwords [fields [(63, 1), (62, bnat u.halt), (40, if u.halt then u.code % 256 else 0), (36, if u.halt then u.cause % 16 else 0),
      (16, u.steps % 8192), (12, bnat u.ten), (0, u.mpc % 4096)], if u.halt then u.faddr.toNat % 2 ^ 64 else 0,
      if u.halt then u.faddr.toNat / 2 ^ 64 else 0]) ++
    u.m.toList.flatMap fun m => if lane then vregBytes m else leBytes 16 (m.toNat % 2 ^ 72)

/-- The four dwords of a footprint in a job record (Table 19.10). -/
def footDwords (f : Option Foot) : List Nat :=
  match f with
  | none => [0, 0, 0, 0]
  | some f =>
    let b := wrap f.base 72
    [b % 2 ^ 64, fields [(32, f.rows % 2 ^ 32), (8, spNum f.space), (0, b / 2 ^ 64)], f.len % 2 ^ 40, wrap f.rstride 64]

/-- A job record, 128 bytes (Table 19.10). -/
def Job.bytes (j : Job) : List Byte :=
  dwords ([j.raw.toNat, j.desc.toNat, j.opi.toNat, j.opx.toNat, j.ea.toNat % 2 ^ 64,
    fields [(30, j.eng % 4), (24, j.tok.val), (16, j.state % 256), (8, j.src.toNat / 2 ^ 64), (0, j.ea.toNat / 2 ^ 64)],
    j.src.toNat % 2 ^ 64] ++ footDwords j.reads.head? ++ footDwords j.writes.head? ++ [j.done])

/-- The job places of a frame: n for one engine. -/
def jobPlaces (js : List Job) (eng n : Nat) : List Byte := padTo (128 * n) ((js.filter fun j => j.eng == eng).take n |>.flatMap Job.bytes)

/-- A barrier group's fields (Table 19.11). -/
def Group.dword (g : Group) : Nat := fields [(24, g.code % 256), (16, g.flags.toNat), (0, g.count % 65536)]

/-- The MBWAIT status of a barrier (Table 8.2). -/
def MBar.status (b : MBar) : Word := w64 (fields [(32, b.phase.toNat), (16, b.lastCode % 256), (0, b.lastFlags.toNat)])

/-- A barrier record (Table 19.11). -/
def MBar.bytes (b : MBar) : List Byte := dwords [b.opn.dword, b.arm.dword + bnat b.armed * 2 ^ 63, b.status.toNat, 0]

/-- A matrix-queue entry (Table 19.11); `now` is the cycle P. -/
def MOp.picture (m : MOp) (now : Nat) : List Byte :=
  dwords [m.raw.toNat, fields [(63, 1), (62, bnat m.target.isNone),
    (0, match m.target with | none => 0 | some t => wrap ((t : Int) - now) 32)], 0, 0]

/-- Code of a scope (Table 9.5). -/
def scopeNum (s : Scope) : Nat := scRank s

/-- The fabric physical line address of a local line number or fabric line (R223): package in [63:52]. -/
def lineAddr (line : Nat) : Nat := line * 128

/-- The bundle section (Table 19.12), 4 KiB. -/
def Shift.bundleSection (x : Shift) : List Byte :=
  let b := x.bundle
  let bun := if b.v then
      dwords ([fields [(63, 1), (62, bnat b.full), (56, b.members.length % 16), (32, b.version % 4096), (0, b.name % 2 ^ 20)],
        lineAddr b.manifest] ++ b.members.map lineAddr)
    else []
  let w := x.view
  let view := if w.v then
      padTo 0x10 (dwords [fields [(63, 1), (62, bnat w.expired), (61, bnat w.overflow), (32, min w.lines.length 64), (0, scopeNum w.scope)]]) ++
      padTo 0x200 (dwords ((w.vers.take 64).map fun p => fields [(63, 1), (32, p.2 % 4096), (0, p.1 % 2 ^ 20)])) ++
      dwords ((w.lines.take 64).map lineAddr)
    else []
  let opt := (upto 0 x.opt.length).flatMap fun k =>
    match x.opt[k]? with
    | some p => dwords [fields [(63, 1), (32, p.2.1 % 4096), (0, p.1 % 2 ^ 20)], k]
    | none => []
  padTo 0x1000 (padTo 0x800 (padTo 0x100 bun ++ view) ++ opt)

/-- The guards in bits 7 to 0; bit 0 is 1. -/
def Shift.guardBits (x : Shift) : Nat := (upto 0 8).foldl (fun acc j => acc + bnat (x.rg (Fin.ofNat 8 j)) * 2 ^ j) 0

/-- The header of a frame (Table 19.4). -/
def frameHeader (x : Shift) (f : FaultInfo) (dcc pendS pendV : Nat) : List Byte :=
  dwords [fields [(32, 0x5446524D), (24, f.code % 256), (20, f.cause % 16), (16, f.unit % 16), (14, f.word % 4), (12, f.tstg % 4),
      (8, f.tlvl % 8), (0, x.landings.length % 64)],
    fields [(48, f.num % 65536), (0, x.regs.pc % 2 ^ 32)], f.faddr.toNat % 2 ^ 64, f.faddr.toNat / 2 ^ 64, dcc % 2 ^ 64,
    fields ((x.pend.faults.map (·.code)).foldl (fun acc c => if acc.any (fun p => p.1 == c) then acc else acc ++ [(c, 1)]) []),
    pendS, pendV, fields [(52, x.place.ctx % 4096), (32, x.place.node % 65536), (0, x.place.index % 2 ^ 32)]]

/-- The frame of a shift stopped at P (Table 19.3), 256 KiB; `jobs` are its jobs in queue order, `pendS` and `pendV` the registers that await
results, `now` the matrix time of P, `free` the counter for what the manual gives no layout of (log 14). -/
def frameBytes (x : Shift) (f : FaultInfo) (jobs : List Job) (dcc pendS pendV now free : Nat) : List Byte :=
  let ae (e : Nat) : List Byte := padTo 512 (((jobs.find? fun j => j.eng == e && j.unit.v).map fun j => j.unit.record false).getD [])
  padTo 0x100 (frameHeader x f dcc pendS pendV) ++
  dwords ((upto 0 64).map fun n => (x.rs (Fin.ofNat 64 n)).toNat) ++
  (upto 0 32).flatMap (fun n => leBytes 16 (x.ra (Fin.ofNat 32 n)).toNat) ++
  padTo 0x100 (dwords [x.sp.vl, x.sp.stat.toNat, x.sp.tcb.toNat, x.sp.sb.toNat, x.sp.stkb.toNat, x.sp.stkl.toNat, x.sp.seed.toNat,
    x.sp.chk.toNat, x.guardBits, x.evl.toNat, x.tim.spc, x.tim.owed, x.tim.laneBusy]) ++
  padTo 0x200 (x.sp.gens.toList.flatMap fun g => leBytes 4 g.toNat) ++
  padTo 0x80 (dwords (x.rings.toList.map Ring.dword)) ++
  padTo 0x380 (x.handles.toList.flatMap Handle.bytes) ++
  padTo 0x200 ((x.mx.queue.take 16).flatMap fun m => m.picture now) ++
  padTo 0x200 (x.mx.bars.toList.flatMap MBar.bytes) ++
  x.regs.v.toList.flatMap vregBytes ++
  padTo 0xC000 ((x.landings.zip (ranksOf x.landings)).take 48 |>.flatMap fun p => p.1.bytes p.2) ++
  padTo 0x2000 (x.lane.record true) ++ ae 1 ++ ae 2 ++
  jobPlaces jobs 1 4 ++ jobPlaces jobs 2 4 ++ jobPlaces jobs 0 16 ++
  padTo 0x20000 ((upto 0 x.conts.length).flatMap fun k => (upto 0 8192).map fun b => Config.contByte (free + k) b) ++
  padTo 0xC000 x.bundleSection

/-! ## What TRET reads back -/

/-- A frame in memory, by dword offset. -/
def fdw (bs : List Byte) (off : Nat) : Nat := ofLE ((bs.drop off).take 8)

/-- Whether an ACTION of a unit record is not 0 or 1, or is 1 where the unit has not halted (R375). -/
def badAction (bs : List Byte) (off : Nat) (u : MicroUnit) : Bool :=
  let a := nbits (fdw bs off) 48 8
  decide (1 < a) || (a == 1 && !(u.v && u.halt))

/-- Whether the KIND of entry k of a frame's landing record is neither the one written, which is 0 behind the last entry, nor 0 (R375). -/
def badKind (x : Shift) (bs : List Byte) (k : Nat) : Bool :=
  let kind := nbits (fdw bs (0x5000 + 1024 * k)) 56 8
  kind != 0 && some kind != (x.landings[k]?).map (·.dst.entry.1)

/-- The dwords of a frame that R375 checks, by rising offset, each with whether it fails; `u` are the unit records as written. Where STKB > STKL both
are multiples of 16 the dword of STKB is the one that fails (log 20). -/
def frameChecks (x : Shift) (bs : List Byte) (u : Nat → MicroUnit) : List (Nat × Bool) :=
  let d := fdw bs
  let pc := nbits (d 8) 0 32
  [(0, nbits (d 0) 32 32 != 0x5446524D), (8, pc % 8 != 0 || decide (pc < x.img.start) || decide (x.img.lim < pc + 8))] ++
  (upto 0 32).map (fun n => (0x308 + 16 * n, d (0x308 + 16 * n) / 256 != 0)) ++
  [(0x500, decide (64 < d 0x500)), (0x508, !statLegal (w64 (d 0x508))), (0x520, d 0x520 % 16 != 0 || (d 0x528 % 16 == 0 && decide (d 0x528 < d 0x520))),
    (0x528, d 0x528 % 16 != 0), (0x538, !chkLegal (w64 (d 0x538))), (0x540, d 0x540 % 2 == 0)] ++
  (upto 0 48).map (fun k => (0x5000 + 1024 * k, badKind x bs k)) ++
  [(0x11000, badAction bs 0x11000 (u 0)), (0x13000, badAction bs 0x13000 (u 1)), (0x13200, badAction bs 0x13200 (u 2))]

/-- The offset of the first dword of a frame that fails a check of R375. -/
def badFrame (x : Shift) (bs : List Byte) (u : Nat → MicroUnit) : Option Nat := ((frameChecks x bs u).find? (·.2)).map (·.1)

/-- The shift with the W registers and fields of a frame (R375): what awaits a result keeps its live value; STAT and EVL keep what arrived
since; landings whose KIND is 0 are dropped. -/
def Shift.fromFrame (x : Shift) (bs : List Byte) (pendS pendV : Nat) : Shift :=
  let d := fdw bs
  let s := Vector.ofFn fun n : Fin 64 => if nbit pendS n.val || n.val == 0 then x.regs.s[n] else w64 (d (0x100 + 8 * n.val))
  let a := Vector.ofFn fun n : Fin 32 => BitVec.ofNat 72 (ofLE ((bs.drop (0x300 + 16 * n.val)).take 9))
  let g := Vector.ofFn fun n : Fin 8 => nbit (d 0x540) n.val
  let v := Vector.ofFn fun n : Fin 64 =>
    if nbit pendV n.val then x.regs.v[n] else BitVec.ofNat 2048 (ofLE ((bs.drop (0x1000 + 256 * n.val)).take 256))
  let ls := (upto 0 x.landings.length).filterMap fun k =>
    match x.landings[k]? with
    | none => none
    | some l =>
      let o := 0x5000 + 1024 * k
      if nbits (d o) 56 8 = 0 then none else some { l with dst := l.dst.edit ((bs.drop (o + 0x200)).take 512) }
  { x with
    regs := { pc := nbits (d 8) 0 32, s := s, a := a, g := g, v := v },
    sp := { x.sp with vl := d 0x500, stat := orFlags (w64 (d 0x508)) x.tim.statSince, stkb := w64 (d 0x520), stkl := w64 (d 0x528),
                      chk := w64 (d 0x538) },
    evl := BitVec.ofNat 16 (d 0x548) ||| x.tim.evlSince,
    landings := ls }

end Sys2Proof.Machine
end

