-- ==== Sys2Proof/Machine/Ops.lean ====
section
/-!
DEFINITION. The operations that meanings share: verdicts of issue checks (R59, R193), requests to homes (R33, R175), tokens and the ends of
jobs (R196, R200), the end of a shift (R375), and taking a trap (R366 to R370).
-/
namespace Sys2Proof.Machine

/-! ## Issue -/

/-- What the checks of a word at issue find: it may issue, its bundle is held (R193), or it faults (check 7 of Table 3.11). -/
inductive Verdict where
  | go
  | hold (s : State)
  | fault (f : FaultInfo)

/-! ## Slots of rings -/

/-- Bytes of PAD, CREW or CHIP at an offset of the space of a core, crew or die. -/
def State.putSpace (s : State) (sp : Space) (dom off : Nat) (bs : List Byte) : State :=
  match sp with
  | .crew => { s with crew := s.crew.put (dom * 2 ^ 21 + off) bs }
  | .chip => { s with chip := s.chip.put (dom * 2 ^ 26 + off) bs }
  | _ => s.putPad dom off bs

/-- A byte of PAD, CREW or CHIP. -/
def State.spaceByte (s : State) (sp : Space) (dom off : Nat) : Nat := let m := s.spaceMem sp dom; (m.1.get (m.2 + off)).toNat

/-- Slot k of a ring given back (R200): EMPTY where it was claimed, else FULL; the pointer goes back where it is still next to k. -/
def State.returnSlot (s : State) (sp : Space) (dom base k : Nat) (claimed : Bool) : State :=
  let m := s.spaceMem sp dom
  let slots := m.1.ringSlots (m.2 + base)
  let p := if claimed then base + 4 else base + 5
  let ptr := s.spaceByte sp dom p
  let s := s.putSpace sp dom (base + 0x40 + k) [if claimed then 0 else 2]
  if ptr = (k + 1) % slots then s.putSpace sp dom p [BitVec.ofNat 8 k] else s

/-- The slots that a unit holds given back; an entry names a ring register of the shift. -/
def State.returnHeld (s : State) (x : Shift) (held : List (Nat × Nat × Bool)) : State :=
  held.foldl (fun s h =>
    match x.rings[h.1]? with
    | none => s
    | some q => let sp := spaceOfNum q.space; s.returnSlot sp (spDom sp x.place.core) q.base h.2.1 h.2.2) s

/-! ## Tokens and the ends of jobs -/

/-- A token (Table 10.2). -/
def tokenWord (count cause code status : Nat) : Word := w64 (fields [(32, count % 2 ^ 32), (16, cause % 16), (8, code % 256), (0, status % 256)])

/-- A job that has ended: its engine is done with it, and its token is on its way (R186, R196). State 4: nothing left but the token. -/
def State.jobDone (s : State) (id : Nat) (tok : Word) : State :=
  match s.job? id with
  | none => s
  | some j => (s.modJob id fun j => { j with state := 4, unit := { j.unit with v := false } }).post (.token j.sh j.tok tok (some id))

/-- The CAUSE of a token: that of the memory-model or route fault; 0 otherwise (Table 10.2). -/
def tokenCause (f : FaultInfo) : Nat := if f.code = 0x0B ∨ f.code = 0x0E then f.cause else 0

/-- A job ended by recovery (R200, R318, R375): its engine's slots go back, and its token takes STATUS ENDED with the fault's CODE and CAUSE. -/
def State.endJob (s : State) (id : Nat) : State :=
  match s.job? id with
  | none => s
  | some j =>
    let s := match s.sh? j.sh with
      | none => s
      | some x => s.returnHeld x j.unit.held
    let f : FaultInfo := { code := if j.unit.halt then j.unit.code else 0, cause := if j.unit.halt then j.unit.cause else 0 }
    s.jobDone id (tokenWord j.done (tokenCause f) f.code 0x04)

/-! ## Bundles of lines: what recovery discards -/

/-- A pending version at a line's home discarded (Table 11.4). -/
def State.discardSide (s : State) (line name version : Nat) : State :=
  s.modLine line fun l =>
    match l.side with
    | none => l
    | some e => if e.pending ∧ e.name = name ∧ e.version = version then { l with side := none } else l

/-- A dword of a structure of the part at its home; one that cannot be read, for poison or because its memory is shut off, counts as 0 (log 93). -/
def State.partDword (s : State) (pa : Nat) : Nat := (s.walkDword pa).getD 0

/-- Dword 0 of a manifest (Table 11.1). -/
def State.manifest (s : State) (line : Nat) : Nat := s.partDword (line * 128)

/-- STATE of a manifest: 0 IDLE, 1 OPEN, 2 COMMITTED, 3 SETTLED, 4 ABORTED. -/
def manState (d : Nat) : Nat := nbits d 25 3
/-- NAME of a manifest. -/
def manName (d : Nat) : Nat := nbits d 44 20
/-- VERSION of a manifest. -/
def manVersion (d : Nat) : Nat := nbits d 32 12

/-- Dword 0 of a manifest written by the hardware, as a write at its home: dropped and counted on a retired page or behind a shut window (R298, R378). -/
def State.putManifest (s : State) (line d : Nat) : State := s.poke (line * 128) (leBytes 8 d) none

/-- STATE of a manifest set. -/
def State.setManState (s : State) (line st : Nat) : State :=
  let d := s.manifest line
  s.putManifest line (d - manState d * 2 ^ 25 + st * 2 ^ 25)

/-- The open bundles of a context, one fewer (R226). -/
def State.closeOpen (s : State) (ctx : Nat) : State := { s with opens := NMap.put s.opens ctx 0 (NMap.getD s.opens ctx 0 - 1) }

/-- Discards of a bundle's pending versions on their way to the homes of its members (R229, R230). -/
def State.sendDiscards (s : State) (b : Bundle) : State :=
  { s with msgs := s.msgs ++ b.members.map fun m => .discard m b.name b.version }

/-- The anchor's STATE ABORTED where the version is still OPEN (R229, R230). -/
def State.anchorAbort (s : State) (line name version : Nat) : State :=
  let d := s.manifest line
  if manState d = 1 ∧ manName d = name ∧ manVersion d = version then s.setManState line 4 else s

/-- A bundle given up (R229, R230): discards on their way to every member home, and the anchor ABORTED, here or by a message. -/
def State.giveUp (s : State) (b : Bundle) : State :=
  let t := s.sendDiscards b
  if linePkg b.manifest = s.mg.idpkg then t.anchorAbort (localLine b.manifest) b.name b.version
  else t.sendBun none (linePkg b.manifest) (bunTo 3 b.manifest b.name b.version)

/-- The open bundle of a shift discarded as under BABORT (R230, R237). -/
def State.discardBundle (s : State) (x : Shift) : State := if x.bundle.v then (s.giveUp x.bundle).closeOpen x.place.ctx else s

/-! ## The end of a shift -/

/-- The shift in whose place a number stands: a handler's shift, or itself. -/
def baseOf (i : Nat) : Nat := if i % 8 < 4 then i else i - 4

/-- The number under which the accesses of shift i, or of its handler, go on once it has ended. -/
def State.stray (s : State) (i : Nat) : Nat :=
  match s.sh? (baseOf i) with
  | none => i
  | some x => strayOf (nodePlace x.place.table x.place.node) i

/-- What was under way for ended shifts: their accesses go on, as those of no shift (R254), and nothing answers them any more; an event that they signalled
still follows their accesses (R266). -/
def State.detach (s : State) (own : Nat → Bool) : State :=
  let has (o : Option Nat) : Bool := match o with | some i => own i | none => false
  { s with
    waiters := s.waiters.filter fun w => !own w.sh,
    fab := { s.fab with ops := s.fab.ops.map fun (o : FabOp) => if has o.sh && o.kind != 6 then { o with kind := 4, dst := none, job := none, sh := o.sh.map s.stray } else o },
    msgs := s.msgs.filterMap fun m =>
      match m with
      | .req r => if has r.sh then (if r.fetch.isSome then none else some (.req { r with dst := none, sh := r.sh.map s.stray })) else some m
      | .token sh _ _ _ | .arrive sh _ _ _ _ | .arriveH sh _ _ => if own sh then none else some m
      | .event src seq sh bits => if own sh then none else some (if own src then .event (s.stray src) seq sh bits else m)
      | _ => some m }

/-- The pending PAD and LANE writes of a shift that ends land at once. -/
def State.flushMem (s : State) (i : Nat) : State :=
  match s.sh? i with
  | none => s
  | some x => (x.landings.filter fun l => match l.dst with | .pad _ _ | .padElems _ _ | .lane _ _ | .partn _ _ _ _ => true | _ => false).foldl
      (fun s l => l.dst.toMem (i / 8) s) s

/-- A shift ended as `tret.end` lays down (R375): held slots returned, those of its lane routine among them, the open bundle discarded, its jobs ended, its node FAILED. -/
def State.endShift (s : State) (i : Nat) (status : Nat) : State :=
  let b := baseOf i
  match s.sh? b with
  | none => s
  | some x =>
    let own (sh : Nat) : Bool := sh == b || sh == b + 4
    let s := s.flushMem b
    let s := (x.rings.toList.zip (upto 0 16)).foldl (fun s p =>
      if p.1.v ∧ (p.1.hc ∨ p.1.hw) then
        let sp := spaceOfNum p.1.space
        s.returnSlot sp (spDom sp x.place.core) p.1.base p.1.hk p.1.hc
      else s) s
    let s := s.returnHeld x x.lane.held
    let s := s.discardBundle x
    let s := match s.sh? (b + 4) with | some h => s.discardBundle h | none => s
    let s := (s.jobs.filter fun j => own j.sh).foldl (fun s j => s.endJob j.id) s
    let s := { s with jobs := s.jobs.filter (fun j => !own j.sh), shifts := NMap.del s.shifts (b + 4) }.detach own
    (s.raiseHalt b).nodeFail x.place.table x.place.node status

/-- A system fault (R367): the shift ends, and the deputy pair records it in the black box (R381). -/
def State.systemFault (s : State) (i : Nat) (f : FaultInfo) : State :=
  (s.endShift i 0x0F).log 1 (i / 8) f.code (f.faddr.setWidth 128)

/-! ## Taking a trap -/

/-- The registers that a frame marks as awaiting a result (R371): those with an interlock, but for registers that a tenant routine only keeps
from other bundles. -/
def State.pendShown (s : State) (i : Nat) (x : Shift) : Nat × Nat :=
  let idle := (if x.lane.v then x.lane.idle else []) ++ (s.jobs.filter fun j => j.sh == i && j.unit.v).flatMap fun j => j.unit.idle
  ((upto 0 64).foldl (fun a n => a + bnat (x.pend.s.getLsbD n && !idle.contains (.s (Fin.ofNat 64 n))) * 2 ^ n) 0,
   (upto 0 64).foldl (fun a n => a + bnat (x.pend.v.getLsbD n && !idle.contains (.v (Fin.ofNat 64 n))) * 2 ^ n) 0)

/-- The registers and special registers of a shift at its start, all zero but what R248 and R55 set. -/
def startRegs (a0 a1 : Addr) (s1 s2 s3 : Word) (entry stkb stkl : Nat) (chk : Bool) : Regs × Spec :=
  ({ Regs.zero with
     pc := entry,
     s := ((Regs.zero.s.set 1 s1).set 2 s2).set 3 s3,
     a := ((Regs.zero.a.set 0 a0).set 1 a1).set 31 (BitVec.ofNat 72 stkl) },
   { Spec.zero with stkb := w64 stkb, stkl := w64 stkl, chk := if chk then 1 else 0, gens := seedAll 0 })

/-- The stack pointer that a trap of a shift finds (R368): a31, or what it held at a switch that did not keep it, while nothing has been written to it since
(DESIGN CHOICE, log 97). -/
def Shift.trapStack (x : Shift) : Addr := if x.ra 31 = 0 then x.tim.stackAt.getD 0 else x.ra 31

/-- The handler shift of a trap (R368), or none where its image fails a check of R367. DESIGN CHOICE (log 85): it has no bindings of tenant opcodes. -/
def State.handlerFor (s : State) (i : Nat) (x : Shift) (code : Nat) (frame : Addr) : Option Shift :=
  let c := s.ctx x.place.ctx
  let base : Addr := BitVec.ofNat 72 (c.tvimg.toNat + wbits c.tvctl 0 8 * 2 ^ 64)
  match s.hdrAt x.place.ctx base 1 0 [] with
  | .error _ => none
  | .ok h =>
    match h.stages with
    | [e] =>
      let pad := lowBank x.place.banks * 0x8000
      let stkl := x.trapStack.toNat / 16 * 16
      let descs := h.descs e
      let feet := descs.map fun d => d.at 0 pad frame.toNat
      if e.stage ≠ 0 ∨ h.binds ≠ [] ∨ h.rings ≠ [] ∨ descs.any (fun d => !d.good) ∨ stkl < e.stack ∨ stkl - e.stack < x.sp.stkb.toNat ∨
          feet.any (fun f => f.bad x.place.banks (stkl - e.stack) stkl) ∨ footsClash feet then none
      else
        let r := startRegs base frame (w64 code) (w64 x.place.node) (w64 x.place.core) e.entry (stkl - e.stack) stkl h.chk
        some { Shift.zero with
          regs := r.1, sp := { r.2 with sb := w64 s.dcc }, img := h.image base feet,
          place := { x.place with stage := 0, mx := false, serves := some i, frame := frame, fpbase := frame, slot := x.place.slot + 4 } }
    | _ => none

/-- The units of a shift that have halted on a fault: bit 0 the lane sequencer, bits 1 and 2 AE0 and AE1. -/
def State.unitsHalted (s : State) (i : Nat) (x : Shift) : BitVec 3 :=
  let ae (e : Nat) : Bool := s.jobs.any fun j => j.sh == i && j.eng == e && j.unit.v && j.unit.halt
  BitVec.ofNat 3 (bnat (x.lane.v && x.lane.halt) + 2 * bnat (ae 1) + 4 * bnat (ae 2))

/-- The frame address of a context (R370). -/
def Ctx.frame (c : Ctx) : Addr := BitVec.ofNat 72 (wbits c.tvfrm 16 48 * 65536 + wbits c.tvctl 8 8 * 2 ^ 64)

/-- The bytes of a frame (Table 19.3). -/
abbrev frameSize : Nat := 0x40000

/-- A route that passed its check at injection: its handle records the snapshot's generation (R278). -/
def State.noteRoute (s : State) (i h : Nat) : State :=
  s.modSh i fun x => { x with handles := match x.handles[h]? with
    | none => x.handles
    | some r => x.handles.setIfInBounds h { r with gen := s.fab.tgen % 2 ^ 32 } }

/-! ## Lines of other packages -/

/-- The fault number that stands for a line that has not yet come from another package; no trap takes it. -/
abbrev notArrived : Nat := 0x100

/-- The unit number under which a shift's lines of its trap frame wait. -/
abbrev frameWait : Nat := 7

/-- n bytes of one line of a FABRIC region, over the handle that the region names in shift x's own handles (R335): from this package at once, from
another package in a line that shift i waits for. -/
def State.farLine (s : State) (i : Nat) (x : Shift) (unit : Nat) (e : Tlb) (pkg h va n : Nat) : Except FaultInfo (List Byte) :=
  let pa := e.pa + (va - e.va)
  match s.routeTo ((x.handles[h]?).getD Handle.zero) (x.place.core / 64) pkg with
  | some c => .error { code := 0x0E, cause := c, faddr := a72i va }
  | none =>
    if pkg = s.mg.idpkg then
      let r := s.peek pa n (some e.key)
      if r.2.1 then .error { code := 0x13, faddr := a72i va } else .ok r.1
    else match s.waiters.find? fun w => w.sh == i && w.unit == unit && w.why == .anchor (pkg * 2 ^ 45 + pa / 128) with
      | none => .error { code := notArrived, faddr := a72i va }
      | some w =>
        match w.answer, w.bad with
        | some _, some f => .error { f with faddr := a72i va }
        | some _, none => .ok ((w.data.drop (pa % 128)).take n)
        | none, _ => .error { code := notArrived, faddr := a72i va }

/-- A line of another package asked for over a handle of shift x (R335), unless it is on its way: shift i waits for it. Operations of kind `kind` bring
such lines. -/
def State.askLine (s : State) (i : Nat) (x : Shift) (unit kind : Nat) (e : Tlb) (pkg h va : Nat) : State :=
  let line := (e.pa + (va - e.va)) / 128
  let why := WaitFor.anchor (pkg * 2 ^ 45 + line)
  let r := (x.handles[h]?).getD Handle.zero
  if s.waiters.any fun w => w.sh == i && w.unit == unit && w.why == why then s
  else
    let w : Waiter := { sh := i, unit := unit, why := why, answer := none, data := [], bad := none }
    (({ s with waiters := s.waiters ++ [w] } : State).useEntry e va false).inject
      (newOp (some i) kind x.place.core none pkg (.read (line * 128) 128) (a72i va) (r.hops.take r.len) e.key)

/-! ## The frame in memory -/

/-- The FABRIC region in which the page of an address lies: the translation, the package and the handle (R335). -/
def State.farAt (s : State) (ctx va : Nat) (write : Bool) : Option (Tlb × Nat × Nat) :=
  match s.translate partUnit ctx va write false with
  | .ok e => e.fab.map fun f => (e, f.1, f.2)
  | .error _ => none

/-- Whether a page of a frame lies in a FABRIC region. -/
def State.frameFar (s : State) (ctx va : Nat) : Bool := (upto 0 (frameSize / 4096)).any fun j => (s.farAt ctx (va + 4096 * j) true).isSome

/-- The bytes of a frame written line by line, as writes of shift i's engines (R368): those in a FABRIC region over the handle that it names (R335). -/
def State.farPut (s : State) (i : Nat) (x : Shift) : Nat → Nat → List Byte → Except FaultInfo State
  | 0, _, _ => .ok s
  | fuel + 1, va, bs =>
    if bs.isEmpty then .ok s
    else
      let put : Except FaultInfo State :=
        match s.farAt x.place.ctx va true with
        | none => s.virtPut partUnit x.place.ctx va (bs.take 128)
        | some (e, pkg, h) =>
          let pa := e.pa + (va - e.va)
          let r := (x.handles[h]?).getD Handle.zero
          match s.routeTo r (x.place.core / 64) pkg with
          | some c => .error { code := 0x0E, cause := c, faddr := a72i va }
          | none =>
            let t := (s.useEntry e va true).noteRoute i h
            if pkg = s.mg.idpkg then .ok (t.ownWrite pa (some e.key) .put (bs.take 128))
            else .ok (t.inject (newOp (some i) 8 x.place.core none pkg (.write pa (bs.take 128)) (a72i va) (r.hops.take r.len) e.key))
      match put with
      | .error f => .error f
      | .ok t => t.farPut i x fuel (va + 128) (bs.drop 128)

/-- A frame written (R368). -/
def State.framePut (s : State) (i : Nat) (x : Shift) (va : Nat) (bs : List Byte) : Except FaultInfo State :=
  if s.frameFar x.place.ctx va then s.farPut i x (bs.length / 128 + 1) va bs else s.virtPut partUnit x.place.ctx va bs

/-- Whether lines of the frame of shift i are still on their way to another package: its handler starts once they have been performed (R368). -/
def State.frameAway (s : State) (i : Nat) : Bool := s.fab.ops.any fun o => o.kind == 8 && o.sh == some i

/-- The lines of a frame read by handler `me` of shift x, by their number. -/
def State.frameLines (s : State) (me : Nat) (x : Shift) : Nat → Nat → Except FaultInfo (List Byte)
  | 0, _ => .ok []
  | fuel + 1, va =>
    let line : Except FaultInfo (List Byte) :=
      match s.farAt x.place.ctx va false with
      | none => s.virtBytes partUnit x.place.ctx va 128 false
      | some (e, pkg, h) => s.farLine me x frameWait e pkg h va 128
    match line with
    | .error f => .error f
    | .ok bs =>
      match s.frameLines me x fuel (va + 128) with
      | .error f => .error f
      | .ok rest => .ok (bs ++ rest)

/-- The bytes of a frame as TRET finds them (R370). -/
def State.frameRead (s : State) (me : Nat) (x : Shift) (va : Nat) : Except FaultInfo (List Byte) :=
  if s.frameFar x.place.ctx va then s.frameLines me x (frameSize / 128) va else s.virtBytes partUnit x.place.ctx va frameSize false

/-- The lines of a frame that stand in another package asked for by its handler. -/
def State.askFrame (s : State) (me : Nat) (x : Shift) (va : Nat) : State :=
  (upto 0 (frameSize / 128)).foldl (fun s j =>
    match s.farAt x.place.ctx (va + 128 * j) false with
    | some (e, pkg, h) =>
      if pkg = s.mg.idpkg ∨ (s.routeTo ((x.handles[h]?).getD Handle.zero) (x.place.core / 64) pkg).isSome then s
      else s.askLine me x frameWait 9 e pkg h (va + 128 * j)
    | none => s) s

/-- A trap of shift i whose frame a pending version of a bundle, or a duplicated page, does not yet let the part write (R222, R347): the state in which it
waits; none where it may be taken. -/
def State.trapWait (s : State) (i : Nat) : Option State :=
  match s.sh? i with
  | none => none
  | some x =>
    let c := s.ctx x.place.ctx
    if 4 ≤ i % 8 ∨ !c.tvctl.getLsbD 63 then none else s.virtWait partUnit x.place.ctx c.frame.toNat frameSize

/-- A fault or program trap of shift i taken at its boundary (R366 to R370): the shift stops, the frame is written, the handler starts in its
place; a system fault where no handler can be reached (R367). -/
def State.takeTrap (s : State) (i : Nat) (f : FaultInfo) : State :=
  match s.sh? i with
  | none => s
  | some x =>
    let c := s.ctx x.place.ctx
    let frame := c.frame
    if 4 ≤ i % 8 ∨ !c.tvctl.getLsbD 63 then s.systemFault i f
    else
      let p := s.pendShown i x
      let bytes := frameBytes x f (s.jobs.filter fun j => j.sh == i && decide (j.state < 4)) s.dcc p.1 p.2 s.dcc s.free
      match s.framePut i x frame.toNat bytes with
      | .error _ => s.systemFault i f
      | .ok s' =>
        match s'.handlerFor i x f.code frame with
        | none => s'.systemFault i f
        | some h =>
          let s' := s'.sawHeader x.place.ctx h.img.base
          let s' := s'.modSh i fun x =>
            { x with tim := { x.tim with
                stopped := some s.dcc, statSince := 0, evlSince := 0, waitFrom := none, timedOut := false, waitLoad := none,
                shownS := BitVec.ofNat 64 p.1, shownV := BitVec.ofNat 64 p.2, shownHalt := s.unitsHalted i x } }
          let s' := { s' with shifts := NMap.set s'.shifts (i + 4) h, free := s'.free + x.conts.length,
                              waiters := s'.waiters.filter fun w => !(w.sh == i && (w.unit == 0 || w.unit == codeWait)) }
          s'.modCtx x.place.ctx fun c => { c with traps := satAdd 32 c.traps 1, lastTrap := f.code }

/-- A trap taken, or the state in which it waits (R222). -/
def State.trap (s : State) (i : Nat) (f : FaultInfo) : State := (s.trapWait i).getD (s.takeTrap i f)

/-- An instruction's check and effect at issue: where its bundle's checks have passed the effect alone, else the check first; a word that is
held changes nothing but its place among the waiters, and a fault is taken at this bundle (R59). -/
def atIssue (check : State → Verdict) (effect : State → State) (s : State) : Out :=
  if s.cur.checked then .next (effect s)
  else match check s with
    | .go => .next (effect s)
    | .hold t => .next { t with cur := { t.cur with verdict := 1 } }
    | .fault f =>
      match s.trapWait s.me with
      | some t => .next { t with cur := { t.cur with verdict := 1 } }
      | none => let t := s.takeTrap s.me { f with word := s.cur.word }; .next { t with cur := { t.cur with verdict := 2 } }

/-! ## Requests -/

/-- The hops of the route that an access of the executing shift takes (R335); none where its home is in this package. -/
def State.viaAt (s : State) (sp : Space) (va : Int) : List Byte :=
  match sp with
  | .glob =>
    match s.translate (tlbUnit s.myCore 0) s.x.place.ctx va.toNat false false with
    | .ok e =>
      match e.fab with
      | some (_, h) => let v := (s.x.handles[h]?).getD Handle.zero; v.hops.take v.len
      | none => []
    | .error _ => []
  | _ => []

/-- The leaf entry of a duplicated page that a write of the executing shift meets (R347). -/
def State.collapseOf (s : State) (h : Home) (op : HomeOp) (va : Int) : Option Nat :=
  match h, op with
  | _, .read _ _ => none
  | .glob _ _, _ =>
    match s.translate (tlbUnit s.myCore 0) s.x.place.ctx va.toNat true false with
    | .ok e => e.dupAt va.toNat
    | .error _ => none
  | _, _ => none

/-- A request of the executing shift posted (R33, R175). -/
def State.request (s : State) (h : Home) (op : HomeOp) (acq rel : Bool) (dst : Option SNum) (va : Int) : State :=
  s.post (.req { sh := some s.me, seq := s.x.tim.seq, at_ := h, op := op, acq := acq, rel := rel, dst := dst, va := a72i va,
                 via := (match h with | .fab _ _ _ => s.viaAt .glob va | _ => []), collapse := s.collapseOf h op va, fetch := none, since := s.dcc })

/-- A scalar register interlocked until a result arrives (R33); s0 never is. -/
def Shift.markS (x : Shift) (n : SNum) : Shift :=
  if n = 0 then x else { x with pend := { x.pend with s := x.pend.s ||| (1 : BitVec 64) <<< n.val } }

/-- The interlock of a scalar register released. -/
def Shift.unmarkS (x : Shift) (n : SNum) : Shift := { x with pend := { x.pend with s := x.pend.s &&& ~~~((1 : BitVec 64) <<< n.val) } }

/-- A vector register interlocked. -/
def Shift.markV (x : Shift) (n : VNum) : Shift := { x with pend := { x.pend with v := x.pend.v ||| (1 : BitVec 64) <<< n.val } }

/-- The interlock of a vector register released. -/
def Shift.unmarkV (x : Shift) (n : VNum) : Shift := { x with pend := { x.pend with v := x.pend.v &&& ~~~((1 : BitVec 64) <<< n.val) } }

/-- Whether an operation of a home is a bundle store. -/
def HomeOp.isBst (o : HomeOp) : Bool := match o with | .bst b => b.kind == 1 | _ => false

/-- Whether an operation of a home takes a value there. -/
def HomeOp.takes (o : HomeOp) : Bool :=
  match o with
  | .write _ | .rpub | .rrel | .bst _ => false
  | _ => true

/-- Whether a packet is a bundle store. -/
def actIsBst (a : FabAct) : Bool := match a with | .bun b => b.kind == 1 | _ => false

/-- Whether a packet is a seal. -/
def actIsSeal (a : FabAct) : Bool := match a with | .bun b => b.kind == 4 | _ => false

/-- An access of a shift that is on its way: its rank, whether it takes a value, whether it is an acquire or a release, and whether it is a bundle store,
which is performed with its bundle (R228, R229). -/
structure Sent where
  seq : Nat
  takes : Bool
  acq : Bool
  rel : Bool
  bst : Bool
  deriving DecidableEq, Repr

/-- The accesses of shift i that are on their way to their homes or in the fabric, but for those of jobs and of the weight stream; of an ended shift all. -/
def State.sent (s : State) (i : Nat) : List Sent :=
  (s.msgs.filterMap fun m => match m with
    | .req r => if r.sh = some i then some { seq := r.seq, takes := r.op.takes, acq := r.acq, rel := r.rel, bst := r.op.isBst } else none
    | _ => none) ++
  s.fab.ops.filterMap fun o =>
    if o.sh = some i ∧ (o.kind < 2 ∨ o.kind = 3 ∨ (o.kind = 4 ∧ 2048 ≤ i)) then
      some { seq := o.seq, takes := decide (o.kind ≠ 0), acq := o.kind == 3, rel := o.rel, bst := actIsBst o.act }
    else none

/-- Whether an acquire of shift i has not taken its value yet (R187). -/
def State.acquirePending (s : State) (i : Nat) : Bool := (s.sent i).any (·.acq)

/-- Whether shift i has an access that is not yet performed (R187, R188). -/
def State.accessPending (s : State) (i : Nat) : Bool := (s.sent i).any fun a => !a.bst

/-- Whether an access of a bundle of shift i up to rank seq is not yet performed (R186, R266). -/
def State.pendingUpTo (s : State) (i seq : Nat) : Bool := (s.sent i).any fun a => !a.bst && decide (a.seq ≤ seq)

/-- Whether a read of shift i has not taken its value yet (R188). -/
def State.readPending (s : State) (i : Nat) : Bool := (s.sent i).any (·.takes)

/-- Whether a release of shift i is not yet performed, which an acquire that follows it in the one order of synchronising accesses waits for (R187). -/
def State.syncPending (s : State) (i : Nat) : Bool := (s.sent i).any (·.rel)

/-- Whether a bundle store of shift i is not yet acknowledged by its home (R229). -/
def State.bstPending (s : State) (i : Nat) : Bool := (s.sent i).any (·.bst)

/-- Whether a landing writes PAD or LANE. -/
def Landing.isMem (l : Landing) : Bool :=
  match l.dst with
  | .pad _ _ | .padElems _ _ | .lane _ _ | .partn _ _ _ _ => true
  | _ => false

/-- Whether a memory landing of a bundle up to rank seq is still pending (R186, R187). -/
def Shift.memLanding (x : Shift) (seq : Nat) : Bool := x.landings.any fun l => l.isMem && decide (l.seq ≤ seq)

/-- Whether a word of the matrix unit reads PAD at its issue, or is a tenant routine (Table 9.2). -/
def readsPad (i : Instr) : Bool :=
  match i with
  | .mma _ _ _ _ _ _ _ | .mmaz _ _ _ _ _ _ _ | .ald _ _ _ _ | .tenantM _ _ _ _ _ _ _ _ => true
  | _ => false

/-- Whether a word of the matrix unit writes PAD at its completion, or is a tenant routine. -/
def writesPad (i : Instr) : Bool :=
  match i with
  | .cst _ _ _ _ _ | .tenantM _ _ _ _ _ _ _ _ => true
  | _ => false

/-- Whether an operation of a bundle up to rank seq has still to write PAD (R168), or to read it. -/
def Matrix.padDue (m : Matrix) (seq : Nat) : Bool :=
  (m.queue.any fun o => (readsPad o.instr || writesPad o.instr) && decide (o.seq ≤ seq)) ||
    m.active.any fun o => writesPad o.instr && decide (o.seq ≤ seq)

/-- Whether the lane sequencer runs a tenant routine of a bundle up to rank seq, whose accesses are not all made. -/
def Shift.routineDue (x : Shift) (seq : Nat) : Bool := x.lane.v && x.lane.ten && !x.lane.halt && decide (x.tim.laneSeq ≤ seq)

/-- Whether PAD or LANE has still to see an access of a bundle up to rank seq: a landing, the matrix unit's, or a routine's (R187, R188). -/
def Shift.localDue (x : Shift) (seq : Nat) : Bool := x.memLanding seq || x.mx.padDue seq || x.routineDue seq

/-- The check of an access at issue by the issue unit (R183, R194): go, or its fault; the access is held while an earlier acquire of its shift
has not taken its value (R187), and while AC, DT or a log bit that goes before it waits (R338, R348). -/
def State.issueAccess (s : State) (k : Acc) (scope : Scope) (sp : Space) (ea : Int) (n align : Nat) : Verdict :=
  if ea % (align : Int) ≠ 0 then .fault (alignFault 0 ea)
  else match s.checkAccess s.me s.x 0 0 k scope false false false sp ea n with
    | .error f => .fault f
    | .ok t => if s.acquirePending s.me || s.accessWaits t ea k.writes then .hold s else .go

/-- The home of an access that passed its check, and the state with the translation used (R338, R348). -/
def State.resolve (s : State) (k : Acc) (sp : Space) (lane : Nat) (ea : Int) : Home × State :=
  let core := s.myCore
  match sp with
  | .glob =>
    match s.translate (tlbUnit core 0) s.x.place.ctx ea.toNat k.writes false with
    | .error _ => (.glob 0 0, s)
    | .ok e =>
      let s := s.useEntry e ea.toNat k.writes
      let s := match e.fab with | some (_, h) => s.noteRoute s.me h | none => s
      (s.homeOf core sp lane ea (some e) k.writes, s)
  | _ => (s.homeOf core sp lane ea none k.writes, s)

end Sys2Proof.Machine
end

