-- ==== Sys2Proof/Machine/Views.lean ====
section
/-!
DEFINITION. What a shift reads of bundles: its open bundle's pending versions (R228), its implicit and explicit views (R224, R234, R235), and the fetch
that a read needs (R236).
-/
namespace Sys2Proof.Machine

/-- Version w is newer than v (R224). -/
def newer (w v : Nat) : Bool := let d := (w + 4096 - v) % 4096; decide (1 ≤ d ∧ d ≤ 2047)

/-- Two versions whose difference is 2048 (R224). -/
def opposed (w v : Nat) : Bool := (w + 4096 - v) % 4096 == 2048

/-- The fabric line number of a line of this package. -/
def State.fabLine (s : State) (line : Nat) : Nat := s.mg.idpkg * 2 ^ 45 + line

/-- The fabric line number of a home in GLOB. -/
def State.lineNum (s : State) (h : Home) : Nat :=
  match h with
  | .glob pa _ => s.fabLine (pa / 128)
  | .fab p pa _ => p * 2 ^ 45 + pa / 128
  | _ => 0

/-- What a read of a line of this package meets of bundles: the name and version of its pennant, and its anchor's fabric line number plus 1. -/
def State.penOf (s : State) (line : Nat) : Option (Nat × Nat × Nat) := (s.line line).pennant.map fun p => (p.name, p.version, p.anchor + 1)

/-- An open view made EXPIRED (R224, R236). -/
def Shift.expireView (x : Shift) : Shift := { x with view := if x.view.v then { x.view with expired := true } else x.view }

/-- A line that an open view reads, among the distinct lines that VIEWE counts (R226); past 64 the view overflows (R236). -/
def Shift.countLine (x : Shift) (fl : Nat) : Shift :=
  let w := x.view
  if !w.v || w.lines.contains fl then x
  else { x with view := { w with lines := w.lines ++ [fl], overflow := w.overflow || (!w.expired && decide (64 ≤ w.lines.length)) } }

/-- A read of a line in the explicit view of a shift (R235, R236): the view after it, and the fetch that it needs. The version that a view binds comes from
a sealed member that the shift has read, which proves its commit; so no forward fetch of a view is without proof, and none falls back. -/
def Shift.viewLine (x : Shift) (fl : Nat) (pen : Option (Nat × Nat × Nat)) : Shift × Option Fetch :=
  let x := x.countLine fl
  let w := x.view
  match pen with
  | none => (x, none)
  | some p =>
    if !w.v || w.expired || w.overflow then (x, none)
    else match w.vers.find? fun e => e.1 == p.1 with
      | some e =>
        if e.2 = p.2.1 then (x, none)
        else if opposed p.2.1 e.2 then (x.expireView, none)
        else (x, some { fwd := !newer p.2.1 e.2, name := p.1, version := e.2 })
      | none =>
        let v := match (x.opt.find? fun e => e.1 == p.1).map (·.2.1) with
          | some v => if newer v p.2.1 then v else p.2.1
          | none => p.2.1
        ({ x with view := { w with vers := w.vers ++ [(p.1, v)] } }, if v = p.2.1 then none else some { fwd := true, name := p.1, version := v })

/-- Whether a bundle has settled at a version, as an anchor of this package reports, or one of another package has reported. -/
def State.settledAt (s : State) (e : Nat × Nat × Nat) : Bool :=
  if e.2.2 = 0 then true
  else if linePkg (e.2.2 - 1) ≠ s.mg.idpkg then false
  else
    let d := s.manifest (localLine (e.2.2 - 1))
    !(manName d == e.1 && manVersion d == e.2.1 && manState d == 2)

/-- A read of a line by a shift against its views (R234 to R236): none where it waits for a bundle of an evicted entry to settle; else the
shift after it, and the fetch that it needs. -/
def State.seeLine (s : State) (x : Shift) (fl : Nat) (pen : Option (Nat × Nat × Nat)) : Option (Shift × Option Fetch) :=
  let r := x.viewLine fl pen
  match r.2, pen with
  | some f, _ => some (r.1, some f)
  | none, none => some (r.1, none)
  | none, some p =>
    let x := r.1
    let rest := x.opt.filter fun e => e.1 != p.1
    match x.opt.find? fun e => e.1 == p.1 with
    | some e =>
      if e.2.1 = p.2.1 then some ({ x with opt := e :: rest }, none)
      else if opposed p.2.1 e.2.1 then some ({ x.expireView with opt := p :: rest }, none)
      else if newer p.2.1 e.2.1 then some ({ x with opt := p :: rest }, none)
      else if x.view.v then some (x, none)
      else some ({ x with opt := e :: rest }, some { fwd := true, name := p.1, version := e.2.1 })
    | none =>
      match (if rest.length < 64 then none else rest.getLast?) with
      | none => some ({ x with opt := p :: rest }, none)
      | some e => if s.settledAt e then some ({ x with opt := p :: rest.dropLast }, none) else none

/-- The shift as a read that is no LD or LDA sees it: with no explicit view (R235). -/
def Shift.noView (x : Shift) : Shift := { x with view := View.zero }

/-- The anchor of another package asked whether the oldest entry of a shift's full table has settled (R234), once at a time. -/
def State.askSettled (s : State) (i : Nat) : State :=
  match (s.sh? i).bind fun x => if x.opt.length < 64 then none else x.opt.getLast? with
  | none => s
  | some e =>
    let line := e.2.2 - 1
    let b := bunTo 11 line e.1 e.2.1
    if e.2.2 = 0 || linePkg line == s.mg.idpkg || s.fab.ops.any (fun o => o.sh == some i && o.act == .bun b) then s
    else s.sendBun (some i) (linePkg line) b

/-- The pending version of a line in the open bundle of a shift (R228). -/
def State.ownPending (s : State) (x : Shift) (line : Nat) : Option Side :=
  match (s.line line).side with
  | none => none
  | some e =>
    if x.bundle.v && e.pending && e.name == x.bundle.name && e.version == x.bundle.version && x.bundle.members.contains (s.fabLine line) then some e
    else none

/-- Bytes of a version of a line as a key reads it (R351): the bytes, whether they are poisoned, and whether the read counts in KMISS. -/
def State.sideRead (s : State) (e : Side) (off n key : Nat) : List Byte × Bool × Bool :=
  if key = e.key ∧ s.keyLive key then ((e.data.drop off).take n, e.poison != 0, false) else (zeros n, e.poison != 0, true)

/-- Bytes at a home as shift i reads them: of a member line of its open bundle, those of its pending version (R228). -/
def State.ownRead (s : State) (i : Nat) (h : Home) (n : Nat) : List Byte × Bool × Bool :=
  match h with
  | .glob pa key =>
    match (s.sh? i).bind fun x => s.ownPending x (pa / 128) with
    | some e => s.sideRead e (pa % 128) n key
    | none => s.homeRead h n
  | h => s.homeRead h n

/-- Whether a shift that issues a read of GLOB must wait, before it issues, for a bundle of an evicted entry of its table to settle (R234). -/
def State.tableFull (s : State) (i : Nat) (h : Home) : Bool :=
  match h, s.sh? i with
  | .glob pa _, some x => (s.ownPending x (pa / 128)).isNone && (s.seeLine x (s.lineNum h) (s.penOf (pa / 128))).isNone
  | _, _ => false

end Sys2Proof.Machine
end

