-- ==== Sys2Proof/Machine/Access.lean ====
section
/-!
DEFINITION. Loads, stores, atomics, fences, WAITGE, line locks and prefetch (R190 to R208): their checks at issue, and what they ask of the
homes.
-/
namespace Sys2Proof.Machine

/-- Bytes of a size (R191). -/
def sizeBytes : Size → Nat
  | .b => 1 | .h => 2 | .w => 4 | .d => 8

/-- Bytes of a word or dword. -/
abbrev dwBytes (d : Bool) : Nat := if d then 8 else 4

/-- The value of a load: n bytes, sign-extended or zero-extended (R198). -/
def loadValue (n : Nat) (sx_ : Bool) (bs : List Byte) : Word := if sx_ then w64i (sx (8 * n) (ofLE bs)) else w64 (ofLE bs)

/-- Whether a request stands at a sector; a bundle store stands at its whole line, whose pending version it changes (R228). -/
def Req.meets (r : Req) (sec : Nat × Nat × Nat) : Bool :=
  let a := r.at_.sector
  if r.op.isBst then a.1 == sec.1 && a.2.1 == sec.2.1 && a.2.2 / 4 == sec.2.2 / 4 else a == sec

/-- Whether shift i has a request pending to a sector. -/
def State.sectorPending (s : State) (i : Nat) (sec : Nat × Nat × Nat) : Bool :=
  s.msgs.any fun m => match m with | .req r => r.sh == some i && r.meets sec | _ => false

/-- The sector of an operand in PAD or LANE. -/
def localSector (core : Nat) (sp : Space) (lane : Nat) (ea : Int) : Nat × Nat × Nat :=
  match sp with
  | .lane => (Home.lane core lane ea.toNat).sector
  | _ => (Home.pad core ea.toNat).sector

/-- The check of a load or store at issue; a fixed-latency one also waits for requests of its shift to its sector (R189). -/
def State.plainAccess (s : State) (k : Acc) (scope : Scope) (sp : Space) (lane : Nat) (ea : Int) (n : Nat) : Verdict :=
  match s.issueAccess k scope sp ea n n with
  | .go =>
    if (sp = .lane ∨ sp = .pad) ∧ s.sectorPending s.me (localSector s.myCore sp lane ea) then .hold s else .go
  | v => v

/-- An interlocked result on its way to the executing shift (R33): its flags, and the delayed fault of a read that failed. -/
def State.reply (s : State) (sd : SNum) (w : Word) : State :=
  (s.modX fun x => x.markS sd).post (.arrive s.me (some sd) w 0 none)

/-- An access of the executing shift sent to its home (R33): its destination is interlocked. -/
def State.send (s : State) (k : Acc) (sp : Space) (ea : Int) (op : HomeOp) (acq rel : Bool) (dst : Option SNum) : State :=
  let r := s.resolve k sp 0 ea
  let t := r.2.request r.1 op acq rel dst ea
  match dst with
  | none => t
  | some d => t.modX fun x => x.markS d

/-- The kind and scope of a plain GLOB read: an acquire read inside an explicit view (R235). -/
def State.readKind (s : State) (sp : Space) : Acc × Scope :=
  if sp = .glob ∧ s.x.view.v then (.acq, s.x.view.scope) else (.read, .shift)

/-- The scope of an LDA: the view's own where it reads GLOB inside a view (R235). -/
def State.ldaScope (s : State) (sp : Space) (sc : Scope) : Scope := if sp = .glob ∧ s.x.view.v then s.x.view.scope else sc

/-- The check of a read of GLOB that passed its other checks: held while its shift's table is full of bundles that have not settled (R234). -/
def State.tableCheck (s : State) (k : Acc) (sp : Space) (ea : Int) (v : Verdict) : Verdict :=
  match v with
  | .go => if sp = .glob ∧ s.tableFull s.me (s.resolve k sp 0 ea).1 then .hold (s.askSettled s.me) else .go
  | v => v

/-- LD (R198): fixed latency in LANE and PAD, else a request (R192). -/
def execLd (sz : Size) (sx : Bool) (sd : SNum) (m : MemX) (lane : Fin 64) (s : State) : Out :=
  let n := sizeBytes sz
  atIssue (fun s => s.tableCheck (s.readKind m.sp).1 m.sp (s.x.eaX m) (s.plainAccess (s.readKind m.sp).1 (s.readKind m.sp).2 m.sp lane.val (s.x.eaX m) n))
    (fun s =>
      let ea := s.x.eaX m
      match m.sp with
      | .lane => s.land 3 0 (.s sd (loadValue n sx (s.lane.bytes (laneKey s.myCore lane.val ea.toNat) n)))
      | .pad => s.land 6 0 (.s sd (loadValue n sx (s.pad.bytes (padKey s.myCore ea.toNat) n)))
      | _ => s.send (s.readKind m.sp).1 m.sp ea (.read n sx) ((s.readKind m.sp).1 == .acq) false (some sd)) s

/-- ST (R198). -/
def execSt (sz : Size) (sb : SNum) (m : MemX) (lane : Fin 64) (s : State) : Out :=
  let n := sizeBytes sz
  atIssue (fun s => s.plainAccess .write .shift m.sp lane.val (s.x.eaX m) n)
    (fun s =>
      let ea := s.x.eaX m
      let bs := leBytes n (s.rs sb).toNat
      match m.sp with
      | .lane => s.land 3 0 (.lane (some lane.val) [(lane.val, ea.toNat, bs)])
      | .pad => s.land 6 0 (.pad ea.toNat bs)
      | _ => s.send .write m.sp ea (.write bs) false false none) s

/-- LDA, an acquire read at its scope (R198). -/
def execLda (sz : Size) (sx : Bool) (sc : Scope) (sd : SNum) (m : MemX) (s : State) : Out :=
  let n := sizeBytes sz
  atIssue (fun s => s.tableCheck .acq m.sp (s.x.eaX m) (s.issueAccess .acq (s.ldaScope m.sp sc) m.sp (s.x.eaX m) n n))
    (fun s => s.send .acq m.sp (s.x.eaX m) (.read n sx) true false (some sd)) s

/-- STA, a release write at its scope (R198). -/
def execSta (sz : Size) (sc : Scope) (sb : SNum) (m : MemX) (s : State) : Out :=
  let n := sizeBytes sz
  atIssue (fun s => s.issueAccess .rel sc m.sp (s.x.eaX m) n n)
    (fun s => s.send .rel m.sp (s.x.eaX m) (.write (leBytes n (s.rs sb).toNat)) false true none) s

/-- ATOM (R203): performed whole at the home. -/
def execAtom (op : AtomOp) (dword : Bool) (sc : Scope) (sd : SNum) (m : MemB) (sb : SNum) (s : State) : Out :=
  atIssue (fun s => s.tableCheck .rmw m.sp (s.x.eaB m) (s.issueAccess .rmw sc m.sp (s.x.eaB m) (dwBytes dword) (dwBytes dword)))
    (fun s => s.send .rmw m.sp (s.x.eaB m) (.atom op dword (s.rs sb)) true true (some sd)) s

/-- CAS (R203): the expected value is the old s[XD]. -/
def execCas (dword : Bool) (sc : Scope) (sd : SNum) (m : MemB) (sb : SNum) (s : State) : Out :=
  atIssue (fun s => s.tableCheck .rmw m.sp (s.x.eaB m) (s.issueAccess .rmw sc m.sp (s.x.eaB m) (dwBytes dword) (dwBytes dword)))
    (fun s => s.send .rmw m.sp (s.x.eaB m) (.cas dword (s.rs sd) (s.rs sb)) true true (some sd)) s

/-- FENCE (R204): the next bundle is held until the orderings of R188 hold. -/
def execFence (kind : FenceKind) (_sc : Scope) (s : State) : Out :=
  .next (s.modX fun x => { x with pend := { x.pend with fence := if kind = .acq then max x.pend.fence 1 else 2 } })

/-! ## WAITGE -/

/-- Whether a value passes a WAITGE (R205). -/
def gePasses (dword signed : Bool) (v thr : Word) : Bool :=
  match dword, signed with
  | true, true => decide (thr.toInt ≤ v.toInt)
  | true, false => decide (thr.toNat ≤ v.toNat)
  | false, true => decide (sx 32 thr.toNat ≤ sx 32 v.toNat)
  | false, false => decide (wbits thr 0 32 ≤ wbits v 0 32)

/-- The value at a home on which a WAITGE of shift i waits; a word zero-extended to 64 bits (DESIGN CHOICE, log 88). -/
def State.geValue (s : State) (i : Nat) (h : Home) (dword : Bool) : Word := w64 (ofLE (s.ownRead i h (dwBytes dword)).1)

/-- The waiter of a shift's unit. -/
def State.waiter? (s : State) (i unit : Nat) : Option Waiter := s.waiters.find? fun w => w.sh == i && w.unit == unit

/-- The answer of the issue unit's waiter given to its register, or its fault, which waits for the first reader (R285). -/
def State.replyWait (s : State) (sd : SNum) (w : Word) : State :=
  let bad := (s.waiter? s.me 0).bind (·.bad)
  let t := { s with waiters := s.waiters.filter fun w => !(w.sh == s.me && w.unit == 0) }
  match bad with
  | none => t.reply sd w
  | some f => (t.modX fun x => x.markS sd).post (.arrive s.me (some sd) 0 0 (some f))

/-- The waiters without those of a shift's unit. -/
def State.dropWaiter (s : State) (i unit : Nat) : State := { s with waiters := s.waiters.filter fun w => !(w.sh == i && w.unit == unit) }

/-- A waiter added at the tail, where its shift's unit has none (R193). -/
def State.addWaiter (s : State) (i unit : Nat) (why : WaitFor) : State :=
  match s.waiter? i unit with
  | some _ => s
  | none => { s with waiters := s.waiters ++ [{ sh := i, unit := unit, why := why, answer := none, data := [], bad := none }] }

/-- The verdict of an instruction that may already wait at a home: the checks of one that waits were made when its wait began, and its home keeps it
whatever becomes of its page (R219). -/
def State.whileWaiting (s : State) (check : Verdict) : Verdict :=
  match s.waiter? s.me 0 with
  | some w => if w.answer.isSome then .go else .hold s
  | none => check

/-- Waiters of WAITGE whose value passes answered (R205). -/
def State.wakeGe (s : State) : State :=
  if s.waiters.all fun w => match w.why with | .ge _ _ _ _ => false | _ => true then s
  else
    { s with waiters := s.waiters.map fun w =>
        match w.why, w.answer with
        | .ge h d sg thr, none =>
          match h with
          | .fab _ _ _ => w
          | _ => let v := s.geValue w.sh h d; if gePasses d sg v thr then { w with answer := some v } else w
        | _, _ => w }

/-! ## Line locks and prefetch -/

/-- The line that a GLOB operand lies in, as the L1 names it. -/
def State.lineAt (s : State) (ea : Int) : Nat :=
  match (s.resolve .acq .glob 0 ea).1 with
  | .glob pa _ => pa / 128
  | .fab pkg pa _ => (pkg * 2 ^ 52 + pa) / 128
  | _ => 0

/-- Sets of the L1 (R206). -/
abbrev l1Sets : Nat := 256

/-- The status of a LOCKL (Table 10.5). -/
def State.lockStatus (s : State) (line : Nat) : Nat :=
  let locks := (s.core s.myCore).locks
  let ctx := s.x.place.ctx
  let inSet := locks.foldl (fun acc l => if l.2 % l1Sets = line % l1Sets ∧ !acc.contains l.2 then l.2 :: acc else acc) ([] : List Nat)
  if locks.contains (ctx, line) then 0
  else if s.x.place.lkq ≤ (locks.filter fun l => l.1 == ctx).length then 6
  else if !inSet.contains line ∧ 12 - 2 ≤ inSet.length then 8
  else 0

/-- The check of LOCKL and UNLOCKL: coverage of the byte at ea in any mode (R206). -/
def lockCheck (m : MemX) (s : State) : Verdict := s.issueAccess .acq .sys m.sp (s.x.eaX m) 1 1

/-- LOCKL (R206, Table 10.5). -/
def execLockl (sd : SNum) (m : MemX) (s : State) : Out :=
  atIssue (lockCheck m)
    (fun s =>
      let line := s.lineAt (s.x.eaX m)
      let st := s.lockStatus line
      let key := (s.x.place.ctx, line)
      let s' := (s.resolve .acq .glob 0 (s.x.eaX m)).2
      let s' := if st = 0 then s'.modCore s.myCore fun c => { c with locks := if c.locks.contains key then c.locks else c.locks ++ [key] } else s'
      s'.reply sd (w64 st)) s

/-- UNLOCKL (R206, Table 10.5). -/
def execUnlockl (sd : SNum) (m : MemX) (s : State) : Out :=
  atIssue (lockCheck m)
    (fun s =>
      let key := (s.x.place.ctx, s.lineAt (s.x.eaX m))
      let s' := (s.resolve .acq .glob 0 (s.x.eaX m)).2
      if (s.core s.myCore).locks.contains key then
        (s'.modCore s.myCore fun c => { c with locks := c.locks.filter (· != key) }).reply sd 0
      else s'.reply sd 7) s

/-- PREF (R208): changes no value and never faults after decode. -/
def execPref (_l2 : Bool) (_m : MemX) (s : State) : Out := .next s

/-! ## Arrivals -/

/-- A result that has arrived in its register (R33, R96); where its access failed, the fault waits for the first reader and the register
keeps its value (R285, R364). -/
def Shift.arrive (x : Shift) (now : Nat) (dst : Option SNum) (w : Word) (fl : Flags) (bad : Option FaultInfo) : Shift :=
  let x := x.orStat now fl
  match dst, bad with
  | none, _ => x
  | some d, none => (x.setS d w).unmarkS d
  | some d, some f => let x := x.unmarkS d; { x with pend := { x.pend with delayed := x.pend.delayed ++ [{ reg := d, info := f }] } }

/-- INTERLOCK_ARRIVAL (R33): message k, a result on its way, arrives. -/
def execInterlockArrival (k : Nat) (s : State) : Out :=
  match s.msgs[k]? with
  | some (.arrive i dst w fl bad) => .next (({ s with msgs := dropAt s.msgs k }).modSh i fun x => x.arrive (s.flagCycle (i / 8)) dst w fl bad)
  | some (.arriveH i h v) =>
    .next (({ s with msgs := dropAt s.msgs k }).modSh i fun x =>
      { x with handles := x.handles.set h v, pend := { x.pend with h := x.pend.h &&& ~~~((1 : BitVec 8) <<< h.val) } })
  | _ => .next s

end Sys2Proof.Machine
end

