-- ==== Sys2Proof/Machine/Scalar.lean ====
section
/-!
DEFINITION. The scalar half and the scalar L words (chapter 6, R104 to R119): each lands its result at its latency (Table 2.3).
-/
namespace Sys2Proof.Machine

/-- A result landed in s[sd] with latency k and flags (R103). -/
def State.landS (s : State) (k : Nat) (fl : Flags) (sd : SNum) (w : Word) : Out := .next (s.land k fl (.s sd w))

/-- A guard landed with latency 1 (R103). -/
def State.landG (s : State) (fl : Flags) (gd : GNum) (b : Bool) : Out := .next (s.land 1 fl (.g gd b))

/-! ## Integer arithmetic and logic -/

/-- The sum of two words (Table 6.1). -/
def addW (x y : Word) : Word := x + y

/-- The difference of two words (Table 6.1). -/
def subW (x y : Word) : Word := x - y

/-- The low product of two words (Table 6.1). -/
def mulW (x y : Word) : Word := x * y

/-- The high signed product of two words (Table 6.1). -/
def mulhW (x y : Word) : Word := w64i (x.toInt * y.toInt / 2 ^ 64)

/-- The high unsigned product of two words (Table 6.1). -/
def mulhzW (x y : Word) : Word := w64 (x.toNat * y.toNat / 2 ^ 64)

/-- The AND of two words (Table 6.1). -/
def andW (x y : Word) : Word := x &&& y

/-- The OR of two words (Table 6.1). -/
def orW (x y : Word) : Word := x ||| y

/-- The exclusive OR of two words (Table 6.1). -/
def xorW (x y : Word) : Word := x ^^^ y

/-- The AND NOT of two words (Table 6.1). -/
def andnW (x y : Word) : Word := x &&& ~~~y

/-- The left shift, modulo 64 of two words (Table 6.1). -/
def shlW (x y : Word) : Word := x <<< wbits y 0 6

/-- The logical right shift of two words (Table 6.1). -/
def shrW (x y : Word) : Word := x >>> wbits y 0 6

/-- The arithmetic right shift of two words (Table 6.1). -/
def sraW (x y : Word) : Word := x.sshiftRight (wbits y 0 6)

/-- The left rotation of two words (Table 6.1). -/
def rotlW (x y : Word) : Word := x.rotateLeft (wbits y 0 6)

/-- The signed smaller of two words (Table 6.1). -/
def minW (x y : Word) : Word := if x.toInt < y.toInt then x else y

/-- The signed larger of two words (Table 6.1). -/
def maxW (x y : Word) : Word := if x.toInt < y.toInt then y else x

/-- The unsigned smaller of two words (Table 6.1). -/
def minzW (x y : Word) : Word := if x.toNat < y.toNat then x else y

/-- The unsigned larger of two words (Table 6.1). -/
def maxzW (x y : Word) : Word := if x.toNat < y.toNat then y else x

/-- ADD (R104): k = 1. -/
def execAdd (sd sa sb : SNum) (s : State) : Out := s.landS 1 0 sd (addW (s.rs sa) (s.rs sb))

/-- SUB (R104): k = 1. -/
def execSub (sd sa sb : SNum) (s : State) : Out := s.landS 1 0 sd (subW (s.rs sa) (s.rs sb))

/-- MUL (R104): k = 3. -/
def execMul (sd sa sb : SNum) (s : State) : Out := s.landS 3 0 sd (mulW (s.rs sa) (s.rs sb))

/-- MULH (R104): k = 3. -/
def execMulh (sd sa sb : SNum) (s : State) : Out := s.landS 3 0 sd (mulhW (s.rs sa) (s.rs sb))

/-- MULHZ (R104): k = 3. -/
def execMulhz (sd sa sb : SNum) (s : State) : Out := s.landS 3 0 sd (mulhzW (s.rs sa) (s.rs sb))

/-- AND (R104): k = 1. -/
def execAnd (sd sa sb : SNum) (s : State) : Out := s.landS 1 0 sd (andW (s.rs sa) (s.rs sb))

/-- OR (R104): k = 1. -/
def execOr (sd sa sb : SNum) (s : State) : Out := s.landS 1 0 sd (orW (s.rs sa) (s.rs sb))

/-- XOR (R104): k = 1. -/
def execXor (sd sa sb : SNum) (s : State) : Out := s.landS 1 0 sd (xorW (s.rs sa) (s.rs sb))

/-- ANDN (R104): k = 1. -/
def execAndn (sd sa sb : SNum) (s : State) : Out := s.landS 1 0 sd (andnW (s.rs sa) (s.rs sb))

/-- SHL (R104): k = 1. -/
def execShl (sd sa sb : SNum) (s : State) : Out := s.landS 1 0 sd (shlW (s.rs sa) (s.rs sb))

/-- SHR (R104): k = 1. -/
def execShr (sd sa sb : SNum) (s : State) : Out := s.landS 1 0 sd (shrW (s.rs sa) (s.rs sb))

/-- SRA (R104): k = 1. -/
def execSra (sd sa sb : SNum) (s : State) : Out := s.landS 1 0 sd (sraW (s.rs sa) (s.rs sb))

/-- ROTL (R104): k = 1. -/
def execRotl (sd sa sb : SNum) (s : State) : Out := s.landS 1 0 sd (rotlW (s.rs sa) (s.rs sb))

/-- MIN (R104): k = 1. -/
def execMin (sd sa sb : SNum) (s : State) : Out := s.landS 1 0 sd (minW (s.rs sa) (s.rs sb))

/-- MAX (R104): k = 1. -/
def execMax (sd sa sb : SNum) (s : State) : Out := s.landS 1 0 sd (maxW (s.rs sa) (s.rs sb))

/-- MINZ (R104): k = 1. -/
def execMinz (sd sa sb : SNum) (s : State) : Out := s.landS 1 0 sd (minzW (s.rs sa) (s.rs sb))

/-- MAXZ (R104): k = 1. -/
def execMaxz (sd sa sb : SNum) (s : State) : Out := s.landS 1 0 sd (maxzW (s.rs sa) (s.rs sb))

/-- Quotient and remainder of R105, with DZ for a zero divisor. -/
def divide (x y : Int) : Int × Int × Flags :=
  if y = 0 then (-1, x, fDZ) else (Int.tdiv x y, x - y * Int.tdiv x y, 0)

/-- The division of two words, signed or not (R105). -/
def divideW (signed : Bool) (x y : Word) : Int × Int × Flags :=
  if signed then divide x.toInt y.toInt else divide x.toNat y.toNat

/-- DIV (R105): k = 20. -/
def execDiv (sd sa sb : SNum) (s : State) : Out :=
  let r := divideW true (s.rs sa) (s.rs sb)
  s.landS 20 r.2.2 sd (w64i r.1)

/-- DIVZ (R105): k = 20. -/
def execDivz (sd sa sb : SNum) (s : State) : Out :=
  let r := divideW false (s.rs sa) (s.rs sb)
  s.landS 20 r.2.2 sd (w64i r.1)

/-- REM (R105): k = 20. -/
def execRem (sd sa sb : SNum) (s : State) : Out :=
  let r := divideW true (s.rs sa) (s.rs sb)
  s.landS 20 r.2.2 sd (w64i r.2.1)

/-- REMZ (R105): k = 20. -/
def execRemz (sd sa sb : SNum) (s : State) : Out :=
  let r := divideW false (s.rs sa) (s.rs sb)
  s.landS 20 r.2.2 sd (w64i r.2.1)

/-- SHLI (R106). -/
def execShli (sd sa : SNum) (n : BitVec 6) (s : State) : Out := s.landS 1 0 sd (s.rs sa <<< n.toNat)

/-- SHRI (R106). -/
def execShri (sd sa : SNum) (n : BitVec 6) (s : State) : Out := s.landS 1 0 sd (s.rs sa >>> n.toNat)

/-- SRAI (R106). -/
def execSrai (sd sa : SNum) (n : BitVec 6) (s : State) : Out := s.landS 1 0 sd ((s.rs sa).sshiftRight n.toNat)

/-- The number of leading zero bits of a word (Table 6.2). -/
def clzW (x : Word) : Nat := if x = 0 then 64 else 63 - x.toNat.log2

/-- The number of trailing zero bits of a word (Table 6.2). -/
def ctzW (x : Word) : Nat := ((upto 0 64).find? fun i => x.getLsbD i).getD 64

/-- The number of set bits of a word (Table 6.2). -/
def popcW (x : Word) : Nat := ((upto 0 64).filter fun i => x.getLsbD i).length

/-- CLZ (R106). -/
def execClz (sd sa : SNum) (s : State) : Out := s.landS 1 0 sd (w64 (clzW (s.rs sa)))

/-- CTZ (R106). -/
def execCtz (sd sa : SNum) (s : State) : Out := s.landS 1 0 sd (w64 (ctzW (s.rs sa)))

/-- POPC (R106). -/
def execPopc (sd sa : SNum) (s : State) : Out := s.landS 1 0 sd (w64 (popcW (s.rs sa)))

/-- SEXT of the low w = IMM6 + 1 bits (R106). -/
def execSext (sd sa : SNum) (w1 : BitVec 6) (s : State) : Out := s.landS 1 0 sd (w64i (sx (w1.toNat + 1) (s.rs sa).toNat))

/-- ZEXT of the low w = IMM6 + 1 bits (R106). -/
def execZext (sd sa : SNum) (w1 : BitVec 6) (s : State) : Out := s.landS 1 0 sd (w64 (wbits (s.rs sa) 0 (w1.toNat + 1)))

/-- BFX: n bits from bit p (R107). -/
def bfxW (x y : Word) : Word := w64 (nbits x.toNat (wbits y 0 6) (wbits y 8 6 + 1))

/-- BFI: the low n bits of x inserted into old at bit p (R107). -/
def bfiW (old x y : Word) : Word :=
  let p := wbits y 0 6
  let m : Word := w64 ((2 ^ (wbits y 8 6 + 1) - 1) * 2 ^ p)
  (old &&& ~~~m) ||| (w64 (x.toNat * 2 ^ p) &&& m)

/-- BFX (R107). -/
def execBfx (sd sa sb : SNum) (s : State) : Out := s.landS 1 0 sd (bfxW (s.rs sa) (s.rs sb))

/-- BFI (R107): the old sd is a source. -/
def execBfi (sd sa sb : SNum) (s : State) : Out := s.landS 1 0 sd (bfiW (s.rs sd) (s.rs sa) (s.rs sb))

/-- SEL (R107): the old sd is the condition. -/
def execSel (sd sa sb : SNum) (s : State) : Out := s.landS 1 0 sd (if s.rs sd ≠ 0 then s.rs sa else s.rs sb)

/-- A 32-bit immediate sign-extended (R108). -/
abbrev imm64 (i : BitVec 32) : Word := i.signExtend 64

/-- ADDI (R108). -/
def execAddi (sd sa : SNum) (imm : BitVec 32) (s : State) : Out := s.landS 1 0 sd (s.rs sa + imm64 imm)

/-- ANDI (R108). -/
def execAndi (sd sa : SNum) (imm : BitVec 32) (s : State) : Out := s.landS 1 0 sd (s.rs sa &&& imm64 imm)

/-- ORI (R108). -/
def execOri (sd sa : SNum) (imm : BitVec 32) (s : State) : Out := s.landS 1 0 sd (s.rs sa ||| imm64 imm)

/-- XORI (R108). -/
def execXori (sd sa : SNum) (imm : BitVec 32) (s : State) : Out := s.landS 1 0 sd (s.rs sa ^^^ imm64 imm)

/-- MOVI (R108). -/
def execMovi (sd : SNum) (imm : BitVec 32) (s : State) : Out := s.landS 1 0 sd (imm64 imm)

/-- MOVHI: the old sd keeps its low half (R108). -/
def execMovhi (sd : SNum) (imm : BitVec 32) (s : State) : Out := s.landS 1 0 sd (imm ++ (s.rs sd).extractLsb' 0 32)

/-- NOP, the empty scalar half (R52, R270). -/
def execNop (s : State) : Out := .next s

/-! ## Compares and guards -/

/-- CMP (R109). -/
def execCmp (cc : Cond) (gd : GNum) (sa sb : SNum) (s : State) : Out := s.landG 0 gd (condHolds cc (s.rs sa) (s.rs sb))

/-- CMPI (R110). -/
def execCmpi (cc : Cond) (gd : GNum) (sa : SNum) (imm : BitVec 32) (s : State) : Out := s.landG 0 gd (condHolds cc (s.rs sa) (imm64 imm))

/-- GAND (R111). -/
def execGand (gd ga gb : GNum) (s : State) : Out := s.landG 0 gd (s.x.rg ga && s.x.rg gb)

/-- GOR (R111). -/
def execGor (gd ga gb : GNum) (s : State) : Out := s.landG 0 gd (s.x.rg ga || s.x.rg gb)

/-- GNOT (R111). -/
def execGnot (gd ga : GNum) (s : State) : Out := s.landG 0 gd (!s.x.rg ga)

/-! ## Scalar floating point -/

/-- The number of the scalar unit's generator (R93). -/
abbrev scalarGen : Nat := 64

/-- An exact F32 result rounded once under STAT.RM, with the scalar unit's draw under SR, and landed (R91, R94, R112). -/
def State.landF (s : State) (k : Nat) (sd : SNum) (r : FV × Flags) : Out :=
  let st := s.x.sp.stat
  let rm := rmOf st
  let c := roundTo .f32 rm (ftzOf st) (s.x.drawIf rm scalarGen).1 r.1
  (s.modX fun x => (x.drawIf rm scalarGen).2).landS k (r.2 ||| c.2) sd (w64 c.1)

/-- An F32 source (R112). -/
abbrev State.fs (s : State) (n : SNum) : FV := f32Of s.x.sp.stat (s.rs n)

/-- FADD (R112). -/
def execFadd (sd sa sb : SNum) (s : State) : Out := s.landF 4 sd (fvAdd (rmOf s.x.sp.stat) (s.fs sa) (s.fs sb))

/-- FSUB (R112). -/
def execFsub (sd sa sb : SNum) (s : State) : Out := s.landF 4 sd (fvAdd (rmOf s.x.sp.stat) (s.fs sa) (s.fs sb).flip)

/-- FMUL (R112). -/
def execFmul (sd sa sb : SNum) (s : State) : Out := s.landF 4 sd (fvMul (s.fs sa) (s.fs sb))

/-- FFMA: the addend is the old sd (R112). -/
def execFfma (sd sa sb : SNum) (s : State) : Out := s.landF 4 sd (fvFma (rmOf s.x.sp.stat) (s.fs sa) (s.fs sb) (s.fs sd))

/-- FDIV (R112). -/
def execFdiv (sd sa sb : SNum) (s : State) : Out := s.landF 12 sd (fvDiv (s.fs sa) (s.fs sb))

/-- FSQRT (R112). -/
def execFsqrt (sd sa : SNum) (s : State) : Out := s.landF 14 sd (fvSqrt (s.fs sa))

/-- FMIN (R113). -/
def execFmin (sd sa sb : SNum) (s : State) : Out :=
  let r := fvMinMax false .f32 (ftzOf s.x.sp.stat) (wbits (s.rs sa) 0 32) (wbits (s.rs sb) 0 32)
  s.landS 4 r.2 sd (w64 r.1)

/-- FMAX (R113). -/
def execFmax (sd sa sb : SNum) (s : State) : Out :=
  let r := fvMinMax true .f32 (ftzOf s.x.sp.stat) (wbits (s.rs sa) 0 32) (wbits (s.rs sb) 0 32)
  s.landS 4 r.2 sd (w64 r.1)

/-- FCMP (R114). -/
def execFcmp (cc : FCond) (gd : GNum) (sa sb : SNum) (s : State) : Out :=
  let r := fcondHolds cc (s.fs sa) (s.fs sb)
  s.landG r.2 gd r.1

/-- A result code of a format in a scalar register: sign-extended for Sn, else zero-extended (R115). -/
def extendCode (f : Fmt) (code : Nat) : Word := if f.isS then w64i (sx f.width code) else w64 code

/-- FCVT (R115): the mode is RZ under RZM, else STAT.RM with its draw. -/
def execFcvt (fmt : Fmt) (toF32 rz : Bool) (sd sa : SNum) (s : State) : Out :=
  let st := s.x.sp.stat
  let rm := if rz then .rz else rmOf st
  let dst := if toF32 then .f32 else fmt
  let src := if toF32 then fmt else .f32
  let c := convert dst src rm (ftzOf st) (s.x.drawIf rm scalarGen).1 (wbits (s.rs sa) 0 src.width)
  (s.modX fun x => (x.drawIf rm scalarGen).2).landS 4 c.2 sd (extendCode dst c.1)

/-- FCLASS (R116). -/
def execFclass (sd sa : SNum) (s : State) : Out := s.landS 4 0 sd (w64 (fclassMask (wbits (s.rs sa) 0 32)))

/-! ## Special registers and the cycle counter -/

/-- RDSR (R117, R118). -/
def execRdsr (sd : SNum) (r : SpecReg) (s : State) : Out := s.landS 1 0 sd (s.x.getSpec r)

/-- WRSR (R117, R118): a value outside Table 6.9 is refused whole and counts a register-access error. -/
def execWrsr (r : SpecReg) (sa : SNum) (s : State) : Out :=
  if specLegal r (s.rs sa) then .next (s.land 1 0 (.special r (s.rs sa))) else .next s.regErr

/-- RDDCC (R119). -/
def execRddcc (sd : SNum) (s : State) : Out := s.landS 1 0 sd (w64 s.dcc)

end Sys2Proof.Machine
end

