-- ==== Sys2Proof/Machine/Address.lean ====
section
/-!
DEFINITION. The address instructions (R120): 72-bit values, wrapped modulo 2^72, k = 1.
-/
namespace Sys2Proof.Machine

/-- An address landed with latency 1. -/
def State.landA (s : State) (ad : ANum) (v : Addr) : Out := .next (s.land 1 0 (.a ad v))

/-- ADDA (R120). -/
def execAdda (ad aa : ANum) (sb : SNum) (s : State) : Out := s.landA ad (s.ra aa + (s.rs sb).signExtend 72)

/-- ADDAI (R120). -/
def execAddai (ad aa : ANum) (imm : BitVec 32) (s : State) : Out := s.landA ad (s.ra aa + imm.signExtend 72)

/-- LEA (R120). -/
def execLea (ad : ANum) (sa sb : SNum) (s : State) : Out := s.landA ad ((s.rs sb).extractLsb' 0 8 ++ s.rs sa)

/-- SatS(v, 64) and SAT where the clamp changes the value (Table 0.2). -/
def satS64 (v : Int) : Word × Flags :=
  if v < -(2 ^ 63) then (w64i (-(2 ^ 63)), fSAT) else if 2 ^ 63 - 1 < v then (w64i (2 ^ 63 - 1), fSAT) else (w64i v, 0)

/-- SUBA (R120). -/
def execSuba (sd : SNum) (aa ab : ANum) (s : State) : Out :=
  let r := satS64 ((s.ra aa).toNat - (s.ra ab).toNat)
  s.landS 1 r.2 sd r.1

/-- MOVAS and MOVAS.HI (R120). -/
def execMovas (hi : Bool) (sd : SNum) (aa : ANum) (s : State) : Out :=
  s.landS 1 0 sd (if hi then ((s.ra aa).extractLsb' 64 8).setWidth 64 else (s.ra aa).setWidth 64)

/-- MOVSA (R120). -/
def execMovsa (ad : ANum) (sa : SNum) (s : State) : Out := s.landA ad ((s.rs sa).setWidth 72)

/-- CMPA (R120). -/
def execCmpa (sd : SNum) (aa ab : ANum) (s : State) : Out :=
  let a := (s.ra aa).toNat
  let b := (s.ra ab).toNat
  s.landS 1 0 sd (if a < b then w64i (-1) else if a = b then 0 else 1)

/-- ANDA (R120). -/
def execAnda (ad aa : ANum) (sb : SNum) (s : State) : Out :=
  s.landA ad ((s.ra aa).extractLsb' 64 8 ++ ((s.ra aa).extractLsb' 0 64 &&& s.rs sb))

end Sys2Proof.Machine
end

