-- ==== Sys2Proof/Decode.lean ====
section
/-!
DEFINITION. The decoder of instruction words and micro-words and, after it, the encoder (chapter 3; the field tables of chapters 6 to 8,
10, 11, 13, 14, 16, 18 and 19). The decoder is total on any bits: a word is decoded, or it is an illegal word (`none`).
-/
namespace Sys2Proof

/-- The payload of a P word (Table 3.3). -/
structure PFields where
  sop : BitVec 7
  srd : BitVec 6
  srs1 : BitVec 6
  srs2 : BitVec 6
  vop : BitVec 8
  vd : BitVec 6
  vs1 : BitVec 6
  vs2 : BitVec 6
  vt : BitVec 2
  stall : BitVec 4
  deriving DecidableEq, Repr

/-- The payload of an M word (Table 3.4). -/
structure MFields where
  mop : BitVec 6
  ct : BitVec 2
  mb : BitVec 2
  fa : BitVec 6
  fb : BitVec 6
  fc : BitVec 6
  mmod : BitVec 5
  rsv : BitVec 4
  stamp : BitVec 20
  deriving DecidableEq, Repr

/-- The payload of an X word (Table 3.4). -/
structure XFields where
  xop : BitVec 8
  xd : BitVec 6
  xa : BitVec 6
  xi : BitVec 6
  sp : BitVec 3
  sc : BitVec 2
  xmod : BitVec 4
  disp : BitVec 16
  xc : BitVec 6
  deriving DecidableEq, Repr

/-- The payload of an L word (Table 3.4). -/
structure LFields where
  lop : BitVec 7
  lrd : BitVec 6
  lrs : BitVec 6
  lx : BitVec 6
  imm : BitVec 32
  deriving DecidableEq, Repr

/-- The common fields of a word (Table 3.1): END, CLS, GINV and GN. -/
structure Common where
  fin : Bool
  cls : BitVec 2
  ginv : Bool
  gn : BitVec 3
  deriving DecidableEq, Repr

/-- The fields of a micro-word (Table 16.3); an address generator is (operation, address register, data register). -/
structure UFields where
  seq : BitVec 4
  mc : BitVec 4
  tgt : BitVec 12
  fop : BitVec 8
  ft : BitVec 2
  fd : BitVec 5
  fa : BitVec 5
  fb : BitVec 5
  fc : BitVec 5
  ta : BitVec 3
  tb : BitVec 3
  tc : BitVec 4
  ag0 : BitVec 12
  ag1 : BitVec 12
  banken : BitVec 32
  imm : BitVec 12
  deriving DecidableEq, Repr

/-- Bits [lo+n-1 : lo] of a word (R1). -/
abbrev bits (w : BitVec k) (lo n : Nat) : BitVec n := w.extractLsb' lo n

/-- The common fields of a word. -/
def unpackCommon (w : Word) : Common :=
  { fin := w.getLsbD 63, cls := bits w 61 2, ginv := w.getLsbD 60, gn := bits w 57 3 }

/-- The P payload of a word. -/
def unpackP (w : Word) : PFields :=
  { sop := bits w 50 7, srd := bits w 44 6, srs1 := bits w 38 6, srs2 := bits w 32 6, vop := bits w 24 8, vd := bits w 18 6,
    vs1 := bits w 12 6, vs2 := bits w 6 6, vt := bits w 4 2, stall := bits w 0 4 }

/-- The M payload of a word. -/
def unpackM (w : Word) : MFields :=
  { mop := bits w 51 6, ct := bits w 49 2, mb := bits w 47 2, fa := bits w 41 6, fb := bits w 35 6, fc := bits w 29 6,
    mmod := bits w 24 5, rsv := bits w 20 4, stamp := bits w 0 20 }

/-- The X payload of a word. -/
def unpackX (w : Word) : XFields :=
  { xop := bits w 49 8, xd := bits w 43 6, xa := bits w 37 6, xi := bits w 31 6, sp := bits w 28 3, sc := bits w 26 2,
    xmod := bits w 22 4, disp := bits w 6 16, xc := bits w 0 6 }

/-- The L payload of a word. -/
def unpackL (w : Word) : LFields :=
  { lop := bits w 50 7, lrd := bits w 44 6, lrs := bits w 38 6, lx := bits w 32 6, imm := bits w 0 32 }

/-- The fields of a micro-word. -/
def unpackU (w : BitVec 128) : UFields :=
  { seq := bits w 124 4, mc := bits w 120 4, tgt := bits w 108 12, fop := bits w 100 8, ft := bits w 98 2, fd := bits w 93 5,
    fa := bits w 88 5, fb := bits w 83 5, fc := bits w 78 5, ta := bits w 75 3, tb := bits w 72 3, tc := bits w 68 4,
    ag0 := bits w 56 12, ag1 := bits w 44 12, banken := bits w 12 32, imm := bits w 0 12 }

/-! ## Codes of the small fields -/

/-- The scalar register, vector register or unsigned 6-bit number that a field names (R51). -/
abbrev sreg (b : BitVec 6) : Fin 64 := b.toFin

/-- The address register that a field names, where bit [5] is 0 (R51). -/
def areg (b : BitVec 6) : Option ANum := if h : b.toNat < 32 then some ⟨b.toNat, h⟩ else none

/-- The guard that a field names, where bits [5:3] are 0 (R51). -/
def greg (b : BitVec 6) : Option GNum := if h : b.toNat < 8 then some ⟨b.toNat, h⟩ else none

/-- A ring, port or four-bit number in a six-bit field whose high bits are 0 (R191). -/
def nibble (b : BitVec 6) : Option (Fin 16) := if h : b.toNat < 16 then some ⟨b.toNat, h⟩ else none

/-- A route handle in a six-bit field whose high bits are 0 (R283). -/
def handle (b : BitVec 6) : Option HNum := if h : b.toNat < 8 then some ⟨b.toNat, h⟩ else none

/-- The space of an SP code (Table 3.4). -/
def spaceOf (b : BitVec 3) : Option Space :=
  match b.toNat with
  | 0 => some .lane | 1 => some .pad | 2 => some .crew | 3 => some .chip | 4 => some .glob | _ => none

/-- The SP code of a space. -/
def Space.code : Space → BitVec 3
  | .lane => 0 | .pad => 1 | .crew => 2 | .chip => 3 | .glob => 4

/-- The scope of a SCOPE code (Table 9.5). -/
def scopeOf (b : BitVec 3) : Option Scope :=
  match b.toNat with
  | 0 => some .shift | 1 => some .crew | 2 => some .die | 3 => some .pkg | 4 => some .sys | _ => none

/-- The SCOPE code of a scope. -/
def Scope.code : Scope → BitVec 3
  | .shift => 0 | .crew => 1 | .die => 2 | .pkg => 3 | .sys => 4

/-- The scope in a six-bit field whose bits [5:3] are 0 (R191). -/
def scopeField (b : BitVec 6) : Option Scope := if b.toNat < 8 then scopeOf (bits b 0 3) else none

/-- The access size of a two-bit code (R191). -/
def sizeOf2 (b : BitVec 2) : Size :=
  match b.toNat with
  | 0 => .b | 1 => .h | 2 => .w | _ => .d

/-- The two-bit code of an access size. -/
def Size.code : Size → BitVec 2
  | .b => 0 | .h => 1 | .w => 2 | .d => 3

/-- The format of a code (Table 5.1). -/
def Fmt.ofCode (b : BitVec 4) : Fmt :=
  match b.toNat with
  | 0 => .f32 | 1 => .f16 | 2 => .bf16 | 3 => .e4m3 | 4 => .e5m2 | 5 => .e2m1 | 6 => .lg6 | 7 => .s4
  | 8 => .s8 | 9 => .s16 | 10 => .s32 | 11 => .s64 | 12 => .z8 | 13 => .z16 | 14 => .z32 | _ => .z64

/-- The code of a format (Table 5.1). -/
def Fmt.code : Fmt → BitVec 4
  | .f32 => 0 | .f16 => 1 | .bf16 => 2 | .e4m3 => 3 | .e5m2 => 4 | .e2m1 => 5 | .lg6 => 6 | .s4 => 7
  | .s8 => 8 | .s16 => 9 | .s32 => 10 | .s64 => 11 | .z8 => 12 | .z16 => 13 | .z32 => 14 | .z64 => 15

/-- The integer condition of a code (Table 6.4). -/
def condOf (b : BitVec 3) : Cond :=
  match b.toNat with
  | 0 => .eq | 1 => .ne | 2 => .lt | 3 => .ge | 4 => .ltu | 5 => .geu | 6 => .any | _ => .nany

/-- The code of an integer condition. -/
def Cond.code : Cond → BitVec 3
  | .eq => 0 | .ne => 1 | .lt => 2 | .ge => 3 | .ltu => 4 | .geu => 5 | .any => 6 | .nany => 7

/-- The floating-point condition of a code (Table 6.7). -/
def fcondOf (b : BitVec 3) : Option FCond :=
  match b.toNat with
  | 0 => some .eq | 1 => some .ne | 2 => some .lt | 3 => some .le | 4 => some .un | 5 => some .ord | _ => none

/-- The code of a floating-point condition. -/
def FCond.code : FCond → BitVec 3
  | .eq => 0 | .ne => 1 | .lt => 2 | .le => 3 | .un => 4 | .ord => 5

/-- The integer element width of a VT code (Table 7.3). -/
def elemOf (b : BitVec 2) : Option ElemW :=
  match b.toNat with
  | 0 => some .w | 1 => some .h | 2 => some .b | _ => none

/-- The VT code of an element width. -/
def ElemW.code : ElemW → BitVec 2
  | .w => 0 | .h => 1 | .b => 2

/-- The element type of VADDS and VSUBS (Table 7.3). -/
def satOf (b : BitVec 2) : SatTy :=
  match b.toNat with
  | 0 => .s32 | 1 => .s16 | 2 => .s8 | _ => .z8

/-- The VT code of an element type of VADDS and VSUBS. -/
def SatTy.code : SatTy → BitVec 2
  | .s32 => 0 | .s16 => 1 | .s8 => 2 | .z8 => 3

/-- The element type of VMIN and VMAX (Table 7.3). -/
def minOf (b : BitVec 2) : MinTy :=
  match b.toNat with
  | 0 => .s32 | 1 => .s16 | 2 => .s8 | _ => .z32

/-- The VT code of an element type of VMIN and VMAX. -/
def MinTy.code : MinTy → BitVec 2
  | .s32 => 0 | .s16 => 1 | .s8 => 2 | .z32 => 3

/-- The format of vector floating-point arithmetic (R131). -/
def vfmtOf (b : BitVec 2) : Option VFmt :=
  match b.toNat with
  | 0 => some .f32 | 1 => some .f16 | 2 => some .bf16 | _ => none

/-- The VT code of a vector floating-point format. -/
def VFmt.code : VFmt → BitVec 2
  | .f32 => 0 | .f16 => 1 | .bf16 => 2

/-- The condition of VCMP (R129). -/
def vcondOf (b : BitVec 2) : VCond :=
  match b.toNat with
  | 0 => .eq | 1 => .lt | 2 => .ltu | _ => .flt

/-- The VT code of a condition of VCMP. -/
def VCond.code : VCond → BitVec 2
  | .eq => 0 | .lt => 1 | .ltu => 2 | .flt => 3

/-- The pair of VNARROW and VWIDEN (Table 7.6). -/
def narrowOf (b : BitVec 2) : NarrowTy :=
  match b.toNat with
  | 0 => .bf16 | 1 => .f16 | 2 => .s16 | _ => .s8

/-- The VT code of a pair of VNARROW and VWIDEN. -/
def NarrowTy.code : NarrowTy → BitVec 2
  | .bf16 => 0 | .f16 => 1 | .s16 => 2 | .s8 => 3

/-- The operation of VRED and VSCAN (Table 7.9). -/
def redOf (b : BitVec 4) : Option RedOp :=
  match b.toNat with
  | 0 => some .add | 1 => some .min | 2 => some .max | 3 => some .minz | 4 => some .maxz | 5 => some .and | 6 => some .or
  | 7 => some .xor | 8 => some .fadd | 9 => some .fmin | 10 => some .fmax | _ => none

/-- The OP code of a reduction. -/
def RedOp.code : RedOp → BitVec 4
  | .add => 0 | .min => 1 | .max => 2 | .minz => 3 | .maxz => 4 | .and => 5 | .or => 6 | .xor => 7 | .fadd => 8
  | .fmin => 9 | .fmax => 10

/-- The special register of an LX number (Table 6.9). -/
def specOf (b : BitVec 6) : Option SpecReg :=
  match b.toNat with
  | 0 => some .vl | 1 => some .stat | 2 => some .tcb | 3 => some .sb | 4 => some .stkb | 5 => some .stkl | 6 => some .rnd
  | 7 => some .chk | _ => none

/-- The LX number of a special register. -/
def SpecReg.code : SpecReg → BitVec 6
  | .vl => 0 | .stat => 1 | .tcb => 2 | .sb => 3 | .stkb => 4 | .stkl => 5 | .rnd => 6 | .chk => 7

/-- Whether WRSR may name a special register (Table 6.9). -/
def SpecReg.writable : SpecReg → Bool
  | .tcb | .sb => false
  | _ => true

/-- The operation of ATOM (Table 10.4). -/
def atomOf (b : BitVec 4) : Option AtomOp :=
  match b.toNat with
  | 0 => some .add | 1 => some .and | 2 => some .or | 3 => some .xor | 4 => some .min | 5 => some .max | 6 => some .minz
  | 7 => some .maxz | 8 => some .swap | 9 => some .fadd | _ => none

/-- The XMOD code of an ATOM operation. -/
def AtomOp.code : AtomOp → BitVec 4
  | .add => 0 | .and => 1 | .or => 2 | .xor => 3 | .min => 4 | .max => 5 | .minz => 6 | .maxz => 7 | .swap => 8 | .fadd => 9

/-- The kind of FENCE (R204). -/
def fenceOf (b : BitVec 4) : Option FenceKind :=
  match b.toNat with
  | 1 => some .acq | 2 => some .rel | 3 => some .full | _ => none

/-- The XMOD code of a kind of FENCE. -/
def FenceKind.code : FenceKind → BitVec 4
  | .acq => 1 | .rel => 2 | .full => 3

/-- The mode of XLD and XST (R199). -/
def xmodeOf (b : BitVec 3) : Option XMode :=
  match b.toNat with
  | 0 => some .stream | 1 => some .stride | 2 => some .index | _ => none

/-- The XMOD[2:0] code of a mode of XLD and XST. -/
def XMode.code : XMode → BitVec 3
  | .stream => 0 | .stride => 1 | .index => 2

/-- The operation of MSCAN (R220). -/
def scanOpOf (b : BitVec 2) : Option ScanOp :=
  match b.toNat with
  | 0 => some .topk | 1 => some .botk | 2 => some .cntge | _ => none

/-- The XMOD[1:0] code of an MSCAN operation. -/
def ScanOp.code : ScanOp → BitVec 2
  | .topk => 0 | .botk => 1 | .cntge => 2

/-- The format of MSCAN (R220). -/
def scanFmtOf (b : BitVec 2) : ScanFmt :=
  match b.toNat with
  | 0 => .f32 | 1 => .bf16 | 2 => .s32 | _ => .z32

/-- The XMOD[3:2] code of an MSCAN format. -/
def ScanFmt.code : ScanFmt → BitVec 2
  | .f32 => 0 | .bf16 => 1 | .s32 => 2 | .z32 => 3

/-- The format of RECVADD (R288). -/
def recvFmtOf (b : BitVec 2) : RecvFmt :=
  match b.toNat with
  | 0 => .f32 | 1 => .bf16 | 2 => .s32 | _ => .put

/-- The XMOD[1:0] code of a RECVADD format. -/
def RecvFmt.code : RecvFmt → BitVec 2
  | .f32 => 0 | .bf16 => 1 | .s32 => 2 | .put => 3

/-- The type of MOPA (R167). -/
def mopaOf (b : BitVec 5) : Option MopaTy :=
  match b.toNat with
  | 0 => some .bf16 | 1 => some .f16 | 2 => some .f32 | _ => none

/-- The MMOD code of a MOPA type. -/
def MopaTy.code : MopaTy → BitVec 5
  | .bf16 => 0 | .f16 => 1 | .f32 => 2

/-- Cell rate R of a pair of matrix formats; `none` where Table 8.4 lists no such pair. -/
def cellRate (af bf : Fmt) : Option Nat :=
  match af, bf with
  | .e4m3, .e4m3 | .e4m3, .e5m2 | .e5m2, .e4m3 | .e5m2, .e5m2 => some 2
  | .s8, .s8 => some 2
  | .e2m1, .e2m1 | .s4, .s4 | .lg6, .lg6 => some 4
  | .bf16, .bf16 | .f16, .f16 => some 1
  | _, _ => none

/-- Formats that WBLD takes in PLAIN mode (R163). -/
def Fmt.weight : Fmt → Bool
  | .e4m3 | .e5m2 | .e2m1 | .s4 | .s8 | .lg6 | .bf16 | .f16 => true
  | _ => false

/-- Formats that CST takes (R168). -/
def Fmt.storable : Fmt → Bool
  | .f32 | .f16 | .bf16 | .e4m3 | .e5m2 => true
  | _ => false

/-- Whether an encoding version defines an element format (Table 3.12: LG6 is defined in EV3 alone). -/
def Fmt.inEv (f : Fmt) (ev : Nat) : Bool := f != .lg6 || ev == 3

/-- `x` where a check holds. -/
abbrev need (c : Bool) (x : Option Instr) : Option Instr := if c then x else none

/-! ## The scalar half (Table 3.6, chapter 6) -/

/-- Two-source forms `op sd, sa, sb`. -/
abbrev sop3 (f : PFields) (k : SNum → SNum → SNum → Instr) : Option Instr := some (k (sreg f.srd) (sreg f.srs1) (sreg f.srs2))

/-- Single-source forms `op sd, sa`, whose SRS2 is reserved. -/
abbrev sop2 (f : PFields) (k : SNum → SNum → Instr) : Option Instr := need (f.srs2 == 0) (some (k (sreg f.srd) (sreg f.srs1)))

/-- Immediate forms `op sd, sa, n`. -/
abbrev sopI (f : PFields) (k : SNum → SNum → BitVec 6 → Instr) : Option Instr := some (k (sreg f.srd) (sreg f.srs1) f.srs2)

/-- The scalar half of a P word (Table 3.6; fields as chapter 6 gives them); `ev` is the encoding version. -/
def decodeScalar (ev : Nat) (f : PFields) : Option Instr :=
  match f.sop.toNat with
  | 0x00 => need (f.srd == 0 && f.srs1 == 0 && f.srs2 == 0) (some .nop)
  | 0x01 => sop3 f .add
  | 0x02 => sop3 f .sub
  | 0x03 => sop3 f .mul
  | 0x04 => sop3 f .mulh
  | 0x05 => sop3 f .mulhz
  | 0x06 => sop3 f .div
  | 0x07 => sop3 f .divz
  | 0x08 => sop3 f .rem
  | 0x09 => sop3 f .remz
  | 0x0A => sop3 f .and
  | 0x0B => sop3 f .or
  | 0x0C => sop3 f .xor
  | 0x0D => sop3 f .andn
  | 0x0E => sop3 f .shl
  | 0x0F => sop3 f .shr
  | 0x10 => sop3 f .sra
  | 0x11 => sop3 f .rotl
  | 0x12 => sopI f .shli
  | 0x13 => sopI f .shri
  | 0x14 => sopI f .srai
  | 0x15 => sop2 f .clz
  | 0x16 => sop2 f .ctz
  | 0x17 => sop2 f .popc
  | 0x18 => sop3 f .min
  | 0x19 => sop3 f .max
  | 0x1A => sop3 f .minz
  | 0x1B => sop3 f .maxz
  | 0x1C => sop3 f .sel
  | 0x1D => (greg (0#3 ++ bits f.srd 0 3)).bind fun gd =>
      need (gd.val != 0) (some (.cmp (condOf (bits f.srd 3 3)) gd (sreg f.srs1) (sreg f.srs2)))
  | 0x1E => sopI f .sext
  | 0x1F => sopI f .zext
  | 0x20 => sop3 f .bfx
  | 0x21 => sop3 f .bfi
  | 0x22 => sop3 f .fadd
  | 0x23 => sop3 f .fsub
  | 0x24 => sop3 f .fmul
  | 0x25 => sop3 f .ffma
  | 0x26 => sop3 f .fdiv
  | 0x27 => sop2 f .fsqrt
  | 0x28 => sop3 f .fmin
  | 0x29 => sop3 f .fmax
  | 0x2A => (fcondOf (bits f.srd 3 3)).bind fun cc => (greg (0#3 ++ bits f.srd 0 3)).bind fun gd =>
      need (gd.val != 0) (some (.fcmp cc gd (sreg f.srs1) (sreg f.srs2)))
  | 0x2B =>
      let fm := Fmt.ofCode (bits f.srs2 2 4)
      need (fm != Fmt.f32 && fm.inEv ev) (some (.fcvt fm (f.srs2.getLsbD 1) (f.srs2.getLsbD 0) (sreg f.srd) (sreg f.srs1)))
  | 0x2C => sop2 f .fclass
  | 0x2D => (greg f.srd).bind fun gd => (greg f.srs1).bind fun ga => (greg f.srs2).bind fun gb =>
      need (gd.val != 0) (some (.gand gd ga gb))
  | 0x2E => (greg f.srd).bind fun gd => (greg f.srs1).bind fun ga => (greg f.srs2).bind fun gb =>
      need (gd.val != 0) (some (.gor gd ga gb))
  | 0x2F => (greg f.srd).bind fun gd => (greg f.srs1).bind fun ga => need (gd.val != 0 && f.srs2 == 0) (some (.gnot gd ga))
  | 0x30 => need (f.srs1 == 0 && f.srs2 == 0) (some (.rddcc (sreg f.srd)))
  | 0x31 => (areg f.srd).bind fun ad => (areg f.srs1).bind fun aa => some (.adda ad aa (sreg f.srs2))
  | 0x32 => (areg f.srd).bind fun ad => some (.lea ad (sreg f.srs1) (sreg f.srs2))
  | 0x33 => (areg f.srs1).bind fun aa => (areg f.srs2).bind fun ab => some (.suba (sreg f.srd) aa ab)
  | 0x34 => (areg f.srs1).bind fun aa =>
      need (f.srs2 == 0 || f.srs2 == 1) (some (.movas (f.srs2 == 1) (sreg f.srd) aa))
  | 0x35 => (areg f.srd).bind fun ad => need (f.srs2 == 0) (some (.movsa ad (sreg f.srs1)))
  | 0x36 => (areg f.srs1).bind fun aa => (areg f.srs2).bind fun ab => some (.cmpa (sreg f.srd) aa ab)
  | 0x37 => (areg f.srd).bind fun ad => (areg f.srs1).bind fun aa => some (.anda ad aa (sreg f.srs2))
  | _ => none

/-! ## The vector half (Table 3.7, chapter 7) -/

/-- Forms `op.t vd, va, vb` whose VT selects a type. -/
abbrev vop3 {τ : Type} (f : PFields) (t : Option τ) (k : τ → VNum → VNum → VNum → Instr) : Option Instr :=
  t.bind fun t => some (k t (sreg f.vd) (sreg f.vs1) (sreg f.vs2))

/-- Forms `op.t vd, va` whose VT selects a type and whose VS2 is reserved. -/
abbrev vop2 {τ : Type} (f : PFields) (t : Option τ) (k : τ → VNum → VNum → Instr) : Option Instr :=
  t.bind fun t => need (f.vs2 == 0) (some (k t (sreg f.vd) (sreg f.vs1)))

/-- The vector half of a P word: `none` where it is illegal, `some none` where it is empty (R52). -/
def decodeVector (ev : Nat) (f : PFields) : Option (Option Instr) :=
  if f.vop = 0 then
    if f.vd = 0 ∧ f.vs1 = 0 ∧ f.vs2 = 0 ∧ f.vt = 0 then some none else none
  else
    (match f.vop.toNat with
    | 0x01 => vop3 f (elemOf f.vt) .vadd
    | 0x02 => vop3 f (elemOf f.vt) .vsub
    | 0x03 => vop3 f (elemOf f.vt) .vmul
    | 0x04 => vop3 f (elemOf f.vt) .vmulh
    | 0x05 => vop3 f (some (satOf f.vt)) .vadds
    | 0x06 => vop3 f (some (satOf f.vt)) .vsubs
    | 0x07 => vop3 f (some (minOf f.vt)) .vmin
    | 0x08 => vop3 f (some (minOf f.vt)) .vmax
    | 0x09 => vop2 f (elemOf f.vt) .vabs
    | 0x0A => vop2 f (elemOf f.vt) .vneg
    | 0x0B => need (f.vt == 0) (some (.vand (sreg f.vd) (sreg f.vs1) (sreg f.vs2)))
    | 0x0C => need (f.vt == 0) (some (.vor (sreg f.vd) (sreg f.vs1) (sreg f.vs2)))
    | 0x0D => need (f.vt == 0) (some (.vxor (sreg f.vd) (sreg f.vs1) (sreg f.vs2)))
    | 0x0E => vop3 f (elemOf f.vt) .vshl
    | 0x0F => vop3 f (elemOf f.vt) .vshr
    | 0x10 => vop3 f (elemOf f.vt) .vsra
    | 0x11 => vop3 f (some (vcondOf f.vt)) .vcmp
    | 0x12 => need (f.vt == 0) (some (.vsel (sreg f.vd) (sreg f.vs1) (sreg f.vs2)))
    | 0x13 => vop3 f (vfmtOf f.vt) .vfadd
    | 0x14 => vop3 f (vfmtOf f.vt) .vfsub
    | 0x15 => vop3 f (vfmtOf f.vt) .vfmul
    | 0x16 => vop3 f (vfmtOf f.vt) .vfma
    | 0x17 => vop3 f (vfmtOf f.vt) .vfms
    | 0x18 => vop3 f (vfmtOf f.vt) .vfnma
    | 0x19 => vop3 f (vfmtOf f.vt) .vfmin
    | 0x1A => vop3 f (vfmtOf f.vt) .vfmax
    | 0x1B => need (f.vt == 0) (some (.vfdiv (sreg f.vd) (sreg f.vs1) (sreg f.vs2)))
    | 0x1C => need (f.vt == 0 && f.vs2 == 0) (some (.vrcp (sreg f.vd) (sreg f.vs1)))
    | 0x1D => need (f.vt == 0 && f.vs2 == 0) (some (.vrsq (sreg f.vd) (sreg f.vs1)))
    | 0x1E => need (f.vt == 0 && f.vs2 == 0) (some (.vexp2 (sreg f.vd) (sreg f.vs1)))
    | 0x1F => need (f.vt == 0 && f.vs2 == 0) (some (.vlog2 (sreg f.vd) (sreg f.vs1)))
    | 0x20 =>
        let dst := Fmt.ofCode (bits f.vs2 2 4)
        let src := Fmt.ofCode (bits f.vs2 0 2 ++ f.vt)
        need (dst != src && dst != Fmt.s64 && dst != Fmt.z64 && src != Fmt.s64 && src != Fmt.z64 && dst.inEv ev && src.inEv ev)
          (some (.vcvt dst src (sreg f.vd) (sreg f.vs1)))
    | 0x21 => vop3 f (some (narrowOf f.vt)) .vnarrow
    | 0x22 => need (f.vs2 == 0 || f.vs2 == 1) (some (.vwiden (narrowOf f.vt) (f.vs2 == 1) (sreg f.vd) (sreg f.vs1)))
    | 0x23 => (elemOf f.vt).bind fun t => need (f.vs1 == 0) (some (.vbcast t (sreg f.vd) (sreg f.vs2)))
    | 0x24 => need (f.vt == 0 || f.vt == 1) (some (.vextr (f.vt == 1) (sreg f.vd) (sreg f.vs1) f.vs2))
    | 0x25 => need (f.vt == 0) (some (.vins (sreg f.vd) (sreg f.vs2) f.vs1))
    | 0x26 => need (f.vt == 0) (some (.vperm (sreg f.vd) (sreg f.vs1) (sreg f.vs2)))
    | 0x27 => need (f.vt == 0) (some (.vrot (sreg f.vd) (sreg f.vs1) (sreg f.vs2)))
    | 0x28 => need (f.vt == 0 || f.vt == 1) (some (.vslide (f.vt == 1) (sreg f.vd) (sreg f.vs1) (sreg f.vs2)))
    | 0x29 => (redOf (bits f.vs2 0 4)).bind fun op =>
        need (f.vt == 0 && bits f.vs2 4 2 == 0) (some (.vred op (sreg f.vd) (sreg f.vs1)))
    | 0x2A => (redOf (bits f.vs2 0 4)).bind fun op =>
        need (f.vt == 0 && bits f.vs2 5 1 == 0) (some (.vscan op (f.vs2.getLsbD 4) (sreg f.vd) (sreg f.vs1)))
    | 0x2B => need (f.vt == 0 && f.vd != 63) (some (.part (sreg f.vd) (sreg f.vs1) (sreg f.vs2)))
    | 0x2C => need (f.vt == 0 && bits f.vd 3 3 == 0 && bits f.vd 0 3 != 0 && ev != 1 && (ev == 3 || (bits f.vd 0 3).toNat ≤ 3))
        (some (.partn (bits f.vd 0 3) (sreg f.vs1) (sreg f.vs2)))
    | 0x2D => need (f.vt == 0 && f.vs1 == 0) (some (.viota (sreg f.vd) (sreg f.vs2)))
    | 0x2E => (elemOf f.vt).bind fun t => some (.vgath t (sreg f.vd) (sreg f.vs1) (sreg f.vs2))
    | 0x2F => (elemOf f.vt).bind fun t => some (.vscat t (sreg f.vd) (sreg f.vs1) (sreg f.vs2))
    | 0x30 => need (f.vt == 0) (some (.vld (sreg f.vd) (sreg f.vs2) f.vs1))
    | 0x31 => need (f.vt == 0) (some (.vst (sreg f.vd) (sreg f.vs2) f.vs1))
    | 0x32 => need (f.vt == 0 && f.vs2 == 0) (some (.vldl (sreg f.vd) (sreg f.vs1)))
    | 0x33 => need (f.vt == 0 && f.vs2 == 0) (some (.vstl (sreg f.vd) (sreg f.vs1)))
    | 0x34 => need (f.vt == 0 && f.vs1 == 0) (some (.vsetvl (sreg f.vd) (sreg f.vs2)))
    | n => need (decide (0xC0 ≤ n) && ev != 1) (some (.tenantV (bits f.vop 0 6) f.vt (sreg f.vd) (sreg f.vs1) (sreg f.vs2)))).bind
      fun i => some (some i)

/-! ## M words (Table 3.8, Table 8.5) -/

/-- The stamp in force: an EV1 word carries none and issues when ready (Table 3.12). -/
abbrev stampOf (ev : Nat) (f : MFields) : BitVec 20 := if ev = 1 then 0xFFFFF else f.stamp

/-- An M word (Table 8.5). -/
def decodeM (ev : Nat) (f : MFields) : Option Instr :=
  need (f.rsv == 0 && (ev != 1 || f.stamp == 0)) <|
  let st := stampOf ev f
  match f.mop.toNat with
  | 0x01 =>
      let af := Fmt.ofCode (bits f.mmod 0 4)
      let bf := Fmt.ofCode (bits f.fb 0 4)
      need (bits f.mmod 4 1 == 0 && bits f.fb 4 2 == 0 && f.ct == 0 && f.fa == 0 && f.fc == 0 && (cellRate af bf).isSome
        && af.inEv ev) (some (.tcfg af bf f.mb.toFin st))
  | 0x02 => need (bits f.mmod 4 1 == 0)
      (some (.mma (bits f.mmod 0 4) f.ct.toFin f.mb.toFin (sreg f.fa) (sreg f.fb) (sreg f.fc) st))
  | 0x03 => need (bits f.mmod 4 1 == 0 && ev != 1)
      (some (.mmaz (bits f.mmod 0 4) f.ct.toFin f.mb.toFin (sreg f.fa) (sreg f.fb) (sreg f.fc) st))
  | 0x04 => (mopaOf f.mmod).bind fun t =>
      need (f.fc == 0 && (t != .f32 || (f.fa != 63 && f.fb != 63))) (some (.mopa t f.ct.toFin f.mb.toFin (sreg f.fa) (sreg f.fb) st))
  | 0x05 => need (f.fb == 0 && f.fc == 0 && f.mmod == 0) (some (.ald f.ct.toFin f.mb.toFin (sreg f.fa) st))
  | 0x06 => (areg f.fa).bind fun aa => need (f.ct == 0 && f.fc == 0) <|
      if f.mmod.getLsbD 4 then
        let fm := Fmt.ofCode (bits f.mmod 0 4)
        need (fm.weight && fm.inEv ev) (some (.wbld (some fm) f.mb.toFin aa (sreg f.fb) st))
      else need (f.mmod == 0) (some (.wbld none f.mb.toFin aa (sreg f.fb) st))
  | 0x07 => need (bits f.fa 1 5 == 0 && f.ct == 0 && f.fb == 0 && f.fc == 0 && f.mmod == 0)
      (some (.wbsel f.mb.toFin (f.fa.getLsbD 0) st))
  | 0x08 => need (f.fa != 63 && f.fc == 0 && f.mmod == 0) (some (.crd f.ct.toFin f.mb.toFin (sreg f.fa) (sreg f.fb) st))
  | 0x09 => need (f.fa != 63 && f.fc == 0 && f.mmod == 0) (some (.cwr f.ct.toFin f.mb.toFin (sreg f.fa) (sreg f.fb) st))
  | 0x0A => need (f.fa == 0 && f.fb == 0 && f.fc == 0 && f.mmod == 0) (some (.cclr f.ct.toFin f.mb.toFin st))
  | 0x0B =>
      let fm := Fmt.ofCode (bits f.mmod 0 4)
      need (bits f.mmod 4 1 == 0 && fm.storable && f.fb == 0 && f.fc == 0) (some (.cst fm f.ct.toFin f.mb.toFin (sreg f.fa) st))
  | 0x0C => need (f.ct == 0 && f.fa == 0 && f.fb == 0 && f.fc == 0 && f.mmod == 0) (some (.mbarm f.mb.toFin st))
  | 0x0D => need (f.ct == 0 && f.fb == 0 && f.fc == 0 && f.mmod == 0 && f.stamp == 0) (some (.mbwait (sreg f.fa) f.mb.toFin))
  | 0x0E => need (f.ct == 0 && f.mb == 0 && f.fb == 0 && f.fc == 0 && bits f.mmod 1 4 == 0 && f.stamp == 0)
      (some (.setsb (f.mmod.getLsbD 0) (sreg f.fa)))
  | n => need (decide (0x30 ≤ n) && ev == 3)
      (some (.tenantM (bits f.mop 0 4) f.ct.toFin f.mb.toFin (sreg f.fa) (sreg f.fb) (sreg f.fc) f.mmod st))

/-! ## X words (Table 3.9, Tables 10.1, 11.2, 14.6, R358) -/

/-- The memory operand with an index (R53). -/
def memX (f : XFields) (ok : Space → Bool) : Option MemX :=
  (spaceOf f.sp).bind fun sp => (areg f.xa).bind fun xa =>
    if ok sp then some { sp := sp, xa := xa, xi := sreg f.xi, sc := f.sc, disp := f.disp } else none

/-- The memory operand without an index: SC must be 00 (R190). -/
def memB (f : XFields) (ok : Space → Bool) : Option MemB :=
  (spaceOf f.sp).bind fun sp => (areg f.xa).bind fun xa =>
    if ok sp && f.sc == 0 then some { sp := sp, xa := xa, disp := f.disp } else none

/-- Any space (Table 10.1). -/
abbrev anySpace (_ : Space) : Bool := true
/-- PAD to GLOB (Table 10.1). -/
abbrev notLane (s : Space) : Bool := s != .lane
/-- GLOB alone. -/
abbrev onlyGlob (s : Space) : Bool := s == .glob
/-- PAD, CREW and CHIP. -/
abbrev ringSpace (s : Space) : Bool := s == .pad || s == .crew || s == .chip
/-- PAD alone. -/
abbrev onlyPad (s : Space) : Bool := s == .pad

/-- Fields that a word without a memory operand leaves zero: XA, XI, SP, SC, XMOD and DISP. -/
def noMem (f : XFields) : Bool := f.xa == 0 && f.xi == 0 && f.sp == 0 && f.sc == 0 && f.xmod == 0 && f.disp == 0

/-- Bits [5:3] and [5:4] of XC for ATOM, CAS and RATOM: [2:0] scope or handle, [3] size (R191). -/
def xcSized (b : BitVec 6) : Bool := bits b 4 2 == 0

/-- An X word. -/
def decodeX (ev : Nat) (f : XFields) : Option Instr :=
  match f.xop.toNat with
  | 0x01 => (memX f anySpace).bind fun m =>
      need (bits f.xmod 3 1 == 0 && !(f.xmod.getLsbD 2 && bits f.xmod 0 2 == 3) && (m.sp == .lane || f.xc == 0))
        (some (.ld (sizeOf2 (bits f.xmod 0 2)) (f.xmod.getLsbD 2) (sreg f.xd) m (sreg f.xc)))
  | 0x02 => (memX f anySpace).bind fun m =>
      need (bits f.xmod 2 2 == 0 && (m.sp == .lane || f.xc == 0))
        (some (.st (sizeOf2 (bits f.xmod 0 2)) (sreg f.xd) m (sreg f.xc)))
  | 0x03 => (memX f notLane).bind fun m => (scopeField f.xc).bind fun sc =>
      need (bits f.xmod 3 1 == 0 && !(f.xmod.getLsbD 2 && bits f.xmod 0 2 == 3))
        (some (.lda (sizeOf2 (bits f.xmod 0 2)) (f.xmod.getLsbD 2) sc (sreg f.xd) m))
  | 0x04 => (memX f notLane).bind fun m => (scopeField f.xc).bind fun sc =>
      need (bits f.xmod 2 2 == 0) (some (.sta (sizeOf2 (bits f.xmod 0 2)) sc (sreg f.xd) m))
  | 0x05 => (memX f notLane).bind fun m => (xmodeOf (bits f.xmod 0 3)).bind fun md => (nibble f.xc).bind fun q =>
      need (f.xd != 0) (some (.xld md (f.xmod.getLsbD 3) q (sreg f.xd) m))
  | 0x06 => (memX f notLane).bind fun m => (xmodeOf (bits f.xmod 0 3)).bind fun md => (nibble f.xc).bind fun q =>
      need (f.xd != 0 && md != .index) (some (.xst md (f.xmod.getLsbD 3) q (sreg f.xd) m))
  | 0x07 => (memB f notLane).bind fun m => (spaceOf (bits f.xmod 0 3)).bind fun src => (areg f.xc).bind fun as =>
      need (f.xd != 0 && bits f.xmod 3 1 == 0 && src != .lane) (some (.cpy src (sreg f.xd) m as (sreg f.xi)))
  | 0x08 => (memB f notLane).bind fun m => (spaceOf (bits f.xmod 0 3)).bind fun src => (areg f.xc).bind fun as =>
      need (f.xd != 0 && bits f.xmod 3 1 == 0 && src != .lane && f.xi != 0 && f.xi != 63)
        (some (.cpy2d src (sreg f.xd) m as (sreg f.xi)))
  | 0x09 => (memB f notLane).bind fun m => (atomOf f.xmod).bind fun op => (scopeOf (bits f.xc 0 3)).bind fun sc =>
      need (xcSized f.xc && !(op == .fadd && f.xc.getLsbD 3)) (some (.atom op (f.xc.getLsbD 3) sc (sreg f.xd) m (sreg f.xi)))
  | 0x0A => (memB f notLane).bind fun m => (scopeOf (bits f.xc 0 3)).bind fun sc =>
      need (f.xmod == 0 && xcSized f.xc) (some (.cas (f.xc.getLsbD 3) sc (sreg f.xd) m (sreg f.xi)))
  | 0x0B => (fenceOf f.xmod).bind fun k => (scopeField f.xc).bind fun sc =>
      need (f.xd == 0 && f.xa == 0 && f.xi == 0 && f.sp == 0 && f.sc == 0 && f.disp == 0) (some (.fence k sc))
  | 0x0C => (memB f notLane).bind fun m => (scopeField f.xc).bind fun sc =>
      need (bits f.xmod 2 2 == 0) (some (.waitge (f.xmod.getLsbD 0) (f.xmod.getLsbD 1) sc (sreg f.xd) m (sreg f.xi)))
  | 0x0D => (memX f onlyGlob).bind fun m => need (f.xmod == 0 && f.xc == 0) (some (.lockl (sreg f.xd) m))
  | 0x0E => (memX f onlyGlob).bind fun m => need (f.xmod == 0 && f.xc == 0) (some (.unlockl (sreg f.xd) m))
  | 0x0F => (memX f onlyGlob).bind fun m => need (f.xd == 0 && bits f.xmod 1 3 == 0 && f.xc == 0) (some (.pref (f.xmod.getLsbD 0) m))
  | 0x10 => (memB f ringSpace).bind fun m => (nibble f.xc).bind fun q =>
      need (f.xmod == 0) (some (.rinit (sreg f.xd) q m (sreg f.xi)))
  | 0x11 => (nibble f.xc).bind fun q => need (noMem f) (some (.rclaim (sreg f.xd) q))
  | 0x12 => (nibble f.xc).bind fun q => need (noMem f && f.xd == 0) (some (.rpub q))
  | 0x13 => (nibble f.xc).bind fun q => need (noMem f) (some (.rwait (sreg f.xd) q))
  | 0x14 => (nibble f.xc).bind fun q => need (noMem f && f.xd == 0) (some (.rrel q))
  | 0x15 => (memB f notLane).bind fun m => (scopeField f.xc).bind fun sc =>
      need (bits f.xmod 1 3 == 0) (some (.barinit (f.xmod.getLsbD 0) sc (sreg f.xd) m (sreg f.xi)))
  | 0x16 => (memB f notLane).bind fun m => (scopeField f.xc).bind fun sc =>
      need (f.xmod == 0 && f.xi == 0) (some (.bararr sc (sreg f.xd) m))
  | 0x17 => (memB f notLane).bind fun m => (scopeField f.xc).bind fun sc =>
      need (f.xmod == 0) (some (.barwait sc (sreg f.xd) m (sreg f.xi)))
  | 0x18 => (memB f onlyGlob).bind fun m => (scanOpOf (bits f.xmod 0 2)).bind fun op =>
      need (f.xd != 0) (some (.mscan op (scanFmtOf (bits f.xmod 2 2)) (sreg f.xd) m (sreg f.xi) (sreg f.xc)))
  | 0x20 => (memB f onlyGlob).bind fun m => need (ev == 3 && f.xmod == 0 && f.xc == 0) (some (.bopen (sreg f.xd) m (sreg f.xi)))
  | 0x21 => (memX f onlyGlob).bind fun m =>
      need (ev == 3 && bits f.xmod 2 2 == 0 && f.xc == 0) (some (.bst (sizeOf2 (bits f.xmod 0 2)) (sreg f.xd) m))
  | 0x22 => (scopeField f.xc).bind fun sc => need (ev == 3 && noMem f) (some (.bseal sc (sreg f.xd)))
  | 0x23 => need (ev == 3 && noMem f && f.xc == 0) (some (.babort (sreg f.xd)))
  | 0x24 => (scopeField f.xc).bind fun sc => need (ev == 3 && noMem f && f.xd == 0) (some (.viewb sc))
  | 0x25 => need (ev == 3 && noMem f && f.xc == 0) (some (.viewe (sreg f.xd)))
  | 0x30 => (memX f notLane).bind fun m => (handle f.xc).bind fun h =>
      need (ev != 1 && f.xd == 0 && f.xmod == 0) (some (.rtld h m))
  | 0x31 => (memX f onlyGlob).bind fun m => (handle (0#3 ++ bits f.xmod 0 3)).bind fun h => (nibble f.xc).bind fun q =>
      need (ev != 1 && f.xd != 0 && bits f.xmod 3 1 == 0) (some (.rldq h q (sreg f.xd) m))
  | 0x32 => (memX f onlyGlob).bind fun m => (handle f.xc).bind fun h =>
      need (ev != 1 && bits f.xmod 2 2 == 0) (some (.rst (sizeOf2 (bits f.xmod 0 2)) (sreg f.xd) h m))
  | 0x33 => (memB f onlyGlob).bind fun m => (atomOf f.xmod).bind fun op => (handle (0#3 ++ bits f.xc 0 3)).bind fun h =>
      need (ev != 1 && xcSized f.xc && !(op == .fadd && f.xc.getLsbD 3))
        (some (.ratom op (f.xc.getLsbD 3) (sreg f.xd) m (sreg f.xi) h))
  | 0x34 => (memB f notLane).bind fun m =>
      need (ev != 1 && f.xd != 0 && f.xmod == 0 && f.xc == 0) (some (.rstn (sreg f.xd) m (sreg f.xi)))
  | 0x35 => (memB f onlyPad).bind fun m => (nibble f.xc).bind fun p =>
      need (ev == 3 && bits f.xmod 3 1 == 0)
        (some (.recvadd (recvFmtOf (bits f.xmod 0 2)) (f.xmod.getLsbD 2) p (sreg f.xd) m (sreg f.xi)))
  | 0x36 => (memB f notLane).bind fun m => (handle f.xc).bind fun h =>
      need (ev == 3 && f.xd != 0 && f.xmod == 0) (some (.rsend h (sreg f.xd) m (sreg f.xi)))
  | 0x37 => need (ev != 1 && noMem f && f.xc == 0) (some (.lfence (sreg f.xd)))
  | 0x38 => (memB f notLane).bind fun m => need (ev == 3 && f.xd != 0 && f.xmod == 0) (some (.coll f.xc (sreg f.xd) m (sreg f.xi)))
  | 0x40 => (areg f.xa).bind fun aw =>
      need (ev == 3 && f.sp == 0 && f.sc == 0 && f.disp == 0 && f.xc == 0 && bits f.xmod 1 3 == 0)
        (some (.adpin (f.xmod.getLsbD 0) (sreg f.xd) aw (sreg f.xi)))
  | 0x41 => need (ev == 3 && f.xa == 0 && f.sp == 0 && f.sc == 0 && f.xmod == 0 && f.disp == 0 && f.xc == 0)
      (some (.adunpin (sreg f.xd) (sreg f.xi)))
  | n => (memX f anySpace).bind fun m =>
      need (decide (0xC0 ≤ n) && ev != 1) (some (.tenantX (bits f.xop 0 6) f.xmod (sreg f.xd) (sreg f.xc) m))

/-! ## L words (Table 3.10, Tables 6.3, 13.2, R117, R120, R374) -/

/-- Integer L forms `op sd, sa, i`. -/
abbrev lopI (f : LFields) (k : SNum → SNum → BitVec 32 → Instr) : Option Instr :=
  need (f.lx == 0) (some (k (sreg f.lrd) (sreg f.lrs) f.imm))

/-- A rel or abs field names a multiple of 8 (R259). -/
def rel8 (i : BitVec 32) : Bool := bits i 0 3 == 0

/-- An L word. -/
def decodeL (ev : Nat) (f : LFields) : Option Instr :=
  match f.lop.toNat with
  | 0x01 => lopI f .addi
  | 0x02 => lopI f .andi
  | 0x03 => lopI f .ori
  | 0x04 => lopI f .xori
  | 0x05 => (greg f.lrd).bind fun gd =>
      need (gd.val != 0 && bits f.lx 3 3 == 0) (some (.cmpi (condOf (bits f.lx 0 3)) gd (sreg f.lrs) f.imm))
  | 0x06 => need (f.lx == 0 && f.lrs == 0) (some (.movi (sreg f.lrd) f.imm))
  | 0x07 => need (f.lx == 0 && f.lrs == 0) (some (.movhi (sreg f.lrd) f.imm))
  | 0x08 => (areg f.lrd).bind fun ad => (areg f.lrs).bind fun aa => need (f.lx == 0) (some (.addai ad aa f.imm))
  | 0x09 => (specOf f.lx).bind fun r => need (f.lrs == 0 && f.imm == 0) (some (.rdsr (sreg f.lrd) r))
  | 0x0A => (specOf f.lx).bind fun r => need (r.writable && f.lrd == 0 && f.imm == 0) (some (.wrsr r (sreg f.lrs)))
  | 0x10 => need (f.lrd == 0 && f.lrs == 0 && f.lx == 0 && rel8 f.imm) (some (.br f.imm))
  | 0x11 => need (f.lrd == 0 && f.lx == 0 && rel8 f.imm) (some (.bri (sreg f.lrs) f.imm))
  | 0x12 => need (f.lrd == 0 && f.lx == 0 && (f.lrs != 0 || rel8 f.imm)) (some (.jmp (sreg f.lrs) f.imm))
  | 0x13 => need (f.lrd == 0 && f.lrs == 0 && f.lx == 0 && rel8 f.imm) (some (.call f.imm))
  | 0x14 => need (f.lrd == 0 && f.lx == 0 && (f.lrs != 0 || rel8 f.imm)) (some (.calli (sreg f.lrs) f.imm))
  | 0x15 => need (f.lrd == 0 && f.lrs == 0 && f.lx == 0 && f.imm == 0) (some .ret)
  | 0x16 => need (f.lrs == 0 && f.lx == 0 && rel8 f.imm) (some (.loop (sreg f.lrd) f.imm))
  | 0x20 => need (f.lrd == 0 && f.lrs == 0 && f.lx == 0 && f.imm == 0) (some .halt)
  | 0x21 => need (f.lrd == 0 && f.lrs == 0 && f.lx == 0 && (ev != 1 || f.imm == 0)) (some (.safept f.imm))
  | 0x22 => need (f.lrd == 0 && f.lrs == 0 && f.lx == 0 && (ev != 1 || f.imm == 0)) (some (.yield f.imm))
  | 0x23 => need (f.lx == 0 && bits f.imm 16 16 == 0 && bits f.imm 0 16 != 0)
      (some (.waitev (sreg f.lrd) (sreg f.lrs) (bits f.imm 0 16)))
  | 0x24 => need (f.lx == 0 && bits f.imm 4 28 == 0) (some (.sigev (sreg f.lrd) (sreg f.lrs) (bits f.imm 0 4)))
  | 0x25 => need (f.lrd == 0 && f.lrs == 0 && f.lx == 0 && f.imm == 0) (some .cont)
  | 0x26 => need (f.lrd == 0 && f.lrs == 0 && f.lx == 0 && bits f.imm 16 16 == 0) (some (.trap (bits f.imm 0 16)))
  | 0x27 => need (f.lrd == 0 && f.lrs == 0 && f.lx == 0 && bits f.imm 16 16 == 0) (some (.brk (bits f.imm 0 16)))
  | 0x28 => need ((f.lx == 0 || f.lx == 1) && f.lrs == 0 && f.imm == 0) (some (.tret (f.lx == 1) (sreg f.lrd)))
  | _ => none

/-! ## Words -/

/-- A decoded word: its guard, its operations in order (the scalar half before the vector half), the stall count it gives its bundle,
and whether it holds a vector half. -/
structure DWord where
  ginv : Bool
  gn : GNum
  ops : List Instr
  stall : Nat
  vec : Bool
  deriving DecidableEq, Repr

/-- The operations and stall count of a word's payload. -/
def decodePayload (ev : Nat) (cls : BitVec 2) (w : Word) : Option (List Instr × Nat × Bool) :=
  match cls.toNat with
  | 0 => (decodeScalar ev (unpackP w)).bind fun i => (decodeVector ev (unpackP w)).bind fun v =>
      some (i :: v.toList, (unpackP w).stall.toNat, v.isSome)
  | 1 => (decodeM ev (unpackM w)).bind fun i => some ([i], 0, false)
  | 2 => (decodeX ev (unpackX w)).bind fun i => some ([i], 0, false)
  | _ => (decodeL ev (unpackL w)).bind fun i => some ([i], 0, false)

/-- Check 3 of Table 3.11 on one word, but for what the header decides (R64): `none` is an illegal instruction. -/
def decodeWord (ev : Nat) (w : Word) : Option DWord :=
  let c := unpackCommon w
  if c.gn = 0 ∧ c.ginv = true then none
  else (decodePayload ev c.cls w).bind fun p =>
    some { ginv := c.ginv, gn := c.gn.toFin, ops := p.1, stall := p.2.1, vec := p.2.2 }

/-- The instruction that stands for a decoded word: its vector half where the scalar half is empty. -/
def DWord.main (d : DWord) : Option Instr :=
  match d.ops with
  | [.nop, v] => some v
  | i :: _ => some i
  | [] => none

/-- The instruction read from the bits of one word (bit 0 the least significant). -/
def decodeTableWord (nbits w : Nat) : Option Instr :=
  if nbits ≤ 64 then (decodeWord 3 (BitVec.ofNat 64 w)).bind DWord.main else none

/-! ## The encoder, from the same tables -/

/-- The word of END = 1, guard g0, a class and a payload of 57 bits. -/
def wordOf (cls : BitVec 2) (payload : BitVec 57) : Word := 1#1 ++ cls ++ 0#1 ++ 0#3 ++ payload

/-- The bits of a P payload (Table 3.3). -/
def packP (f : PFields) : BitVec 57 :=
  f.sop ++ f.srd ++ f.srs1 ++ f.srs2 ++ f.vop ++ f.vd ++ f.vs1 ++ f.vs2 ++ f.vt ++ f.stall

/-- The bits of an M payload (Table 3.4). -/
def packM (f : MFields) : BitVec 57 := f.mop ++ f.ct ++ f.mb ++ f.fa ++ f.fb ++ f.fc ++ f.mmod ++ f.rsv ++ f.stamp

/-- The bits of an X payload (Table 3.4). -/
def packX (f : XFields) : BitVec 57 := f.xop ++ f.xd ++ f.xa ++ f.xi ++ f.sp ++ f.sc ++ f.xmod ++ f.disp ++ f.xc

/-- The bits of an L payload (Table 3.4). -/
def packL (f : LFields) : BitVec 57 := f.lop ++ f.lrd ++ f.lrs ++ f.lx ++ f.imm

/-- The six-bit field of a register number or six-bit number. -/
abbrev r6 (r : Fin 64) : BitVec 6 := BitVec.ofFin r
/-- The six-bit field of a smaller number. -/
abbrev n6 {k : Nat} (r : Fin k) : BitVec 6 := BitVec.ofNat 6 r.val
/-- One bit. -/
abbrev b1 (b : Bool) : BitVec 1 := BitVec.ofBool b

/-- The payload of an empty P word. -/
def pZero : PFields :=
  { sop := 0, srd := 0, srs1 := 0, srs2 := 0, vop := 0, vd := 0, vs1 := 0, vs2 := 0, vt := 0, stall := 0 }

/-- A scalar half with an empty vector half. -/
abbrev encS (sop : BitVec 7) (d a b : BitVec 6) : Option Word :=
  some (wordOf 0 (packP { pZero with sop := sop, srd := d, srs1 := a, srs2 := b }))
/-- A scalar half of three scalar registers. -/
abbrev encS3 (sop : BitVec 7) (d a b : SNum) : Option Word := encS sop (r6 d) (r6 a) (r6 b)
/-- A vector half with an empty scalar half. -/
abbrev encV (vop : BitVec 8) (vt : BitVec 2) (d a b : BitVec 6) : Option Word :=
  some (wordOf 0 (packP { pZero with vop := vop, vt := vt, vd := d, vs1 := a, vs2 := b }))
/-- A vector half of three registers. -/
abbrev encV3 (vop : BitVec 8) (vt : BitVec 2) (d a b : Fin 64) : Option Word := encV vop vt (r6 d) (r6 a) (r6 b)
/-- An M word. -/
abbrev encM (mop : BitVec 6) (ct mb : BitVec 2) (fa fb fc : BitVec 6) (mmod : BitVec 5) (stamp : BitVec 20) : Option Word :=
  some (wordOf 1 (packM { mop := mop, ct := ct, mb := mb, fa := fa, fb := fb, fc := fc, mmod := mmod, rsv := 0, stamp := stamp }))
/-- An X word with an indexed memory operand. -/
abbrev encX (xop : BitVec 8) (xd : BitVec 6) (m : MemX) (xmod : BitVec 4) (xc : BitVec 6) : Option Word :=
  some (wordOf 2 (packX { xop := xop, xd := xd, xa := n6 m.xa, xi := r6 m.xi, sp := m.sp.code, sc := m.sc,
                          xmod := xmod, disp := m.disp, xc := xc }))
/-- An X word with a memory operand without index; XI holds another register. -/
abbrev encB (xop : BitVec 8) (xd : BitVec 6) (m : MemB) (xi : BitVec 6) (xmod : BitVec 4) (xc : BitVec 6) : Option Word :=
  some (wordOf 2 (packX { xop := xop, xd := xd, xa := n6 m.xa, xi := xi, sp := m.sp.code, sc := 0,
                          xmod := xmod, disp := m.disp, xc := xc }))
/-- An X word without a memory operand. -/
abbrev encN (xop : BitVec 8) (xd xa xi : BitVec 6) (xmod : BitVec 4) (xc : BitVec 6) : Option Word :=
  some (wordOf 2 (packX { xop := xop, xd := xd, xa := xa, xi := xi, sp := 0, sc := 0, xmod := xmod, disp := 0, xc := xc }))
/-- An L word. -/
abbrev encL (lop : BitVec 7) (lrd lrs lx : BitVec 6) (imm : BitVec 32) : Option Word :=
  some (wordOf 3 (packL { lop := lop, lrd := lrd, lrs := lrs, lx := lx, imm := imm }))

/-- The word of an instruction that one word of a bundle carries, alone in its bundle, unguarded and with stall count 0; `none` for
the parts of micro-words and for events. -/
def encode : Instr → Option Word
  | .nop => encS 0x00 0 0 0
  | .add d a b => encS3 0x01 d a b
  | .sub d a b => encS3 0x02 d a b
  | .mul d a b => encS3 0x03 d a b
  | .mulh d a b => encS3 0x04 d a b
  | .mulhz d a b => encS3 0x05 d a b
  | .div d a b => encS3 0x06 d a b
  | .divz d a b => encS3 0x07 d a b
  | .rem d a b => encS3 0x08 d a b
  | .remz d a b => encS3 0x09 d a b
  | .and d a b => encS3 0x0A d a b
  | .or d a b => encS3 0x0B d a b
  | .xor d a b => encS3 0x0C d a b
  | .andn d a b => encS3 0x0D d a b
  | .shl d a b => encS3 0x0E d a b
  | .shr d a b => encS3 0x0F d a b
  | .sra d a b => encS3 0x10 d a b
  | .rotl d a b => encS3 0x11 d a b
  | .shli d a n => encS 0x12 (r6 d) (r6 a) n
  | .shri d a n => encS 0x13 (r6 d) (r6 a) n
  | .srai d a n => encS 0x14 (r6 d) (r6 a) n
  | .clz d a => encS 0x15 (r6 d) (r6 a) 0
  | .ctz d a => encS 0x16 (r6 d) (r6 a) 0
  | .popc d a => encS 0x17 (r6 d) (r6 a) 0
  | .min d a b => encS3 0x18 d a b
  | .max d a b => encS3 0x19 d a b
  | .minz d a b => encS3 0x1A d a b
  | .maxz d a b => encS3 0x1B d a b
  | .sel d a b => encS3 0x1C d a b
  | .cmp c g a b => encS 0x1D (c.code ++ BitVec.ofNat 3 g.val) (r6 a) (r6 b)
  | .sext d a w => encS 0x1E (r6 d) (r6 a) w
  | .zext d a w => encS 0x1F (r6 d) (r6 a) w
  | .bfx d a b => encS3 0x20 d a b
  | .bfi d a b => encS3 0x21 d a b
  | .fadd d a b => encS3 0x22 d a b
  | .fsub d a b => encS3 0x23 d a b
  | .fmul d a b => encS3 0x24 d a b
  | .ffma d a b => encS3 0x25 d a b
  | .fdiv d a b => encS3 0x26 d a b
  | .fsqrt d a => encS 0x27 (r6 d) (r6 a) 0
  | .fmin d a b => encS3 0x28 d a b
  | .fmax d a b => encS3 0x29 d a b
  | .fcmp c g a b => encS 0x2A (c.code ++ BitVec.ofNat 3 g.val) (r6 a) (r6 b)
  | .fcvt f t z d a => encS 0x2B (r6 d) (r6 a) (f.code ++ b1 t ++ b1 z)
  | .fclass d a => encS 0x2C (r6 d) (r6 a) 0
  | .gand d a b => encS 0x2D (n6 d) (n6 a) (n6 b)
  | .gor d a b => encS 0x2E (n6 d) (n6 a) (n6 b)
  | .gnot d a => encS 0x2F (n6 d) (n6 a) 0
  | .rddcc d => encS 0x30 (r6 d) 0 0
  | .adda d a b => encS 0x31 (n6 d) (n6 a) (r6 b)
  | .lea d a b => encS 0x32 (n6 d) (r6 a) (r6 b)
  | .suba d a b => encS 0x33 (r6 d) (n6 a) (n6 b)
  | .movas h d a => encS 0x34 (r6 d) (n6 a) (0#5 ++ b1 h)
  | .movsa d a => encS 0x35 (n6 d) (r6 a) 0
  | .cmpa d a b => encS 0x36 (r6 d) (n6 a) (n6 b)
  | .anda d a b => encS 0x37 (n6 d) (n6 a) (r6 b)
  | .addi d a i => encL 0x01 (r6 d) (r6 a) 0 i
  | .andi d a i => encL 0x02 (r6 d) (r6 a) 0 i
  | .ori d a i => encL 0x03 (r6 d) (r6 a) 0 i
  | .xori d a i => encL 0x04 (r6 d) (r6 a) 0 i
  | .cmpi c g a i => encL 0x05 (n6 g) (r6 a) (0#3 ++ c.code) i
  | .movi d i => encL 0x06 (r6 d) 0 0 i
  | .movhi d i => encL 0x07 (r6 d) 0 0 i
  | .addai d a i => encL 0x08 (n6 d) (n6 a) 0 i
  | .rdsr d r => encL 0x09 (r6 d) 0 r.code 0
  | .wrsr r a => encL 0x0A 0 (r6 a) r.code 0
  | .vadd t d a b => encV3 0x01 t.code d a b
  | .vsub t d a b => encV3 0x02 t.code d a b
  | .vmul t d a b => encV3 0x03 t.code d a b
  | .vmulh t d a b => encV3 0x04 t.code d a b
  | .vadds t d a b => encV3 0x05 t.code d a b
  | .vsubs t d a b => encV3 0x06 t.code d a b
  | .vmin t d a b => encV3 0x07 t.code d a b
  | .vmax t d a b => encV3 0x08 t.code d a b
  | .vabs t d a => encV 0x09 t.code (r6 d) (r6 a) 0
  | .vneg t d a => encV 0x0A t.code (r6 d) (r6 a) 0
  | .vand d a b => encV3 0x0B 0 d a b
  | .vor d a b => encV3 0x0C 0 d a b
  | .vxor d a b => encV3 0x0D 0 d a b
  | .vshl t d a b => encV3 0x0E t.code d a b
  | .vshr t d a b => encV3 0x0F t.code d a b
  | .vsra t d a b => encV3 0x10 t.code d a b
  | .vcmp c d a b => encV3 0x11 c.code d a b
  | .vsel d a b => encV3 0x12 0 d a b
  | .vfadd t d a b => encV3 0x13 t.code d a b
  | .vfsub t d a b => encV3 0x14 t.code d a b
  | .vfmul t d a b => encV3 0x15 t.code d a b
  | .vfma t d a b => encV3 0x16 t.code d a b
  | .vfms t d a b => encV3 0x17 t.code d a b
  | .vfnma t d a b => encV3 0x18 t.code d a b
  | .vfmin t d a b => encV3 0x19 t.code d a b
  | .vfmax t d a b => encV3 0x1A t.code d a b
  | .vfdiv d a b => encV3 0x1B 0 d a b
  | .vrcp d a => encV 0x1C 0 (r6 d) (r6 a) 0
  | .vrsq d a => encV 0x1D 0 (r6 d) (r6 a) 0
  | .vexp2 d a => encV 0x1E 0 (r6 d) (r6 a) 0
  | .vlog2 d a => encV 0x1F 0 (r6 d) (r6 a) 0
  | .vcvt dst src d a => encV 0x20 (bits src.code 0 2) (r6 d) (r6 a) (dst.code ++ bits src.code 2 2)
  | .vnarrow t d a b => encV3 0x21 t.code d a b
  | .vwiden t h d a => encV 0x22 t.code (r6 d) (r6 a) (0#5 ++ b1 h)
  | .vbcast t d b => encV 0x23 t.code (r6 d) 0 (r6 b)
  | .viota d b => encV 0x2D 0 (r6 d) 0 (r6 b)
  | .vsetvl d b => encV 0x34 0 (r6 d) 0 (r6 b)
  | .vextr s d a n => encV 0x24 (0#1 ++ b1 s) (r6 d) (r6 a) n
  | .vins d b n => encV 0x25 0 (r6 d) n (r6 b)
  | .vperm d a b => encV3 0x26 0 d a b
  | .vrot d a b => encV3 0x27 0 d a b
  | .vslide u d a b => encV 0x28 (0#1 ++ b1 u) (r6 d) (r6 a) (r6 b)
  | .vred op d a => encV 0x29 0 (r6 d) (r6 a) (0#2 ++ op.code)
  | .vscan op ex d a => encV 0x2A 0 (r6 d) (r6 a) (0#1 ++ b1 ex ++ op.code)
  | .part d a sd => encV 0x2B 0 (r6 d) (r6 a) (r6 sd)
  | .partn n1 a b => encV 0x2C 0 (0#3 ++ n1) (r6 a) (r6 b)
  | .vgath t d a b => encV3 0x2E t.code d a b
  | .vscat t d a b => encV3 0x2F t.code d a b
  | .vld d b off => encV 0x30 0 (r6 d) off (r6 b)
  | .vst d b off => encV 0x31 0 (r6 d) off (r6 b)
  | .vldl d a => encV 0x32 0 (r6 d) (r6 a) 0
  | .vstl d a => encV 0x33 0 (r6 d) (r6 a) 0
  | .tenantV opc vt d a b => encV (3#2 ++ opc) vt (r6 d) (r6 a) (r6 b)
  | .tcfg af bf mb st => encM 0x01 0 (BitVec.ofFin mb) 0 (0#2 ++ bf.code) 0 (0#1 ++ af.code) st
  | .mma k ct mb a w s st => encM 0x02 (BitVec.ofFin ct) (BitVec.ofFin mb) (r6 a) (r6 w) (r6 s) (0#1 ++ k) st
  | .mmaz k ct mb a w s st => encM 0x03 (BitVec.ofFin ct) (BitVec.ofFin mb) (r6 a) (r6 w) (r6 s) (0#1 ++ k) st
  | .mopa t ct mb a b st => encM 0x04 (BitVec.ofFin ct) (BitVec.ofFin mb) (r6 a) (r6 b) 0 t.code st
  | .ald ct mb a st => encM 0x05 (BitVec.ofFin ct) (BitVec.ofFin mb) (r6 a) 0 0 0 st
  | .wbld p mb aa sd st => encM 0x06 0 (BitVec.ofFin mb) (n6 aa) (r6 sd) 0
      (match p with | none => 0 | some f => 1#1 ++ f.code) st
  | .wbsel mb h st => encM 0x07 0 (BitVec.ofFin mb) (0#5 ++ b1 h) 0 0 0 st
  | .crd ct mb d r st => encM 0x08 (BitVec.ofFin ct) (BitVec.ofFin mb) (r6 d) (r6 r) 0 0 st
  | .cwr ct mb d r st => encM 0x09 (BitVec.ofFin ct) (BitVec.ofFin mb) (r6 d) (r6 r) 0 0 st
  | .cclr ct mb st => encM 0x0A (BitVec.ofFin ct) (BitVec.ofFin mb) 0 0 0 0 st
  | .cst f ct mb a st => encM 0x0B (BitVec.ofFin ct) (BitVec.ofFin mb) (r6 a) 0 0 (0#1 ++ f.code) st
  | .mbarm mb st => encM 0x0C 0 (BitVec.ofFin mb) 0 0 0 0 st
  | .mbwait sd mb => encM 0x0D 0 (BitVec.ofFin mb) (r6 sd) 0 0 0 0
  | .setsb ab a => encM 0x0E 0 0 (r6 a) 0 0 (0#4 ++ b1 ab) 0
  | .tenantM opc ct mb a b c md st =>
      encM (3#2 ++ opc) (BitVec.ofFin ct) (BitVec.ofFin mb) (r6 a) (r6 b) (r6 c) md st
  | .ld sz sx d m l => encX 0x01 (r6 d) m (0#1 ++ b1 sx ++ sz.code) (r6 l)
  | .st sz b m l => encX 0x02 (r6 b) m (0#2 ++ sz.code) (r6 l)
  | .lda sz sx sc d m => encX 0x03 (r6 d) m (0#1 ++ b1 sx ++ sz.code) (0#3 ++ sc.code)
  | .sta sz sc b m => encX 0x04 (r6 b) m (0#2 ++ sz.code) (0#3 ++ sc.code)
  | .xld md e q d m => encX 0x05 (r6 d) m (b1 e ++ md.code) (n6 q)
  | .xst md e q d m => encX 0x06 (r6 d) m (b1 e ++ md.code) (n6 q)
  | .cpy src d m as sl => encB 0x07 (r6 d) m (r6 sl) (0#1 ++ src.code) (n6 as)
  | .cpy2d src d m as sp => encB 0x08 (r6 d) m (r6 sp) (0#1 ++ src.code) (n6 as)
  | .atom op dw sc d m b => encB 0x09 (r6 d) m (r6 b) op.code (0#2 ++ b1 dw ++ sc.code)
  | .cas dw sc d m b => encB 0x0A (r6 d) m (r6 b) 0 (0#2 ++ b1 dw ++ sc.code)
  | .fence k sc => encN 0x0B 0 0 0 k.code (0#3 ++ sc.code)
  | .waitge dw sg sc d m b => encB 0x0C (r6 d) m (r6 b) (0#2 ++ b1 sg ++ b1 dw) (0#3 ++ sc.code)
  | .lockl d m => encX 0x0D (r6 d) m 0 0
  | .unlockl d m => encX 0x0E (r6 d) m 0 0
  | .pref l2 m => encX 0x0F 0 m (0#3 ++ b1 l2) 0
  | .rinit d q m g => encB 0x10 (r6 d) m (r6 g) 0 (n6 q)
  | .rclaim d q => encN 0x11 (r6 d) 0 0 0 (n6 q)
  | .rpub q => encN 0x12 0 0 0 0 (n6 q)
  | .rwait d q => encN 0x13 (r6 d) 0 0 0 (n6 q)
  | .rrel q => encN 0x14 0 0 0 0 (n6 q)
  | .barinit fc sc d m n => encB 0x15 (r6 d) m (r6 n) (0#3 ++ b1 fc) (0#3 ++ sc.code)
  | .bararr sc d m => encB 0x16 (r6 d) m 0 0 (0#3 ++ sc.code)
  | .barwait sc d m g => encB 0x17 (r6 d) m (r6 g) 0 (0#3 ++ sc.code)
  | .mscan op f d m n o => encB 0x18 (r6 d) m (r6 n) (f.code ++ op.code) (r6 o)
  | .bopen d m n => encB 0x20 (r6 d) m (r6 n) 0 0
  | .bst sz b m => encX 0x21 (r6 b) m (0#2 ++ sz.code) 0
  | .bseal sc d => encN 0x22 (r6 d) 0 0 0 (0#3 ++ sc.code)
  | .babort d => encN 0x23 (r6 d) 0 0 0 0
  | .viewb sc => encN 0x24 0 0 0 0 (0#3 ++ sc.code)
  | .viewe d => encN 0x25 (r6 d) 0 0 0 0
  | .rtld h m => encX 0x30 0 m 0 (n6 h)
  | .rldq h q d m => encX 0x31 (r6 d) m (0#1 ++ BitVec.ofNat 3 h.val) (n6 q)
  | .rst sz b h m => encX 0x32 (r6 b) m (0#2 ++ sz.code) (n6 h)
  | .ratom op dw d m b h => encB 0x33 (r6 d) m (r6 b) op.code (0#2 ++ b1 dw ++ BitVec.ofNat 3 h.val)
  | .rstn d m t => encB 0x34 (r6 d) m (r6 t) 0 0
  | .recvadd f c p d m g => encB 0x35 (r6 d) m (r6 g) (0#1 ++ b1 c ++ f.code) (n6 p)
  | .rsend h d m t => encB 0x36 (r6 d) m (r6 t) 0 (n6 h)
  | .lfence d => encN 0x37 (r6 d) 0 0 0 0
  | .coll k d m l => encB 0x38 (r6 d) m (r6 l) 0 k
  | .adpin c d aw n => encN 0x40 (r6 d) (n6 aw) (r6 n) (0#3 ++ b1 c) 0
  | .adunpin d n => encN 0x41 (r6 d) 0 (r6 n) 0 0
  | .tenantX opc xm d c m => encX (3#2 ++ opc) (r6 d) m xm (r6 c)
  | .br i => encL 0x10 0 0 0 i
  | .bri x i => encL 0x11 0 (r6 x) 0 i
  | .jmp a i => encL 0x12 0 (r6 a) 0 i
  | .call i => encL 0x13 0 0 0 i
  | .calli a i => encL 0x14 0 (r6 a) 0 i
  | .ret => encL 0x15 0 0 0 0
  | .loop d i => encL 0x16 (r6 d) 0 0 i
  | .halt => encL 0x20 0 0 0 0
  | .safept i => encL 0x21 0 0 0 i
  | .yield i => encL 0x22 0 0 0 i
  | .waitev d t k => encL 0x23 (r6 d) (r6 t) 0 (0#16 ++ k)
  | .sigev d t e => encL 0x24 (r6 d) (r6 t) 0 (0#28 ++ e)
  | .cont => encL 0x25 0 0 0 0
  | .trap n => encL 0x26 0 0 0 (0#16 ++ n)
  | .brk n => encL 0x27 0 0 0 (0#16 ++ n)
  | .tret e d => encL 0x28 (r6 d) 0 (0#5 ++ b1 e) 0
  | _ => none

end Sys2Proof
end

