-- ==== Sys2Proof/Machine/Issue.lean ====
section
/-!
DEFINITION. What the issue unit does before any word takes effect: fetching a bundle and checks 1 to 5 of Table 3.11 (R44, R45, R59, R64, R313),
the registers that words read and write (R46, R56), and the holds of R33, R34, R204 and R313.
-/
namespace Sys2Proof.Machine

/-! ## The registers of words -/

/-- Registers of a memory operand with an index; s0 means no index. -/
def memRegs (m : MemX) : List RegRef := if m.xi = 0 then [.a m.xa] else [.a m.xa, .s m.xi]

/-- The registers that a word reads in the issue cycle: those it names as sources, VL, and a destination that is also a source (R46, R56,
R123). -/
def readsOf (i : Instr) : List RegRef :=
  match i with
  | .add _ a b | .sub _ a b | .mul _ a b | .mulh _ a b | .mulhz _ a b | .div _ a b | .divz _ a b | .rem _ a b | .remz _ a b
  | .and _ a b | .or _ a b | .xor _ a b | .andn _ a b | .shl _ a b | .shr _ a b | .sra _ a b | .rotl _ a b | .min _ a b | .max _ a b
  | .minz _ a b | .maxz _ a b | .bfx _ a b | .cmp _ _ a b | .fadd _ a b | .fsub _ a b | .fmul _ a b | .fdiv _ a b
  | .fmin _ a b | .fmax _ a b | .fcmp _ _ a b | .lea _ a b => [.s a, .s b]
  | .bfi d a b | .sel d a b | .ffma d a b => [.s a, .s b, .s d]
  | .shli _ a _ | .shri _ a _ | .srai _ a _ | .clz _ a | .ctz _ a | .popc _ a | .sext _ a _ | .zext _ a _ | .fsqrt _ a
  | .fcvt _ _ _ _ a | .fclass _ a | .movsa _ a | .addi _ a _ | .andi _ a _ | .ori _ a _ | .xori _ a _ | .cmpi _ _ a _ | .wrsr _ a => [.s a]
  | .gand _ a b | .gor _ a b => [.g a, .g b]
  | .gnot _ a => [.g a]
  | .adda _ a b | .anda _ a b => [.a a, .s b]
  | .suba _ a b | .cmpa _ a b => [.a a, .a b]
  | .movas _ _ a | .addai _ a _ => [.a a]
  | .movhi d _ => [.s d]
  | .rdsr _ r => [.sp r]
  | .vadd _ _ a b | .vsub _ _ a b | .vmul _ _ a b | .vmulh _ _ a b | .vadds _ _ a b | .vsubs _ _ a b | .vmin _ _ a b | .vmax _ _ a b
  | .vand _ a b | .vor _ a b | .vxor _ a b | .vshl _ _ a b | .vshr _ _ a b | .vsra _ _ a b | .vcmp _ _ a b | .vfadd _ _ a b
  | .vfsub _ _ a b | .vfmul _ _ a b | .vfmin _ _ a b | .vfmax _ _ a b | .vfdiv _ a b | .vnarrow _ _ a b | .vperm _ a b =>
    [.v a, .v b, .sp .vl]
  | .vsel d a b | .vfma _ d a b | .vfms _ d a b | .vfnma _ d a b => [.v a, .v b, .v d, .sp .vl]
  | .vabs _ _ a | .vneg _ _ a | .vrcp _ a | .vrsq _ a | .vexp2 _ a | .vlog2 _ a | .vcvt _ _ _ a | .vwiden _ _ _ a | .vred _ _ a
  | .vscan _ _ _ a | .part _ a _ | .vldl _ a => [.v a, .sp .vl]
  | .vbcast _ _ b | .viota _ b | .vld _ b _ => [.s b, .sp .vl]
  | .vsetvl _ b | .vins _ b _ => [.s b]
  | .vextr _ _ a _ => [.v a]
  | .vrot _ a b | .vslide _ _ a b | .partn _ a b | .vgath _ _ a b => [.v a, .s b, .sp .vl]
  | .vscat _ d a b => [.v d, .v a, .s b, .sp .vl]
  | .vst d b _ => [.v d, .s b, .sp .vl]
  | .vstl d a => [.v d, .v a, .sp .vl]
  | .tenantV _ _ d a b => [.v d, .v a, .v b, .sp .vl]
  | .mma _ _ _ a w c _ | .mmaz _ _ _ a w c _ => [.s a, .s w, .s c]
  | .ald _ _ a _ | .cst _ _ _ a _ | .setsb _ a => [.s a]
  | .wbld _ _ a d _ => [.a a, .s d]
  | .crd _ _ _ r _ | .cwr _ _ _ r _ => [.s r]
  | .tenantM _ _ _ a b c _ _ => [.v a, .v b, .v c, .sp .vl]
  | .ld _ _ _ m _ | .lda _ _ _ _ m | .lockl _ m | .unlockl _ m | .pref _ m | .rtld _ m => memRegs m
  | .st _ b m _ | .sta _ _ b m | .bst _ b m => .s b :: memRegs m
  | .xld _ _ _ d m | .xst _ _ _ d m => .s d :: memRegs m
  | .cpy _ _ m a l => [.a m.xa, .a a, .s l]
  | .cpy2d _ _ m a p => [.a m.xa, .a a, .s p, .s (nextNum p)]
  | .atom _ _ _ _ m b | .waitge _ _ _ _ m b => [.a m.xa, .s b]
  | .cas _ _ d m b => [.a m.xa, .s b, .s d]
  | .rinit _ _ m g | .barinit _ _ _ m g | .barwait _ _ m g | .bopen _ m g | .recvadd _ _ _ _ m g => [.a m.xa, .s g]
  | .bararr _ _ m => [.a m.xa]
  | .mscan _ _ _ m n o => [.a m.xa, .s n, .s o]
  | .rldq h _ d m => .h h :: .s d :: memRegs m
  | .rst _ b h m => .h h :: .s b :: memRegs m
  | .ratom _ _ _ m b h => [.a m.xa, .s b, .h h]
  | .rstn d m t => [.a m.xa, .s d, .s t]
  | .rsend h _ m t => [.h h, .a m.xa, .s t]
  | .coll _ d m l => [.a m.xa, .s d, .s l, .sp .vl]
  | .adpin _ _ w n => [.a w, .s n]
  | .adunpin _ n => [.s n]
  | .tenantX _ _ d c m => [.s d, .s c, .a m.xa, .s m.xi, .sp .vl]
  | .bri x _ => [.s x]
  | .jmp a _ => [.s a]
  | .calli a _ => [.s a, .a 31]
  | .call _ | .ret => [.a 31]
  | .loop d _ => [.s d]
  | .waitev _ t _ | .sigev _ t _ => [.s t]
  | _ => []

/-- The registers that a word writes. -/
def writesOf (i : Instr) : List RegRef :=
  match i with
  | .add d _ _ | .sub d _ _ | .mul d _ _ | .mulh d _ _ | .mulhz d _ _ | .div d _ _ | .divz d _ _ | .rem d _ _ | .remz d _ _
  | .and d _ _ | .or d _ _ | .xor d _ _ | .andn d _ _ | .shl d _ _ | .shr d _ _ | .sra d _ _ | .rotl d _ _ | .min d _ _ | .max d _ _
  | .minz d _ _ | .maxz d _ _ | .shli d _ _ | .shri d _ _ | .srai d _ _ | .clz d _ | .ctz d _ | .popc d _ | .sext d _ _ | .zext d _ _
  | .bfx d _ _ | .bfi d _ _ | .sel d _ _ | .fadd d _ _ | .fsub d _ _ | .fmul d _ _ | .ffma d _ _ | .fdiv d _ _ | .fsqrt d _
  | .fmin d _ _ | .fmax d _ _ | .fcvt _ _ _ d _ | .fclass d _ | .rddcc d | .suba d _ _ | .movas _ d _ | .cmpa d _ _ | .addi d _ _
  | .andi d _ _ | .ori d _ _ | .xori d _ _ | .movi d _ | .movhi d _ | .rdsr d _ | .vextr _ d _ _ | .vsetvl d _ | .mbwait d _
  | .ld _ _ d _ _ | .lda _ _ _ d _ | .xld _ _ _ d _ | .xst _ _ _ d _ | .cpy _ d _ _ _ | .cpy2d _ d _ _ _ | .atom _ _ _ d _ _
  | .cas _ _ d _ _ | .waitge _ _ _ d _ _ | .lockl d _ | .unlockl d _ | .rinit d _ _ _ | .rclaim d _ | .rwait d _ | .barinit _ _ d _ _
  | .bararr _ d _ | .barwait _ d _ _ | .mscan _ _ d _ _ _ | .bopen d _ _ | .bseal _ d | .babort d | .viewe d | .rldq _ _ d _
  | .ratom _ _ d _ _ _ | .rstn d _ _ | .recvadd _ _ _ d _ _ | .rsend _ d _ _ | .lfence d | .coll _ d _ _ | .adpin _ d _ _
  | .adunpin d _ | .loop d _ | .waitev d _ _ | .sigev d _ _ | .tret false d => [.s d]
  | .cmp _ d _ _ | .fcmp _ d _ _ | .gand d _ _ | .gor d _ _ | .gnot d _ | .cmpi _ d _ _ => [.g d]
  | .adda d _ _ | .lea d _ _ | .movsa d _ | .anda d _ _ | .addai d _ _ => [.a d]
  | .wrsr r _ => [.sp r]
  | .vadd _ d _ _ | .vsub _ d _ _ | .vmul _ d _ _ | .vmulh _ d _ _ | .vadds _ d _ _ | .vsubs _ d _ _ | .vmin _ d _ _ | .vmax _ d _ _
  | .vabs _ d _ | .vneg _ d _ | .vand d _ _ | .vor d _ _ | .vxor d _ _ | .vshl _ d _ _ | .vshr _ d _ _ | .vsra _ d _ _ | .vcmp _ d _ _
  | .vsel d _ _ | .vfadd _ d _ _ | .vfsub _ d _ _ | .vfmul _ d _ _ | .vfma _ d _ _ | .vfms _ d _ _ | .vfnma _ d _ _ | .vfmin _ d _ _
  | .vfmax _ d _ _ | .vfdiv d _ _ | .vrcp d _ | .vrsq d _ | .vexp2 d _ | .vlog2 d _ | .vcvt _ _ d _ | .vnarrow _ d _ _
  | .vwiden _ _ d _ | .vbcast _ d _ | .viota d _ | .vins d _ _ | .vperm d _ _ | .vrot d _ _ | .vslide _ d _ _ | .vred _ d _
  | .vscan _ _ d _ | .vgath _ d _ _ | .vld d _ _ | .vldl d _ => [.v d]
  | .part d _ n => [.v d, .v (nextNum d), .s n]
  | .crd _ _ d _ _ => [.v d, .v (nextNum d)]
  | .tenantV _ _ d a b => [.v d, .v a, .v b]
  | .tenantM _ _ _ a b c _ _ => [.v a, .v b, .v c]
  | .tenantX _ _ d c m => [.s d, .s c, .a m.xa, .s m.xi]
  | .rtld h _ => [.h h]
  | .call _ | .calli _ _ | .ret => [.a 31]
  | _ => []

/-- The class and opcode of a tenant word, by which a context binds it (R57). -/
def tenantKey (i : Instr) : Option (Nat × Nat) :=
  match i with
  | .tenantV opc _ _ _ _ => some (0, 0xC0 + opc.toNat)
  | .tenantM opc _ _ _ _ _ _ _ => some (1, 0x30 + opc.toNat)
  | .tenantX opc _ _ _ _ => some (2, 0xC0 + opc.toNat)
  | _ => none

/-- The binding of a tenant word in the image of a shift (R321). -/
def Shift.bindOf (x : Shift) (k : Nat × Nat) : Option Binding := x.img.binds.find? fun b => b.cls == k.1 && b.opc == k.2

/-! ## Fetching a bundle -/

/-- The TLB that fetches use. -/
abbrev fetchUnit : Nat := 5

/-- Eight bytes of code at a virtual address. -/
def State.codeBytes (s : State) (x : Shift) (va : Nat) : Except FaultInfo (List Byte) :=
  if 2 ^ 72 ≤ va then .error (({ cause := 9, stage := 1, level := 5 } : WalkFault).info 0 va)
  else match s.translate (tlbUnit x.place.core fetchUnit) x.place.ctx va false true with
  | .error f => .error (f.info 0 va)
  | .ok e =>
    match e.fab with
    | some (pkg, h) => s.farLine (8 * x.place.core + x.place.slot) x codeWait e pkg h va 8
    | none => s.virtBytes (tlbUnit x.place.core fetchUnit) x.place.ctx va 8 true

/-- The word at a PC of an image (R44, check 1): below CODESTART or at or above CODELIM is a run-off fault. -/
def State.fetchWord (s : State) (x : Shift) (pc : Nat) : Except FaultInfo Word :=
  if pc < x.img.start ∨ x.img.lim < pc + 8 then .error { code := 0x04 }
  else match s.codeBytes x (x.img.base.toNat + pc) with
    | .error f => .error f
    | .ok bs => .ok (w64 (ofLE bs))

/-- The words from a PC on, up to the one that ends the bundle or the fourth (R44): `k` is the next word's index. -/
def State.fetchWords (s : State) (x : Shift) (pc : Nat) : Nat → Nat → Except FaultInfo (List Word)
  | 0, _ => .ok []
  | fuel + 1, k =>
    match s.fetchWord x (pc + 8 * k) with
    | .error f => .error { f with word := k }
    | .ok w =>
      if w.getLsbD 63 then .ok [w]
      else match s.fetchWords x pc fuel (k + 1) with
        | .error f => .error f
        | .ok ws => .ok (w :: ws)

/-- The translations that the fetch of n words at the PC of a shift uses, those kept whose AC still had to be set (R338); none where that has to wait. -/
def State.useCode (s : State) (x : Shift) : Nat → Option State
  | 0 => some s
  | n + 1 =>
    let va := x.img.base.toNat + x.regs.pc + 8 * n
    match s.useCode x n with
    | none => none
    | some t =>
      match t.translate (tlbUnit x.place.core fetchUnit) x.place.ctx va false true with
      | .error _ => some t
      | .ok e => if e.settled false then some t else if t.useWaits e va false then none else some (t.useEntry e va false)

/-- What the fetch of the bundle at a shift's PC leaves in its tables and its TLB (R338, R341); none where it has to wait. -/
def State.fetchUse (s : State) (x : Shift) : Option State :=
  match s.fetchWords x x.regs.pc 4 0 with
  | .error _ => some s
  | .ok ws => s.useCode x ws.length

/-- Check 2 of Table 3.11: the first word of a class that an earlier word has, else the fourth word where none ends the bundle (R44, R45). -/
def badBundle (ws : List Word) : Option Nat :=
  let cls (k : Nat) : Nat := wbits ((ws[k]?).getD 0) 61 2
  let dup := (upto 0 ws.length).find? fun k => (upto 0 k).any fun j => cls j == cls k
  match dup with
  | some k => some k
  | none => if ws.length = 4 ∧ !((ws[3]?).getD 0).getLsbD 63 then some 3 else none

/-- What check 3 asks of an instruction beside its encoding: the live-mask index of a SAFEPT or YIELD is below LIVECNT, and EV1 has none (R64, R264,
Table 3.12); only a handler issues TRET (R374). -/
def liveOk (x : Shift) (i : Instr) : Bool :=
  match i with
  | .tret _ _ => x.place.serves.isSome
  | .safept idx | .yield idx => x.img.ev == 1 || decide (idx.toNat < x.img.live.length)
  | _ => true

/-- A decoded bundle: its words with their raw bits, and the stall count. -/
structure Fetched where
  words : List (DWord × Word)
  stall : Nat

/-- Check 3 on the words in order. -/
def decodeAll (x : Shift) : Nat → List Word → Except FaultInfo (List (DWord × Word))
  | _, [] => .ok []
  | k, w :: ws =>
    match decodeWord x.img.ev w with
    | none => .error { code := 0x01, word := k }
    | some d =>
      if !d.ops.all (liveOk x) then .error { code := 0x01, word := k }
      else match decodeAll x (k + 1) ws with
        | .error f => .error f
        | .ok ds => .ok ((d, w) :: ds)

/-- Checks 1 to 4 of Table 3.11 at the shift's PC. -/
def State.fetchBundle (s : State) (x : Shift) : Except FaultInfo Fetched :=
  match s.fetchWords x x.regs.pc 4 0 with
  | .error f => .error f
  | .ok ws =>
    match badBundle ws with
    | some k => .error { code := 0x02, word := k }
    | none =>
      match decodeAll x 0 ws with
      | .error f => .error f
      | .ok ds =>
        let unbound (d : DWord) : Bool := d.ops.any fun i =>
          match tenantKey i with | none => false | some k => (x.bindOf k).isNone
        match (upto 0 ds.length).find? fun k => match ds[k]? with | none => false | some d => unbound d.1 with
        | some k => .error { code := 0x03, word := k }
        | none => .ok { words := ds, stall := (ds.map fun d => d.1.stall).foldl max 0 }

/-- The guard of a word (R48). -/
def Shift.guardOf (x : Shift) (d : DWord) : Bool := x.rg d.gn != d.ginv

/-! ## What holds a bundle -/

/-- The bank of a core that holds an image of a context READY, or its failure (R324). -/
def State.bankOf (s : State) (core ctx : Nat) (tag : Word) (st : Nat) : Option Nat :=
  (upto 0 2).find? fun k => match (s.core core).banks[k]? with
    | none => false
    | some b => b.state == st && b.ctx == ctx && b.tag == tag

/-- The image tags that the true tenant words of a bundle need (check 5). -/
def Shift.tagsOf (x : Shift) (ops : List Instr) : List Word :=
  ops.filterMap fun i => (tenantKey i).bind fun k => (x.bindOf k).map (·.tag)

/-- Whether a register awaits an interlocked result (R33). -/
def Shift.awaits (x : Shift) (r : RegRef) : Bool :=
  match r with
  | .s n => n != 0 && x.pend.s.getLsbD n.val
  | .v n => x.pend.v.getLsbD n.val
  | .a n => x.pend.a.getLsbD n.val
  | .h n => x.pend.h.getLsbD n.val
  | _ => false

/-- The destination registers of a pending landing. -/
def LandTo.regs (d : LandTo) : List RegRef :=
  match d with
  | .s r _ => if r = 0 then [] else [.s r]
  | .a r _ => [.a r]
  | .g r _ => [.g r]
  | .v r _ _ _ => [.v r]
  | .special r _ => [.sp r]
  | .crd r _ _ _ => [.v r, .v (nextNum r)]
  | .part r _ _ sd _ => [.v r, .v (nextNum r), .s sd]
  | .vsetvl sd _ => [.s sd, .sp .vl]
  | .nothing | .pad _ _ | .padElems _ _ | .lane _ _ | .partn _ _ _ _ => []

/-- Whether a register has a fixed-latency result pending (R56); s0 and g0 never have. -/
def Shift.shadowed (x : Shift) (r : RegRef) : Bool :=
  r != .s 0 && r != .g 0 && x.landings.any fun l => l.dst.regs.contains r

/-- The bytes of LANE or PAD that a word touches at issue, of which R313 speaks: runs of a space, by the first byte and their count. -/
def touchesOf (x : Shift) (i : Instr) : List (Space × Int × Nat) :=
  let n (z : Size) : Nat := match z with | .b => 1 | .h => 2 | .w => 4 | .d => 8
  let vl := x.sp.vl
  let elems (t : ElemW) (va : VNum) (b : SNum) : List (Space × Int × Nat) :=
    let w : Nat := match t with | .b => 1 | .h => 2 | .w => 4
    (upto 0 vl).map fun k => (.pad, ((x.rs b).toNat + (laneGet (x.rv va) k).toNat * w : Nat), w)
  let ring (q : QNum) : List (Space × Int × Nat) := if x.rings[q].space = 1 then [(.pad, (x.rings[q].base : Int), 128)] else []
  match i with
  | .ld z _ _ m _ | .st z _ m _ | .lda z _ _ _ m | .sta z _ _ m => [(m.sp, x.eaX m, n z)]
  | .atom _ d _ _ m _ | .cas d _ _ m _ | .waitge d _ _ _ m _ => [(m.sp, x.eaB m, if d then 8 else 4)]
  | .rtld _ m => [(m.sp, x.eaX m, 32)]
  | .rinit _ _ m _ => [(m.sp, x.eaB m, 128)]
  | .rclaim _ q | .rwait _ q | .rpub q | .rrel q => ring q
  | .barinit _ _ _ m _ | .bararr _ _ m | .barwait _ _ m _ => [(m.sp, x.eaB m, 32)]
  | .rstn d _ t => [(.pad, (wbits (x.rs t) 0 20 : Nat), 16 * (wbits (x.rs d) 24 3 + 1))]
  | .call _ | .calli _ _ => [(.pad, ((x.ra 31).toNat : Int) - 16, 16)]
  | .ret => [(.pad, ((x.ra 31).toNat : Int), 8)]
  | .vld _ b off | .vst _ b off => [(.pad, (x.rs b).toNat + 256 * off.toNat, 4 * vl)]
  | .vgath t _ va b => elems t va b
  | .vscat t _ va b => elems t va b
  | .partn n1 _ b => [(.pad, (x.rs b).toNat, 32 + 256 * (n1.toNat + 1))]
  | .vldl _ _ | .vstl _ _ => if vl = 0 then [] else [(.lane, 0, 1)]
  | _ => []

/-- Whether a tenant routine whose running word enables the banks `en` holds a word that accesses LANE, or a PAD bank of them (R313). -/
def Shift.routineHolds (x : Shift) (en : BitVec 32) (i : Instr) : Bool :=
  (touchesOf x i).any fun r =>
    match r with
    | (.lane, _, _) => true
    | (.pad, b, n) =>
      (upto 0 32).any fun (k : Nat) =>
        en.getLsbD k && decide (b < ((k : Int) + 1) * 0x8000) && decide ((k : Int) * 0x8000 < b + n)
    | _ => false

/-- Whether a FENCE still holds the bundle after it (R204). -/
def State.fenceHolds (s : State) (i : Nat) (x : Shift) : Bool :=
  x.pend.fence != 0 && (x.landings.any (·.isMem) || x.routineDue x.tim.seq ||
    (if x.pend.fence = 1 then s.readPending i || x.mx.queue.any fun o => readsPad o.instr else s.accessPending i || x.mx.padDue x.tim.seq))

/-- Whether a read of shift i has come back from another package and waits for a bundle of an evicted entry to settle, which holds the shift's bundles (R234). -/
def State.lateRead (s : State) (i : Nat) : Bool := s.fab.ops.any fun o => o.sh == some i && o.late.isSome

/-- Whether a bundle waits before its words are judged (R33, R34, R204, R234): a register of it awaits a result, the lane sequencer is busy, a FENCE holds
it, or a read under repair. -/
def State.heldBefore (s : State) (i : Nat) (x : Shift) (f : Fetched) : Bool :=
  let ops (d : DWord) : List Instr := d.ops
  let lane := x.tim.laneBusy != 0 || (x.lane.v && !x.lane.halt)
  s.fenceHolds i x || s.lateRead i || f.words.any fun d =>
    let on := x.guardOf d.1
    (ops d.1).any (fun o => (readsOf o).any x.awaits || (on && (writesOf o).any x.awaits)) ||
    (d.1.vec && lane)

/-- Whether a bundle reads a register whose fixed-latency result is pending (R56). -/
def Shift.shadowRead (x : Shift) (f : Fetched) : Option Nat :=
  (upto 0 f.words.length).find? fun k =>
    match f.words[k]? with
    | none => false
    | some d => (d.1.gn != 0 && x.shadowed (.g d.1.gn)) || d.1.ops.any fun o => (readsOf o).any x.shadowed

/-- A shadow read counted under CHK.CNTEN (R55, R56). -/
def Shift.countShadow (x : Shift) : Shift :=
  let c := x.sp.chk
  if c.getLsbD 1 ∧ !c.getLsbD 0 then
    { x with sp := { x.sp with chk := w64 (fields [(32, satAdd 32 (wbits c 32 32) 1), (0, wbits c 0 32)]) } }
  else x

end Sys2Proof.Machine
end

