-- ==== Sys2Proof/Machine/Sha.lean ====
section
/-!
DEFINITION. SHA-256 (FIPS 180-4), which the manual names and does not restate (log 15): digests of tenant images (R322) and of attestation
reports (R360).
-/
namespace Sys2Proof.Machine

/-- The largest y below 2^k above a start whose r-th power is at most n, bit by bit. -/
def rootFrom (r n : Nat) : Nat → Nat → Nat
  | 0, y => y
  | k + 1, y => rootFrom r n k (if (y + 2 ^ k) ^ r ≤ n then y + 2 ^ k else y)

/-- The first 32 bits after the point of the r-th root of a number below 512. -/
def rootFrac (r p : Nat) : BitVec 32 := BitVec.ofNat 32 (rootFrom r (p * 2 ^ (32 * r)) 37 0)

/-- The first 64 primes: 2 to 311. -/
def shaPrimes : List Nat := (upto 2 310).filter fun p => (upto 2 16).all fun d => p == d || p % d != 0

/-- The round constants: from the cube roots of the primes. -/
def shaK : List (BitVec 32) := shaPrimes.map (rootFrac 3)

/-- The initial hash value: from the square roots of the first eight primes. -/
def shaInit : List (BitVec 32) := (shaPrimes.take 8).map (rootFrac 2)

/-- A message padded: a byte 0x80, zeros, and its length in bits, big-endian, to a multiple of 64 bytes. -/
def shaPad (m : List Byte) : List Byte :=
  let n := m.length
  m ++ 0x80 :: zeros ((119 - n % 64) % 64) ++ (leBytes 8 (8 * n)).reverse

/-- The big-endian words of a block. -/
def shaWords : Nat → List Byte → List (BitVec 32)
  | 0, _ => []
  | n + 1, bs => BitVec.ofNat 32 (ofLE (bs.take 4).reverse) :: shaWords n (bs.drop 4)

/-- The exclusive or of a word rotated right by each of some amounts. -/
def spins (w : BitVec 32) (by_ : List Nat) : BitVec 32 := by_.foldl (fun acc n => acc ^^^ w.rotateRight n) 0

/-- The schedule extended by n words; the list holds the latest word first. -/
def shaExtend : Nat → List (BitVec 32) → List (BitVec 32)
  | 0, ws => ws
  | n + 1, ws =>
    let back (k : Nat) : BitVec 32 := ws.getD (k - 1) 0
    let near := spins (back 2) [17, 19] ^^^ back 2 >>> 10
    let far := spins (back 15) [7, 18] ^^^ back 15 >>> 3
    shaExtend n (([back 7, back 16, near, far].foldl (· + ·) 0) :: ws)

/-- One round on the eight working words, with the sum of its constant and its schedule word. -/
def shaRound (v : List (BitVec 32)) (kw : BitVec 32) : List (BitVec 32) :=
  let at_ (j : Nat) : BitVec 32 := v.getD j 0
  let pick := at_ 6 ^^^ (at_ 4 &&& (at_ 5 ^^^ at_ 6))
  let most := (at_ 0 &&& at_ 1) ||| (at_ 2 &&& (at_ 0 ||| at_ 1))
  let mixed := kw + at_ 7 + pick + spins (at_ 4) [6, 11, 25]
  match v.take 7 with
  | [] => v
  | l => (mixed + most + spins (at_ 0) [2, 13, 22]) :: l.set 3 (at_ 3 + mixed)

/-- One block taken into the hash value. -/
def shaBlock (h : List (BitVec 32)) (b : List Byte) : List (BitVec 32) :=
  let ws := (shaExtend 48 (shaWords 16 b).reverse).reverse
  (h.zip ((shaK.zip ws).foldl (fun v p => shaRound v (p.1 + p.2)) h)).map fun p => p.1 + p.2

/-- Blocks taken one after another. -/
def shaBlocks : Nat → List (BitVec 32) → List Byte → List (BitVec 32)
  | 0, h, _ => h
  | n + 1, h, bs => shaBlocks n (shaBlock h (bs.take 64)) (bs.drop 64)

/-- The SHA-256 digest of a message, byte 0 first. -/
def sha256 (m : List Byte) : List Byte :=
  let p := shaPad m
  (shaBlocks (p.length / 64) shaInit p).flatMap fun w => (leBytes 4 w.toNat).reverse

end Sys2Proof.Machine
end

