-- ==== Sys2Proof/Machine/Loader.lean ====
section
/-!
DEFINITION. The loader of the writable control store (R322 to R328): tenant images, the two banks of a core, their pins, and the link stores.
-/
namespace Sys2Proof.Machine

/-- A tenant image that passed its checks (Table 16.11). -/
structure TenantImg where
  words : NMap (BitVec 128)
  coll : NMap (BitVec 128)
  ctab : List (BitVec 32)
  tag : Word
  deriving DecidableEq, Repr

/-- Micro-words of bytes. -/
def microWords (n : Nat) (bs : List Byte) : NMap (BitVec 128) :=
  (upto 0 n).map fun k => (k, BitVec.ofNat 128 (ofLE ((bs.drop (16 * k)).take 16)))

/-- Whether a descriptor keeps its format (R323): MAGIC, reserved fields, NWORDS and NCOLL. -/
def tenantFormat (d : List Byte) : Bool :=
  let h := dwordAt d 0
  nbits h 32 32 == 0x4D494D47 && decide (1 ≤ nbits h 16 16 ∧ nbits h 16 16 ≤ 1024) && decide (nbits h 0 16 ≤ 1024) &&
    ((d.drop 8).take 24).all (· == 0) && ((d.drop 0xC0).take 64).all (· == 0) &&
    (upto 0 32).all fun k => nbits (ofLE ((d.drop (0x40 + 4 * k)).take 4)) 22 9 == 0

/-- The tenant image at a virtual address of a context, or the CODE of LDERR: 1 DIGEST, 2 READ, 3 FORMAT (R322, R323). -/
def State.tenantAt (s : State) (ctx va : Nat) : Except Nat TenantImg :=
  match s.virtBytes partUnit ctx va 256 false with
  | .error _ => .error 2
  | .ok d =>
    if !tenantFormat d then .error 3
    else
      let nw := nbits (dwordAt d 0) 16 16
      let nc := nbits (dwordAt d 0) 0 16
      match s.virtBytes partUnit ctx (va + 0x100) (16 * (nw + nc)) false with
      | .error _ => .error 2
      | .ok body =>
        let digest := (d.drop 0x20).take 32
        if sha256 ((d.drop 0x40).take 0x80 ++ body) ≠ digest then .error 1
        else .ok { words := microWords nw body, coll := microWords nc (body.drop (16 * nw)),
                   ctab := (upto 0 32).map fun k => BitVec.ofNat 32 (ofLE ((d.drop (0x40 + 4 * k)).take 4)), tag := w64 (ofLE (digest.take 8)) }

/-- What the reads of a tenant image leave (R338, R351): those of its descriptor, and those of its words where the descriptor keeps its format. -/
def State.sawTenant (s : State) (ctx va : Nat) : State :=
  let n := match s.virtBytes partUnit ctx va 256 false with
    | .ok d => if tenantFormat d then 16 * (nbits (dwordAt d 0) 16 16 + nbits (dwordAt d 0) 0 16) else 0
    | .error _ => 0
  s.touchVirt partUnit ctx va (256 + n) false

/-! ## Banks -/

/-- The pins of an image by one shift (R324): its routine where it issues, its tenant operations in engine and matrix queues, and its continuation
records. -/
def State.shiftPins (s : State) (ctx : Nat) (tag : Word) (issuer : Option Nat) (p : Nat × Shift) : Nat :=
  let x := p.2
  if x.place.ctx ≠ ctx then 0
  else
    let queued (o : MOp) : Bool := match (tenantKey o.instr).bind x.bindOf with | some b => b.tag == tag | none => false
    bnat (issuer.map baseOf == some p.1 && x.lane.v && x.lane.ten && x.lane.tag == tag) +
      ((x.mx.queue ++ x.mx.active).filter queued).length + (x.conts.filter fun c => c.tag == tag).length +
      (s.jobs.filter fun j => j.sh == p.1 && decide (j.state < 4) && j.unit.tag == tag && (tenantKey j.instr).isSome).length

/-- The pins of an image on a core (R324). -/
def State.pins (s : State) (core ctx : Nat) (tag : Word) (issuer : Option Nat) : Nat :=
  ((s.shifts.filter fun p => p.1 / 8 == core).map (s.shiftPins ctx tag issuer)).foldl (· + ·) 0

/-- The pins of a bank. -/
def State.bankPins (s : State) (core k : Nat) (issuer : Option Nat) : Nat :=
  match (s.core core).banks[k]? with
  | none => 0
  | some b => if b.state = 0 then 0 else s.pins core b.ctx b.tag issuer

/-- The state with a bank replaced. -/
def State.modBank (s : State) (core k : Nat) (f : Bank → Bank) : State :=
  s.modCore core fun c => match c.banks[k]? with
    | none => c
    | some b => { c with banks := c.banks.setIfInBounds k (f b) }

/-- The bank that a load takes (R324): an unpinned EMPTY or FAILED one, else the unpinned one used longest ago; none where both are pinned
or being loaded. `keep` names a bank that the load leaves alone (R325). -/
def State.loadBank (s : State) (core : Nat) (keep : Option Nat) : Option Nat :=
  let b (k : Nat) : Bank := ((s.core core).banks[k]?).getD Bank.zero
  let free := (upto 0 2).filter fun k => (b k).state != 1 && s.bankPins core k (s.issuer core) == 0 && some k != keep
  match free.find? fun k => (b k).state == 0 || (b k).state == 3 with
  | some k => some k
  | none => match free with
    | [k, l] => if (b l).used < (b k).used then some l else some k
    | k :: _ => some k
    | [] => none

/-- A resident shift of a core and a context whose image carries a tag. -/
def State.imageOwner (s : State) (core ctx : Nat) (tag : Word) : Option Shift :=
  (s.shifts.find? fun p => p.1 / 8 == core && p.2.place.ctx == ctx && p.2.img.binds.any fun b => b.tag == tag).map (·.2)

/-- Whether an image is READY or LOADING on a core. -/
def State.bankHas (s : State) (core ctx : Nat) (tag : Word) : Bool := (s.bankOf core ctx tag 2).isSome || (s.bankOf core ctx tag 1).isSome

/-- Whether a load of an image may start on a core. -/
def State.loadReady (s : State) (core ctx : Nat) (tag : Word) (keep : Option Nat) : Bool :=
  !s.bankHas core ctx tag && (s.imageOwner core ctx tag).isSome && (s.loadBank core keep).isSome

/-- A load started (R324): the bank is LOADING, and bundles that wait for the image know that a load has begun. -/
def State.startLoad (s : State) (core ctx : Nat) (tag : Word) (keep : Option Nat) : State :=
  match s.imageOwner core ctx tag, s.loadBank core keep with
  | some x, some k =>
    if s.bankHas core ctx tag then s
    else
      let t := s.modBank core k fun _ => { Bank.zero with state := 1, ctx := ctx, tag := tag, image := BitVec.ofNat 72 x.img.timg }
      { t with shifts := t.shifts.map fun p =>
          if p.1 / 8 = core ∧ p.2.place.ctx = ctx ∧ (p.2.tim.waitLoad.map (·.1)) = some tag then
            (p.1, { p.2 with tim := { p.2.tim with waitLoad := some (tag, true) } })
          else p }
  | _, _ => s

/-- TENANT_IMAGE_LOAD (R324): a load of the image (ctx, tag) starts on a core. -/
def execTenantImageLoad (core ctx : Nat) (tag : Word) (s : State) : Out := .next (s.startLoad core ctx tag none)

/-- TENANT_LOAD_COMPLETE (R323, R325, R326): the words of a LOADING bank, READY where the image passes its checks, else FAILED, with LDERR. -/
def execTenantLoadComplete (core bank : Nat) (s : State) : Out :=
  match (s.core core).banks[bank]? with
  | none => .next s
  | some b =>
    if b.state ≠ 1 then .next s
    else
      let bad (code : Nat) : State := (s.modBank core bank fun b => { b with state := 3, words := [] }).modCore core fun c =>
        { c with ldFails := satAdd 32 c.ldFails 1, ldCtx := b.ctx, ldCode := code }
      let saw (t : State) : Out := .next (t.sawTenant b.ctx b.image.toNat)
      match s.tenantAt b.ctx b.image.toNat with
      | .error c => saw (bad c)
      | .ok t => saw (if t.tag ≠ b.tag then bad 1 else s.modBank core bank fun b => { b with state := 2, words := t.words })

/-- The tag of the tenant image of a shift, where its header has bindings. -/
def Shift.tag? (x : Shift) : Option Word := x.img.binds.head?.map (·.tag)

/-- The next ready resident shift of a core in order of residency after a slot (R252): a frozen context's shifts are not ready. -/
def State.nextReady (s : State) (core : Nat) (slot : Option Nat) : Option Nat :=
  let o := (s.core core).order
  let after := match slot with
    | none => o
    | some k => (o.dropWhile (· != k)).drop 1 ++ o.takeWhile (· != k)
  after.find? fun k => match s.sh? (8 * core + k) with
    | none => false
    | some x => (s.ctx x.place.ctx).frzState == 0

/-- The prefetch at a switch decision (R325): the image of the next shift in order of residency, into the unpinned bank that does not hold the
issuing shift's image. -/
def State.prefetch (s : State) (core : Nat) : State :=
  match (s.core core).issuing, s.nextReady core (s.core core).issuing with
  | some cur, some nxt =>
    match s.sh? (8 * core + nxt) with
    | none => s
    | some y =>
      match y.tag? with
      | none => s
      | some tag =>
        let keep := ((s.sh? (8 * core + cur)).bind fun x => x.tag?.bind fun t => s.bankOf core x.place.ctx t 2)
        if s.loadReady core y.place.ctx tag keep then s.startLoad core y.place.ctx tag keep else s
  | _, _ => s

end Sys2Proof.Machine
end

