-- ==== Sys2Proof/Machine/Home.lean ====
section
/-!
DEFINITION. What a home does with a request (R33, R175, R187): reads, writes, atomics (R203) and barriers (R215 to R219) at the home of a byte,
what a shift reads of a bundle's lines (R228, R234 to R236), and the injection of accesses to fabric regions (R335).
-/
namespace Sys2Proof.Machine

/-- What a home answers: a value, its flags, and whether the read met poison. -/
structure Answer where
  val : Word
  flags : Flags
  bad : Bool
  deriving DecidableEq, Repr

/-- An answer of a value alone. -/
def Answer.ok (w : Word) : Answer := { val := w, flags := 0, bad := false }

/-- New value and flags of an atomic (Table 10.4); `.fadd` rounds once under RNE and keeps subnormals. -/
def atomNew (op : AtomOp) (d : Bool) (old b : Word) : Word × Flags :=
  let n := if d then 64 else 32
  let o := wbits old 0 n
  let y := wbits b 0 n
  match op with
  | .add => (w64 ((o + y) % 2 ^ n), 0)
  | .and => (old &&& w64 y, 0)
  | .or => (w64 o ||| w64 y, 0)
  | .xor => (w64 o ^^^ w64 y, 0)
  | .min => (w64 (if sx n y < sx n o then y else o), 0)
  | .max => (w64 (if sx n o < sx n y then y else o), 0)
  | .minz => (w64 (min o y), 0)
  | .maxz => (w64 (max o y), 0)
  | .swap => (w64 y, 0)
  | .fadd =>
    let r := fvAdd .rne (decodeFV .f32 o) (decodeFV .f32 y)
    let c := roundTo .f32 .rne false 0 r.1
    (w64 c.1, r.2 ||| c.2)

/-! ## Writes at a home -/

/-- Whether a home drops a write: a retired page (R378), a shut window (R298), a slot that is not LIVE (R351). -/
def State.drops (s : State) (pa key : Nat) : Bool := s.retiredAt pa || s.windowShut pa || !s.keyLive key

/-- KMISS of an access through a slot that is not LIVE (R351). -/
def State.deadKey (s : State) (h : Home) (fn : Option Nat) : State :=
  match h with
  | .glob _ k => if s.keyLive k then s else s.kmiss fn
  | _ => s

/-- A write at a home: its line's pennant becomes null and its side entry is freed (R222). -/
def State.storeQuiet (s : State) (h : Home) (bs : List Byte) : State :=
  match h with
  | .glob pa k =>
    let t := s.homeWrite h bs
    if s.drops pa k then t else t.modLine (pa / 128) fun l => { l with pennant := none, side := none }
  | _ => s.homeWrite h bs

/-- The first byte of the sector of a home. -/
def Home.sectorBase (h : Home) : Home :=
  match h with
  | .lane c l o => .lane c l (o / 32 * 32)
  | .pad c o => .pad c (o / 32 * 32)
  | .crew c o => .crew c (o / 32 * 32)
  | .chip d o => .chip d (o / 32 * 32)
  | .glob pa k => .glob (pa / 32 * 32) k
  | .fab p pa k => .fab p (pa / 32 * 32) k

/-- Word k of a barrier object (R215). -/
def State.barWord (s : State) (h : Home) (k : Nat) : Nat := ofLE (((s.homeRead h.sectorBase 32).1.drop (4 * k)).take 4)

/-- The status word of a barrier instruction (R197). -/
def barStatus (gen code : Nat) : Word := w64 (fields [(32, gen), (0, code)])

/-- Whether a shift waits on the barrier of a sector. -/
def State.barWaited (s : State) (h : Home) : Bool :=
  s.waiters.any fun w => match w.why with
    | .bar a _ => a.sector == h.sector && w.answer.isNone
    | _ => false

/-- Every waiter on a barrier's sector answered (R216, R217, R219). -/
def State.wakeBar (s : State) (h : Home) (gen code : Nat) : State :=
  { s with waiters := s.waiters.map fun w =>
      match w.why, w.answer with
      | .bar a _, none => if a.sector = h.sector then { w with answer := some (barStatus gen code) } else w
      | _, _ => w }

/-- A write by an instruction other than BARINIT and BARARR: waiters on its sector wake with OVERWRITTEN (R219). -/
def State.storeAt (s : State) (h : Home) (bs : List Byte) : State :=
  let t := s.storeQuiet h bs
  if t.barWaited h then t.wakeBar h (t.barWord h 2) 3 else t

/-- The bytes of a barrier's sector. -/
def barBytes (count arrived gen st : Nat) : List Byte := leBytes 4 count ++ leBytes 4 arrived ++ leBytes 4 gen ++ leBytes 4 st ++ zeros 16

/-- BARINIT at its home (R216). -/
def State.barInit (s : State) (h : Home) (force : Bool) (c : Nat) : State × Word :=
  let gen := s.barWord h 2
  if !force ∧ s.barWaited h then (s, barStatus gen 1)
  else ((if force then s.wakeBar h gen 2 else s).storeQuiet h (barBytes c 0 gen (if c = 0 then 0 else 1)), barStatus gen 0)

/-- BARARR at its home (R217). -/
def State.barArr (s : State) (h : Home) : State × Word :=
  let gen := s.barWord h 2
  let count := s.barWord h 0
  let arrived := (s.barWord h 1 + 1) % 2 ^ 32
  if s.barWord h 3 ≠ 1 then (s, barStatus gen 4)
  else if arrived = count then
    let gen' := (gen + 1) % 2 ^ 32
    let t := s.storeQuiet h (leBytes 4 count ++ leBytes 4 0 ++ leBytes 4 gen')
    (t.wakeBar h gen' 0, barStatus gen 0)
  else (s.storeQuiet h (leBytes 4 count ++ leBytes 4 arrived), barStatus gen 0)

/-- A request taken whole at its home (R175); `fn` is the device that counts a key miss. -/
def State.perform (s : State) (h : Home) (op : HomeOp) (fn : Option Nat) : State × Answer :=
  let rd (n : Nat) : List Byte × Bool × State := let r := s.homeRead h n; (r.1, r.2.1, if r.2.2 then s.kmiss fn else s)
  match op with
  | .read n sx => let r := rd n; (r.2.2, { val := loadValue n sx r.1, flags := 0, bad := r.2.1 })
  | .write bs => ((s.deadKey h fn).storeAt h bs, Answer.ok 0)
  | .atom op d b =>
    let r := rd (dwBytes d)
    let old := w64 (ofLE r.1)
    if r.2.1 then (r.2.2, { val := 0, flags := 0, bad := true })
    else let y := atomNew op d old b; (r.2.2.storeAt h (leBytes (dwBytes d) y.1.toNat), { val := old, flags := y.2, bad := false })
  | .cas d e n =>
    let r := rd (dwBytes d)
    let old := w64 (ofLE r.1)
    let want := w64 (wbits e 0 (8 * dwBytes d))
    if r.2.1 then (r.2.2, { val := 0, flags := 0, bad := true })
    else (r.2.2.storeAt h (if old = want then leBytes (dwBytes d) n.toNat else r.1), Answer.ok old)
  | .barinit force c =>
    let r := rd 32
    if r.2.1 then (r.2.2, { val := 0, flags := 0, bad := true })
    else let y := r.2.2.barInit h force (wbits c 0 32); (y.1, Answer.ok y.2)
  | .bararr =>
    let r := rd 32
    if r.2.1 then (r.2.2, { val := 0, flags := 0, bad := true }) else let y := r.2.2.barArr h; (y.1, Answer.ok y.2)
  | .rpub => (s.homeWrite h [2], Answer.ok 0)
  | .rrel => (s.homeWrite h [0], Answer.ok 0)
  | .bst _ => (s, Answer.ok 0)

/-- Whether a request writes. -/
def HomeOp.writes : HomeOp → Bool
  | .read _ _ => false
  | _ => true

/-- Whether a home's line holds a pending version, under which a write waits (R222). -/
def State.pendAt (s : State) (h : Home) : Bool :=
  match h with
  | .glob pa _ => s.pendLine (pa / 128)
  | _ => false

/-! ## Promotion, and reads against the implicit view -/

/-- A pending version promoted (R233): current and pending change places, and the pennant is the bundle's. Waiters on barriers in the line wake
(R218). -/
def State.promote (s : State) (line name version count : Nat) : State :=
  let l := s.line line
  match l.side with
  | none => s
  | some e =>
    if e.pending ∧ e.name = name ∧ e.version = version then
      let old : Side :=
        { e with
          pending := false, key := l.tag, data := s.physBytes (line * 128) 128, poison := l.poison, pennant := l.pennant, since := s.dcc,
          settled := none }
      let t :=
        -- a version that becomes current on a retired page or behind a shut window is a write that is dropped and counted (R298, R378)
        if s.retiredAt (line * 128) || s.windowShut (line * 128) then (s.poke (line * 128) e.data none).modLine line fun l => { l with side := none }
        else
          ({ s with glob := s.glob.put (s.globAt (line * 128)) e.data }.dirtied line (BitVec.allOnes 128)).modLine line fun _ =>
            { tag := e.key, poison := e.poison, side := some old,
              pennant := some { name := name, version := version, index := e.index, count := count, anchor := e.anchor } }
      (upto 0 4).foldl (fun t k =>
        let h := Home.glob (line * 128 + 32 * k) e.key
        if t.barWaited h then t.wakeBar h (t.barWord h 2) 3 else t) t
    else s

/-- A member line's acknowledgement of a seal on its way to the bundle's anchor (R232), here or in another package. -/
def State.ackSeal (s : State) (anchor name version member : Nat) : State :=
  if linePkg anchor = s.mg.idpkg then s.post (.sealAck anchor name version member)
  else s.sendBun none (linePkg anchor) { bunTo 13 anchor name version with count := member }

/-- A pending version promoted by a reader or by a resolution, and acknowledged as a seal is (Table 11.4). -/
def State.promoteAck (s : State) (line name version count : Nat) : State :=
  match (s.line line).side with
  | none => s
  | some e =>
    if e.pending ∧ e.name = name ∧ e.version = version then (s.promote line name version count).ackSeal e.anchor name version (s.fabLine line) else s

/-- COUNT of a bundle at a version as an anchor of this package holds it; 0 where the anchor is in another package (log 71). -/
def State.bunCount (s : State) (anchor name version : Nat) : Nat :=
  let d := s.manifest (localLine anchor)
  if linePkg anchor = s.mg.idpkg ∧ manName d = name ∧ manVersion d = version then nbits d 28 4 else 0

/-- A forward fetch of (name, version) at a home line, with proof of commit (R233, R236): a pending version of it is promoted, and acknowledged. -/
def State.fetchForward (s : State) (line name version : Nat) : State :=
  match (s.line line).side with
  | none => s
  | some e => s.promoteAck line name version (s.bunCount e.anchor name version)

/-- A read of GLOB other than LD and LDA against the implicit view of shift i (R234, R236): none where it may take its value, else the state in which it
waits: for an evicted entry's bundle to settle, or for the forward fetch, which promotes. -/
def State.seeQuiet (s : State) (i : Nat) (h : Home) : Option State :=
  match h, s.sh? i with
  | .glob pa _, some x =>
    if (s.ownPending x (pa / 128)).isSome then none
    else match s.seeLine x.noView (s.lineNum h) (s.penOf (pa / 128)) with
      | none => some (s.askSettled i)
      | some (_, none) => none
      | some (_, some f) => let t := s.fetchForward (pa / 128) f.name f.version; if t.penOf (pa / 128) = s.penOf (pa / 128) then none else some t
  | _, _ => none

/-- The implicit view of shift i after such a read. -/
def State.sawQuiet (s : State) (i : Nat) (h : Home) : State :=
  match h, s.sh? i with
  | .glob pa _, some x =>
    match s.seeLine x.noView (s.lineNum h) (s.penOf (pa / 128)) with
    | some (y, _) => s.modSh i fun x => { x with opt := y.opt }
    | none => s
  | _, _ => s

/-! ## Requests -/

/-- The fault of an interlocked access that read poison (R364). -/
def poisonFault (va : Addr) : FaultInfo := { code := 0x13, faddr := va }

/-- The answer of a request on its way to its shift (R33). -/
def State.answer (s : State) (sh : Option Nat) (dst : Option SNum) (va : Addr) (a : Answer) : State :=
  match sh, dst with
  | some i, some d => s.post (.arrive i (some d) a.val a.flags (if a.bad then some (poisonFault va) else none))
  | _, _ => s

/-- Message k replaced. -/
def State.setMsg (s : State) (k : Nat) (m : Msg) : State := { s with msgs := setAt s.msgs k m }

/-- Message k removed. -/
def State.dropMsg (s : State) (k : Nat) : State := { s with msgs := dropAt s.msgs k }

/-- A plain or acquire read of a line of GLOB by a shift, message k, which a bundle may repair (R228, R234 to R236): it stays on its way where it waits for
a bundle to settle, or for a fetch. -/
def State.readGlob (s : State) (k i : Nat) (x : Shift) (r : Req) (pa key n : Nat) (sx : Bool) : State :=
  let line := pa / 128
  let fn := s.deviceOf x.place.ctx
  match s.ownPending x line with
  | some e =>
    let y := s.sideRead e (pa % 128) n key
    let t := (s.dropMsg k).modSh i fun x => x.countLine (s.fabLine line)
    (if y.2.2 then t.kmiss fn else t).answer (some i) r.dst r.va { val := loadValue n sx y.1, flags := 0, bad := y.2.1 }
  | none =>
    match s.seeLine x (s.fabLine line) (s.penOf line) with
    | none => s.askSettled i
    | some (x', none) =>
      let y := ((s.dropMsg k).modSh i fun _ => x').perform r.at_ r.op fn
      y.1.answer (some i) r.dst r.va y.2
    | some (x', some f) => (s.modSh i fun _ => x').setMsg k (.req { r with fetch := some f })

/-! ## Into the fabric -/

/-- The place at its home that an action of a packet names. -/
def placeOf (a : FabAct) : Option Nat :=
  match a with
  | .read pa _ | .write pa _ | .atom _ _ pa _ | .cas _ pa _ _ | .bar _ pa _ | .ge _ _ pa _ => some pa
  | .bun b => some (b.pa + b.off)
  | .recv _ | .resp _ _ _ _ => none

/-- The line that an operation names, by its fabric line number. -/
def FabOp.line (o : FabOp) : Nat := o.pkg * 2 ^ 45 + ((placeOf o.act).getD 0) / 128

/-- What a request to a fabric region asks of its home; a read of a member line of the shift's open bundle asks for its pending version (R228). -/
def Req.fabAct (s : State) (r : Req) (pkg pa : Nat) : FabAct :=
  let x := r.sh.bind s.sh?
  let fl := pkg * 2 ^ 45 + pa / 128
  let own (n : Nat) (plain : FabAct) : FabAct :=
    match x with
    | some x => if x.bundle.v && x.bundle.members.contains fl then
        .bun { bunTo 12 fl x.bundle.name x.bundle.version with anchor := x.bundle.manifest, off := pa % 128, count := n } else plain
    | none => plain
  match r.op with
  | .read n _ =>
    match r.dst, s.waiters.find? fun w => some w.sh == r.sh && w.unit == 0 && w.answer.isNone with
    | none, some w =>
      match w.why with
      | .ge _ d sg thr => own n (.ge d sg pa thr)
      | .bar _ gen => .bar 3 pa (gen.setWidth 64)
      | _ => own n (.read pa n)
    | _, _ => own n (.read pa n)
  | .write bs => .write pa bs
  | .atom op d b => .atom op d pa b
  | .cas d e n => .cas d pa e n
  | .barinit force c => .bar (if force then 1 else 0) pa c
  | .bararr => .bar 2 pa 0
  | .rpub => .write pa [2]
  | .rrel => .write pa [0]
  | .bst b => .bun b

/-- A request to a fabric region injected (R335). -/
def State.injectReq (s : State) (r : Req) (pkg pa key : Nat) : State :=
  let core := coreOf (r.sh.getD 0)
  let sx := match r.op with | .read _ sx => sx | _ => false
  let kind := if r.acq then 3 else if r.op.writes && r.dst.isNone then 0 else 1
  s.inject { newOp r.sh kind core none pkg (r.fabAct s pkg pa) r.va r.via key with dst := r.dst, sx := sx, seq := r.seq, rel := r.rel }

/-! ## When a request may take effect -/

/-- Whether an operation of a shift in the fabric stands at the sector of a home and went over other hops, so that no route keeps the two in order. -/
def FabOp.meets (o : FabOp) (own : Nat) (h : Home) (via : List Byte) : Bool :=
  match h, placeOf o.act with
  | .glob pa _, some a => o.pkg == own && a / 32 == pa / 32
  | .fab p pa _, some a => o.pkg == p && a / 32 == pa / 32 && o.hops != via
  | _, _ => false

/-- Whether request k may take effect now (R187, R189): after the earlier accesses of its shift to its sector and its earlier acquires; a release after
every earlier access of its shift but bundle stores; an acquire after every earlier release, so that the synchronising accesses of the context have one order. -/
def State.reqReady (s : State) (k : Nat) (r : Req) : Bool :=
  match r.sh with
  | none => true
  | some i =>
    let msgs := (s.msgs.take k).filterMap fun m => match m with | .req q => if q.sh = some i then some q else none | _ => none
    let ops := s.fab.ops.filter fun o => o.sh == some i && (decide (o.kind < 2) || o.kind == 3 || (o.kind == 4 && decide (2048 ≤ i))) && decide (o.seq < r.seq)
    !(msgs.any fun q => q.acq || q.meets r.at_.sector || (r.op.isBst && r.meets q.at_.sector)) &&
    !(ops.any fun o => o.kind == 3 || o.meets s.mg.idpkg r.at_ r.via) &&
    (!r.acq || (!(msgs.any (·.rel)) && !(ops.any (·.rel)))) &&
    (!r.rel || (!(msgs.any fun q => !q.op.isBst) && !(ops.any fun o => !actIsBst o.act) && (match s.sh? i with | some x => !x.localDue r.seq | none => true)))

/-- The record that a write of a duplicated page opens (R347); the page is made single at once where the writer no longer translates it. -/
def State.openCollapse (s : State) (r : Req) (leaf : Nat) : State :=
  let core := coreOf (r.sh.getD 0)
  let ctx := (r.sh.bind s.ctxOf).getD 0
  match s.translate (tlbUnit core 0) ctx r.va.toNat true false with
  | .error _ => s.clearDup leaf
  | .ok e =>
    if e.dupAt r.va.toNat = some leaf then { s with collapses := s.collapses ++ [e.collapse r.va.toNat (some (core / 64))] } else s.clearDup leaf

/-- What a write meets of read duplication (R347): none where its page is single and no collapse of it is under way; else the state in which it waits, with
the record of its page opened. -/
def State.dupWait (s : State) (r : Req) : Option State :=
  if !r.op.writes then none
  else match r.collapse.filter s.dupLeaf with
    | some leaf => some (if s.collapses.any fun c => c.leaf == leaf then s else s.openCollapse r leaf)
    | none =>
      match r.at_ with
      | .glob pa _ => if s.collapsing pa then some s else none
      | _ => none

/-- The adit over whose window a request goes to its device. -/
def Req.window (s : State) (r : Req) : Option Nat :=
  match r.at_ with
  | .glob pa _ => if pa < stackedEnd then none else s.windowOf pa
  | _ => none

/-- Whether the window of an adit that drains or closes still carries a request of this cycle, which was outstanding when that began (R296, R298). -/
def Adit.keeps (a : Adit) (since : Nat) : Bool :=
  a.winEn && a.cur == 0 && (a.st == 3 || (a.st == 1 && a.closing)) && (a.st != 3 || decide (since ≤ a.drainFrom)) &&
    (!a.closing || decide (since ≤ a.offFrom))

/-- A step of a request taken as over an open window, where the request was outstanding when the window began to drain or to close. -/
def State.overWindow (s : State) (r : Req) (f : State → Option State) : Option State :=
  match r.window s with
  | none => f s
  | some n =>
    let a := s.adit n
    if a.keeps r.since then (f (s.modAdit n fun b => { b with st := 1, closing := false })).map fun t => t.modAdit n fun b => { b with st := a.st, closing := a.closing }
    else f s

/-- Request k taken, or none where it still waits. It reaches its home whatever die that is on: what becomes of the part's own traffic between two dies
whose direct link is down the spec does not say (DESIGN CHOICE, log 82). A bundle store of this package, and a read under repair, are taken by their own events. -/
def State.tryReq (s : State) (k : Nat) (r : Req) : Option State :=
  if r.fetch.isSome || !s.reqReady k r then none
  else match s.dupWait r with
    | some t => some t
    | none =>
      if r.op.writes ∧ s.pendAt r.at_ then none
      else match r.at_, r.op, r.sh with
        | .fab pkg pa key, _, _ => some ((s.dropMsg k).injectReq r pkg pa key)
        | _, .bst _, _ => none
        | .glob pa key, .read n sx, some i =>
          match s.sh? i with
          | none => some (s.dropMsg k)
          | some x => some (s.readGlob k i x r pa key n sx)
        | _, _, _ =>
          let fn := (r.sh.bind s.ctxOf).bind s.deviceOf
          let i := r.sh.getD 0
          -- an atomic or a barrier instruction reads too (R234)
          match (if r.op.takes then s.seeQuiet i r.at_ else none) with
          | some t => some t
          | none =>
            let y := ((if r.op.takes then s.sawQuiet i r.at_ else s).dropMsg k).perform r.at_ r.op fn
            some (y.1.answer r.sh r.dst r.va y.2)

/-- A write of the part that waits (R222, R347): performed once its line holds no pending version and its page is single, the earlier ones of its line
first. -/
def State.tryOwn (s : State) (k pa : Nat) (key : Option Nat) (op : OwnOp) (bs : List Byte) (page : Option Collapse) : Option State :=
  if ownAhead (s.msgs.take k) pa || s.pendLine (pa / 128) || (op == .put && bitsAhead (s.msgs.take k)) then none
  else match page.filter fun c => s.dupLeaf c.leaf with
    | some c => if s.collapses.any fun d => d.leaf == c.leaf then none else some { s with collapses := s.collapses ++ [c] }
    | none =>
      if s.collapsing pa then none
      else
        let t := (s.dropMsg k).ownAct pa key op bs
        let h := Home.glob pa (key.getD 0)
        some (if t.barWaited h then t.wakeBar h (t.barWord h 2) 3 else t)

/-- HOME_REQUEST (R175): message k, a request or a write of the part, taken whole at its home. -/
def execHomeRequest (k : Nat) (s : State) : Out :=
  match s.msgs[k]? with
  | some (.req r) => .next ((s.overWindow r fun t => t.tryReq k r).getD s)
  | some (.own pa key op bs page) => .next ((s.tryOwn k pa key op bs page).getD s)
  | _ => .next s

end Sys2Proof.Machine
end

