-- ==== Sys2Proof/Machine/Rings.lean ====
section
/-!
DEFINITION. Rings (R209 to R214): the slot operations at a ring's home, for shifts and engines alike, and RINIT.
-/
namespace Sys2Proof.Machine

/-- A byte offset of PAD, CREW or CHIP as its home, for a core. -/
def spHome (sp : Space) (core off : Nat) : Home :=
  match sp with
  | .crew => .crew (core / 8) off
  | .chip => .chip (core / 64) off
  | _ => .pad core off

/-- The space of a ring register. -/
def Ring.sp (q : Ring) : Space := spaceOfNum q.space

/-- The home of a ring of a shift. -/
def Ring.home (q : Ring) (core : Nat) : Home := spHome q.sp core q.base

/-- A byte of a ring's object. -/
def State.ringByte (s : State) (q : Ring) (core off : Nat) : Nat := s.spaceByte q.sp (spDom q.sp core) (q.base + off)

/-- Bytes of a ring's object written. -/
def State.putRing (s : State) (q : Ring) (core off : Nat) (bs : List Byte) : State := s.putSpace q.sp (spDom q.sp core) (q.base + off) bs

/-- The number of slots of a ring. -/
def State.slotsOf (s : State) (q : Ring) (core : Nat) : Nat := s.ringByte q core 0 % 64 + 1

/-- Where the next slot to claim, or to wait for, is kept (Table 10.6). -/
def slotPtr (claim : Bool) : Nat := if claim then 4 else 5

/-- The next slot to claim or to wait for. -/
def State.nextSlot (s : State) (q : Ring) (core : Nat) (claim : Bool) : Nat := s.ringByte q core (slotPtr claim) % 64

/-- Whether the next slot may be claimed (EMPTY) or taken (FULL). -/
def State.slotOpen (s : State) (q : Ring) (core : Nat) (claim : Bool) : Bool :=
  s.ringByte q core (0x40 + s.nextSlot q core claim) % 4 == (if claim then 0 else 2)

/-- Whether a unit may take the next slot now: it is open, and no other waiter of the ring stands before it (R193). -/
def State.ringTurn (s : State) (i unit : Nat) (q : Ring) (core : Nat) (claim : Bool) : Bool :=
  let why := if claim then WaitFor.claim (q.home core) else WaitFor.full (q.home core)
  s.slotOpen q core claim &&
    match s.waiters.find? fun w => w.why == why with
    | none => true
    | some w => w.sh == i && w.unit == unit

/-- What a unit that waits for a ring waits for. -/
def Ring.why (q : Ring) (core : Nat) (claim : Bool) : WaitFor := if claim then .claim (q.home core) else .full (q.home core)

/-- The next slot taken at the home (Table 10.8): CLAIMED or TAKEN, and the pointer moves on. -/
def State.takeSlot (s : State) (q : Ring) (core : Nat) (claim : Bool) : State :=
  let k := s.nextSlot q core claim
  (s.putRing q core (0x40 + k) [if claim then 1 else 3]).putRing q core (slotPtr claim) [BitVec.ofNat 8 ((k + 1) % s.slotsOf q core)]

/-- The offset of slot k of a ring. -/
def State.slotAt (s : State) (q : Ring) (core k : Nat) : Nat := q.base + 0x80 + k * 2 ^ s.ringByte q core 1

/-- The cause HELD fault of a ring instruction (R213). -/
def heldFault : FaultInfo := memFault 0 6 0

/-- A ring register of the executing shift. -/
def State.ring (s : State) (n : QNum) : Ring := s.x.rings[n]

/-- A ring register set. -/
def Shift.setRing (x : Shift) (n : QNum) (q : Ring) : Shift := { x with rings := x.rings.set n q }

/-- Whether a slot operation of the shift on the ring is still on its way to the home. -/
def State.ringPending (s : State) (i : Nat) (q : Ring) (core : Nat) : Bool :=
  s.msgs.any fun m => match m with
    | .req r => r.sh == some i && (match r.op with
      | .rpub | .rrel => (upto 0 64).any fun k => r.at_ == spHome q.sp core (q.base + 0x40 + k)
      | _ => false)
    | _ => false

/-- The check of RCLAIM (claim) and RWAIT (R193, R212, R213). -/
def State.takeCheck (s : State) (n : QNum) (claim : Bool) : Verdict :=
  let q := s.ring n
  let mask := if claim then q.prod else q.cons
  if !q.v || !mask.getLsbD s.x.place.stage || q.hc || q.hw then .fault heldFault
  else if s.acquirePending s.me || s.syncPending s.me || s.ringPending s.me q s.myCore then .hold s
  else if s.ringTurn s.me 0 q s.myCore claim then .go
  else .hold (s.addWaiter s.me 0 (q.why s.myCore claim))

/-- The effect of RCLAIM (claim) and RWAIT (Table 10.8). -/
def State.takeRing (s : State) (sd : SNum) (n : QNum) (claim : Bool) : State :=
  let q := s.ring n
  let core := s.myCore
  let k := s.nextSlot q core claim
  let q' := { q with hc := claim, hw := !claim, hk := k, log2sz := s.ringByte q core 1 }
  (((s.takeSlot q core claim).dropWaiter s.me 0).modX fun x => x.setRing n q').reply sd (w64 (s.slotAt q core k))

/-- RCLAIM (R212). -/
def execRclaim (sd : SNum) (q : QNum) (s : State) : Out :=
  atIssue (fun s => s.takeCheck q true) (fun s => s.takeRing sd q true) s

/-- RWAIT (R212). -/
def execRwait (sd : SNum) (q : QNum) (s : State) : Out :=
  atIssue (fun s => s.takeCheck q false) (fun s => s.takeRing sd q false) s

/-- The check of RPUB (claim) and RREL. -/
def State.giveCheck (s : State) (n : QNum) (claim : Bool) : Verdict :=
  let q := s.ring n
  if !q.v || !(if claim then q.hc else q.hw) then .fault heldFault
  else if s.acquirePending s.me then .hold s
  else .go

/-- The effect of RPUB (claim) and RREL: a release write of the slot's state at the home (R212). -/
def State.giveRing (s : State) (n : QNum) (claim : Bool) : State :=
  let q := s.ring n
  let off := q.base + 0x40 + q.hk
  (s.request (spHome q.sp s.myCore off) (if claim then .rpub else .rrel) false true none off).modX fun x =>
    x.setRing n (if claim then { q with hc := false } else { q with hw := false })

/-- RPUB (R212). -/
def execRpub (q : QNum) (s : State) : Out := atIssue (fun s => s.giveCheck q true) (fun s => s.giveRing q true) s

/-- RREL (R212). -/
def execRrel (q : QNum) (s : State) : Out := atIssue (fun s => s.giveCheck q false) (fun s => s.giveRing q false) s

/-! ## RINIT -/

/-- The scope at which a ring of a space is ordered (R212). -/
def ringScope (sp : Space) : Scope :=
  match sp with
  | .crew => .crew
  | .chip => .die
  | _ => .shift

/-- Bytes of a ring object. -/
def ringSize (geo : Word) : Nat := 0x80 + (wbits geo 0 6 + 1) * 2 ^ wbits geo 8 5

/-- The BADGEOM conditions of RINIT (R211). -/
def Shift.badGeom (x : Shift) (n : QNum) (m : MemB) (geo : Word) : Bool :=
  let q := x.rings[n]
  let ea := x.eaB m
  (if q.v then ea != q.base || m.sp != q.sp || wbits geo 16 4 != q.prod.toNat || wbits geo 20 4 != q.cons.toNat else m.sp != .pad) ||
    decide (wbits geo 8 5 < 6) || decide (16 < wbits geo 8 5) || decide (ea < 0) || decide ((spLimit m.sp : Int) < ea + ringSize geo)

/-- Whether the ring at a place is busy (R211): a slot that is not EMPTY, or a waiter. -/
def State.ringBusy (s : State) (q : Ring) (core : Nat) : Bool :=
  ((s.ringsAt q.sp core).any fun r => r.base == q.base) &&
  (((upto 0 (s.slotsOf q core)).any fun k => s.ringByte q core (0x40 + k) % 4 != 0) ||
    s.waiters.any fun w => w.why == .claim (q.home core) || w.why == .full (q.home core))

/-- The ring register that an OK RINIT leaves (R211): a new ring's masks are the shift's own stage. -/
def Shift.newRing (x : Shift) (n : QNum) (m : MemB) : Ring :=
  let q := x.rings[n]
  let own : BitVec 4 := BitVec.ofNat 4 (2 ^ x.place.stage)
  { q with v := true, space := spNum m.sp, prod := if q.v then q.prod else own, cons := if q.v then q.cons else own, hc := false, hw := false,
           base := (x.eaB m).toNat }

/-- The header of a ring object, with every slot EMPTY (Table 10.6). -/
def ringHeader (geo : Word) (q : Ring) : List Byte :=
  padTo 0x80 (leBytes 1 (wbits geo 0 6) ++ leBytes 1 (wbits geo 8 5) ++ leBytes 1 (q.prod.toNat + 16 * q.cons.toNat))

/-- RINIT (R211): alignment, BADGEOM, the run-time checks on every byte of the object, BUSY; a read-modify-write, so it waits for the shift's
earlier accesses. -/
def execRinit (sd : SNum) (n : QNum) (m : MemB) (sg : SNum) (s : State) : Out :=
  atIssue
    (fun s =>
      let ea := s.x.eaB m
      let geo := s.rs sg
      if ea % 128 ≠ 0 then .fault (alignFault 0 ea)
      else if s.x.badGeom n m geo then .go
      else match s.checkAccess s.me s.x 0 0 .rmw (ringScope m.sp) true false false m.sp ea (ringSize geo) with
        | .error f => .fault f
        | .ok _ => if s.accessPending s.me || s.x.localDue s.x.tim.seq then .hold s else .go)
    (fun s =>
      let geo := s.rs sg
      let q := s.x.newRing n m
      let core := s.myCore
      if s.x.badGeom n m geo then s.reply sd 5
      else if s.ringBusy q core then s.reply sd 1
      else
        let p := s.x.place
        let here (r : RingObj) : Bool := r.space == spNum m.sp && r.dom == spDom m.sp core && r.base == q.base
        -- a ring that the node declares stays one of its declared rings
        let decl := s.rings.any fun r => here r && r.decl && r.table == p.table && r.node == p.node
        let obj : RingObj := { space := spNum m.sp, dom := spDom m.sp core, base := q.base, table := p.table, node := p.node, decl := decl }
        let t := (s.putRing q core 0 (ringHeader geo q)).modX fun x => x.setRing n q
        { t with rings := t.rings.filter (fun r => !here r) ++ [obj] }.reply sd 0) s

end Sys2Proof.Machine
end

