-- ==== Sys2Proof/Machine/Dispatcher.lean ====
section
/-!
DEFINITION. The dispatcher (chapter 12): launches and their tables (R238 to R243), COND nodes (R244), the checks of a node (R245, R181), placement
and the start of shifts (R247, R248, R251, R328), rebalancing (R249, R250), and completion (R253).
-/
namespace Sys2Proof.Machine

/-! ## Launches -/

/-- Whether a graph header keeps Table 12.1. -/
def graphHeader (h : List Byte) (ctx : Nat) : Bool :=
  let d := dwordAt h
  nbits (d 0) 32 32 == 0x47525048 && nbits (d 0) 0 16 == 0 && decide (1 ≤ nbits (d 0) 16 16 ∧ nbits (d 0) 16 16 ≤ 4096) &&
    d 1 == ctx && nbits (d 2) 32 32 == 0 && decide (0x40 + 256 * nbits (d 0) 16 16 ≤ d 2) && (upto 3 5).all fun k => d k == 0

/-- A node entry of its 32 dwords, before R242 sets its fields. -/
def nodeOf (dw : List Word) : Node :=
  { dw := dw, status := 0, state := 1, iter := 0, pred := nbits (dw.headD 0).toNat 16 16, ready := 0, checked := false, cond := false,
    images := [], placed := [] }

/-- The dwords of bytes. -/
def wordsOf (n : Nat) (bs : List Byte) : List Word := (upto 0 n).map fun k => w64 (dwordAt bs k)

/-- Offset of the ring declarations of a node. -/
def Node.ringOff (n : Node) : Nat := nbits (n.d 3) 32 32
/-- Offset of the successor list. -/
def Node.succOff (n : Node) : Nat := nbits (n.d 3) 0 32

/-- Whether the fields of a node entry keep R240, in a table of `nodes` entries and `size` bytes; `half` reads the successor list. The offset of a list that
has no entries is checked too (log 68). -/
def Node.good (n : Node) (nodes size : Nat) (half : Nat → Nat) : Bool :=
  let k := n.kind
  let kernel : Bool := nbits (n.d 0) 44 11 != 0 || n.crewMask != 0 || n.ringOff != 0 || nbits (n.d 5) 8 8 != 0 || n.d 7 != 0 ||
    (upto 11 12).any fun j => n.d j != 0
  let cond : Bool := n.exitCnt != 0 || nbits (n.d 5) 16 8 != 0 || n.d 9 != 0 || n.d 10 != 0
  let shape : Bool := (upto 0 4).any fun s => nbits (n.d 8) (16 * s + 4) 4 != 0 || nbits (n.d 8) (16 * s + 12) 4 != 0
  let res : Bool := (upto 0 4).any fun s =>
    let r := n.d (11 + s)
    nbits r 6 2 != 0 || nbits r 9 7 != 0 || nbits r 27 37 != 0 || nbits (n.d (16 + 2 * s)) 8 56 != 0
  k != 3 && nbits (n.d 0) 32 12 == 0 && nbits (n.d 1) 48 4 == 0 && nbits (n.d 1) 16 16 == 0 && nbits (n.d 5) 24 40 == 0 && nbits (n.d 10) 3 13 == 0 && (upto 23 9).all (fun j => n.d j == 0) &&
    !(k == 0 && (cond || shape || res)) && !(k == 1 && kernel) && !(k == 2 && (kernel || cond || n.d 8 != 0)) &&
    n.succOff % 8 == 0 && decide (n.succOff + 2 * (n.succCnt + n.exitCnt) ≤ size) &&
    (n.nring == 0 || (n.ringOff % 8 == 0 && decide (n.ringOff + 16 * n.nring ≤ size))) &&
    (upto 0 (n.succCnt + n.exitCnt)).all fun j => decide (half (n.succOff + 2 * j) < nodes)

/-- What reading a launch's table gives: the table, or the STATUS and DETAIL of the completion that refuses it (R239). -/
def State.readTable (s : State) (ctx : Nat) (addr : Addr) (queue pkt cap : Nat) : Except (Nat × Nat) GTable :=
  let fault (f : FaultInfo) : Nat × Nat := (2, fields [(16, tokenCause f % 16), (8, f.code % 256)])
  match s.virtBytes partUnit ctx addr.toNat 64 false with
  | .error f => .error (fault f)
  | .ok h =>
    if !graphHeader h ctx then .error (1, 0x0B)
    else
      let size := dwordAt h 2
      match s.virtBytes partUnit ctx addr.toNat size false with
      | .error f => .error (fault f)
      | .ok bs =>
        let nn := nbits (dwordAt h 0) 16 16
        let nodes := (upto 0 nn).map fun i => nodeOf (wordsOf 32 (bs.drop (0x40 + 256 * i)))
        let half (o : Nat) : Nat := ofLE ((bs.drop o).take 2)
        match (upto 0 nn).find? fun i => match nodes[i]? with | some n => !n.good nn size half | none => true with
        | some i => .error (1, fields [(32, i), (0, 0x0B)])
        | none => .ok { ctx := ctx, addr := addr, bytes := wordsOf (cdiv size 8) bs, nodes := nodes, edges := [], fails := [], queue := queue, pkt := pkt,
                        prioCap := cap, samples := [], windows := [], moves := [] }

/-- What the reads of a launch's table leave (R338, R351): those of its header, and those of the table where the header is good and it can be read. -/
def State.sawTable (s : State) (ctx : Nat) (addr : Addr) : State :=
  let n := match s.virtBytes partUnit ctx addr.toNat 64 false with
    | .error _ => 64
    | .ok h =>
      if !graphHeader h ctx then 64
      else match s.virtBytes partUnit ctx addr.toNat (dwordAt h 2) false with
        | .error _ => 64
        | .ok bs => bs.length
  s.touchVirt partUnit ctx addr.toNat n false

/-- The lowest free number of a resident table (R238: at most 256). -/
def State.freeTable (s : State) : Option Nat := (upto 0 256).find? fun k => (s.table? k).isNone

/-- The address of a launch packet's graph table. -/
def Pkt.launchAddr (p : Pkt) : Addr := BitVec.ofNat 72 (((p.dw[1]?).getD 0).toNat + wbits ((p.dw[2]?).getD 0) 0 8 * 2 ^ 64)

/-- Whether a started LAUNCH may be accepted (R238): a table is free, and its graph table is not resident already. -/
def State.launchReady (s : State) (q : Nat) (p : Pkt) : Bool :=
  let ctx := wbits (s.queue q).cfg 28 12
  p.started && nbits p.hd 0 8 == 1 && p.table.isNone && s.freeTable.isSome && (s.ctx ctx).frzState == 0 &&
    !(s.tables.any fun t => t.2.ctx == ctx && t.2.addr == p.launchAddr)

/-- Every node of a new table takes its state and its count (R242); a write back of dword 1 for each. -/
def State.armTable (s : State) (t : Nat) : State :=
  match s.table? t with
  | none => s
  | some T =>
    let ids := upto 0 T.nodes.length
    let s := ids.foldl (fun s n => s.setNode t n fun x => { x with state := 1 }) (s.modTable t fun T =>
      { T with nodes := T.nodes.map fun x => { x with state := 0 } })
    ids.foldl (fun s n => match s.node? t n with
      | some x => if x.pred = 0 then s.makeReady t n else s
      | none => s) s

/-- LAUNCH (R238 to R240): a started packet's graph table becomes resident, or its launch is refused whole. -/
def execLaunch (q idx : Nat) (s : State) : Out :=
  match (s.queue q).pkts.find? fun p => p.idx == idx with
  | none => .next s
  | some p =>
    if !s.launchReady q p then .next s
    else
      let cfg := (s.queue q).cfg
      match s.readTable (wbits cfg 28 12) p.launchAddr q idx (wbits cfg 40 7) with
      | .error (st, d) => .next ((s.sawTable (wbits cfg 28 12) p.launchAddr).finishPkt q idx st d)
      | .ok T =>
        let k := s.freeTable.getD 0
        -- IN and INOUT buffers lose their cached copies before the first shift starts (R395)
        let s := (s.sawTable T.ctx T.addr).cacheBufs true T.ctx p [1, 3]
        let s := s.modQueue q fun Q => { Q with pkts := Q.pkts.map fun x => if x.idx = idx then { x with table := some k } else x }
        .next (({ s with tables := NMap.set s.tables k T }.armTable k).launchFinish k)

/-! ## Order of READY nodes (R181, R251) -/

/-- A READY node: its table, its number, the node. -/
abbrev ReadyNode := Nat × Nat × Node

/-- The READY KERNEL nodes of contexts that are not frozen. -/
def State.readyNodes (s : State) : List ReadyNode :=
  s.tables.flatMap fun t =>
    if (s.ctx t.2.ctx).frzState ≠ 0 then []
    else (t.2.nodes.zip (upto 0 t.2.nodes.length)).filterMap fun p =>
      if p.1.state = 2 ∧ p.1.kind = 0 then some (t.1, p.2, p.1) else none

/-- Whether one node became READY earlier: by cycle, and within a cycle by node index (R181). DESIGN CHOICE (log 81): of nodes of two tables that become
READY in one cycle, that of the lower table counts as earlier, of which R181 says nothing. -/
def earlierReady (a b : ReadyNode) : Bool :=
  decide (a.2.2.ready < b.2.2.ready) || (a.2.2.ready == b.2.2.ready && (decide (a.1 < b.1) || (a.1 == b.1 && decide (a.2.1 < b.2.1))))

/-- An element put into a sorted list. -/
def insertBy {α : Type} (lt : α → α → Bool) (x : α) : List α → List α
  | [] => [x]
  | y :: l => if lt x y then x :: y :: l else y :: insertBy lt x l

/-- A list sorted. -/
def sortBy {α : Type} (lt : α → α → Bool) (l : List α) : List α := l.foldr (insertBy lt) []

/-- DSPCFG fields (Table 12.5). -/
def State.ageInt (s : State) : Nat := wbits s.mg.dspcfg 32 16
/-- DSPCFG.AGECAP. -/
def State.ageCap (s : State) : Nat := wbits s.mg.dspcfg 24 7
/-- DSPCFG.PGAP. -/
def State.pgap (s : State) : Nat := wbits s.mg.dspcfg 16 7
/-- The length of a turn (R252). -/
def State.quantum (s : State) : Nat := 256 * wbits s.mg.dspcfg 48 16

/-- Effective priority of a node (R251, R391). -/
def State.effPrio (s : State) (t : Nat) (n : Node) : Nat :=
  let p := min n.prio (((s.table? t).map (·.prioCap)).getD 0)
  if s.ageInt = 0 then p else max p (min (p + (s.dcc - n.ready) / (1024 * s.ageInt)) s.ageCap)

/-! ## The checks of a node (R245) -/

/-- The ring declarations of a node: space, slots − 1, LOG2SZ, base, and whether the declaration keeps its limits (R241). -/
def GTable.ringDecls (T : GTable) (n : Node) : List (Nat × Nat × Nat × Nat × Bool) :=
  (upto 0 n.nring).map fun k =>
    let d := T.dword (n.ringOff + 16 * k)
    let e := T.dword (n.ringOff + 16 * k + 8)
    let sp := nbits d 0 3
    let lg := nbits d 16 5
    let base := nbits d 32 26
    (sp, nbits d 8 6, lg, base, nbits d 3 5 == 0 && nbits d 14 2 == 0 && nbits d 21 11 == 0 && nbits d 58 6 == 0 && e == 0 &&
      decide (1 ≤ sp ∧ sp ≤ 3) && decide (6 ≤ lg ∧ lg ≤ 16) && base % 128 == 0 &&
      decide (base + 0x80 + (nbits d 8 6 + 1) * 2 ^ lg ≤ spLimit (spaceOfNum sp)))

/-- The masks of a ring of a node, over the headers of its stages (R66, R241): producers, consumers. -/
def Node.ringMasks (n : Node) (k : Nat) : BitVec 4 × BitVec 4 :=
  (n.images.flatMap fun i => i.rings.filter fun r => r.ring == k).foldl
    (fun acc r => (acc.1 ||| BitVec.ofNat 4 r.prod, acc.2 ||| BitVec.ofNat 4 r.cons)) (0, 0)

/-- Whether a mask names at most one stage. -/
def oneStage (m : BitVec 4) : Bool := m &&& (m - 1) == 0

/-- The images of the stages of a node, or the status of the first check that fails: every row of Table 3.16 on one header before the next header is checked
(R67, log 69). -/
def State.nodeImages (s : State) (T : GTable) (n : Node) : Nat → Nat → List Binding → Except Nat (List StageImg)
  | 0, _, _ => .ok []
  | fuel + 1, st, seen =>
    let base := n.imageOf st
    match s.hdrAt T.ctx base n.stages n.nring seen with
    | .error e => .error e
    | .ok h =>
      match h.stages.find? fun e => e.stage == st with
      | none => .error 5
      | some e =>
        match s.nodeImages T n fuel (st + 1) (seen ++ h.binds) with
        | .error x => .error x
        | .ok rest => .ok ({ img := h.image base [], chk := h.chk, entry := e.entry, stack := e.stack, rings := h.rings, descs := h.descs e } :: rest)

/-- Whether footprints of shifts in two crews conflict (R181). -/
def crewsClash (c d : Nat) (fs gs : List Foot) : Bool :=
  fs.any fun f => gs.any fun g =>
    !(f.mode == g.mode && f.mode != 1) &&
    (match f.space with
      | .crew => c == d
      | .chip => c / 8 == d / 8
      | .glob => true
      | _ => false) && f.overlaps g

/-- Whether two shifts of a node conflict. -/
def Node.selfClash (n : Node) : Bool :=
  let ps := n.slots.map fun p => (p, n.feetOf p.1 p.2.1 0)
  let rec go : List ((Nat × Nat × Nat) × List Foot) → Bool
    | [] => false
    | p :: rest => rest.any (fun q => crewsClash p.1.2.2 q.1.2.2 p.2 q.2) || go rest
  go ps

/-- Whether two nodes of a context conflict. -/
def nodesClash (a b : Node) : Bool :=
  a.slots.any fun p => let fs := a.feetOf p.1 p.2.1 0
    b.slots.any fun q => crewsClash p.2.2 q.2.2 fs (b.feetOf q.1 q.2.1 0)

/-- The shape rules of R245; BANKS outside 1 to 32 breaks them too. -/
def Node.shapeBad (n : Node) : Bool :=
  let st := upto 0 n.stages
  n.crewMask == 0 || decide (8 < (st.map n.minOf).foldl (· + ·) 0) ||
    st.any fun s => decide (n.maxOf s < 1) || decide (8 < n.maxOf s) || decide (n.maxOf s < n.minOf s) || decide (n.banksOf s < 1) ||
      decide (32 < n.banksOf s)

/-- The status of the checks of a node (R245, R323), or the node with its images: its tenant image is the one that stage 0's header names. -/
def State.checkNode (s : State) (T : GTable) (n : Node) : Except Nat Node :=
  match s.nodeImages T n n.stages 0 [] with
  | .error e => .error e
  | .ok imgs =>
    let timg := ((imgs[0]?).map (·.img.timg)).getD 0
    let n := { n with images := imgs.map fun g => { g with img := { g.img with timg := timg } } }
    let decls := T.ringDecls n
    let padShared (k : Nat) : Bool := let m := n.ringMasks k; !oneStage (m.1 ||| m.2)
    let tags := imgs.flatMap fun g => g.img.binds.map (·.tag)
    let tenantBad : Bool := if timg = 0 then !tags.isEmpty else match s.tenantAt T.ctx timg with
      | .error _ => true
      | .ok t => tags.any fun g => g != t.tag
    if n.shapeBad then .error 0x0C
    else if decide (8 < n.nring) || decls.any (fun d => !d.2.2.2.2) ||
        (upto 0 decls.length).any (fun k => ((decls[k]?).map (·.1)).getD 0 == 1 && padShared k) then .error 8
    else if imgs.any (fun g => g.descs.any fun d => !d.good) ||
        n.slots.any (fun p => (n.feetOf p.1 p.2.1 0).any fun f => f.bad (BitVec.allOnes 32) 0 0) then .error 9
    else if n.slots.any (fun p => footsClash (n.feetOf p.1 p.2.1 0)) || n.selfClash then .error 0x0A
    else if tenantBad then .error 7
    else .ok n

/-- The nodes of the same context that are READY and became so earlier, or RUNNING, and conflict with a node (R181). -/
def State.earlierClash (s : State) (me : ReadyNode) (ctx : Nat) : List (Nat × Nat) :=
  s.tables.flatMap fun t =>
    if t.2.ctx ≠ ctx then []
    else (t.2.nodes.zip (upto 0 t.2.nodes.length)).filterMap fun p =>
      let other : ReadyNode := (t.1, p.2, p.1)
      if (t.1 = me.1 ∧ p.2 = me.2.1) ∨ p.1.images = [] then none
      else if (p.1.state = 3 ∨ (p.1.state = 2 ∧ p.1.checked ∧ earlierReady other me)) ∧ nodesClash me.2.2 p.1 then some (t.1, p.2)
      else none

/-- A READY node made to wait for nodes that it conflicts with (R181): an edge from each, and one predecessor more for each. -/
def State.waitFor (s : State) (t n : Nat) (y : Node) (es : List (Nat × Nat)) : State :=
  (s.setNode t n fun _ => { y with state := 1, pred := y.pred + es.length }).modTable t fun T =>
    { T with edges := T.edges ++ es.map fun e => (e.1, e.2, n) }

/-- The headers of a node read, and the tenant image that stage 0's names (R338, R351). -/
def State.sawHeaders (s : State) (T : GTable) (n : Node) : State :=
  let t := (upto 0 n.stages).foldl (fun s st => s.sawHeader T.ctx (n.imageOf st)) s
  match s.nodeImages T n n.stages 0 [] with
  | .error _ => t
  | .ok imgs =>
    let timg := ((imgs[0]?).map (·.img.timg)).getD 0
    if timg = 0 then t else t.sawTenant T.ctx timg

/-- Whether a READY node of the same context that became READY earlier still stands before its checks, by which R181 may add an edge. -/
def State.earlierUnchecked (s : State) (r : ReadyNode) : Bool :=
  let ctx (t : Nat) : Option Nat := (s.table? t).map (·.ctx)
  s.readyNodes.any fun o => !o.2.2.checked && earlierReady o r && ctx o.1 == ctx r.1

/-- NODE_CHECK (R245, R181): a READY KERNEL node checked before any of its shifts is placed; it fails, waits for the nodes that it conflicts with,
or may be placed. Checks are made in the order in which nodes became READY, once the cycle has passed in which others may become so. -/
def execNodeCheck (t n : Nat) (s : State) : Out :=
  match s.table? t, s.node? t n with
  | some T, some x =>
    if x.state ≠ 2 ∨ x.kind ≠ 0 ∨ x.checked ∨ (s.ctx T.ctx).frzState ≠ 0 ∨ s.dcc ≤ x.ready ∨ s.earlierUnchecked (t, n, x) then .next s
    else match s.checkNode T x with
      | .error e => .next ((s.sawHeaders T x).nodeFail t n e)
      | .ok y =>
        match s.earlierClash (t, n, y) T.ctx with
        | [] => .next ((s.sawHeaders T x).setNode t n fun _ => { y with checked := true })
        | es => .next ((s.sawHeaders T x).waitFor t n y es)
  | _, _ => .next s

/-! ## Placement (R247, R248) -/

/-- The placements on a core of every node that has not given it back (R253), with their contexts. -/
def State.placedOn (s : State) (core : Nat) : List (Nat × Placed) :=
  s.tables.flatMap fun t => t.2.nodes.flatMap fun n => (n.placed.filter fun p => p.core == core && !p.withdrawn).map fun p => (t.2.ctx, p)

/-- The slots of a core that no shift is resident in and no node keeps. -/
def State.freeSlots (s : State) (core : Nat) : List Nat :=
  (upto 0 4).filter fun k => (s.sh? (8 * core + k)).isNone && !(s.placedOn core).any fun p => p.2.slot == k

/-- The placements on a core that hold its banks, its matrix unit and its lines: those of shifts that are not switched out (R22, R251). -/
def State.holding (s : State) (core : Nat) : List (Nat × Placed) := (s.placedOn core).filter fun p => !p.2.away

/-- PAD banks of a core that no other resident context owns. -/
def State.freeBanks (s : State) (core ctx : Nat) : List Nat :=
  let used := (s.holding core).foldl (fun (a : BitVec 32) p => if p.1 = ctx then a else a ||| p.2.banks) 0
  (upto 0 32).filter fun b => !used.getLsbD b

/-- Lines of an L1 that may be locked (R206): two ways of each of its 256 sets stay unlocked. -/
abbrev lockCap : Nat := 2560

/-- Whether a core can take a shift (R247, R379, R382, R383). -/
def State.canTake (s : State) (core ctx banks : Nat) (mx : Bool) (lkq : Nat) : Bool :=
  let here := s.placedOn core
  !(s.freeSlots core).isEmpty && !(here.any fun p => p.1 == ctx) && !((upto 0 4).any fun k => match s.sh? (8 * core + k) with | some x => x.place.ctx == ctx | none => false) &&
    decide (banks ≤ (s.freeBanks core ctx).length) && !(mx && (s.holding core).any fun p => p.2.mx) &&
    decide (lkq + ((s.holding core).map fun p => p.2.lkq).foldl (· + ·) 0 ≤ lockCap) && s.mg.coresvc.getLsbD core && !s.mg.hot.getLsbD (core / 64) &&
    !s.mg.off.contains (28 + core / 64)

/-- A core chosen for a shift: the core, its stage, its slot number. -/
abbrev Pick := Nat × Nat × Nat

/-- The next core of a crew for a stage, among those not used yet. -/
def State.pickCore (s : State) (ctx : Nat) (n : Node) (crew st : Nat) (ps : List Pick) : Option Pick :=
  let core := (upto (8 * crew) 8).find? fun c =>
    !(ps.any fun p => p.1 == c) && s.canTake c ctx (n.banksOf st) (n.mxOf st) (n.lkqOf st)
  core.map fun c => (c, st, (ps.filter fun p => p.2.1 == st).length)

/-- MIN cores for each stage of a crew, or none. -/
def State.pickMin (s : State) (ctx : Nat) (n : Node) (crew : Nat) : List Nat → List Pick → Option (List Pick)
  | [], ps => some ps
  | st :: rest, ps =>
    match s.pickCore ctx n crew st ps with
    | none => none
    | some p => s.pickMin ctx n crew rest (ps ++ [p])

/-- One more core at a time to the stages in turn, while one can be taken. -/
def State.pickMore (s : State) (ctx : Nat) (n : Node) (crew : Nat) : Nat → List Pick → List Pick
  | 0, ps => ps
  | fuel + 1, ps =>
    let qs := (upto 0 n.stages).foldl (fun ps st =>
      if (ps.filter fun p => p.2.1 == st).length < n.maxOf st then
        match s.pickCore ctx n crew st ps with
        | some p => ps ++ [p]
        | none => ps
      else ps) ps
    if qs.length = ps.length then ps else s.pickMore ctx n crew fuel qs

/-- The picks of a crew. -/
def State.pickCrew (s : State) (ctx : Nat) (n : Node) (crew : Nat) : Option (List Pick) :=
  (s.pickMin ctx n crew ((upto 0 n.stages).flatMap fun st => List.replicate (n.minOf st) st) []).map fun ps => s.pickMore ctx n crew 8 ps

/-- The picks of every crew of a node, or none where a crew cannot take every stage's MIN. -/
def State.pickAll (s : State) (ctx : Nat) (n : Node) : List Nat → Option (List Pick)
  | [] => some []
  | c :: cs => match s.pickCrew ctx n c, s.pickAll ctx n cs with
    | some a, some b => some (a ++ b)
    | _, _ => none

/-- The collective words of a node's tenant image, where it has some (R328); BADBIND where the image no longer passes the checks of R323. -/
def State.nodeColl (s : State) (T : GTable) (n : Node) : Except Nat (Option TenantImg) :=
  match n.images[0]? with
  | none => .ok none
  | some g =>
    if g.img.timg = 0 then .ok none
    else match s.tenantAt T.ctx g.img.timg with
      | .ok t => .ok (if t.coll = [] then none else some t)
      | .error _ => .error 7

/-- The link stores of crews filled with an image's collective words for a node, which uses them from then on (R328). -/
def State.fillLinks (s : State) (user : Nat × Nat) (ctx : Nat) (c : TenantImg) (crews : List Nat) : State :=
  { s with links := crews.foldl (fun (m : NMap LinkStore) k =>
      match NMap.get? m k with
      | some l => NMap.set m k { l with users := user :: l.users.filter (· != user) }
      | none => NMap.set m k { tag := c.tag, ctx := ctx, users := [user], words := c.coll, ctab := c.ctab }) s.links }

/-- Whether the link stores of a node's crews are empty or hold its image (R328). -/
def State.linkFree (s : State) (T : GTable) (n : Node) : Bool :=
  match s.nodeColl T n with
  | .ok (some t) => (crewsOf n.crewMask).all fun c => match NMap.get? s.links c with
    | none => true
    | some l => l.tag == t.tag
  | _ => true

/-- The placement of a READY node in the present state, or none where it cannot be placed whole. -/
def State.plan (s : State) (T : GTable) (n : Node) : Option (List Pick) :=
  if s.linkFree T n then s.pickAll T.ctx n (crewsOf n.crewMask) else none

/-- The lowest BANKS free banks of a core as a mask. -/
def State.bankMask (s : State) (core ctx n : Nat) : BitVec 32 :=
  ((s.freeBanks core ctx).take n).foldl (fun a b => a ||| (1 : BitVec 32) <<< b) 0

/-- Where a placed shift stands in its banks: the lowest bank's offset, STKB and STKL (R248). -/
def placeStack (banks : BitVec 32) (stack : Nat) : Nat × Int × Nat :=
  let stkl := 0x8000 * topBank banks + 0x3000
  (lowBank banks * 0x8000, (stkl : Int) - stack, stkl)

/-- The ordinal of a crew among those of a mask. -/
def crewOrdinal (mask crew : Nat) : Nat := ((upto 0 crew).filter fun c => nbit mask c).length

/-- Whether a PAD ring that a stage uses does not fit, once it is relocated, in banks of PAD (R241): its bytes are PAD's and lie in owned banks (log 70). -/
def Node.padRingBad (n : Node) (T : GTable) (st : Nat) (banks : BitVec 32) : Bool :=
  let decls := T.ringDecls n
  (((n.images[st]?).map (·.rings)).getD []).any fun r => match decls[r.ring]? with
    | none => false
    | some d => d.1 == 1 &&
        ({ space := .pad, mode := 1, host := false, base := (d.2.2.2.1 + lowBank banks * 0x8000 : Nat), len := 0x80 + (d.2.1 + 1) * 2 ^ d.2.2.1, rows := 1,
           rstride := 0 : Foot }).bad banks 0 0

/-- The status of a pick that R241 or R248 refuses: NOSTACK, BADRING, or FPBAD for a PAD footprint outside its banks or on the stack. -/
def State.pickBad (s : State) (T : GTable) (n : Node) (p : Pick) : Option Nat :=
  let banks := s.bankMask p.1 T.ctx (n.banksOf p.2.1)
  let st := placeStack banks (((n.images[p.2.1]?).map (·.stack)).getD 0)
  let i := crewOrdinal n.crewMask (p.1 / 8) * n.maxOf p.2.1 + p.2.2
  if st.2.1 < st.1 then some 0x0D
  else if n.padRingBad T p.2.1 banks then some 8
  else if (n.feetOf p.2.1 i st.1).any fun f => f.space == .pad && f.bad banks st.2.1.toNat st.2.2 then some 9
  else none

/-- A stage index that no pick fills, whose PAD bytes leave the banks that the context owns where the stage of its crew is placed (R178). -/
def State.unfilledBad (s : State) (ctx : Nat) (n : Node) (ps : List Pick) : Bool :=
  n.slots.any fun q =>
    let here := ps.filter fun p => p.2.1 == q.1 && p.1 / 8 == q.2.2
    !(here.any fun p => crewOrdinal n.crewMask (p.1 / 8) * n.maxOf p.2.1 + p.2.2 == q.2.1) &&
    here.any fun p =>
      let banks := s.bankMask p.1 ctx (n.banksOf p.2.1)
      (n.feetOf q.1 q.2.1 (lowBank banks * 0x8000)).any fun f => f.space == .pad && f.bad banks 0 0

/-- A ring object of a node written where its space is shared, once (R241). -/
def State.placeRing (s : State) (t n : Nat) (x : Node) (decl : Nat × Nat × Nat × Nat × Bool) (k core low : Nat) : State :=
  let sp := spaceOfNum decl.1
  let dom := spDom sp core
  let base := decl.2.2.2.1 + (if decl.1 = 1 then low else 0)
  if s.rings.any fun (r : RingObj) => r.space == decl.1 && r.dom == dom && r.base == base && r.table == t && r.node == n then s
  else
    let m := x.ringMasks k
    let hdr := padTo 0x80 (leBytes 1 decl.2.1 ++ leBytes 1 decl.2.2.1 ++ leBytes 1 (m.1.toNat + 16 * m.2.toNat))
    let s := s.putSpace sp dom base hdr
    { s with rings := s.rings ++ [{ space := decl.1, dom := dom, base := base, table := t, node := n, decl := true }] }

/-- The ring registers of a placed shift (R210, R241). -/
def ringRegs (x : Node) (decls : List (Nat × Nat × Nat × Nat × Bool)) (st low : Nat) : Vector Ring 16 :=
  (((x.images[st]?).map (·.rings)).getD []).foldl (fun v r =>
    match decls[r.ring]? with
    | none => v
    | some d =>
      let m := x.ringMasks r.ring
      v.setIfInBounds r.q { Ring.zero with v := true, space := d.1, prod := m.1, cons := m.2, log2sz := d.2.2.1,
                                           base := d.2.2.2.1 + (if d.1 = 1 then low else 0) }) (Vector.replicate 16 Ring.zero)

/-- A shift started on a core (R248, R241, R321). -/
def State.startShift (s : State) (t n : Nat) (T : GTable) (x : Node) (p : Pick) : State :=
  match x.images[p.2.1]?, (s.freeSlots p.1).head? with
  | some g, some slot =>
    let banks := s.bankMask p.1 T.ctx (x.banksOf p.2.1)
    let st := placeStack banks g.stack
    let i := crewOrdinal x.crewMask (p.1 / 8) * x.maxOf p.2.1 + p.2.2
    let feet := x.feetOf p.2.1 i st.1
    let decls := T.ringDecls x
    let s := (upto 0 decls.length).foldl (fun s k => match decls[k]? with
      | none => s
      | some d => if d.1 = 1 ∧ !g.rings.any (fun r => r.ring == k) then s else s.placeRing t n x d k p.1 st.1) s
    let r := startRegs g.img.base (BitVec.ofNat 72 x.fpbase) (w64 i) (w64 n) (w64 p.1) g.entry st.2.1.toNat st.2.2 g.chk
    let sh : Shift :=
      { Shift.zero with
        regs := r.1, sp := r.2, rings := ringRegs x decls p.2.1 st.1, img := { g.img with feet := feet },
        place := { core := p.1, ctx := T.ctx, table := t, node := n, stage := p.2.1, slot := slot, index := i, banks := banks,
                   mx := x.mxOf p.2.1, lkq := x.lkqOf p.2.1, serves := none, frame := 0, fpbase := BitVec.ofNat 72 x.fpbase } }
    let pl : Placed :=
      { core := p.1, slot := slot, stage := p.2.1, unum := p.2.2, index := i, banks := banks, mx := x.mxOf p.2.1, lkq := x.lkqOf p.2.1,
        feet := feet, halted := false, withdrawn := false, away := false, saved := [] }
    let s := { s with shifts := NMap.set s.shifts (8 * p.1 + slot) sh }
    let s := s.modCore p.1 fun c => { c with order := c.order ++ [slot] }
    s.modTable t fun T =>
      { T with nodes := match T.nodes[n]? with
          | none => T.nodes
          | some y => setAt T.nodes n { y with placed := y.placed ++ [pl] } }
  | _, _ => s

/-- Cores on which no shift issues give the next ready resident shift its turn (R21, R252). -/
def State.giveTurns (s : State) : State :=
  s.cores.foldl (fun s c =>
    match c.2.issuing with
    | some _ => s
    | none => match s.nextReady c.1 none with
      | none => s
      | some k => ((s.modCore c.1 fun x => { x with issuing := some k }).modSh (8 * c.1 + k) fun x =>
          { x with tim := { x.tim with turnUsed := 0 } }).prefetch c.1) s

/-- A READY node placed whole (R247, R248, R328): RUNNING, or FAILED where a shift of it cannot have its stack or a link store cannot be filled. -/
def State.placeNode (s : State) (t n : Nat) (T : GTable) (x : Node) (ps : List Pick) : State :=
  match (ps.findSome? (s.pickBad T x)).or (if s.unfilledBad T.ctx x ps then some 9 else none), s.nodeColl T x with
  | some e, _ | none, .error e => s.nodeFail t n e
  | none, .ok c =>
    let s := match c with
      | none => s
      | some c => (s.fillLinks (t, n) T.ctx c (crewsOf x.crewMask)).sawTenant T.ctx (((x.images[0]?).map fun (g : StageImg) => g.img.timg).getD 0)
    let s := s.setNode t n fun y => { y with state := 3 }
    let s := if nbits (x.d 0) 44 5 ≠ 0 then s.modTable t fun T =>
        { T with windows := NMap.set T.windows n s.dcc, samples := T.samples.filter fun a => a.node != n } else s
    (ps.foldl (fun s p => s.startShift t n T x p) s).giveTurns

/-- READY nodes in the order of a dispatch decision (R251). -/
def State.dispatchOrder (s : State) : List ReadyNode :=
  sortBy (fun a b =>
    let p := s.effPrio a.1 a.2.2
    let q := s.effPrio b.1 b.2.2
    decide (q < p) || (p == q && earlierReady a b)) (s.readyNodes.filter fun r => r.2.2.checked && !s.earlierUnchecked r)

/-- The state without a node's shifts and placements. -/
def State.without (s : State) (t n : Nat) : State :=
  { s with
    shifts := s.shifts.filter fun e => !(e.2.place.table == t && e.2.place.node == n),
    tables := s.tables.map fun T => if T.1 = t then (T.1, { T.2 with nodes := match T.2.nodes[n]? with
      | none => T.2.nodes
      | some y => setAt T.2.nodes n { y with placed := [] } }) else T }

/-- Whether the placement of a READY node needs a core on which a shift of another node stands (R251): its crew lacks a stage's MIN, and the core could
take a shift of some stage if that node's shifts were away. -/
def State.needsCore (s : State) (r : ReadyNode) (core t n : Nat) : Bool :=
  match s.table? r.1 with
  | none => false
  | some T =>
    let x := r.2.2
    let u := s.without t n
    nbit x.crewMask (core / 8) && (s.pickCrew T.ctx x (core / 8)).isNone && (upto 0 x.stages).any fun st =>
      !s.canTake core T.ctx (x.banksOf st) (x.mxOf st) (x.lkqOf st) && u.canTake core T.ctx (x.banksOf st) (x.mxOf st) (x.lkqOf st)

/-- The shifts of running nodes that a READY node outranks by PGAP, on cores that its placement needs (R251). DESIGN CHOICE (log 92): a RUNNING node counts
with its capped PRIO, without ageing. -/
def State.outranked (s : State) (r : ReadyNode) : List Nat :=
  if s.pgap = 0 then []
  else
    let p := s.effPrio r.1 r.2.2
    (s.shifts.filter fun e =>
      decide (e.1 % 8 < 4) && !e.2.pend.preempt && (s.core (e.1 / 8)).order.contains (e.1 % 4) &&
      (match s.node? e.2.place.table e.2.place.node with
        | none => false
        | some m => m.state == 3 && decide (s.effPrio e.2.place.table { m with ready := s.dcc } + s.pgap ≤ p)) &&
      s.needsCore r (e.1 / 8) e.2.place.table e.2.place.node).map (·.1)

/-- Whether nothing that runs on for a shift touches its PAD banks: its copies go on while it is not resident (R21), every other job of its engines ends first,
and no receive port of it is armed. -/
def State.padQuiet (s : State) (i : Nat) : Bool :=
  let own (k : Nat) : Bool := baseOf k == i
  let pad (f : Foot) : Bool := f.space == .pad
  !(s.jobs.any fun j => own j.sh && decide (j.state < 4) && (j.eng != 0 || j.reads.any pad || j.writes.any pad)) &&
    !(s.core (i / 8)).ports.any fun q => q.2.armed && own q.2.sh

/-- The placement of a shift changed. -/
def State.modPlaced (s : State) (i : Nat) (f : Placed → Placed) : State :=
  match s.sh? i with
  | none => s
  | some x => s.modTable x.place.table fun T =>
      { T with nodes := match T.nodes[x.place.node]? with
          | none => T.nodes
          | some n => setAt T.nodes x.place.node
              { n with placed := n.placed.map fun p => if p.core = i / 8 ∧ p.slot = i % 8 ∧ !p.withdrawn then f p else p } }

/-- The shifts that a pre-emption has taken out of the residency order of their cores (R251). -/
def State.switchedOut (s : State) : List Nat :=
  (s.shifts.filter fun e => decide (e.1 % 8 < 4) && !(s.core (e.1 / 8)).order.contains (e.1 % 8) && !e.2.pend.preempt).map (·.1)

/-- A switched-out shift that gives up its banks, with their bytes kept, its matrix unit and its line locks (R22, R207, R251; log 95). -/
def State.vacate (s : State) (i : Nat) : State :=
  match s.placedOf i with
  | none => s
  | some p =>
    if p.away || !s.padQuiet i then s
    else
      let bs := ((upto 0 32).filter fun b => p.banks.getLsbD b).map fun b => (b, s.pad.bytes (padKey (i / 8) (0x8000 * b)) 0x8000)
      let s := s.modPlaced i fun p => { p with away := true, saved := bs }
      match s.sh? i with
      | none => s
      | some x => s.modCore (i / 8) fun c => { c with locks := c.locks.filter fun l => l.1 != x.place.ctx }

/-- A switched-out shift resident again, with the bytes of its banks (R251; log 95). -/
def State.backIn (s : State) (i : Nat) : State :=
  match s.placedOf i with
  | none => s
  | some p =>
    let s := { s with pad := p.saved.foldl (fun (m : Mem) (b : Nat × List Byte) => m.put (padKey (i / 8) (0x8000 * b.1)) b.2) s.pad }
    (s.modPlaced i fun p => { p with away := false, saved := [] }).modCore (i / 8) fun c => { c with order := c.order ++ [i % 8] }

/-- Whether a switched-out shift may be resident again: its core has room for it, and no READY node would ask for its pre-emption once more (R251; log 95). -/
def State.mayReturn (s : State) (i : Nat) : Bool :=
  match s.placedOf i, s.sh? i with
  | some p, some x =>
    let here := s.holding (i / 8)
    let t := s.backIn i
    (s.ctx x.place.ctx).frzState == 0 && (!p.away || (decide ((s.core (i / 8)).order.length < 4) &&
      (upto 0 32).all (fun b => !p.banks.getLsbD b || (s.freeBanks (i / 8) x.place.ctx).contains b) && !(p.mx && here.any fun q => q.2.mx) &&
      decide (p.lkq + (here.map fun q => q.2.lkq).foldl (· + ·) 0 ≤ lockCap))) &&
    !(t.readyNodes.any fun r => (t.outranked r).contains i)
  | _, _ => false

/-- The nodes that a READY node must still wait for, where a node that conflicts with it was checked after it (R181). -/
def State.lateClash (s : State) (r : ReadyNode) : List (Nat × Nat) :=
  match s.table? r.1 with
  | none => []
  | some T => s.earlierClash r T.ctx

/-- One dispatch decision (R247, R251): each READY node in order is placed where it can be; one that conflicts with an earlier node waits for it, and one
that cannot be placed asks for the pre-emption of the shifts that it outranks. -/
def State.decision (s : State) : State :=
  s.dispatchOrder.foldl (fun s r =>
    match s.table? r.1, s.node? r.1 r.2.1 with
    | some T, some x =>
      if x.state ≠ 2 then s
      else match s.lateClash (r.1, r.2.1, x), s.plan T x with
        | e :: es, _ => s.waitFor r.1 r.2.1 { x with checked := false } (e :: es)
        | [], some ps => s.placeNode r.1 r.2.1 T x ps
        | [], none => (s.outranked r).foldl (fun s i => s.modSh i fun y => { y with pend := { y.pend with preempt := true } }) s
    | _, _ => s) s

/-- The switched-out shifts that may be resident again, after the READY nodes of a decision (R251). -/
def State.returns (s : State) : State := (s.switchedOut.foldl (fun (s : State) i => if s.mayReturn i then s.backIn i else s) s).giveTurns

/-- Whether a dispatch decision would change anything. -/
def State.decisionDue (s : State) : Bool :=
  (s.dispatchOrder.any fun r =>
    match s.table? r.1 with
    | none => false
    | some T => !(s.lateClash r).isEmpty || (s.plan T r.2.2).isSome || !(s.outranked r).isEmpty) || s.switchedOut.any s.mayReturn

/-- DISPATCH_DECISION (R247, R251). -/
def execDispatchDecision (s : State) : Out := .next (if s.switchedOut.isEmpty then s.decision else s.decision.returns)

/-! ## COND nodes and completion -/

/-- The condition of a COND node (Table 6.4). -/
def condCode (cc : Nat) (a b : Word) : Bool :=
  match cc with
  | 0 => a == b | 1 => a != b | 2 => decide (a.toInt < b.toInt) | 3 => decide (b.toInt ≤ a.toInt) | 4 => decide (a.toNat < b.toNat)
  | _ => decide (b.toNat ≤ a.toNat)

/-- Whether a line of the n bytes at a virtual address holds a pending version, under which a write of the part waits (R222). -/
def State.virtPend (s : State) (ctx va : Nat) : Bool :=
  match s.translate partUnit ctx (va % 2 ^ 72) true false with
  | .error _ => false
  | .ok e => match (s.line ((e.pa + (va % 2 ^ 72 - e.va)) / 128)).side with
    | some d => d.pending
    | none => false

/-- The signal of a node written, as a release at `.sys` (R253); none where its address cannot be written. -/
def State.signal (s : State) (T : GTable) (n : Node) : Option State :=
  if n.sigaddr = 0 then some s
  else (s.virtPut partUnit T.ctx n.sigaddr (leBytes 8 (n.d 6))).toOption

/-- Successors decremented in list order (R242). -/
def State.decrementAll (s : State) (t : Nat) (l : List Nat) : State := l.foldl (fun s n => s.decrement t n) s

/-- A node completed (R253): its signal, DONE, its cores and rings given back, its successors decremented, its added edges removed. -/
def State.completeNode (s : State) (t n : Nat) (T : GTable) (x : Node) (succs : List Nat) : State :=
  match s.signal T x with
  | none => s.nodeFail t n 0x0F
  | some s =>
    let s := (s.setNode t n fun x => { x with state := 4, status := 0 }).releaseNode t n
    ((s.decrementAll t succs).dropEdges t n).launchFinish t

/-- The re-arming of the nodes of a COND's range (R244, R243). -/
def State.rearm (s : State) (t : Nat) (l : List Nat) : State :=
  l.foldl (fun s n =>
    let s := s.modTable t fun T => { T with edges := T.edges.filter fun e => e.2.2 != n }
    s.setNode t n fun x => { x with state := 1, pred := nbits (x.d 0) 0 16 }) s

/-- COND_EVALUATE (R244): a READY COND node reads its condition and loops or exits. DESIGN CHOICE: a CC code of 110 or 111 fails the node with BADNODE
(log 90), and a node that loops while it lies outside its own range becomes DONE with status 0 (log 91). -/
def execCondEvaluate (t n : Nat) (s : State) : Out :=
  match s.table? t, s.node? t n with
  | some T, some x =>
    let lo := nbits (x.d 10) 16 16
    let hi := nbits (x.d 10) 32 16
    let range := upto lo (hi + 1 - lo)
    if x.state ≠ 2 ∨ x.kind ≠ 1 ∨ (s.ctx T.ctx).frzState ≠ 0 then .next s
    else if nbits (x.d 10) 0 3 > 5 ∨ hi < lo ∨ T.nodes.length ≤ hi then .next (s.nodeFail t n 0x0B)
    else match s.virtBytes partUnit T.ctx x.condaddr 8 false with
      | .error _ => .next (s.nodeFail t n 0x0F)
      | .ok bs =>
        let s := s.touchVirt partUnit T.ctx x.condaddr 8 false
        let iter := (x.iter + 1) % 65536
        let cap := nbits (x.d 10) 48 16
        if condCode (nbits (x.d 10) 0 3) (w64 (ofLE bs)) (w64 (x.d 9)) ∧ (cap = 0 ∨ iter < cap) then
          if range.any fun j => j != n && (match s.node? t j with | some y => y.state == 2 || y.state == 3 | none => false) then
            .next ((s.setNode t n fun x => { x with iter := iter }).nodeFail t n 0x0E)
          else
            let s := s.setNode t n fun x => { x with iter := iter, state := 4, status := 0 }
            let s := (s.rearm t range).decrementAll t (T.succs x)
            .next (s.launchFinish t)
        else .next ((s.setNode t n fun x => { x with iter := 0 }).completeNode t n T { x with iter := 0 } (T.exits x))
  | _, _ => .next s

/-- Whether every access of a node's shifts, whose halt lines are all raised, and of their handlers has been performed (R187, R254). -/
def State.nodeQuiet (s : State) (t n : Nat) : Bool := !s.straying fun place => place == nodePlace t n

/-- Whether a node completes now: a JOIN that is READY, or a RUNNING node whose every halt line is raised (R244, R253); its signal waits under a
pending version (R222). -/
def State.completeReady (s : State) (t n : Nat) (T : GTable) (x : Node) : Bool :=
  (s.ctx T.ctx).frzState == 0 && !(x.sigaddr != 0 && s.virtPend T.ctx x.sigaddr) &&
    ((x.kind == 2 && x.state == 2) || (x.kind == 0 && x.state == 3 && x.allHalted && s.nodeQuiet t n))

/-- NODE_COMPLETE (R253). -/
def execNodeComplete (t n : Nat) (s : State) : Out :=
  match s.table? t, s.node? t n with
  | some T, some x => .next (if s.completeReady t n T x then s.completeNode t n T x (T.succs x) else s)
  | _, _ => .next s

/-! ## Rebalancing (R249, R250) -/

/-- Whether a ring is full (no EMPTY slot) and starved (no FULL slot) at its home. -/
def State.ringLevels (s : State) (r : RingObj) : Bool × Bool :=
  let m := s.spaceMem (spaceOfNum r.space) r.dom
  let st := (upto 0 (m.1.ringSlots (m.2 + r.base))).map fun k => (m.1.get (m.2 + r.base + 0x40 + k)).toNat % 4
  (!st.contains 0, !st.contains 2)

/-- One cycle's sample of every declared ring of the nodes that rebalance (R249). -/
def State.sampleRings (s : State) : State :=
  if s.tables.all fun t => t.2.windows.isEmpty then s
  else
    { s with tables := s.tables.map fun t =>
        let now := (s.rings.filter fun (r : RingObj) => r.decl && r.table == t.1 && (NMap.get? t.2.windows r.node).isSome).map fun r =>
          let l := s.ringLevels r
          let old := (t.2.samples.find? fun a => a.node == r.node && a.space == r.space && a.dom == r.dom && a.base == r.base)
          let c := match old with | some a => (a.full, a.starved) | none => (0, 0)
          ({ node := r.node, space := r.space, dom := r.dom, base := r.base, full := c.1 + bnat l.1, starved := c.2 + bnat l.2 } : Sample)
        (t.1, { t.2 with samples := now }) }

/-- The lowest stage of a mask. -/
def lowStage (m : Nat) : Nat := ((upto 0 4).find? fun k => nbit m k).getD 0

/-- Whether a ring is seen from a crew: its own core's, crew's or die's. -/
def Sample.inCrew (a : Sample) (crew : Nat) : Bool :=
  match a.space with
  | 1 => a.dom / 8 == crew
  | 2 => a.dom == crew
  | _ => a.dom == crew / 8

/-- Whether a pair of rings moves a core in a crew: both PAD or CREW rings of the crew, or a CHIP ring and any ring of its die. -/
def Sample.pairIn (a b : Sample) (crew : Nat) : Bool :=
  let onDie (r : Sample) : Bool := match r.space with
    | 1 => r.dom / 64 == crew / 8
    | 2 => r.dom / 8 == crew / 8
    | _ => r.dom == crew / 8
  if a.space ≠ 3 ∧ b.space ≠ 3 then a.inCrew crew && b.inCrew crew else onDie a && onDie b

/-- The masks of a ring as its object holds them: byte 2 of its header. -/
def State.sampleMasks (s : State) (a : Sample) : Nat × Nat :=
  let m := s.spaceMem (spaceOfNum a.space) a.dom
  let v := (m.1.get (m.2 + a.base + 2)).toNat
  (v % 16, v / 16)

/-- The stages (A, B) of the move of a crew at the end of a window, the pair with the lowest A and then the lowest B. -/
def State.moveOf (s : State) (T : GTable) (n : Nat) (x : Node) (crew : Nat) : Option (Nat × Nat) :=
  let w := 2 ^ nbits (x.d 0) 44 5
  let rs := T.samples.filter fun a => a.node == n
  let live (st : Nat) : Nat := (x.placed.filter fun p => p.core / 8 == crew && p.stage == st && !p.halted).length
  let pairs := rs.flatMap fun a => rs.filterMap fun b =>
    let p := (lowStage (s.sampleMasks a).1, lowStage (s.sampleMasks b).2)
    if 7 * w ≤ 8 * a.full ∧ 7 * w ≤ 8 * b.starved ∧ a.pairIn b crew ∧ p.1 ≠ p.2 ∧ x.minOf p.1 < live p.1 ∧ live p.2 < x.maxOf p.2 then some p else none
  (sortBy (fun (p q : Nat × Nat) => decide (p.1 < q.1) || (p.1 == q.1 && decide (p.2 < q.2))) pairs).head?

/-- Whether a node's window has ended. -/
def State.windowOver (s : State) (T : GTable) (n : Nat) (x : Node) : Bool :=
  match NMap.get? T.windows n with
  | none => false
  | some w => x.state == 3 && decide (w + 2 ^ nbits (x.d 0) 44 5 ≤ s.dcc)

/-- REBALANCE_WINDOW_END (R249, R250): the moves of the window that ended; a move of the window before it that has not happened is cancelled. -/
def execRebalanceWindowEnd (t n : Nat) (s : State) : Out :=
  match s.table? t, s.node? t n with
  | some T, some x =>
    if !s.windowOver T n x ∨ (s.ctx T.ctx).frzState ≠ 0 then .next s
    else
      let moves := (crewsOf x.crewMask).filterMap fun c =>
        match s.moveOf T n x c with
        | none => none
        | some (a, b) =>
          let cand := x.placed.filter fun p => p.core / 8 == c && p.stage == a && !p.halted
          (sortBy (fun (p q : Placed) => decide (q.unum < p.unum)) cand).head?.map fun p =>
            ({ crew := c, fromStage := a, toStage := b, until_ := s.dcc + 2 ^ nbits (x.d 0) 44 5, sh := 8 * p.core + p.slot } : Move2)
      .next (s.modTable t fun T =>
        { T with
          samples := T.samples.filter fun a => a.node != n, windows := NMap.set T.windows n s.dcc,
          moves := (T.moves.filter fun m => match s.sh? m.sh with
            | some y => y.place.node != n
            | none => false) ++ moves })
  | _, _ => .next s

/-- The move that withdraws a shift, where one is pending and its context is live (R427). -/
def State.moveFor (s : State) (i : Nat) (x : Shift) : Option Move2 :=
  if (s.ctx x.place.ctx).frzState ≠ 0 then none else (s.table? x.place.table).bind fun T => T.moves.find? fun m => m.sh == i

/-- A shift withdrawn at a safe point (R250): it counts as halted, its core is free, and a shift of stage B starts on it under R248; the node fails where
that shift cannot have its stack, its footprints or its rings there. -/
def State.withdraw (s : State) (i : Nat) (x : Shift) (m : Move2) : State :=
  let t := x.place.table
  let n := x.place.node
  let s := (s.detach fun j => j == i).modTable t fun T => { T with moves := T.moves.filter fun k => k.sh != i }
  let s := s.raiseHalt i
  let s := s.modTable t fun T =>
    { T with nodes := match T.nodes[n]? with
        | none => T.nodes
        | some y => setAt T.nodes n
            { y with placed := y.placed.map fun p => if p.core = x.place.core ∧ p.slot = x.place.slot ∧ !p.withdrawn then { p with withdrawn := true } else p } }
  match s.table? t, s.node? t n with
  | some T, some y =>
    let used := (y.placed.filter fun p => p.core / 8 == m.crew && p.stage == m.toStage && !p.halted).map (·.unum)
    let u := ((upto 0 8).find? fun k => !used.contains k).getD 0
    if s.canTake x.place.core T.ctx (y.banksOf m.toStage) (y.mxOf m.toStage) (y.lkqOf m.toStage) then
      match s.pickBad T y (x.place.core, m.toStage, u) with
      | some e => (s.nodeFail t n e).giveTurns
      | none => (s.startShift t n T y (x.place.core, m.toStage, u)).giveTurns
    else s.giveTurns
  | _, _ => s.giveTurns

end Sys2Proof.Machine
end

