-- ==== Sys2Proof/Machine/Barriers.lean ====
section
/-!
DEFINITION. WAITGE (R205) and the barrier instructions (R215 to R219): their checks at issue, and what they ask of the home of the sector.
-/
namespace Sys2Proof.Machine

/-- The check of a barrier instruction: 32 bytes, aligned on 32, at its scope (R195, R215). -/
def State.barCheck (s : State) (k : Acc) (sc : Scope) (m : MemB) : Verdict := s.issueAccess k sc m.sp (s.x.eaB m) 32 32

/-- BARINIT and BARINIT.FORCE (R216). -/
def execBarinit (force : Bool) (sc : Scope) (sd : SNum) (m : MemB) (sn : SNum) (s : State) : Out :=
  atIssue (fun s => s.tableCheck .barRmw m.sp (s.x.eaB m) (s.barCheck .barRmw sc m)) (fun s => s.send .barRmw m.sp (s.x.eaB m) (.barinit force (s.rs sn)) true true (some sd)) s

/-- BARARR (R217). -/
def execBararr (sc : Scope) (sd : SNum) (m : MemB) (s : State) : Out :=
  atIssue (fun s => s.tableCheck .barRmw m.sp (s.x.eaB m) (s.barCheck .barRmw sc m)) (fun s => s.send .barRmw m.sp (s.x.eaB m) .bararr true true (some sd)) s

/-- A first look at a home that misses its key counted (R351). -/
def State.lookMiss (s : State) (h : Home) (n : Nat) (fn : Option Nat) (first : Bool) : State :=
  if first && (s.homeRead h n).2.2 then s.kmiss fn else s

/-- A wait of the executing shift that begins at a home (R193): held while an earlier access of its shift to the sector or an earlier release is pending
(R187); it ends by the home's answer, at once where `now` says so or the line is poisoned. A home in another package answers over the fabric. -/
def State.waitAt (s : State) (h : Home) (n : Nat) (why : WaitFor) (ea : Int) (now : Bool) : Verdict :=
  if s.sectorPending s.me h.sector || s.syncPending s.me then .hold s
  else match h with
    | .fab _ _ _ => .hold ((s.addWaiter s.me 0 why).request h (.read n false) true false none ea)
    | _ =>
      match s.seeQuiet s.me h with
      | some t => .hold t
      | none => if now || (s.ownRead s.me h n).2.1 then .go
        else .hold ((s.lookMiss h n (s.deviceOf s.x.place.ctx) (s.waiter? s.me 0).isNone).addWaiter s.me 0 why)

/-- The end of a wait: the answer that its waiter holds, or that the home gives now (R33, R364). -/
def State.endWait (s : State) (h : Home) (n : Nat) (sd : SNum) (ea : Int) (now : Word) : State :=
  match s.waiter? s.me 0 with
  | some w =>
    let at_ := match w.why with | .ge a _ _ _ => a | .bar a _ => a | _ => h
    (s.sawQuiet s.me at_).replyWait sd (w.answer.getD 0)
  | none =>
    let r := s.ownRead s.me h n
    let s := (if r.2.2 then s.kmiss (s.deviceOf s.x.place.ctx) else s).sawQuiet s.me h
    (s.modX fun x => x.markS sd).answer (some s.me) (some sd) (a72i ea) { val := now, flags := 0, bad := r.2.1 }

/-- WAITGE (R205): an acquire read that waits at its home until the value passes. -/
def execWaitge (dword signed : Bool) (sc : Scope) (sd : SNum) (m : MemB) (sb : SNum) (s : State) : Out :=
  let n := dwBytes dword
  atIssue
    (fun s => s.whileWaiting <|
      match s.issueAccess .acq sc m.sp (s.x.eaB m) n n with
      | .go =>
        let h := (s.resolve .acq m.sp 0 (s.x.eaB m)).1
        s.waitAt h n (.ge h dword signed (s.rs sb)) (s.x.eaB m) (gePasses dword signed (s.geValue s.me h dword) (s.rs sb))
      | v => v)
    (fun s => let r := s.resolve .acq m.sp 0 (s.x.eaB m); r.2.endWait r.1 n sd (s.x.eaB m) (s.geValue s.me r.1 dword)) s

/-- The status of a BARWAIT that does not wait (R218): NOTREADY, or OK where the generation differs. -/
def State.barNow (s : State) (h : Home) (gen : Nat) : Option Word :=
  let g := s.barWord h 2
  if s.barWord h 3 ≠ 1 then some (barStatus g 4) else if g ≠ gen then some (barStatus g 0) else none

/-- BARWAIT (R218). -/
def execBarwait (sc : Scope) (sd : SNum) (m : MemB) (sg : SNum) (s : State) : Out :=
  atIssue
    (fun s => s.whileWaiting <|
      match s.barCheck .barAcq sc m with
      | .go =>
        let h := (s.resolve .acq m.sp 0 (s.x.eaB m)).1
        s.waitAt h 32 (.bar h (BitVec.ofNat 32 (wbits (s.rs sg) 0 32))) (s.x.eaB m) (s.barNow h (wbits (s.rs sg) 0 32)).isSome
      | v => v)
    (fun s =>
      let r := s.resolve .acq m.sp 0 (s.x.eaB m)
      r.2.endWait r.1 32 sd (s.x.eaB m) ((s.barNow r.1 (wbits (s.rs sg) 0 32)).getD 0)) s

end Sys2Proof.Machine
end

