-- ==== Sys2Proof/Machine/Bundles.lean ====
section
/-!
DEFINITION. Bundles (chapter 11): BOPEN, BST, BSEAL, BABORT, VIEWB and VIEWE, the home line of Table 11.4, the anchor, and repair. Messages to
homes and anchors of other packages leave this package (log 71), and what those answer is an event from outside (log 11).
-/
namespace Sys2Proof.Machine

/-- A bundle status word (R226). -/
def bunStatus (name version code : Nat) : Word := w64 (fields [(44, name % 2 ^ 20), (32, version % 4096), (0, code)])

/-! ## The anchor -/

/-- The manifest's dword 0 (Table 11.1). -/
def manDword (name version count st ipkg icore : Nat) : Nat :=
  fields [(44, name % 2 ^ 20), (32, version % 4096), (28, count % 16), (25, st), (8, ipkg % 4096), (0, icore % 256)]

/-- The outcome of BOPEN at its anchor (R227), of a manifest whose dword 0 reads d: the status that leaves it unchanged, or none where it opens. -/
def openRefused (d name opens : Nat) : Option Word :=
  if manState d ≠ 0 ∧ manName d ≠ name then some (bunStatus (manName d) (manVersion d) 0x0F)
  else if manState d = 1 then some (bunStatus (manName d) (manVersion d) 1)
  else if 256 ≤ opens then some (bunStatus (manName d) (manVersion d) 9)
  else none

/-- Whether BOPEN waits at its anchor (R227). -/
def openWaits (d name : Nat) : Bool := manState d == 2 && manName d == name

/-- The manifest of a bundle that opens (R227). -/
def State.anchorOpen (s : State) (pa key d name ipkg icore : Nat) : State :=
  s.poke pa (leBytes 8 (manDword name ((manVersion d + 1) % 4096) 0 1 ipkg icore) ++ zeros 120) (some key)

/-- The member lines of a manifest. -/
def State.membersOf (s : State) (line : Nat) : List Nat := (upto 0 (nbits (s.manifest line) 28 4)).map fun k => s.partDword (line * 128 + 8 * (k + 1)) / 128

/-- The commit at the anchor (R229): COMMITTED with its members and the manifest's pennant; a bundle without members settles at once. None where the version
is no longer OPEN. -/
def State.anchorCommit (s : State) (line name version : Nat) (members : List Nat) : Option State :=
  let d := s.manifest line
  let n := members.length
  if manState d = 1 ∧ manName d = name ∧ manVersion d = version then
    let d' := manDword name version n (if n = 0 then 3 else 2) (nbits d 8 12) (nbits d 0 8)
    let t := s.poke (line * 128) (leBytes 8 d' ++ members.flatMap fun m => leBytes 8 (lineAddr m)) none
    let t := t.modLine line fun l => { l with pennant := some { name := name, version := version, index := 15, count := n, anchor := s.fabLine line } }
    some { t with acks := t.acks.filter fun a => a.1 != s.fabLine line }
  else none

/-- The seals of a committed bundle on their way from its issuer to every member home (R229). -/
def State.sendSeals (s : State) (b : Bundle) : State :=
  { s with msgs := s.msgs ++ b.members.map fun m => .seal m b.name b.version b.members.length b.manifest }

/-! ## The home line (Table 11.4) -/

/-- The home slice of a line: die and slice (R401, R406). -/
def State.sliceOf (s : State) (line : Nat) : Nat × Nat :=
  let pa := line * 128
  let adit := if deviceBase 0 ≤ pa then pa / 2 ^ 47 - 64 else (s.windowOf pa).getD 0
  (if pa < stackedEnd then (if s.mg.dil.getLsbD (nbits pa 36 4) then nbits pa 34 2 else nbits pa 14 2) else adit / 9, nbits pa 7 5)

/-- Side entries in use at a line's slice. -/
def State.sideUsed (s : State) (line : Nat) : Nat :=
  (s.lines.filter fun e => e.2.side.isSome && s.sliceOf e.1 == s.sliceOf line).length

/-- The side entry of a line freed. -/
def State.freeSide (s : State) (line : Nat) : State := s.modLine line fun l => { l with side := none }

/-- A pending version discarded (Table 11.4). -/
def State.discardAt (s : State) (line name version : Nat) : State := s.discardSide line name version

/-- Bytes put into a list of bytes at an offset. -/
def putAt (l : List Byte) (off : Nat) (bs : List Byte) : List Byte := l.take off ++ bs ++ l.drop (off + bs.length)

/-- A BST taken at its home line (R228, R233), or none where it waits; `fn` is the device that counts a key miss. -/
def State.bstAt (s : State) (line : Nat) (b : BunAct) (key : Nat) (fn : Option Nat) : State ⊕ Unit :=
  let pa := line * 128
  let l := s.line line
  if s.drops pa key then .inl ((s.deadKey (.glob pa key) fn).poke (pa + b.off) b.data (some key))
  else if s.collapsing pa then .inr ()
  else
    let fresh (t : State) : State :=
      let cur := s.peek pa 128 (some key)
      let keep := if key = l.tag then l.poison else 0
      let e : Side :=
        { pending := true, name := b.name, version := b.version, index := b.index, anchor := b.anchor, key := key,
          data := putAt cur.1 b.off b.data, poison := keep &&& ~~~byteMask b.off b.data.length, pennant := none, since := s.dcc,
          settled := none }
      t.modLine line fun l => { l with side := some e }
    match l.side with
    | none => if s.sideUsed line < 2048 then .inl (fresh s) else .inr ()
    | some e =>
      if !e.pending then .inl (fresh s)
      else if e.name = b.name ∧ e.version = b.version then
        .inl (s.modLine line fun l =>
          { l with side := some { e with data := putAt e.data b.off b.data, poison := e.poison &&& ~~~byteMask b.off b.data.length } })
      else .inr ()

/-! ## The instructions -/

/-- Open bundles of a context. -/
def State.openCount (s : State) (ctx : Nat) : Nat := NMap.getD s.opens ctx 0

/-- A bundle of the executing shift opened (R227). -/
def State.bundleOpened (s : State) (fl name version key : Nat) : State :=
  let p := s.x.place
  let t := s.modX fun x =>
    { x with bundle := { Bundle.zero with v := true, version := version, name := name, manifest := fl, key := key } }
  { t with opens := NMap.put t.opens p.ctx 0 (t.openCount p.ctx + 1) }

/-- The open bundle of the executing shift closed. -/
def State.bundleClosed (s : State) : State := (s.closeOpen s.x.place.ctx).modX fun x => { x with bundle := Bundle.zero }

/-- Whether a read-modify-write or release must still wait for the shift's earlier accesses (R187). -/
def State.earlierAccess (s : State) : Bool := s.accessPending s.me || s.x.localDue s.x.tim.seq

/-- The place of the node of the executing shift, for the anchor of a manifest in another package. -/
def State.myNodePlace (s : State) : Nat := nodePlace s.x.place.table s.x.place.node

/-- What BOPEN asks of an anchor of another package (R227): who opens, and whether its context already holds 256 open bundles. -/
def State.openAct (s : State) (fl : Nat) (name : Nat) : BunAct :=
  { bunTo 0 fl name s.myNodePlace with index := s.myCore, count := s.mg.idpkg, off := bnat (decide (256 ≤ s.openCount s.x.place.ctx)) }

/-- The key of a home in GLOB. -/
def Home.key (h : Home) : Nat :=
  match h with
  | .glob _ k => k
  | .fab _ _ k => k
  | _ => 0

/-- The fabric line number of the anchor in another package at which the executing shift waits. -/
def State.farAnchor (s : State) : Option Nat :=
  match s.waiter? s.me 0 with
  | none => none
  | some w =>
    match w.why with
    | .anchor line => if linePkg line ≠ s.mg.idpkg then some line else none
    | _ => none

/-- Whether a message about the opening of a bundle is still on its way to an anchor of another package: an open of the executing shift that nobody waits for any
more, or its abort (log 71). -/
def State.openAway (s : State) (fl : Nat) : Bool :=
  s.fab.ops.any fun o => o.line == fl && match o.act with
    | .bun b => (b.kind == 0 && o.sh == some s.me) || b.kind == 3
    | _ => false

/-- Whether the answer of an anchor of another package that the executing shift waits for is BQUOTA, though its context holds fewer than 256 open bundles by
now (R227). -/
def State.quotaGone (s : State) : Bool :=
  s.farAnchor.isSome && (((s.waiter? s.me 0).bind (·.answer)).map fun w => wbits w 0 8) == some 9 && decide (s.openCount s.x.place.ctx < 256)

/-- A manifest listed for the node of the executing shift from its first BOPEN on (R223), by its fabric line number. -/
def State.listManifest (s : State) (fl : Nat) : State :=
  if s.isManifest fl then s else { s with manifests := s.manifests ++ [(fl, s.x.place.table, s.x.place.node)] }

/-- What the answer of an anchor of another package leaves of an open (R227): the bundle open, or, where the context has come to hold 256, aborted there with
BQUOTA. -/
def State.farOpened (s : State) (sd : SNum) (fl name key : Nat) : State :=
  let w := ((s.waiter? s.me 0).bind (·.answer)).getD 0
  let v := wbits w 32 12
  if wbits w 0 8 ≠ 0 ∨ ((s.waiter? s.me 0).bind (·.bad)).isSome then s.replyWait sd w
  else if 256 ≤ s.openCount s.x.place.ctx then
    (s.sendBun none (linePkg fl) (bunTo 3 fl name v)).replyWait sd (bunStatus name ((v + 4095) % 4096) 9)
  else ((s.listManifest fl).bundleOpened fl name v key).replyWait sd w

/-- BOPEN (R227). -/
def execBopen (sd : SNum) (m : MemB) (sn : SNum) (s : State) : Out :=
  atIssue
    (fun s =>
      let ea := s.x.eaB m
      let name := wbits (s.rs sn) 0 20
      if s.quotaGone then .hold (s.dropWaiter s.me 0)
      else if s.farAnchor.isSome then s.whileWaiting .go
      else if ea % 128 ≠ 0 then .fault (alignFault 0 ea)
      else if s.x.bundle.v then .fault (memFault 0 6 ea)
      else match s.checkAccess s.me s.x 0 0 .rmw .sys false false true m.sp ea 128 with
        | .error f => .fault f
        | .ok t =>
          if (s.earlierAccess ∧ (s.waiter? s.me 0).isNone) ∨ s.accessWaits t ea true then .hold s
          else
            let h := (s.resolve .rmw m.sp 0 ea).1
            let w := WaitFor.anchor (s.lineNum h)
            match h with
            | .fab _ _ _ => if s.openAway (s.lineNum h) then .hold s else .hold ((s.addWaiter s.me 0 w).request h (.bst (s.openAct (s.lineNum h) name)) true true none ea)
            | _ =>
              let mine := match s.waiters.find? fun u => u.why == w with | none => true | some u => u.sh == s.me && u.unit == 0
              if openWaits (ofLE (s.homeRead h 8).1) name || !mine then .hold (s.addWaiter s.me 0 w) else .go)
    (fun s =>
      let ea := s.x.eaB m
      let name := wbits (s.rs sn) 0 20
      let r := s.resolve .rmw m.sp 0 ea
      match s.farAnchor, r.1 with
      | some fl, h => r.2.farOpened sd fl name h.key
      | none, .glob pa key =>
        let d0 := r.2.homeRead r.1 8
        let t := if d0.2.2 then r.2.kmiss (s.deviceOf s.x.place.ctx) else r.2
        let t := t.dropWaiter s.me 0
        let d := ofLE d0.1
        if d0.2.1 then (t.modX fun x => x.markS sd).answer (some s.me) (some sd) (a72i ea) { val := 0, flags := 0, bad := true }
        else match openRefused d name (s.openCount s.x.place.ctx) with
          | some w => t.reply sd w
          | none =>
            let v := (manVersion d + 1) % 4096
            let fl := s.lineNum r.1
            (((t.anchorOpen pa key d name s.mg.idpkg s.myCore).listManifest fl).bundleOpened fl name v key).reply sd (bunStatus name v 0)
      | none, _ => s) s

/-- BST (R228): its bytes sent to the home of the line; the first to a line makes it a member. -/
def execBst (sz : Size) (sb : SNum) (m : MemX) (s : State) : Out :=
  let n := sizeBytes sz
  atIssue
    (fun s =>
      let ea := s.x.eaX m
      if ea % (n : Int) ≠ 0 then .fault (alignFault 0 ea)
      else if !s.x.bundle.v then .fault (memFault 0 6 ea)
      else match s.checkAccess s.me s.x 0 0 .rel .sys false false true m.sp ea n with
        | .error f => .fault f
        | .ok _ => .go)
    (fun s =>
      let ea := s.x.eaX m
      let r := s.resolve .rel m.sp 0 ea
      let fl := s.lineNum r.1
      let b := s.x.bundle
      let known := b.members.contains fl
      if !known ∧ 15 ≤ b.members.length then r.2.modX fun x => { x with bundle := { x.bundle with full := true } }
      else
        let t := if known then r.2 else r.2.modX fun x =>
          { x with bundle := { x.bundle with members := x.bundle.members ++ [fl], vas := x.bundle.vas ++ [ea.toNat / 128 * 128] } }
        let k := ((upto 0 15).find? fun j => t.x.bundle.members[j]? == some fl).getD 0
        let off := match r.1 with | .glob pa _ => pa % 128 | .fab _ pa _ => pa % 128 | _ => 0
        t.request r.1 (.bst { bunTo 1 fl b.name b.version with index := k, anchor := b.manifest, off := off, data := leBytes n (s.rs sb).toNat })
          false false none ea) s

/-- The scope that a BSEAL needs: the widest that a byte of a member line requires (R229, R182). -/
def State.sealScope (s : State) (x : Shift) : Nat :=
  let b := x.bundle
  ((b.vas.zip b.members).flatMap fun p => (upto 0 128).map fun (k : Nat) =>
    let a : Int := ((p.1 + k : Nat) : Int)
    if (x.modesAt .glob a).contains 2 then s.requiredScope x.place.ctx .glob x.place.core a (linePkg p.2 != s.mg.idpkg) else 0).foldl max 0

/-- The commit of the executing shift's bundle asked of an anchor of another package (R229), whose answer ends a wait. -/
def State.askCommit (s : State) (b : Bundle) : State :=
  (s.addWaiter s.me 0 (.anchor b.manifest)).sendBun (some s.me) (linePkg b.manifest)
    { bunTo 2 b.manifest b.name b.version with count := b.members.length, data := b.members.flatMap fun m => leBytes 8 (lineAddr m) }

/-- BSEAL (R229). Without an open bundle NAME and VERSION of its status read 0 (log 38). -/
def execBseal (sc : Scope) (sd : SNum) (s : State) : Out :=
  atIssue
    (fun s =>
      let b := s.x.bundle
      if !b.v then .go
      else if s.farAnchor.isSome then s.whileWaiting .go
      else if scRank sc < s.sealScope s.x then .fault (memFault 0 5 0)
      else if s.bstPending s.me ∨ s.earlierAccess then .hold s
      else if linePkg b.manifest = s.mg.idpkg ∨ b.full then .go
      else .hold (s.askCommit b))
    (fun s =>
      let b := s.x.bundle
      if !b.v then s.reply sd (bunStatus 0 0 0x0E)
      else if b.full then (s.giveUp b).bundleClosed.reply sd (bunStatus b.name b.version 0x0D)
      else if linePkg b.manifest ≠ s.mg.idpkg then
        let w := ((s.waiter? s.me 0).bind (·.answer)).getD 0
        let bad := ((s.waiter? s.me 0).bind (·.bad)).isSome
        -- where the commit's own message is lost, the homes resolve their pending versions at the anchor (R231)
        (if bad then s else if wbits w 0 8 = 0 then s.sendSeals b else s.sendDiscards b).bundleClosed.replyWait sd w
      else match s.anchorCommit (localLine b.manifest) b.name b.version b.members with
        | some t => (t.sendSeals b).bundleClosed.reply sd (bunStatus b.name b.version 0)
        | none => (s.sendDiscards b).bundleClosed.reply sd (bunStatus b.name b.version 0x0A)) s

/-- BABORT (R230). Without an open bundle NAME and VERSION of its status, as of BSEAL's, read 0 (log 38). -/
def execBabort (sd : SNum) (s : State) : Out :=
  atIssue (fun s => if s.acquirePending s.me then .hold s else .go)
    (fun s =>
      let b := s.x.bundle
      if !b.v then s.reply sd (bunStatus 0 0 0x0E) else (s.giveUp b).bundleClosed.reply sd (bunStatus b.name b.version 0)) s

/-- VIEWB (R235). -/
def execViewb (sc : Scope) (s : State) : Out :=
  atIssue (fun s => if s.x.view.v then .fault (memFault 0 6 0) else .go)
    (fun s => s.modX fun x => { x with view := { View.zero with v := true, scope := sc } }) s

/-- VIEWE (R226, R235): after the view's reads have taken their values. -/
def execViewe (sd : SNum) (s : State) : Out :=
  atIssue (fun s => if s.acquirePending s.me then .hold s else .go)
    (fun s =>
      let w := s.x.view
      if !w.v then s.reply sd (w64 0x0E)
      else
        let code := if w.expired then 0x0B else if w.overflow then 0x0C else 0
        (s.modX fun x => { x with view := View.zero }).reply sd (w64 (fields [(32, w.lines.length), (0, code)]))) s

/-! ## Events at homes and anchors -/

/-- A bundle store of this package taken at its home line, or none where it waits, also for AC, DT or a log bit that goes before it (R338, R348). -/
def State.tryBst (s : State) (k : Nat) : Option State :=
  match s.msgs[k]? with
  | some (.req r) =>
    match r.at_, r.op with
    | .glob pa key, .bst b =>
      if !s.reqReady k r || bitsAhead (s.msgs.take k) then none
      else match s.dupWait r with
        | some t => some t
        | none =>
          match (s.dropMsg k).bstAt (pa / 128) b key ((r.sh.bind s.ctxOf).bind s.deviceOf) with
          | .inl u => some u
          | .inr _ => none
    | _, _ => none
  | _ => none

/-- HOME_LINE_BST (R233): message k, a bundle store, taken at its home line. -/
def execHomeLineBst (k : Nat) (s : State) : Out := .next ((s.tryBst k).getD s)

/-- HOME_LINE_SEAL (R233): message k, a seal, promotes the pending version, and is acknowledged to the anchor; the home of a member in another package
acknowledges it from there. -/
def execHomeLineSeal (k : Nat) (s : State) : Out :=
  match s.msgs[k]? with
  | some (.seal fl name version count anchor) =>
    let t := s.dropMsg k
    if linePkg fl ≠ s.mg.idpkg then .next (t.sendBun none (linePkg fl) { bunTo 4 fl name version with count := count, anchor := anchor })
    else .next ((t.promote (localLine fl) name version count).ackSeal anchor name version fl)
  | _ => .next s

/-- Whether an action is a store of a bundle's version to a line. -/
def actStores (a : FabAct) (fl name version : Nat) : Bool :=
  match a with
  | .bun b => b.kind == 1 && b.pa == localLine fl * 128 && b.name == name && b.version == version
  | _ => false

/-- Whether a discard may take effect: the bundle's stores to its line have arrived. -/
def State.discardReady (s : State) (k : Nat) : Bool :=
  match s.msgs[k]? with
  | some (.discard fl name version) =>
    !((s.msgs.take k).any fun m => match m with | .req r => s.lineNum r.at_ == fl && (match r.op with | .bst b => actStores (.bun b) fl name version | _ => false) | _ => false) &&
    !(s.fab.ops.any fun o => o.pkg == linePkg fl && actStores o.act fl name version)
  | _ => false

/-- HOME_LINE_DISCARD (R233): message k discards a pending version. -/
def execHomeLineDiscard (k : Nat) (s : State) : Out :=
  match s.msgs[k]? with
  | some (.discard fl name version) =>
    if !s.discardReady k then .next s
    else .next (if linePkg fl = s.mg.idpkg then (s.dropMsg k).discardAt (localLine fl) name version
      else (s.dropMsg k).sendBun none (linePkg fl) (bunTo 5 fl name version))
  | _ => .next s

/-- What a backward fetch for (B, v) finds (Table 11.4): the retained version, where it is B's at v or older. -/
def State.retainedFor (s : State) (line name version : Nat) : Option Side :=
  match (s.line line).side with
  | none => none
  | some e =>
    match e.pennant with
    | none => none
    | some p => if !e.pending && p.name == name && (p.version == version || newer version p.version) then some e else none

/-- A read's value on its way (R33), of bytes as a key read them. -/
def State.answerBytes (s : State) (sh : Nat) (dst : Option SNum) (va : Addr) (n : Nat) (sx : Bool) (r : List Byte × Bool × Bool) : State :=
  let t := if r.2.2 then s.kmiss ((s.sh? sh).bind fun x => s.deviceOf x.place.ctx) else s
  t.answer (some sh) dst va { val := loadValue n sx r.1, flags := 0, bad := r.2.1 }

/-- Message k where it is a read of a line of this package under repair: its request, place, key, length and extension. -/
def State.repairing (s : State) (k : Nat) (fwd : Bool) : Option (Req × Fetch × Nat × Nat × Nat × Bool) :=
  match s.msgs[k]? with
  | some (.req r) =>
    match r.fetch, r.at_, r.op with
    | some f, .glob pa key, .read n sx => if f.fwd = fwd then some (r, f, pa, key, n, sx) else none
    | _, _, _ => none
  | _ => none

/-- BACKWARD_FETCH (R233, R236): message k, a read under repair, answered with the retained version, or EXPIRED and the current one. -/
def execBackwardFetch (k : Nat) (s : State) : Out :=
  match s.repairing k false with
  | some (r, f, pa, key, n, sx) =>
    let t := s.dropMsg k
    let i := r.sh.getD 0
    match s.retainedFor (pa / 128) f.name f.version with
    | some e => .next (t.answerBytes i r.dst r.va n sx (s.sideRead e (pa % 128) n key))
    | none => .next ((t.modSh i Shift.expireView).answerBytes i r.dst r.va n sx (s.peek pa n (some key)))
  | none => .next s

/-- FORWARD_FETCH (R236): message k, a read under repair. The reader has read a sealed member of the version that it needs, which proves commit: a pending
version of it is promoted, and the current version returned. -/
def execForwardFetch (k : Nat) (s : State) : Out :=
  match s.repairing k true with
  | some (r, f, pa, key, n, sx) =>
    let t := (s.dropMsg k).fetchForward (pa / 128) f.name f.version
    .next (t.answerBytes (r.sh.getD 0) r.dst r.va n sx (t.peek pa n (some key)))
  | none => .next s

/-- SEAL_ACK (R232): message k, the acknowledgement of a member, counted once at the anchor; where every member has acknowledged, the bundle settles, and every
member home is told. -/
def execSealAck (k : Nat) (s : State) : Out :=
  match s.msgs[k]? with
  | some (.sealAck anchor name version member) =>
    let t := s.dropMsg k
    let line := localLine anchor
    let d := t.manifest line
    let acks := if t.acks.contains (anchor, member) then t.acks else t.acks ++ [(anchor, member)]
    if linePkg anchor ≠ s.mg.idpkg ∨ manName d ≠ name ∨ manVersion d ≠ version ∨ manState d ≠ 2 then .next t
    else if (t.membersOf line).all fun m => acks.contains (anchor, m) then
      let t := { t with acks := acks.filter fun a => a.1 != anchor }.setManState line 3
      .next { t with msgs := t.msgs ++ (t.membersOf line).map fun m => .settle m name version }
    else .next { t with acks := acks }
  | _ => .next s

/-- SETTLE_NOTICE (R232): message k starts the retention of the version that the promotion retained. -/
def execSettleNotice (k : Nat) (s : State) : Out :=
  match s.msgs[k]? with
  | some (.settle fl name version) =>
    let t := s.dropMsg k
    if linePkg fl ≠ s.mg.idpkg then .next (t.sendBun none (linePkg fl) (bunTo 9 fl name version))
    else .next (t.modLine (localLine fl) fun l =>
      match l.side with
      | none => l
      | some e => if !e.pending ∧ e.name = name ∧ e.version = version ∧ e.settled.isNone then { l with side := some { e with settled := some s.dcc } } else l)
  | _ => .next s

/-- Whether a pending version is due for resolution at its anchor (R231). -/
def State.resolutionDue (s : State) (line : Nat) : Bool :=
  match (s.line line).side with
  | none => false
  | some e => e.pending && decide (e.since + 1048576 ≤ s.dcc)

/-- What a home asks of an anchor of another package to resolve a pending version (R231); `count` names the line that asks. -/
def State.resolveAct (s : State) (line : Nat) (e : Side) : BunAct := { bunTo 8 e.anchor e.name e.version with count := s.fabLine (s.lineOfKey line) }

/-- The anchor's part of a resolution (R231): the state after it, and COUNT where the version committed. -/
def State.resolveAt (s : State) (anchor name version : Nat) : State × Option Nat :=
  let d := s.manifest anchor
  let same := manName d = name ∧ manVersion d = version
  if same ∧ manState d = 1 then (s.setManState anchor 4, none)
  else if same ∧ (manState d = 2 ∨ manState d = 3) then (s, some (nbits d 28 4))
  else (s, none)

/-- A pending version resolved (R231): promoted and acknowledged, or discarded. -/
def State.resolved (s : State) (line name version : Nat) (count : Option Nat) : State :=
  match count with
  | some n => s.promoteAck line name version n
  | none => s.discardAt line name version

/-- PENDING_RESOLUTION (R231): a pending version held 1,048,576 cycles resolved at its anchor; one of another package is asked, and its answer awaited. -/
def execPendingResolution (line : Nat) (s : State) : Out :=
  match (s.line line).side with
  | none => .next s
  | some e =>
    if !s.resolutionDue line then .next s
    else if linePkg e.anchor ≠ s.mg.idpkg then
      let b := s.resolveAct line e
      .next (if s.fab.ops.any fun o => o.act == .bun b then s else s.sendBun none (linePkg e.anchor) b)
    else let r := s.resolveAt (localLine e.anchor) e.name e.version; .next (r.1.resolved line e.name e.version r.2)

/-- Whether a retained version's time has passed (R232). -/
def State.retentionDue (s : State) (line : Nat) : Bool :=
  match (s.line line).side with
  | none => false
  | some e => !e.pending && (match e.settled with | some t => decide (t + 65536 ≤ s.dcc) | none => false)

/-- RETENTION_END (R232): a retained version freed 65,536 cycles after the settle notice. -/
def execRetentionEnd (line : Nat) (s : State) : Out := .next (if s.retentionDue line then s.freeSide line else s)

end Sys2Proof.Machine
end

