-- ==== Sys2Proof/Machine/Vector.lean ====
section
/-!
DEFINITION. The vector half (chapter 7): what each lane takes, the flags and draws of its elements, and the landing of the result.
-/
namespace Sys2Proof.Machine

/-! ## Lanes -/

/-- The width in bits of integer elements (Table 7.3). -/
def elemBits : ElemW → Nat
  | .w => 32 | .h => 16 | .b => 8

/-- A lane whose elements of width w are f of the elements of two lanes (R126). -/
def elems2 (w : Nat) (f : Nat → Nat → Nat) (x y : Lane) : Lane := ofElems w fun j => f (elem x w j) (elem y w j)

/-- The register of active lanes f i; lanes at or above VL are not landed (R122). -/
def active (vl : Nat) (f : Nat → Lane) : VReg := ofLanes fun i => if i < vl then f i else 0

/-- The result of an operation over lanes that may raise flags and draw: the active lanes, the flags, and the shift after its draws. -/
abbrev Drawn := VReg × Flags × Shift

/-- Lanes 0 to vl - 1 in order, each from the shift that the ones before left (R94, R125). -/
def foldLanes (f : Shift → Nat → Lane × Flags × Shift) (x : Shift) (vl : Nat) : Drawn :=
  let r := (upto 0 vl).foldl (fun (p : List Lane × Flags × Shift) i =>
    let q := f p.2.2 i
    (q.1 :: p.1, p.2.1 ||| q.2.1, q.2.2)) ([], 0, x)
  (ofLaneList r.1.reverse, r.2.1, r.2.2)

/-- The elements of one lane in order, each from the shift that the ones before left. -/
def foldElems (w : Nat) (f : Shift → Nat → Nat × Flags × Shift) (x : Shift) : Lane × Flags × Shift :=
  let r := (upto 0 (32 / w)).foldl (fun (p : Nat × Flags × Shift) j =>
    let q := f p.2.2 j
    (p.1 + q.1 % 2 ^ w * 2 ^ (w * j), p.2.1 ||| q.2.1, q.2.2)) (0, 0, x)
  (BitVec.ofNat 32 r.1, r.2.1, r.2.2)

/-- One exact value rounded to a format with the draw of generator g under SR (R91, R94). -/
def roundDraw (x : Shift) (g : Nat) (f : Fmt) (rm : RMode) (ftz : Bool) (v : FV × Flags) : Nat × Flags × Shift :=
  let d := x.drawIf rm g
  let c := roundTo f rm ftz d.1 v.1
  (c.1, v.2 ||| c.2, d.2)

/-! ## Integer operations on elements (Table 7.2, R128) -/

/-- a + b, wrapped. -/
def vAdd (w a b : Nat) : Nat := (a + b) % 2 ^ w
/-- a - b, wrapped. -/
def vSub (w a b : Nat) : Nat := wrap ((a : Int) - b) w
/-- a × b, low bits. -/
def vMul (w a b : Nat) : Nat := a * b % 2 ^ w
/-- The high half of the signed product. -/
def vMulh (w a b : Nat) : Nat := wrap (sx w a * sx w b / 2 ^ w) w
/-- a × 2^n, wrapped. -/
def vShl (w a b : Nat) : Nat := a * 2 ^ (b % w) % 2 ^ w
/-- Logical right shift. -/
def vShr (w a b : Nat) : Nat := a / 2 ^ (b % w)
/-- Arithmetic right shift. -/
def vSra (w a b : Nat) : Nat := wrap (sx w a / 2 ^ (b % w)) w
/-- The magnitude, wrapped. -/
def vAbs (w a _b : Nat) : Nat := wrap ((sx w a).natAbs : Nat) w
/-- The negation, wrapped. -/
def vNeg (w a _b : Nat) : Nat := wrap (-(sx w a)) w

/-- The width of the elements of VADDS and VSUBS, and whether they are signed (Table 7.3). -/
def satBits : SatTy → Nat × Bool
  | .s32 => (32, true) | .s16 => (16, true) | .s8 => (8, true) | .z8 => (8, false)

/-- A sum or difference clamped to its type, with SAT (R127). -/
def vSat (t : SatTy) (sub : Bool) (a b : Nat) : Nat × Flags :=
  let w := (satBits t).1
  let sg := (satBits t).2
  let va : Int := if sg then sx w a else a
  let vb : Int := if sg then sx w b else b
  let r := if sub then va - vb else va + vb
  let lo : Int := if sg then -(2 ^ (w - 1)) else 0
  let hi : Int := if sg then 2 ^ (w - 1) - 1 else 2 ^ w - 1
  if r < lo then (wrap lo w, fSAT) else if hi < r then (wrap hi w, fSAT) else (wrap r w, 0)

/-- The width of the elements of VMIN and VMAX, and whether they are signed (Table 7.3). -/
def minBits : MinTy → Nat × Bool
  | .s32 => (32, true) | .s16 => (16, true) | .s8 => (8, true) | .z32 => (32, false)

/-- The smaller or the larger element, read as the type. -/
def vMinMax (t : MinTy) (isMax : Bool) (a b : Nat) : Nat :=
  let w := (minBits t).1
  let lt := if (minBits t).2 then decide (sx w a < sx w b) else decide (a < b)
  if lt != isMax then a else b

/-- Saturating lanes with their flags. -/
def satLanes (t : SatTy) (sub : Bool) (a b : VReg) (x : Shift) (vl : Nat) : Drawn :=
  foldLanes (fun x i => foldElems (satBits t).1 (fun x j =>
    let r := vSat t sub (elem (laneGet a i) (satBits t).1 j) (elem (laneGet b i) (satBits t).1 j)
    (r.1, r.2, x)) x) x vl

/-- VCMP on lanes (R129). -/
def cmpLanes (cc : VCond) (ftz : Bool) (a b : VReg) (x : Shift) (vl : Nat) : Drawn :=
  let m (c : Bool) : Lane := if c then 0xFFFF_FFFF else 0
  foldLanes (fun x i =>
    let p := laneGet a i
    let q := laneGet b i
    match cc with
    | .eq => (m (p == q), 0, x)
    | .lt => (m (decide (p.toInt < q.toInt)), 0, x)
    | .ltu => (m (decide (p.toNat < q.toNat)), 0, x)
    | .flt =>
      let u := decodeFtz ftz .f32 p.toNat
      let v := decodeFtz ftz .f32 q.toNat
      (m (fvLt u v), if u.isNan || v.isNan then fNV else 0, x)) x vl

/-! ## Floating-point operations on elements -/

/-- The format of a VT (R131). -/
def vfmt : VFmt → Fmt
  | .f32 => .f32 | .f16 => .f16 | .bf16 => .bf16

/-- Lanes of an operation that gives an exact value of elements a, b and the old d (R125, R131). -/
def fpLanes (f : Fmt) (stat : Word) (op : FV → FV → FV → FV × Flags) (a b d : VReg) (x : Shift) (vl : Nat) : Drawn :=
  let w := f.width
  let v (r : VReg) (i j : Nat) : FV := decodeFtz (ftzOf stat) f (elem (laneGet r i) w j)
  foldLanes (fun x i => foldElems w (fun x j => roundDraw x i f (rmOf stat) (ftzOf stat) (op (v a i j) (v b i j) (v d i j))) x) x vl

/-- Lanes of VFMIN or VFMAX (R132). -/
def fminLanes (f : Fmt) (stat : Word) (isMax : Bool) (a b : VReg) (x : Shift) (vl : Nat) : Drawn :=
  let w := f.width
  foldLanes (fun x i => foldElems w (fun x j =>
    let r := fvMinMax isMax f (ftzOf stat) (elem (laneGet a i) w j) (elem (laneGet b i) w j)
    (r.1, r.2, x)) x) x vl

/-- 1 ÷ a. -/
def fvRcp (a : FV) : FV × Flags := fvDiv (.fin { neg := false, n := 1, d := 1, e := 0 }) a

/-! ## Conversions -/

/-- One element converted: rounded with a draw where either side is floating or LG6, else saturated (R135). -/
def cvtEl (dst src : Fmt) (stat : Word) (g code : Nat) (x : Shift) : Nat × Flags × Shift :=
  if dst.isInt && src.isInt then let r := convertInt dst src code; (r.1, r.2, x)
  else
    let d := x.drawIf (rmOf stat) g
    let r := convert dst src (rmOf stat) (ftzOf stat) d.1 code
    (r.1, r.2, d.2)

/-- Lanes of VCVT (R135). -/
def cvtLanes (dst src : Fmt) (stat : Word) (a : VReg) (x : Shift) (vl : Nat) : Drawn :=
  foldLanes (fun x i =>
    let r := cvtEl dst src stat i (elem (laneGet a i) src.width 0) x
    ((extendCode dst r.1).setWidth 32, r.2.1, r.2.2)) x vl

/-- The formats of VNARROW: source, destination (Table 7.6). -/
def narrowFmts : NarrowTy → Fmt × Fmt
  | .bf16 => (.f32, .bf16) | .f16 => (.f32, .f16) | .s16 => (.s32, .s16) | .s8 => (.s16, .s8)

/-- Lanes of VNARROW: the results of va below those of vb (R136). -/
def narrowLanes (t : NarrowTy) (stat : Word) (a b : VReg) (x : Shift) (vl : Nat) : Drawn :=
  let src := (narrowFmts t).1
  let dst := (narrowFmts t).2
  let half := 16 / dst.width
  foldLanes (fun x i => foldElems dst.width (fun x j =>
    cvtEl dst src stat i (if j < half then elem (laneGet a i) src.width j else elem (laneGet b i) src.width (j - half)) x) x) x vl

/-- Lanes of VWIDEN: exact, without a draw (R137). -/
def widenLanes (t : NarrowTy) (hi : Bool) (stat : Word) (a : VReg) (x : Shift) (vl : Nat) : Drawn :=
  foldLanes (fun x i =>
    let h := elem (laneGet a i) 16 (bnat hi)
    match t with
    | .s16 => (BitVec.ofInt 32 (sx 16 h), 0, x)
    | .s8 => (ofElems 16 fun j => wrap (sx 8 (h / 2 ^ (8 * j))) 16, 0, x)
    | .bf16 => let r := convert .f32 .bf16 .rne (ftzOf stat) 0 h; (BitVec.ofNat 32 r.1, r.2, x)
    | .f16 => let r := convert .f32 .f16 .rne (ftzOf stat) 0 h; (BitVec.ofNat 32 r.1, r.2, x)) x vl

/-! ## Reductions and scans -/

/-- The identity of an operation (Table 7.9). -/
def redIdentity : RedOp → Lane
  | .add | .maxz | .or | .xor | .fadd => 0
  | .min => 0x7FFF_FFFF
  | .max => 0x8000_0000
  | .minz | .and => 0xFFFF_FFFF
  | .fmin => 0x7F80_0000
  | .fmax => 0xFF80_0000

/-- Combine of two lanes, with the draw of generator g for `.fadd` under SR (Table 7.9). -/
def combine (op : RedOp) (stat : Word) (g : Nat) (a b : Lane) (x : Shift) : Lane × Flags × Shift :=
  match op with
  | .add => (a + b, 0, x)
  | .min => (if a.toInt < b.toInt then a else b, 0, x)
  | .max => (if a.toInt < b.toInt then b else a, 0, x)
  | .minz => (if a.toNat < b.toNat then a else b, 0, x)
  | .maxz => (if a.toNat < b.toNat then b else a, 0, x)
  | .and => (a &&& b, 0, x)
  | .or => (a ||| b, 0, x)
  | .xor => (a ^^^ b, 0, x)
  | .fadd =>
    let v (c : Lane) : FV := decodeFtz (ftzOf stat) .f32 c.toNat
    let r := roundDraw x g .f32 (rmOf stat) (ftzOf stat) (fvAdd (rmOf stat) (v a) (v b))
    (BitVec.ofNat 32 r.1, r.2.1, r.2.2)
  | .fmin => let r := fvMinMax false .f32 (ftzOf stat) a.toNat b.toNat; (BitVec.ofNat 32 r.1, r.2, x)
  | .fmax => let r := fvMinMax true .f32 (ftzOf stat) a.toNat b.toNat; (BitVec.ofNat 32 r.1, r.2, x)

/-- One level of the tree of R141: pairs of nodes combined, `step` being 2^lev. -/
def redLevel (op : RedOp) (stat : Word) (step : Nat) : Nat → List (Option Lane) → Flags → Shift → List (Option Lane) × Flags × Shift
  | j, a :: b :: rest, fl, x =>
    match a, b with
    | some u, some v =>
      let c := combine op stat (step * j) u v x
      let r := redLevel op stat step (j + 1) rest (fl ||| c.2.1) c.2.2
      (some c.1 :: r.1, r.2.1, r.2.2)
    | some u, none => let r := redLevel op stat step (j + 1) rest fl x; (some u :: r.1, r.2.1, r.2.2)
    | none, b => let r := redLevel op stat step (j + 1) rest fl x; (b :: r.1, r.2.1, r.2.2)
  | _, l, fl, x => (l, fl, x)

/-- The tree of R141: lane 0 holds the result, the others zero. -/
def redLanes (op : RedOp) (stat : Word) (a : VReg) (x : Shift) (vl : Nat) : Drawn :=
  let leaves := (upto 0 64).map fun i => if i < vl then some (laneGet a i) else none
  let r := (upto 1 6).foldl (fun (p : List (Option Lane) × Flags × Shift) lev => redLevel op stat (2 ^ lev) 0 p.1 p.2.1 p.2.2) (leaves, 0, x)
  (((r.1.head?.join).getD (redIdentity op)).setWidth 2048, r.2.1, r.2.2)

/-- The scan of R142 from left to right. -/
def scanLanes (op : RedOp) (ex : Bool) (stat : Word) (a : VReg) (x : Shift) (vl : Nat) : Drawn :=
  let r := (upto 0 vl).foldl (fun (p : List Lane × Flags × Shift) i =>
    let prev := p.1.headD 0
    let c : Lane × Flags × Shift :=
      if i = 0 then (if ex then redIdentity op else laneGet a 0, 0, p.2.2)
      else if ex ∧ i = 1 then (laneGet a 0, 0, p.2.2)
      else combine op stat i prev (laneGet a (if ex then i - 1 else i)) p.2.2
    (c.1 :: p.1, p.2.1 ||| c.2.1, c.2.2)) ([], 0, x)
  (ofLaneList r.1.reverse, r.2.1, r.2.2)

/-! ## Landing -/

/-- VL in the issue cycle (R46, R122). -/
abbrev State.vl (s : State) : Nat := s.x.sp.vl

/-- STAT in the issue cycle. -/
abbrev State.stat (s : State) : Word := s.x.sp.stat

/-- Active lanes landed in v[vd] (R122). -/
def State.landV (s : State) (k : Nat) (fl : Flags) (vd : VNum) (x : VReg) : Out := .next (s.land k fl (.v vd 0 s.vl x))

/-- Active lanes landed, with the flags and draws of their elements (R94, R96, R125). -/
def State.landD (s : State) (k : Nat) (vd : VNum) (r : Shift → Nat → Drawn) : Out :=
  let d := r s.x s.vl
  (s.modX fun _ => d.2.2).landV k d.2.1 vd d.1

/-- Element-wise integer lanes landed with k = 2 (R126). -/
def State.landI (s : State) (w : Nat) (f : Nat → Nat → Nat) (vd va vb : VNum) : Out :=
  let a := s.rv va
  let b := s.rv vb
  s.landV 2 0 vd (active s.vl fun i => elems2 w f (laneGet a i) (laneGet b i))

/-- The lane sequencer occupied for h cycles from this bundle's issue (R34, Table 7.1). -/
def State.occupyLane (s : State) (h : Nat) : State := s.modX fun x => { x with tim := { x.tim with laneBusy := h } }

/-- A base routine started on the lane sequencer at its entry (Table 16.2) for h cycles, with the operands that it latches (R302, R305). Its results land
from the bundle itself (R312). -/
def State.startBase (s : State) (entry h : Nat) (i : Instr) (a b : VReg) : State :=
  (s.occupyLane h).modX fun x =>
    { x with lane := { MicroUnit.zero with v := true, mpc := entry, instr := i, opa := a, opb := b, vl := s.vl, stat := s.stat } }

/-- The temporaries of PARTN's routine, of which the manual prints no word: open values (log 13). -/
def State.openTemps (s : State) : State :=
  { s with free := s.free + 1024 }.modX fun x =>
    { x with lane := { x.lane with m := Vector.ofFn fun k : Fin 16 => ofLanes fun i => (Config.freeWord (s.free + 64 * k.val + i)).setWidth 32 } }

/-- VADD (R126). -/
def execVadd (t : ElemW) (vd va vb : VNum) (s : State) : Out := s.landI (elemBits t) (vAdd (elemBits t)) vd va vb

/-- VSUB (R126). -/
def execVsub (t : ElemW) (vd va vb : VNum) (s : State) : Out := s.landI (elemBits t) (vSub (elemBits t)) vd va vb

/-- VMUL (R126). -/
def execVmul (t : ElemW) (vd va vb : VNum) (s : State) : Out := s.landI (elemBits t) (vMul (elemBits t)) vd va vb

/-- VMULH (R126). -/
def execVmulh (t : ElemW) (vd va vb : VNum) (s : State) : Out := s.landI (elemBits t) (vMulh (elemBits t)) vd va vb

/-- VSHL (R126). -/
def execVshl (t : ElemW) (vd va vb : VNum) (s : State) : Out := s.landI (elemBits t) (vShl (elemBits t)) vd va vb

/-- VSHR (R126). -/
def execVshr (t : ElemW) (vd va vb : VNum) (s : State) : Out := s.landI (elemBits t) (vShr (elemBits t)) vd va vb

/-- VSRA (R126). -/
def execVsra (t : ElemW) (vd va vb : VNum) (s : State) : Out := s.landI (elemBits t) (vSra (elemBits t)) vd va vb

/-- VADDS (R126, R127). -/
def execVadds (t : SatTy) (vd va vb : VNum) (s : State) : Out := s.landD 2 vd (satLanes t false (s.rv va) (s.rv vb))

/-- VSUBS (R126, R127). -/
def execVsubs (t : SatTy) (vd va vb : VNum) (s : State) : Out := s.landD 2 vd (satLanes t true (s.rv va) (s.rv vb))

/-- VMIN (R126). -/
def execVmin (t : MinTy) (vd va vb : VNum) (s : State) : Out := s.landI (minBits t).1 (vMinMax t false) vd va vb

/-- VMAX (R126). -/
def execVmax (t : MinTy) (vd va vb : VNum) (s : State) : Out := s.landI (minBits t).1 (vMinMax t true) vd va vb

/-- VABS (R128). -/
def execVabs (t : ElemW) (vd va : VNum) (s : State) : Out := s.landI (elemBits t) (vAbs (elemBits t)) vd va va

/-- VNEG (R128). -/
def execVneg (t : ElemW) (vd va : VNum) (s : State) : Out := s.landI (elemBits t) (vNeg (elemBits t)) vd va va

/-- VAND (R126). -/
def execVand (vd va vb : VNum) (s : State) : Out := s.landV 2 0 vd (active s.vl (laneGet (s.rv va &&& s.rv vb)))

/-- VOR (R126). -/
def execVor (vd va vb : VNum) (s : State) : Out := s.landV 2 0 vd (active s.vl (laneGet (s.rv va ||| s.rv vb)))

/-- VXOR (R126). -/
def execVxor (vd va vb : VNum) (s : State) : Out := s.landV 2 0 vd (active s.vl (laneGet (s.rv va ^^^ s.rv vb)))

/-- VCMP (R129). -/
def execVcmp (cc : VCond) (vd va vb : VNum) (s : State) : Out := s.landD 2 vd (cmpLanes cc (ftzOf s.stat) (s.rv va) (s.rv vb))

/-- VSEL: the old vd selects, bit for bit (R130). -/
def execVsel (vd va vb : VNum) (s : State) : Out :=
  s.landV 2 0 vd (active s.vl (laneGet ((s.rv va &&& s.rv vd) ||| (s.rv vb &&& ~~~s.rv vd))))

/-- VFADD (R131). -/
def execVfadd (t : VFmt) (vd va vb : VNum) (s : State) : Out :=
  s.landD 4 vd (fpLanes (vfmt t) s.stat (fun a b _ => fvAdd (rmOf s.stat) a b) (s.rv va) (s.rv vb) (s.rv vd))

/-- VFSUB (R131). -/
def execVfsub (t : VFmt) (vd va vb : VNum) (s : State) : Out :=
  s.landD 4 vd (fpLanes (vfmt t) s.stat (fun a b _ => fvAdd (rmOf s.stat) a b.flip) (s.rv va) (s.rv vb) (s.rv vd))

/-- VFMUL (R131). -/
def execVfmul (t : VFmt) (vd va vb : VNum) (s : State) : Out :=
  s.landD 4 vd (fpLanes (vfmt t) s.stat (fun a b _ => fvMul a b) (s.rv va) (s.rv vb) (s.rv vd))

/-- VFMA (R131). -/
def execVfma (t : VFmt) (vd va vb : VNum) (s : State) : Out :=
  s.landD 4 vd (fpLanes (vfmt t) s.stat (fun a b c => fvFma (rmOf s.stat) a b c) (s.rv va) (s.rv vb) (s.rv vd))

/-- VFMS (R131). -/
def execVfms (t : VFmt) (vd va vb : VNum) (s : State) : Out :=
  s.landD 4 vd (fpLanes (vfmt t) s.stat (fun a b c => fvFma (rmOf s.stat) a b c.flip) (s.rv va) (s.rv vb) (s.rv vd))

/-- VFNMA (R131). -/
def execVfnma (t : VFmt) (vd va vb : VNum) (s : State) : Out :=
  s.landD 4 vd (fpLanes (vfmt t) s.stat (fun a b c => fvFma (rmOf s.stat) a.flip b c) (s.rv va) (s.rv vb) (s.rv vd))

/-- VFMIN (R132). -/
def execVfmin (t : VFmt) (vd va vb : VNum) (s : State) : Out := s.landD 4 vd (fminLanes (vfmt t) s.stat false (s.rv va) (s.rv vb))

/-- VFMAX (R132). -/
def execVfmax (t : VFmt) (vd va vb : VNum) (s : State) : Out := s.landD 4 vd (fminLanes (vfmt t) s.stat true (s.rv va) (s.rv vb))

/-- VFDIV (R133): occupies the lane sequencer for 8 cycles. -/
def execVfdiv (vd va vb : VNum) (s : State) : Out :=
  (s.startBase 0x000 8 (.vfdiv vd va vb) (s.rv va) (s.rv vb)).landD 16 vd (fpLanes .f32 s.stat (fun a b _ => fvDiv a b) (s.rv va) (s.rv vb) (s.rv vd))

/-- VRCP (R134). -/
def execVrcp (vd va : VNum) (s : State) : Out :=
  s.landD 8 vd (fpLanes .f32 s.stat (fun a _ _ => fvRcp a) (s.rv va) (s.rv va) (s.rv va))

/-- VRSQ (R134). -/
def execVrsq (vd va : VNum) (s : State) : Out :=
  s.landD 8 vd (fpLanes .f32 s.stat (fun a _ _ => fvRsq a) (s.rv va) (s.rv va) (s.rv va))

/-- VEXP2 (R134). -/
def execVexp2 (vd va : VNum) (s : State) : Out :=
  s.landD 8 vd (fpLanes .f32 s.stat (fun a _ _ => fvExp2 a) (s.rv va) (s.rv va) (s.rv va))

/-- VLOG2 (R134). -/
def execVlog2 (vd va : VNum) (s : State) : Out :=
  s.landD 8 vd (fpLanes .f32 s.stat (fun a _ _ => fvLog2 a) (s.rv va) (s.rv va) (s.rv va))

/-- VCVT (R135). -/
def execVcvt (dst src : Fmt) (vd va : VNum) (s : State) : Out := s.landD 4 vd (cvtLanes dst src s.stat (s.rv va))

/-- VNARROW (R136). -/
def execVnarrow (t : NarrowTy) (vd va vb : VNum) (s : State) : Out := s.landD 4 vd (narrowLanes t s.stat (s.rv va) (s.rv vb))

/-- VWIDEN (R137). -/
def execVwiden (t : NarrowTy) (hi : Bool) (vd va : VNum) (s : State) : Out := s.landD 4 vd (widenLanes t hi s.stat (s.rv va))

/-! ## Moving lanes -/

/-- A scalar in every element of a lane (Table 7.7). -/
def bcastLane (t : ElemW) (w : Word) : Lane := ofElems (elemBits t) fun _ => wbits w 0 (elemBits t)

/-- VBCAST (R138). -/
def execVbcast (t : ElemW) (vd : VNum) (sb : SNum) (s : State) : Out := s.landV 2 0 vd (active s.vl fun _ => bcastLane t (s.rs sb))

/-- VIOTA (R138). -/
def execViota (vd : VNum) (sb : SNum) (s : State) : Out :=
  s.landV 2 0 vd (active s.vl fun i => BitVec.ofNat 32 ((s.rs sb).toNat + i))

/-- VSETVL: VL and sd both take min(sb, 64) (R138). -/
def execVsetvl (sd sb : SNum) (s : State) : Out := .next (s.land 2 0 (.vsetvl sd (w64 (min (s.rs sb).toNat 64))))

/-- VEXTR (R138). -/
def execVextr (signed : Bool) (sd : SNum) (va : VNum) (n : BitVec 6) (s : State) : Out :=
  let x := laneGet (s.rv va) n.toNat
  s.landS 3 0 sd (if signed then x.signExtend 64 else x.setWidth 64)

/-- VINS: one named lane (R138). -/
def execVins (vd : VNum) (sb : SNum) (n : BitVec 6) (s : State) : Out :=
  .next (s.land 2 0 (.v vd n.toNat 1 (ofLanes fun i => if i = n.toNat then (s.rs sb).setWidth 32 else 0)))

/-- Lanes of VPERM: lane (b[i] AND 63) of a (Table 7.8). -/
def permLanes (a b : VReg) (vl : Nat) : VReg := active vl fun i => laneGet a ((laneGet b i).toNat % 64)

/-- Lanes of VROT. -/
def rotLanes (a : VReg) (n vl : Nat) : VReg := active vl fun i => laneGet a ((i + n % 64) % 64)

/-- Lanes of VSLIDE. -/
def slideLanes (up : Bool) (a : VReg) (n vl : Nat) : VReg :=
  active vl fun i => if up then (if n ≤ i then laneGet a (i - n) else 0) else if i + n < vl then laneGet a (i + n) else 0

/-- VPERM (R139). -/
def execVperm (vd va vb : VNum) (s : State) : Out := s.landV 3 0 vd (permLanes (s.rv va) (s.rv vb) s.vl)

/-- VROT (R139). -/
def execVrot (vd va : VNum) (sb : SNum) (s : State) : Out := s.landV 3 0 vd (rotLanes (s.rv va) (s.rs sb).toNat s.vl)

/-- VSLIDE (R139). -/
def execVslide (up : Bool) (vd va : VNum) (sb : SNum) (s : State) : Out := s.landV 3 0 vd (slideLanes up (s.rv va) (s.rs sb).toNat s.vl)

/-- VRED: all 64 lanes are written (R140, R141). -/
def execVred (op : RedOp) (vd va : VNum) (s : State) : Out :=
  let d := redLanes op s.stat (s.rv va) s.x s.vl
  .next ((s.modX fun _ => d.2.2).land 6 d.2.1 (.v vd 0 64 d.1))

/-- VSCAN (R140, R142). -/
def execVscan (op : RedOp) (ex : Bool) (vd va : VNum) (s : State) : Out := s.landD 8 vd (scanLanes op ex s.stat (s.rv va))

/-! ## Partition -/

/-- The active lanes that pass a test, in increasing order. -/
def lanesWhere (vl : Nat) (p : Nat → Bool) : List Nat := (upto 0 vl).filter p

/-- PART (R143). -/
def execPart (vd va : VNum) (sd : SNum) (s : State) : Out :=
  let a := s.rv va
  let t := lanesWhere s.vl fun i => laneGet a i != 0
  let f := lanesWhere s.vl fun i => laneGet a i == 0
  .next ((s.startBase 0x010 6 (.part vd va sd) a 0).land 12 0
    (.part vd (ofLaneList (t.map (BitVec.ofNat 32))) (ofLaneList (f.map (BitVec.ofNat 32))) sd (w64 t.length)))

/-! ## Access to PAD and LANE -/

/-- The place of a fault in the order of Table 7.10, with the checks of Table 9.7 behind its last row. -/
def faultRank (f : FaultInfo) : Nat :=
  if f.code = 0x0D then 0
  else if f.code = 0x0A then 2
  else match f.cause with
    | 1 => 1 | 2 => 2 | 8 => 3 | 3 => 4 | 4 => 5 | 5 => 6 | 6 => 7 | _ => 8

/-- The fault of one element of n bytes at an address, each a multiple of `al`. -/
def State.elemFault (s : State) (k : Acc) (micro : Bool) (sp : Space) (al n : Nat) (ea : Int) : Option FaultInfo :=
  if ea % (al : Int) ≠ 0 then some (alignFault 0 ea)
  else match s.checkAccess s.me s.x 0 0 k .shift false micro false sp ea n with
    | .error f => some f
    | .ok _ => none

/-- Whether the executing shift has a request pending to a sector of n bytes of its PAD, or of a lane's slice of LANE (R189). -/
def State.bytesPending (s : State) (sp : Space) (lane : Nat) (ea : Int) (n : Nat) : Bool :=
  let meets (o : Nat) : Bool := decide (ea / 32 ≤ (o : Int) / 32) && decide ((o : Int) / 32 ≤ (ea + n - 1) / 32)
  s.msgs.any fun m => match m with
    | .req r => r.sh == some s.me && (match r.at_ with
        | .pad _ o => sp == .pad && meets o
        | .lane _ l o => sp == .lane && l == lane && meets o
        | _ => false)
    | _ => false

/-- Whether a request of the executing shift to an element of a P-word access is pending (R189). -/
def State.elemsPending (s : State) (sp : Space) (els : List (Int × Nat × Nat)) : Bool :=
  (els.zip (upto 0 els.length)).any fun e => s.bytesPending sp e.2 e.1.1 e.1.2.2

/-- The check of a P-word access (R145): the first failure in the order of Table 7.10, over its elements; then the holds of R187 and R189. -/
def State.checkElems (s : State) (k : Acc) (micro : Bool) (sp : Space) (els : List (Int × Nat × Nat)) : Verdict :=
  let fs := els.filterMap fun e => s.elemFault k micro sp e.2.1 e.2.2 e.1
  match fs with
  | [] => if els ≠ [] ∧ s.acquirePending s.me ∨ s.elemsPending sp els then .hold s else .go
  | f :: rest => .fault (rest.foldl (fun a b => if faultRank b < faultRank a then b else a) f)

/-- The base of VLD and VST (R146). -/
def State.vldBase (s : State) (sb : SNum) (off : BitVec 6) : Nat := (s.rs sb).toNat + 256 * off.toNat

/-- The range of VLD and VST: nothing where VL is 0. -/
def State.vldRange (s : State) (sb : SNum) (off : BitVec 6) : List (Int × Nat × Nat) :=
  if s.vl = 0 then [] else [((s.vldBase sb off : Nat), 4, 4 * s.vl)]

/-- The address of an element of VGATH and VSCAT (R147). -/
def State.elemAddr (s : State) (t : ElemW) (va : VNum) (sb : SNum) (i : Nat) : Nat :=
  (s.rs sb).toNat + (laneGet (s.rv va) i).toNat * (elemBits t / 8)

/-- The elements of VGATH and VSCAT. -/
def State.elemList (s : State) (t : ElemW) (va : VNum) (sb : SNum) : List (Int × Nat × Nat) :=
  (upto 0 s.vl).map fun i => ((s.elemAddr t va sb i : Nat), elemBits t / 8, elemBits t / 8)

/-- The word offsets of VLDL and VSTL (R148). -/
def State.laneList (s : State) (va : VNum) : List (Int × Nat × Nat) :=
  (upto 0 s.vl).map fun i => (((laneGet (s.rv va) i).toNat : Int), 4, 4)

/-- A little-endian lane of bytes of PAD of the executing shift's core. -/
def State.padLane (s : State) (off n : Nat) : Lane := BitVec.ofNat 32 (s.pad.num (padKey s.myCore off) n)

/-- VLD (R146). -/
def execVld (vd : VNum) (sb : SNum) (off : BitVec 6) (s : State) : Out :=
  atIssue (fun s => s.checkElems .read false .pad (s.vldRange sb off))
    (fun s => s.land 6 0 (.v vd 0 s.vl (active s.vl fun i => s.padLane (s.vldBase sb off + 4 * i) 4))) s

/-- VST (R146): the bytes become visible at t + 6. -/
def execVst (vs : VNum) (sb : SNum) (off : BitVec 6) (s : State) : Out :=
  atIssue (fun s => s.checkElems .write false .pad (s.vldRange sb off))
    (fun s => if s.vl = 0 then s else s.land 6 0 (.pad (s.vldBase sb off) (leBytes (4 * s.vl) (s.rv vs).toNat))) s

/-- VGATH (R147). -/
def execVgath (t : ElemW) (vd va : VNum) (sb : SNum) (s : State) : Out :=
  atIssue (fun s => s.checkElems .read false .pad (s.elemList t va sb))
    (fun s => s.land 6 0 (.v vd 0 s.vl (active s.vl fun i => s.padLane (s.elemAddr t va sb i) (elemBits t / 8)))) s

/-- VSCAT: where two lanes write one byte, the higher is kept (R147). -/
def execVscat (t : ElemW) (vs va : VNum) (sb : SNum) (s : State) : Out :=
  atIssue (fun s => s.checkElems .write false .pad (s.elemList t va sb))
    (fun s => if s.vl = 0 then s else s.land 6 0 (.padElems (elemBits t / 8)
      ((upto 0 s.vl).map fun i => (s.elemAddr t va sb i, leBytes (elemBits t / 8) (laneGet (s.rv vs) i).toNat)))) s

/-- VLDL (R148): each lane its own slice. -/
def execVldl (vd va : VNum) (s : State) : Out :=
  atIssue (fun s => s.checkElems .read false .lane (s.laneList va))
    (fun s => s.land 3 0 (.v vd 0 s.vl (active s.vl fun i =>
      BitVec.ofNat 32 (s.lane.num (laneKey s.myCore i (laneGet (s.rv va) i).toNat) 4)))) s

/-- VSTL (R148). -/
def execVstl (vs va : VNum) (s : State) : Out :=
  atIssue (fun s => s.checkElems .write false .lane (s.laneList va))
    (fun s => if s.vl = 0 then s else s.land 3 0 (.lane none
      ((upto 0 s.vl).map fun i => (i, (laneGet (s.rv va) i).toNat, leBytes 4 (laneGet (s.rv vs) i).toNat)))) s

/-- The arm that a lane of PARTN falls into (R144). -/
def armOf (n v : Nat) : Nat := min v (n - 1)

/-- PARTN (R144): k = 16 + 2n, the lane sequencer occupied for 8 + n cycles. -/
def execPartn (n1 : BitVec 3) (va : VNum) (sb : SNum) (s : State) : Out :=
  let n := n1.toNat + 1
  atIssue (fun s => s.checkElems .write true .pad [(((s.rs sb).toNat : Int), 4, 32 + 256 * n)])
    (fun s =>
      let a := s.rv va
      let arms := (upto 0 n).map fun j => lanesWhere s.vl fun i => armOf n (laneGet a i).toNat == j
      (s.startBase 0x020 (8 + n) (.partn n1 va sb) a 0).openTemps.land (16 + 2 * n) 0 (.partn (s.rs sb).toNat n (arms.map (·.length)) arms)) s

end Sys2Proof.Machine
end

