-- ==== Sys2Proof/Machine/Matrix.lean ====
section
/-!
DEFINITION. The matrix unit's words (chapter 8): entry into the queue (R152), barriers (R155 to R157), MBWAIT and SETSB, and the arithmetic of
MMA, MMAZ and MOPA (R165 to R167) on tiles, blocks (R98 to R100) and weight slots (R161, R162).
-/
namespace Sys2Proof.Machine

/-! ## TCB (Table 8.3) -/

/-- TCB.HALT. -/
def Shift.mxHalted (x : Shift) : Bool := x.sp.tcb.getLsbD 63

/-- TCB.WBH. -/
def Shift.wbh (x : Shift) : Bool := x.sp.tcb.getLsbD 8

/-- TCB.AFMT. -/
def Shift.afmt (x : Shift) : Fmt := Fmt.ofCode (x.sp.tcb.extractLsb' 0 4)

/-- TCB.BFMT. -/
def Shift.bfmt (x : Shift) : Fmt := Fmt.ofCode (x.sp.tcb.extractLsb' 4 4)

/-- TCB of its fields. -/
def tcbOf (halt wbh : Bool) (af bf : Fmt) : Word :=
  w64 (fields [(63, bnat halt), (8, bnat wbh), (4, bf.code.toNat), (0, af.code.toNat)])

/-- The shift with TCB set. -/
def Shift.setTcb (x : Shift) (w : Word) : Shift := { x with sp := { x.sp with tcb := w } }

/-- The shift with its matrix state changed. -/
def Shift.modMx (x : Shift) (f : Matrix → Matrix) : Shift := { x with mx := f x.mx }

/-- The matrix times of a shift moved (R151). -/
def Matrix.mapTimes (m : Matrix) (f : Nat → Nat) : Matrix :=
  { m with
    queue := m.queue.map fun (o : MOp) => { o with target := o.target.map f, entry := f o.entry },
    active := m.active.map fun (o : MOp) => { o with issued := o.issued.map f, done := o.done.map f },
    lastIssue := f m.lastIssue, arrayFree := f m.arrayFree, ports := m.ports.map f }

/-- The matrix times of a shift moved by the cycles that it did not count (R151). -/
def Matrix.later (m : Matrix) (g : Nat) : Matrix := m.mapTimes (· + g)

/-! ## Barriers -/

/-- The barrier that a queued operation names, or none for MBARM, which is counted on no group (R155). -/
def mbOf (i : Instr) : Option BNum :=
  match i with
  | .tcfg _ _ mb _ | .mma _ _ mb _ _ _ _ | .mmaz _ _ mb _ _ _ _ | .mopa _ _ mb _ _ _ | .ald _ mb _ _ | .wbld _ mb _ _ _ | .wbsel mb _ _
  | .crd _ mb _ _ _ | .cwr _ mb _ _ _ | .cclr _ mb _ | .cst _ _ mb _ _ | .tenantM _ _ mb _ _ _ _ _ => some mb
  | _ => none

/-- The matrix state with a barrier changed. -/
def Matrix.modBar (m : Matrix) (b : BNum) (f : MBar → MBar) : Matrix := { m with bars := m.bars.set b (f m.bars[b]) }

/-- A phase completes in the cycle in which ARMED = 1 and the armed count is 0 (R156). -/
def MBar.phaseEnd (b : MBar) : MBar :=
  if b.armed ∧ b.arm.count = 0 then
    { b with phase := b.phase + 1, lastCode := b.arm.code, lastFlags := b.arm.flags, armed := false, arm := Group.zero }
  else b

/-- One operation's completion in a group: its flags, and its code where the group has none or one from an operation that entered later
(R155). -/
def Group.finish (g : Group) (fl : Flags) (code rank : Nat) : Group :=
  { count := g.count - 1, flags := g.flags ||| fl,
    code := if code ≠ 0 ∧ (g.code = 0 ∨ rank < g.cs) then code else g.code,
    cs := if code ≠ 0 ∧ (g.code = 0 ∨ rank < g.cs) then rank else g.cs }

/-- An operation of barrier b completed, in its open or armed group (R155, R156). -/
def MBar.finish (b : MBar) (armed : Bool) (fl : Flags) (code rank : Nat) : MBar :=
  if armed then ({ b with arm := b.arm.finish fl code rank }).phaseEnd else { b with opn := b.opn.finish fl code rank }

/-- MBARM's move of the open group into the armed group (R156). -/
def MBar.armNow (b : MBar) : MBar :=
  let g : Group := if b.armed then
      { count := b.arm.count + b.opn.count, flags := b.arm.flags ||| b.opn.flags,
        code := if b.arm.code = 0 then b.opn.code else b.arm.code, cs := if b.arm.code = 0 then b.opn.cs else b.arm.cs }
    else b.opn
  ({ b with arm := g, armed := true, opn := Group.zero }).phaseEnd

/-- The operations of the queue and in progress of a barrier, now on its armed group. -/
def Matrix.arm (m : Matrix) (b : BNum) : Matrix :=
  let f (o : MOp) : MOp := if mbOf o.instr = some b then { o with armed := true } else o
  ({ m with queue := m.queue.map f, active := m.active.map f }).modBar b MBar.armNow

/-- An operation that ends: its group, and the interlock of a CRD that ends in error when it waited until ready (R155, R169). -/
def Shift.finishOp (x : Shift) (o : MOp) (fl : Flags) (code : Nat) : Shift :=
  let x := match mbOf o.instr with
    | none => x
    | some b => x.modMx fun m => m.modBar b fun v => v.finish o.armed fl code o.rank
  match o.instr with
  | .crd _ _ vd _ _ => if code ≠ 0 ∧ o.target.isNone then x.crdLanded vd else x
  | .tenantM _ _ _ fa fb fc _ _ => ((x.unmarkV fa).unmarkV fb).unmarkV fc
  | _ => x

/-- The unit halted with a code (R158): the queue's operations but TCFG and MBARM complete at once in error. DESIGN CHOICE (log 87): where an operation in
progress fails after the unit has halted, its code becomes the unit's. -/
def Shift.haltMx (x : Shift) (code : Nat) : Shift :=
  let stays (o : MOp) : Bool := match o.instr with | .tcfg _ _ _ _ | .mbarm _ _ => true | _ => false
  let gone := x.mx.queue.filter fun o => !stays o
  let x := (x.setTcb (x.sp.tcb ||| (1 : Word) <<< 63)).modMx fun m => { m with queue := m.queue.filter stays, haltCode := code }
  gone.foldl (fun x o => x.finishOp o 0 code) x

/-! ## Entry into the queue -/

/-- R150: an M word needs the matrix unit. -/
def State.needMx (s : State) (v : Verdict) : Verdict := if s.x.place.mx then v else .fault { code := 0x0A }

/-- The bytes of PAD that an MMA, ALD or CST touches with its scalar operands `a` and `c`; the rows of an MMA at their longest, since a TCFG in the queue
may still change AFMT. -/
def padBytesOf (i : Instr) (a c : Word) : List (Int × Nat) :=
  match i with
  | .mma kg1 _ _ _ _ ss _ | .mmaz kg1 _ _ _ _ ss _ =>
    let n := kg1.toNat + 1
    ((upto 0 128).map fun j => (((wbits a 0 20 + j * wbits a 20 16 : Nat) : Int), 32 * n)) ++ (if ss = 0 then [] else [((c.toNat : Int), 128 * n)])
  | .ald _ _ _ _ => [((a.toNat : Int), 65536)]
  | .cst f _ _ _ _ => [((a.toNat : Int), 2048 * f.width)]
  | _ => []

/-- The scalar operands of an MMA, ALD or CST that name bytes of PAD. -/
def State.padOperands (s : State) (i : Instr) : Word × Word :=
  match i with
  | .mma _ _ _ sa _ ss _ | .mmaz _ _ _ sa _ ss _ => (s.rs sa, s.rs ss)
  | .ald _ _ sa _ | .cst _ _ _ sa _ => (s.rs sa, 0)
  | _ => (0, 0)

/-- Whether an operation on PAD bytes must wait for what bundles of its shift up to rank seq have sent: a request to those bytes (R189), or an acquire that
has not taken its value (R187). -/
def State.padBusy (s : State) (seq : Nat) (rs : List (Int × Nat)) : Bool :=
  !rs.isEmpty && (((s.sent s.me).any fun a => a.acq && decide (a.seq ≤ seq)) ||
    s.msgs.any fun m => match m with
      | .req r => r.sh == some s.me && decide (r.seq ≤ seq) && (match r.at_ with
          | .pad _ o => rs.any fun p => decide (p.1 / 32 ≤ (o : Int) / 32) && decide ((o : Int) / 32 ≤ (p.1 + p.2 - 1) / 32)
          | _ => false)
      | _ => false)

/-- The check of a queued word at issue (R150, R152): the unit is held, and the queue has room or the halted unit discards the operation; an operation on
PAD waits for the earlier accesses of R187 and R189. -/
def enterCheck (i : Instr) (s : State) : Verdict :=
  let kept : Bool := match i with | .tcfg _ _ _ _ | .mbarm _ _ => true | _ => false
  let p := s.padOperands i
  s.needMx (if s.x.mxHalted ∧ !kept then .go
    else if 16 ≤ s.x.mx.queue.length ∨ s.padBusy s.x.tim.seq (padBytesOf i p.1 p.2) then .hold s else .go)

/-- The target cycle of a stamp (R152). -/
def targetOf (sb : Word) (stamp : BitVec 20) : Option Nat := if stamp = 0xFFFFF then none else some (sb + stamp.setWidth 64).toNat

/-- The operation of a word, with its operand registers latched (R46, R152). -/
def State.mopOf (s : State) (i : Instr) (stamp : BitVec 20) (sa sb sc : Word) (aa : Addr) : MOp :=
  { raw := s.cur.raw, instr := i, target := targetOf s.x.sp.sb stamp, entry := s.dcc + 1, stat := s.x.sp.stat, armed := false, sa := sa, sb := sb,
    sc := sc, aa := aa, issued := none, done := none, flags := 0, code := 0, rank := s.x.mx.rank, seq := s.x.tim.seq, rows := [], bytes := [], r := 0, half := false,
    slot := 0, occ := 0, vl := s.x.sp.vl,
    regs := match i with
      | .tenantM _ _ _ fa fb fc _ _ => [s.rv fa, s.rv fb, s.rv fc]
      | _ => [] }

/-- An operation entered: counted on its barrier's open group (R155), queued, and discarded at once where the unit is halted (R158). -/
def Shift.enterOp (x : Shift) (o : MOp) : Shift :=
  let x := x.modMx fun m => { m with rank := m.rank + 1 }
  let x := match mbOf o.instr with
    | none => x
    | some b => x.modMx fun m => m.modBar b fun v => { v with opn := { v.opn with count := v.opn.count + 1 } }
  let kept : Bool := match o.instr with | .tcfg _ _ _ _ | .mbarm _ _ => true | _ => false
  if x.mxHalted ∧ !kept then x.finishOp o 0 x.mx.haltCode
  else
    let x := x.modMx fun m => { m with queue := m.queue ++ [o] }
    match o.instr with
    | .crd _ _ vd _ _ =>
      if o.target.isNone then ((x.markV vd).markV (nextNum vd)).modMx fun m => { m with ready := vd :: m.ready } else x
    | .tenantM _ _ _ fa fb fc _ _ => ((x.markV fa).markV fb).markV fc
    | _ => x

/-- A queued word (R152): `a`, `b`, `c` its scalar operands, `aa` its address. -/
def enqueue (i : Instr) (stamp : BitVec 20) (s : State) (a b c : State → Word) (aa : State → Addr) : Out :=
  atIssue (enterCheck i) (fun s => s.modX fun x => x.enterOp (s.mopOf i stamp (a s) (b s) (c s) (aa s))) s

/-- A word that reads no scalar register at issue. -/
def enqueue0 (i : Instr) (stamp : BitVec 20) (s : State) : Out := enqueue i stamp s (fun _ => 0) (fun _ => 0) (fun _ => 0) (fun _ => 0)

/-- A word that reads one scalar register at issue. -/
def enqueue1 (i : Instr) (stamp : BitVec 20) (sa : SNum) (s : State) : Out :=
  enqueue i stamp s (fun s => s.rs sa) (fun _ => 0) (fun _ => 0) (fun _ => 0)

/-- TCFG (R160): enters the queue. -/
def execTcfg (af bf : Fmt) (mb : BNum) (stamp : BitVec 20) (s : State) : Out := enqueue0 (.tcfg af bf mb stamp) stamp s

/-- MMA (R165): enters the queue with its three scalar operands. -/
def execMma (kg1 : BitVec 4) (ct : TNum) (mb : BNum) (sa sw ss : SNum) (stamp : BitVec 20) (s : State) : Out :=
  enqueue (.mma kg1 ct mb sa sw ss stamp) stamp s (fun s => s.rs sa) (fun s => s.rs sw) (fun s => s.rs ss) (fun _ => 0)

/-- MMAZ (R165). -/
def execMmaz (kg1 : BitVec 4) (ct : TNum) (mb : BNum) (sa sw ss : SNum) (stamp : BitVec 20) (s : State) : Out :=
  enqueue (.mmaz kg1 ct mb sa sw ss stamp) stamp s (fun s => s.rs sa) (fun s => s.rs sw) (fun s => s.rs ss) (fun _ => 0)

/-- MOPA (R167). -/
def execMopa (t : MopaTy) (ct : TNum) (mb : BNum) (va vb : VNum) (stamp : BitVec 20) (s : State) : Out :=
  enqueue0 (.mopa t ct mb va vb stamp) stamp s

/-- ALD (R168). -/
def execAld (ct : TNum) (mb : BNum) (sa : SNum) (stamp : BitVec 20) (s : State) : Out := enqueue1 (.ald ct mb sa stamp) stamp sa s

/-- WBLD (R163). -/
def execWbld (plain : Option Fmt) (mb : BNum) (aa : ANum) (sd : SNum) (stamp : BitVec 20) (s : State) : Out :=
  enqueue (.wbld plain mb aa sd stamp) stamp s (fun s => s.rs sd) (fun _ => 0) (fun _ => 0) (fun s => s.ra aa)

/-- WBSEL (R164). -/
def execWbsel (mb : BNum) (half : Bool) (stamp : BitVec 20) (s : State) : Out := enqueue0 (.wbsel mb half stamp) stamp s

/-- CRD (R169). -/
def execCrd (ct : TNum) (mb : BNum) (vd : VNum) (sr : SNum) (stamp : BitVec 20) (s : State) : Out := enqueue1 (.crd ct mb vd sr stamp) stamp sr s

/-- CWR (R169). -/
def execCwr (ct : TNum) (mb : BNum) (vs : VNum) (sr : SNum) (stamp : BitVec 20) (s : State) : Out := enqueue1 (.cwr ct mb vs sr stamp) stamp sr s

/-- CCLR (R169). -/
def execCclr (ct : TNum) (mb : BNum) (stamp : BitVec 20) (s : State) : Out := enqueue0 (.cclr ct mb stamp) stamp s

/-- CST (R168). -/
def execCst (fmt : Fmt) (ct : TNum) (mb : BNum) (sa : SNum) (stamp : BitVec 20) (s : State) : Out := enqueue1 (.cst fmt ct mb sa stamp) stamp sa s

/-- MBARM (R156). -/
def execMbarm (mb : BNum) (stamp : BitVec 20) (s : State) : Out := enqueue0 (.mbarm mb stamp) stamp s

/-- MBWAIT (R157): held while an MBARM of the barrier waits in the queue or ARMED = 1; lands the status and LAST's flags. -/
def execMbwait (sd : SNum) (mb : BNum) (s : State) : Out :=
  atIssue
    (fun s => s.needMx (
      let waits := s.x.mx.queue.any fun o => match o.instr with | .mbarm b _ => b == mb | _ => false
      if waits || s.x.mx.bars[mb].armed then .hold s else .go))
    (fun s => s.land 1 s.x.mx.bars[mb].lastFlags (.s sd s.x.mx.bars[mb].status)) s

/-- SETSB (R170): SB takes effect for bundles from t + 1 on. -/
def execSetsb (abs : Bool) (sa : SNum) (s : State) : Out :=
  atIssue (fun s => s.needMx .go)
    (fun s => s.land 1 0 (.special .sb (if abs then s.rs sa else w64 s.dcc + s.rs sa))) s

/-! ## Tiles -/

/-- A row of a tile; rows not listed are +0. -/
def Matrix.row (m : Matrix) (ct : TNum) (i : Nat) : TileRow := NMap.getD m.tiles (ct.val * 128 + i) 0

/-- The tile that an operation writes. -/
def tileOf (i : Instr) : Option TNum :=
  match i with
  | .mma _ ct _ _ _ _ _ | .mmaz _ ct _ _ _ _ _ | .mopa _ ct _ _ _ _ | .ald ct _ _ _ | .cwr ct _ _ _ _ | .cclr ct _ _ => some ct
  | _ => none

/-- A row as an array operation finds it: the results of the operations in progress on the tile stand before it (R154). -/
def Matrix.rowAhead (m : Matrix) (ct : TNum) (i : Nat) : TileRow :=
  m.active.foldl (fun r o => if tileOf o.instr = some ct then ((o.rows.find? fun p => p.1 == i).map (·.2)).getD r else r) (m.row ct i)

/-- Element n of a row. -/
def rowGet (r : TileRow) (n : Nat) : Nat := nbits r.toNat (32 * n) 32

/-- The row whose element n is f n. -/
def rowOf (f : Nat → Nat) : TileRow := BitVec.ofNat 4096 ((upto 0 128).foldl (fun acc n => acc + f n % 2 ^ 32 * 2 ^ (32 * n)) 0)

/-- The row whose elements are a list, with the flags of all. -/
def rowOfList (l : List (Nat × Flags)) : TileRow × Flags :=
  (BitVec.ofNat 4096 (l.foldr (fun p acc => p.1 % 2 ^ 32 + acc * 2 ^ 32) 0), l.foldl (fun a p => a ||| p.2) 0)

/-! ## Blocks and operands -/

/-- Elements of a slot under a weight format (R161). -/
def slotElems : Fmt → Nat
  | .e2m1 | .s4 => 112 | .lg6 => 64 | .e4m3 | .e5m2 | .s8 => 48 | _ => 32

/-- Group scales of a block format (Table 5.9). -/
def blockScales : Fmt → Nat
  | .e2m1 | .s4 => 7 | .lg6 => 4 | .e4m3 | .e5m2 | .s8 => 3 | _ => 0

/-- Whether a format is one of 16-bit halves, which have no block. -/
def halfFmt (f : Fmt) : Bool := f == .bf16 || f == .f16

/-- The 16 codes and the scale byte of group q of a slot, or none where the block is poisoned (R98, R99, R162). -/
def slotGroup (f : Fmt) (body : BitVec 512) (q : Nat) : Option (List Nat × Nat) :=
  let b := body.toNat
  let g := blockScales f
  if halfFmt f then some ((upto 0 16).map fun j => nbits b (256 * q + 16 * j) 16, 127)
  else if nbits b 0 8 ≠ f.code.toNat ∨ (f ≠ .lg6 ∧ (upto 0 g).any fun k => nbits b (8 * (1 + k)) 8 == 0xFF) then none
  else some ((upto 0 16).map fun j => nbits b (8 * (1 + g) + f.width * (16 * q + j)) f.width, nbits b (8 * (1 + q)) 8)

/-- The product of two LG6 codes with the sum of their scale offsets (R89). -/
def lg6Mul (so : Int) (a b : Nat) : FV :=
  if lg6Zero a || lg6Zero b then .zero false else .fin (lg6Val (nbit a 5 != nbit b 5) (lg6El a + lg6El b + so))

/-- The exact sum of a list of products, none of them a NaN (R166). -/
def sumProducts (ps : List FV) : FV × Flags :=
  let pos := ps.any fun p => match p with | .inf n => !n | _ => false
  let neg := ps.any fun p => match p with | .inf n => n | _ => false
  if pos && neg then (.nan false, fNV)
  else if pos then (.inf false, 0)
  else if neg then (.inf true, 0)
  else
    let s := ps.foldl (fun (acc : Option Ex) p => match p, acc with
      | .fin v, none => some v
      | .fin v, some a => a.add v
      | _, acc => acc) none
    match s with
    | some v => (.fin v, 0)
    | none => (.zero (ps.all fun p => match p with | .zero n => n | _ => false), 0)

/-- A value times 2^k. -/
def scaleFV (v : FV) (k : Int) : FV :=
  match v with
  | .fin x => .fin { x with e := x.e + k }
  | v => v

/-- v of one group: GroupSum times the scales, rounded to F32 (R165, R166). `sa` is A's scale byte, none where A has no scales. -/
def groupValue (af bf : Fmt) (ftz : Bool) (as : List Nat) (sa : Option Nat) (b : Option (List Nat × Nat)) : FV × Flags :=
  match b with
  | none => (.nan false, fNV)
  | some (bs, sb) =>
    let lg := bf == .lg6
    let one := halfFmt bf
    if !lg && !one && sa == some 0xFF then (.nan false, fNV)
    else
      let so : Int := (match sa with | some v => sx 8 v | none => 0) + sx 8 sb
      let ps := (as.zip bs).map fun p => if lg then (lg6Mul so p.1 p.2, (0 : Flags)) else fvMul (decodeFV af p.1) (decodeFV bf p.2)
      let fl := ps.foldl (fun a p => a ||| p.2) 0
      -- opposite infinities of a group raise NV beside a NaN (R166)
      if ps.any fun p => p.1.isNan then (.nan false, fl ||| (sumProducts ((ps.map (·.1)).filter fun v => !v.isNan)).2)
      else
        let s := sumProducts (ps.map (·.1))
        let k : Int := if lg || one then 0 else ((match sa with | some v => (v : Int) - 127 | none => 0) + ((sb : Int) - 127))
        let r := roundTo .f32 .rne ftz 0 (scaleFV s.1 k)
        (decodeFtz ftz .f32 r.1, fl ||| s.2 ||| r.2)

/-- One output element of MMA or MMAZ: the groups added in order, rounded each time (R165). -/
def mmaElem (ftz : Bool) (acc : Nat) (vs : List (FV × Flags)) : Nat × Flags :=
  vs.foldl (fun (p : Nat × Flags) v =>
    let t := fvAdd .rne (decodeFtz ftz .f32 p.1) v.1
    let r := roundTo .f32 .rne ftz 0 t.1
    (r.1, p.2 ||| v.2 ||| t.2 ||| r.2)) (acc, 0)

/-- The body of a slot of a half; slots not listed are VALID and zero (R161). -/
def Matrix.wslot (m : Matrix) (half : Bool) (k : Nat) : WSlot :=
  NMap.getD m.slots (bnat half * 8192 + k % 8192) { state := 0, code := 0, body := 0 }

/-- The matrix state with a slot set. -/
def Matrix.setSlot (m : Matrix) (half : Bool) (k : Nat) (v : WSlot) : Matrix :=
  { m with slots := NMap.put m.slots (bnat half * 8192 + k % 8192) { state := 0, code := 0, body := 0 } v }

/-- The rows of an MMA or MMAZ (R165): `a i` the bytes of row i of A, `sa i g` its scale byte. -/
def mmaRows (x : Shift) (zero : Bool) (ct : TNum) (kg sw : Nat) (ftz : Bool) (a : Nat → List Byte) (sa : Nat → Nat → Option Nat) :
    List (Nat × TileRow) × Flags :=
  let af := x.afmt
  let bf := x.bfmt
  let per := slotElems bf / 16
  let bpc := cdiv (16 * kg) (slotElems bf)
  let rows := (upto 0 128).map fun i =>
    let num := ofLE (a i)
    let old := if zero then 0 else x.mx.rowAhead ct i
    let els := (upto 0 128).map fun n =>
      mmaElem ftz (rowGet old n) ((upto 0 kg).map fun g =>
        groupValue af bf ftz ((upto 0 16).map fun j => nbits num (af.width * (16 * g + j)) af.width) (sa i g)
          (slotGroup bf (x.mx.wslot x.wbh (sw + n * bpc + g / per)).body (g % per)))
    (i, rowOfList els)
  (rows.map fun p => (p.1, p.2.1), rows.foldl (fun acc p => acc ||| p.2.2) 0)

/-- Element i of an operand of MOPA: 128 F32 values of two registers, or 128 halves of one (R167). -/
def mopaElem (x : Shift) (t : MopaTy) (v : VNum) (ftz : Bool) (i : Nat) : FV :=
  match t with
  | .f32 => decodeFtz ftz .f32 (laneGet (x.rv (if i < 64 then v else nextNum v)) (i % 64)).toNat
  | .bf16 => decodeFV .bf16 (nbits (x.rv v).toNat (16 * i) 16)
  | .f16 => decodeFV .f16 (nbits (x.rv v).toNat (16 * i) 16)

/-- The rows of MOPA: each element rounded once (R167). -/
def mopaRows (x : Shift) (t : MopaTy) (ct : TNum) (va vb : VNum) (ftz : Bool) : List (Nat × TileRow) × Flags :=
  let rows := (upto 0 128).map fun i =>
    let old := x.mx.rowAhead ct i
    (i, rowOfList ((upto 0 128).map fun n =>
      let v := fvFma .rne (mopaElem x t va ftz i) (mopaElem x t vb ftz n) (decodeFtz ftz .f32 (rowGet old n))
      let r := roundTo .f32 .rne ftz 0 v.1
      (r.1, v.2 ||| r.2)))
  (rows.map fun p => (p.1, p.2.1), rows.foldl (fun acc p => acc ||| p.2.2) 0)

/-- The number of the matrix unit's generator (R93). -/
abbrev matrixGen : Nat := 65

/-- The bytes of a CST: every element converted in row order, with its draw under SR (R168). -/
def cstBytes (x : Shift) (f : Fmt) (ct : TNum) (stat : Word) : List Byte × Flags × Shift :=
  let r := (upto 0 128).foldl (fun (p : List (List Byte) × Flags × Shift) i =>
    let row := p.2.2.mx.row ct i
    (upto 0 128).foldl (fun (p : List (List Byte) × Flags × Shift) n =>
      let d := p.2.2.drawIf (rmOf stat) matrixGen
      let c := convert f .f32 (rmOf stat) (ftzOf stat) d.1 (rowGet row n)
      (leBytes (f.width / 8) c.1 :: p.1, p.2.1 ||| c.2, d.2)) p) ([], 0, x)
  (r.1.reverse.flatten, r.2.1, r.2.2)

end Sys2Proof.Machine
end

