-- ==== Sys2Proof/Machine/MicroWord.lean ====
section
/-!
DEFINITION. Micro-words (R303 to R310): the parts of a word, the words that are illegal, and the base routines of the access engines (R332).
-/
namespace Sys2Proof.Machine

/-- What a routine belongs to: a tenant V, M or X instruction, a base access routine, or a collective routine. -/
inductive UClass where
  | v | m | x | base | coll
  deriving DecidableEq, Repr

/-- The class of the routine that an instruction invokes. -/
def classOf (i : Instr) : UClass :=
  match i with
  | .tenantV _ _ _ _ _ => .v
  | .tenantM _ _ _ _ _ _ _ _ => .m
  | .tenantX _ _ _ _ _ => .x
  | .coll _ _ _ _ => .coll
  | _ => .base

/-- Whether a class runs on the lane sequencer. -/
def UClass.lane (c : UClass) : Bool := c == .v || c == .m

/-- The parts of a micro-word: its function-unit operation, its tile ports, its two address generators, its sequencing. -/
structure Parts where
  fu : Option Instr
  ports : List Instr
  ag0 : Option Instr
  ag1 : Option Instr
  seq : Instr
  banken : BitVec 32
  imm : BitVec 12
  /-- A word of XLD `.index` whose step takes m0 from the index list (log 13). -/
  index : Bool
  deriving DecidableEq, Repr

/-! ## Selectors -/

/-- The selector of a code (Table 16.4). -/
def selOf (b : BitVec 5) : Option Sel :=
  match b.toNat with
  | 0 => some .zero | 1 => some .opd | 2 => some .opa | 3 => some .opb | 4 => some .opc | 5 => some .opd1 | 6 => some .vl | 7 => some .imm
  | 8 => some .ea | 9 => some .mod
  | n => if 16 ≤ n then some (.m (Fin.ofNat 16 (n - 16))) else none

/-- A selector as a destination. -/
def dstOf (b : BitVec 5) : Option Sel :=
  match selOf b with
  | some .vl | some .imm | some .ea | some .mod => none
  | r => r

/-- A value where a condition holds. -/
abbrev whenOk {α : Type} (c : Bool) (a : Option α) : Option α := if c then a else none

/-! ## Function-unit operations (Table 16.5) -/

/-- Whether an operation of the vector half takes its sub-operation from the place of VS2. -/
def subOp (fop : Nat) : Bool := fop == 0x20 || fop == 0x22 || fop == 0x29 || fop == 0x2A

/-- The vector instruction that a lane operation acts as (R306), with registers 0 or 1 in the places of VD, VS1 and VS2: none where the word is
illegal. -/
def vectorOp (fop : BitVec 8) (ft : BitVec 2) (d a b : Sel) (imm : BitVec 12) : Option Instr :=
  let n := fop.toNat
  let on (c : Sel) : BitVec 6 := if c = .zero then 0 else 1
  let sub : Option (BitVec 6) :=
    if !subOp n then some (on b)
    else if b = .zero then some 0
    else if b = .imm ∧ imm.toNat < 64 then some (imm.setWidth 6)
    else none
  whenOk (decide (1 ≤ n ∧ n ≤ 0x1A) || decide (0x1C ≤ n ∧ n ≤ 0x23) || decide (0x26 ≤ n ∧ n ≤ 0x2A))
    (sub.bind fun v => (decodeVector 3 { pZero with vop := fop, vd := on d, vs1 := on a, vs2 := v, vt := ft }).bind id)

/-- The operation of the lane sequencer; `used` are the fields FD, FA and FB that a tile port reads. -/
def laneFu (u : UFields) (used : Bool × Bool × Bool) : Option (Option Instr) :=
  let z (b : BitVec 5) : Bool := b == 0
  whenOk (z u.fc)
    (match u.fop.toNat with
    | 0 => whenOk (u.ft == 0 && (z u.fd || used.1) && (z u.fa || used.2.1) && (z u.fb || used.2.2)) (some none)
    | 0x40 => whenOk (u.ft == 0 && z u.fb) ((dstOf u.fd).bind fun d => (selOf u.fa).map fun a => some (.microMov d a u.imm))
    | 0x42 => whenOk (u.ft == 0 && z u.fa && z u.fb) ((dstOf u.fd).map fun d => some (.lidx d))
    | 0x43 => whenOk (u.ft == 0 && u.fd == 16) ((dstOf u.fd).bind fun d => (selOf u.fa).bind fun a => (selOf u.fb).map fun b => some (.divpre d a b))
    | 0x44 => whenOk (u.ft == 0 && z u.fd && z u.fa && z u.fb) (some (some .divq))
    | 0x45 => whenOk (u.ft == 0 && z u.fb) ((dstOf u.fd).bind fun d => (selOf u.fa).map fun a => some (.divfin d a))
    | 0x46 => whenOk (u.ft == 0 && z u.fb) ((dstOf u.fd).bind fun d => (selOf u.fa).map fun a => some (.pnz d a))
    | 0x47 => whenOk (u.ft == 0 && z u.fb) ((dstOf u.fd).bind fun d => (selOf u.fa).map fun a => some (.pscan d a))
    | 0x48 => whenOk (u.ft == 0) ((dstOf u.fd).bind fun d => (selOf u.fa).bind fun a => (selOf u.fb).map fun b => some (.pcomp d a b))
    | 0x49 => whenOk (u.ft == 0) ((dstOf u.fd).bind fun d => (selOf u.fa).bind fun a => (selOf u.fb).map fun b => some (.pcompf d a b))
    | 0x4A => whenOk (u.ft == 0 && z u.fb) ((dstOf u.fd).bind fun d => (selOf u.fa).map fun a => some (.ptot d a))
    | 0x4D => whenOk (u.ft == 0 && z u.fb) ((dstOf u.fd).bind fun d => (selOf u.fa).map fun a => some (.pclamp d a u.imm))
    | 0x4E => whenOk (u.ft == 0 && z u.fb) ((dstOf u.fd).bind fun d => (selOf u.fa).map fun a => some (.pcnt d a u.imm))
    | _ => (dstOf u.fd).bind fun d => (selOf u.fa).bind fun a => (selOf u.fb).bind fun b => (vectorOp u.fop u.ft d a b u.imm).map fun _ =>
        some (.microVectorFop u.fop u.ft d a b u.imm))

/-- The operation of an engine; `used` as in the lane sequencer (a word with tile ports is no illegal word: Table 16.9 refuses it). -/
def engineFu (u : UFields) (used : Bool × Bool × Bool) : Option (Option Instr) :=
  let alu : List Nat := [1, 2, 3, 7, 8, 0x0B, 0x0C, 0x0D, 0x0E, 0x0F, 0x10]
  let op := u.fop.toNat
  whenOk (u.fc == 0 && u.ft == 0)
    (if op = 0 then whenOk ((u.fd == 0 || used.1) && (u.fa == 0 || used.2.1) && (u.fb == 0 || used.2.2)) (some none)
    else (dstOf u.fd).bind fun d => (selOf u.fa).bind fun a => (selOf u.fb).bind fun b =>
      if alu.contains op then some (some (.microEngineAlu u.fop d a b u.imm))
      else if op = 0x40 then whenOk (b == .zero) (some (some (.microMov d a u.imm)))
      else if op = 0x41 then whenOk (b == .zero && decide (1 ≤ u.imm.toNat ∧ u.imm.toNat ≤ 72)) (some (some (.zxf d a u.imm)))
      else if op = 0x4B then whenOk (b == .zero) (some (some (.tok d a u.imm)))
      else none)

/-! ## Tile ports and address generators -/

/-- The tile ports of a word (Table 16.7). -/
def portsOf (u : UFields) : Option (List Instr) :=
  let a : Option (List Instr) := match u.ta.toNat with
    | 0 => some []
    | 1 => (selOf u.fa).map fun a => [Instr.afeed a]
    | _ => none
  let b : Option (List Instr) := match u.tb.toNat with
    | 0 => some []
    | 1 => (selOf u.fb).map fun b => [Instr.bfeed b]
    | 2 => some [Instr.bslot]
    | _ => none
  let c : Option (List Instr) := match u.tc.toNat with
    | 0 => some []
    | 1 => some [Instr.outer]
    | 2 => (dstOf u.fd).map fun d => [Instr.crow d]
    | 3 => (dstOf u.fd).map fun d => [Instr.crowhi d]
    | 4 => (selOf u.fd).map fun d => [Instr.cwrow d]
    | 5 => (selOf u.fd).map fun d => [Instr.cwrowhi d]
    | 6 => some [Instr.tclr]
    | _ => none
  a.bind fun a => b.bind fun b => c.map fun c => a ++ b ++ c

/-- An address generator's operation (Table 16.6): none where it is illegal in the class. A ring operation reads IMM[4:0] alone, and `send` IMM[2:0]; `xfer`
and `xferb` name their ring by the slot that they hold (R307, R332). -/
def agOf (c : UClass) (ag : BitVec 12) (imm : BitVec 12) : Option (Option Instr) :=
  let ma : Fin 16 := (bits ag 4 4).toFin
  let md : Fin 16 := (bits ag 0 4).toFin
  let ring := !imm.getLsbD 4 || c == .base
  match (bits ag 8 4).toNat with
  | 0 => whenOk (ma == 0 && md == 0) (some none)
  | 1 => some (some (.padrd ma md))
  | 2 => some (some (.padwr ma md))
  | 3 => whenOk c.lane (some (some (.lanerd ma md)))
  | 4 => whenOk c.lane (some (some (.lanewr ma md)))
  | 5 => whenOk (!c.lane) (some (some (.sprd ma md)))
  | 6 => whenOk (!c.lane) (some (some (.spwr ma md)))
  | 7 => whenOk (ma == 0 && ring) (some (some (.claim md imm)))
  | 8 => whenOk (ma == 0 && md == 0 && ring) (some (some (.pub imm)))
  | 9 => whenOk (ma == 0 && ring) (some (some (.wait md imm)))
  | 10 => whenOk (ma == 0 && md == 0 && ring) (some (some (.rel imm)))
  | 11 => whenOk (!c.lane) (some (some (.xfer ma md imm)))
  | 12 => whenOk (!c.lane) (some (some (.xferb ma md imm)))
  | 13 => whenOk (c == .coll) (some (some (.send ma md imm)))
  | 14 => whenOk (c == .coll) (some (some (.radd ma md)))
  | _ => none

/-! ## Sequencing -/

/-- The sequencing of a word (Table 16.8): a target lies in the routine's region (R310), and CONT only in the lane sequencer (R316). -/
def seqOf (c : UClass) (u : UFields) : Option Instr :=
  let mc : Fin 16 := u.mc.toFin
  let there := u.tgt.toNat < 0x400
  match u.seq.toNat with
  | 1 => whenOk (mc == 0 && u.tgt == 0) (some .microNext)
  | 2 => whenOk there (some (.brt mc u.tgt))
  | 3 => whenOk there (some (.brf mc u.tgt))
  | 4 => whenOk (mc == 0 && there) (some (.microJmp u.tgt))
  | 5 => whenOk (mc == 0 && there) (some (.microLoop u.tgt))
  | 6 => whenOk (mc == 0 && u.tgt == 0) (some .microEnd)
  | 7 => whenOk (mc == 0 && there && c.lane) (some (.microCont u.tgt))
  | _ => none

/-- Whether an operation reads IMM. -/
def readsImm (i : Instr) : Bool :=
  match i with
  | .microMov _ a _ => a == .imm
  | .microVectorFop fop _ _ a b _ => a == .imm || b == .imm || (subOp fop.toNat && b == .imm)
  | .microEngineAlu _ _ a b _ => a == .imm || b == .imm
  | .divpre _ a b | .pcomp _ a b | .pcompf _ a b => a == .imm || b == .imm
  | .divfin _ a | .pnz _ a | .pscan _ a | .ptot _ a | .afeed a => a == .imm
  | .bfeed b => b == .imm
  | .cwrow d | .cwrowhi d => d == .imm
  | .zxf _ _ _ | .tok _ _ _ | .pclamp _ _ _ | .pcnt _ _ _ | .claim _ _ | .pub _ | .wait _ _ | .rel _ | .send _ _ _ => true
  | _ => false

/-- The parts of a tenant or collective micro-word, or none where it is illegal (R310). -/
def decodeMicro (c : UClass) (w : BitVec 128) : Option Parts :=
  let u := unpackU w
  let used := (decide (2 ≤ u.tc.toNat ∧ u.tc.toNat ≤ 5), u.ta == 1, u.tb == 1)
  (portsOf u).bind fun ports =>
  (if c.lane then laneFu u used else engineFu u used).bind fun fu =>
  (agOf c u.ag0 u.imm).bind fun a0 =>
  (agOf c u.ag1 u.imm).bind fun a1 =>
  (seqOf c u).bind fun sq =>
  whenOk (u.imm == 0 || (fu.toList ++ ports ++ a0.toList ++ a1.toList).any readsImm)
    (some { fu := fu, ports := ports, ag0 := a0, ag1 := a1, seq := sq, banken := u.banken, imm := u.imm, index := false })

/-! ## The base region (R301, R302) -/

/-- A micro-word from its fields (Table 16.3), with every PAD bank enabled, as the published routines are assembled (R329). -/
def baseBits (seq mc tgt fop fd fa fb ag0 imm : Nat) : BitVec 128 :=
  BitVec.ofNat 128 (seq * 2 ^ 124 + mc * 2 ^ 120 + tgt * 2 ^ 108 + fop * 2 ^ 100 + fd * 2 ^ 93 + fa * 2 ^ 88 + fb * 2 ^ 83 + ag0 * 2 ^ 56 +
    0xFFFF_FFFF * 2 ^ 12 + imm)

/-- The words of VFDIV, PART and XLD `.stride` (R330 to R332), and the directory's jumps to the entries of Table 16.2: those of XLD and XST go to the
first entry of the opcode, and the mode chooses among its entries (log 13); none where the manual prints no word. -/
def printedWord (w : Nat) : Option (BitVec 128) :=
  if w = 0 then some (baseBits 1 0 0 0x43 0x10 2 3 0 0)
  else if w < 7 then some (baseBits 1 0 0 0x44 0 0 0 0 0)
  else match w with
    | 0x007 => some (baseBits 6 0 0 0x45 1 0x10 0 0 0)
    | 0x010 => some (baseBits 1 0 0 0x46 0x10 2 0 0 0)
    | 0x011 => some (baseBits 1 0 0 0x47 0x11 0x10 0 0 0)
    | 0x012 => some (baseBits 1 0 0 0x48 1 0x10 0x11 0 0)
    | 0x013 => some (baseBits 1 0 0 0x49 5 0x10 0x11 0 0)
    | 0x014 => some (baseBits 1 0 0 0x4A 3 0x10 0 0 0)
    | 0x015 => some (baseBits 6 0 0 0x40 0x10 0 0 0 0)
    | 0x110 => some (baseBits 1 0 0 0x40 0x10 8 0 0 0)
    | 0x111 => some (baseBits 1 0 0 0x10 0x11 1 7 0 24)
    | 0x112 => some (baseBits 1 0 0 0x41 0x1E 1 0 0 24)
    | 0x113 => some (baseBits 1 0 0 0x0C 0x13 0x10 0x11 0 0)
    | 0x114 => some (baseBits 2 3 0x11A 0x0B 0x13 0x13 7 0 7)
    | 0x115 => some (baseBits 3 14 0x119 0x40 0x1F 0x1E 0 0 0)
    | 0x116 => some (baseBits 1 0 0 0 0 0 0 0x702 0x10)
    | 0x117 => some (baseBits 1 0 0 0 0 0 0 0xB02 0)
    | 0x118 => some (baseBits 5 0 0x116 0x01 0x10 0x10 0x11 0x800 0x10)
    | 0x119 => some (baseBits 6 0 0 0x4B 1 0x1E 0 0 0)
    | 0x11A => some (baseBits 6 0 0 0x4B 1 0 0 0 5)
    | 0x29B => some (baseBits 4 0 0x000 0 0 0 0 0 0)
    | 0x2AB => some (baseBits 4 0 0x010 0 0 0 0 0 0)
    | 0x2AC => some (baseBits 4 0 0x020 0 0 0 0 0 0)
    | 0x3C5 => some (baseBits 4 0 0x100 0 0 0 0 0 0)
    | 0x3C6 => some (baseBits 4 0 0x140 0 0 0 0 0 0)
    | 0x3C7 | 0x3C8 => some (baseBits 4 0 0x180 0 0 0 0 0 0)
    | 0x3D8 => some (baseBits 4 0 0x1C0 0 0 0 0 0 0)
    | _ => none

/-- Word w of the base region (Table 16.1): the printed words, and the constants of the silicon for the others. -/
def baseRegion (w : Nat) : BitVec 128 := (printedWord w).getD (Config.baseWord w)

/-- A word of the printed routines of the lane sequencer: VFDIV and PART. -/
def laneWord (mpc : Nat) : Option Parts := whenOk (decide (mpc < 0x16)) ((printedWord mpc).bind (decodeMicro .v))

/-! ## The base routines of the access engines (log 13) -/

/-- A base micro-word. -/
def baseParts (fu ag0 : Option Instr) (imm : BitVec 12) (seq : Instr) : Parts :=
  { fu := fu, ports := [], ag0 := ag0, ag1 := none, seq := seq, banken := 0xFFFF_FFFF, imm := imm, index := false }

/-- A temporary. -/
abbrev tmp (n : Fin 16) : Sel := .m n

/-- The words that fill the slots and end the routine: `b` is the number of the first, `back` where the loop goes, `load` whether it is
XLD. -/
def baseTail (load index : Bool) (b : BitVec 12) (k : Nat) : Option Parts :=
  let add : Option Instr := if index then none else some (.microEngineAlu 1 (tmp 0) (tmp 0) (tmp 1) 0x10)
  match k with
  | 0 => some { baseParts none (some (if load then .claim 2 0x10 else .wait 2 0x10)) 0x10 .microNext with index := index }
  | 1 => some (baseParts none (some (if load then .xfer 0 2 0 else .xferb 2 0 0)) 0 .microNext)
  | 2 => some (baseParts add (some (if load then .pub 0x10 else .rel 0x10)) 0x10 (.microLoop b))
  | 3 => some (baseParts (some (.tok .opd (tmp 14) 0)) none 0 .microEnd)
  | 4 => some (baseParts (some (.tok .opd .zero 5)) none 5 .microEnd)
  | _ => none

/-- The words of `.stream`, and of XST's `.stride`: they are those of R332, but for the second, which under `.stream` leaves in m1 the slot size that it holds
from the start. -/
def baseStride (load stream : Bool) (e : Nat) (k : Nat) : Option Parts :=
  let at_ (n : Nat) : BitVec 12 := BitVec.ofNat 12 (e + n)
  match k with
  | 0 => some (baseParts (some (.microMov (tmp 0) .ea 0)) none 0 .microNext)
  | 1 => some (baseParts (some (if stream then .microMov (tmp 1) (tmp 1) 0 else .microEngineAlu 0x10 (tmp 1) .opd .imm 24)) none 24 .microNext)
  | 2 => some (baseParts (some (.zxf (tmp 14) .opd 24)) none 24 .microNext)
  | 3 => some (baseParts (some (.microEngineAlu 0x0C (tmp 3) (tmp 0) (tmp 1) 0)) none 0 .microNext)
  | 4 => some (baseParts (some (.microEngineAlu 0x0B (tmp 3) (tmp 3) .imm 7)) none 7 (.brt 3 (at_ 10)))
  | 5 => some (baseParts (some (.microMov (tmp 15) (tmp 14) 0)) none 0 (.brf 14 (at_ 9)))
  | k => if k < 11 then baseTail load false (at_ 6) (k - 6) else none

/-- The words of `.index`, whose claims take m0 from the index list. -/
def baseIndex (e : Nat) (k : Nat) : Option Parts :=
  let at_ (n : Nat) : BitVec 12 := BitVec.ofNat 12 (e + n)
  match k with
  | 0 => some (baseParts (some (.microEngineAlu 0x10 (tmp 1) .opd .imm 24)) none 24 .microNext)
  | 1 => some (baseParts (some (.microEngineAlu 0x0E (tmp 3) (tmp 1) .imm 2)) none 2 .microNext)
  | 2 => some (baseParts (some (.microEngineAlu 0x0C (tmp 3) (tmp 3) .ea 0)) none 0 .microNext)
  | 3 => some (baseParts (some (.microMov (tmp 0) .ea 0)) none 0 .microNext)
  | 4 => some (baseParts (some (.microEngineAlu 0x0B (tmp 3) (tmp 3) .imm 7)) none 7 (.brt 3 (at_ 11)))
  | 5 => some (baseParts (some (.zxf (tmp 14) .opd 24)) none 24 .microNext)
  | 6 => some (baseParts (some (.microMov (tmp 15) (tmp 14) 0)) none 0 (.brf 14 (at_ 10)))
  | k => if k < 12 then baseTail true true (at_ 7) (k - 7) else none

/-- The entry of the routine of XLD or XST (Table 16.2). -/
def baseEntry (load : Bool) (mode : XMode) : Nat :=
  match load, mode with
  | true, .stream => 0x100
  | true, .stride => 0x110
  | true, .index => 0x120
  | false, .stream => 0x140
  | false, _ => 0x150

/-- A base word of the access engines. -/
def baseWord (mpc : Nat) : Option Parts :=
  if mpc < 0x110 then baseStride true true 0x100 (mpc - 0x100)
  else if mpc < 0x120 then (printedWord mpc).bind (decodeMicro .base)
  else if mpc < 0x140 then baseIndex 0x120 (mpc - 0x120)
  else if mpc < 0x150 then baseStride false true 0x140 (mpc - 0x140)
  else baseStride false false 0x150 (mpc - 0x150)

/-! ## What a routine may write -/

/-- The selector that a part writes. -/
def writesSel (i : Instr) : List Sel :=
  match i with
  | .microMov d _ _ | .lidx d | .divpre d _ _ | .divfin d _ | .pnz d _ | .pscan d _ | .pcomp d _ _ | .pcompf d _ _ | .ptot d _ | .pclamp d _ _
  | .pcnt d _ _ | .microVectorFop _ _ d _ _ _ | .microEngineAlu _ d _ _ _ | .zxf d _ _ | .tok d _ _ | .crow d | .crowhi d => [d]
  | _ => []

/-- Words that may follow a word. -/
def Parts.next (p : Parts) (mpc : Nat) : List Nat :=
  match p.seq with
  | .microNext => [mpc + 1]
  | .brt _ t | .brf _ t | .microLoop t => [mpc + 1, t.toNat]
  | .microJmp t | .microCont t => [t.toNat]
  | _ => []

/-- The words that a routine may reach. -/
def reachWords (c : UClass) (ws : NMap (BitVec 128)) : Nat → List Nat → List Nat → List Nat
  | 0, _, seen => seen
  | _, [], seen => seen
  | fuel + 1, k :: todo, seen =>
    if seen.contains k then reachWords c ws fuel todo seen
    else
      let next := match decodeMicro c (NMap.getD ws k 0) with
        | none => []
        | some p => p.next k
      reachWords c ws fuel (next ++ todo) (k :: seen)

/-- The selectors that a routine may write, from its entry on. -/
def routineWrites (c : UClass) (ws : NMap (BitVec 128)) (entry : Nat) : List Sel :=
  (reachWords c ws 3072 [entry] []).flatMap fun k =>
    match decodeMicro c (NMap.getD ws k 0) with
    | none => []
    | some p => (p.fu.toList ++ p.ports).flatMap writesSel

end Sys2Proof.Machine
end

