-- ==== Sys2Proof/Machine/Engines.lean ====
section
/-!
DEFINITION. Engine jobs: their footprints and checks at issue (R26, R184), access routines (R199), copy jobs (R201, R202), the memory-side
scan (R220, R221, R404), and tokens (R196). The routines' steps are those of Micro.lean.
-/
namespace Sys2Proof.Machine

/-! ## Jobs -/

/-- A job of the executing shift, still without footprints. -/
def State.newJob (s : State) (i : Instr) (eng : Nat) (d opi opx : Word) (ea : Int) (tok : SNum) : Job :=
  { id := s.nextJob, sh := s.me, core := s.myCore, eng := eng, raw := s.cur.raw, instr := i, desc := d, opi := opi, opx := opx, ea := a72i ea,
    src := 0, tok := tok, state := 1, reads := [], writes := [], done := 0, seq := s.x.tim.seq, unit := MicroUnit.zero, todo := [], best := [],
    count := 0, cause := none, buf := none, handles := s.x.handles, began := s.dcc, scans := [] }

/-- A job enqueued; its token register is interlocked (R192). -/
def State.addJob (s : State) (j : Job) : State :=
  ({ s with jobs := s.jobs ++ [j], nextJob := s.nextJob + 1 }).modX fun x => x.markS j.tok

/-- A token written with nothing enqueued (R202, R283). -/
def State.tokenNow (s : State) (tok : SNum) (w : Word) : State := (s.modX fun x => x.markS tok).post (.token s.me tok w none)

/-- Whether an engine's queue is full (R193): 4 jobs of an address engine, 16 of the copy engine. -/
def State.engineFull (s : State) (eng : Nat) : Bool :=
  let n := (s.jobs.filter fun j => j.core == s.myCore && j.eng == eng && decide (j.state < 4)).length
  if eng = 0 then decide (16 ≤ n) else if eng = 3 then false else decide (4 ≤ n)

/-- The footprints of a shift with the implicit ones that it may use plainly (R180): its stack and the slots that it holds. -/
def Shift.feetAll (s : State) (x : Shift) : List Foot :=
  let stack : Foot := { space := .pad, mode := 1, host := false, base := x.sp.stkb.toNat, len := x.sp.stkl.toNat - x.sp.stkb.toNat, rows := 1, rstride := 0 }
  let slots := (x.rings.toList.filter fun q => q.v && (q.hc || q.hw)).map fun q =>
    { space := q.sp, mode := 1, host := false, base := (s.slotAt q x.place.core q.hk : Nat), len := 2 ^ s.ringByte q x.place.core 1, rows := 1,
      rstride := 0 : Foot }
  x.img.feet ++ stack :: slots

/-- The bytes of a ring's slot array. -/
def State.slotArray (s : State) (r : RingObj) : Foot :=
  let sp := spaceOfNum r.space
  let m := s.spaceMem sp r.dom
  { space := sp, mode := 1, host := false, base := ((r.base + 0x80 : Nat) : Int), len := m.1.ringSlots (m.2 + r.base) * 2 ^ m.1.ringLog2 (m.2 + r.base),
    rows := 1, rstride := 0 }

/-- The part of a ring's slot array that a shift may not touch: all but the slot that it holds; a part of no bytes is none. -/
def State.notHeld (s : State) (x : Shift) (r : RingObj) : List Foot :=
  let a := s.slotArray r
  match x.rings.toList.find? fun q => q.v && (q.hc || q.hw) && q.space == r.space && q.base == r.base with
  | none => [a]
  | some q =>
    let sz := 2 ^ s.ringByte q x.place.core 1
    let lo := q.hk * sz
    [{ a with len := lo }, { a with base := a.base + ((lo + sz : Nat) : Int), len := a.len - (lo + sz) }].filter fun f => f.len != 0

/-- A footprint of a job checked against those of its shift (R184): none where it passes. -/
def State.jobFoot (s : State) (x : Shift) (write : Bool) (f : Foot) : Option FaultInfo :=
  let core := x.place.core
  let meets (lo len : Nat) : Bool := (upto 0 f.rows).any fun j => decide (f.base + (j : Int) * f.rstride < (lo + len : Nat)) &&
    decide ((lo : Int) < f.base + (j : Int) * f.rstride + f.len)
  let rings := if f.space == .glob then [] else s.ringsAt f.space core
  -- every byte of a slot array has the implicit footprint of Table 9.6, and check 7 says which of them the shift holds
  let feet := x.feetAll s ++ rings.map s.slotArray
  if f.len = 0 ∨ f.rows = 0 then none
  else if f.space == .glob && !f.within 0 (2 ^ 72) then
    some (({ cause := 9, stage := 1, level := 5 } : WalkFault).info 0 f.base)
  else if !f.within 0 (spLimit f.space) then some (memFault 0 1 f.base)
  else if f.space == .pad && (upto 0 32).any (fun b => !x.place.banks.getLsbD b && meets (b * 0x8000) 0x8000) then some (memFault 0 2 f.base)
  else if (f.space == .pad && meets (topBank x.place.banks * 0x8000 + 0x3000) 0x5000) || rings.any (fun r => meets r.base 0x80) then
    some (memFault 0 8 f.base)
  else if !f.coveredBy feet then some (memFault 0 3 f.base)
  else if !f.coveredBy (feet.filter fun g => (if write then Acc.write else Acc.read).permitted g.mode) then some (memFault 0 4 f.base)
  else if rings.any fun r => (s.notHeld x r).any fun a => f.overlaps a then some (memFault 0 6 f.base)
  else none

/-- The first failure of a job's footprints. -/
def State.jobFeet (s : State) (x : Shift) (reads writes : List Foot) : Option FaultInfo :=
  ((reads.map fun f => (false, f)) ++ writes.map fun f => (true, f)).findSome? fun p => s.jobFoot x p.1 p.2

/-- The verdict of a job at issue: its footprints, then an earlier acquire (R187) and a full queue (R193). -/
def State.jobCheck (s : State) (eng : Nat) (reads writes : List Foot) : Verdict :=
  match s.jobFeet s.x reads writes with
  | some f => .fault f
  | none => if s.acquirePending s.me || s.engineFull eng then .hold s else .go

/-- One run of bytes as a footprint. -/
def runFoot (sp : Space) (base : Int) (len rows : Nat) (stride : Int) : Foot :=
  { space := sp, mode := 1, host := false, base := base, len := len, rows := rows, rstride := stride }

/-! ## Access routines (R199) -/

/-- The count N of a descriptor. -/
def descN (d : Word) : Nat := wbits d 0 24

/-- The stride of a descriptor. -/
def descStride (d : Word) : Int := sx 40 (wbits d 24 40)

/-- The index list of a descriptor. -/
def descList (d : Word) : Nat := wbits d 24 20

/-- The BADDESC conditions of R199. -/
def badDesc (mode : XMode) (ea : Int) (d : Word) : Bool :=
  ea % 8 != 0 || (mode == .stride && descStride d % 8 != 0) || (mode == .index && descList d % 2 != 0)

/-- The footprints in memory and in PAD of an access routine, none where it moves nothing. -/
def accessFeet (mode : XMode) (sp : Space) (ea : Int) (d : Word) (sz : Nat) : List Foot :=
  let n := descN d
  if badDesc mode ea d ∨ n = 0 then []
  else match mode with
    | .stream => [runFoot sp ea (n * sz) 1 0]
    | .stride => [runFoot sp ea sz n (descStride d)]
    | .index => [runFoot sp ea (65536 * sz) 1 0, runFoot .pad (descList d : Nat) (2 * n) 1 0]

/-- The footprints of an access routine of the executing shift. -/
def State.accessFeetOf (s : State) (mode : XMode) (q : QNum) (sd : SNum) (m : MemX) : List Foot :=
  accessFeet mode m.sp (s.x.eaX m) (s.rs sd) (2 ^ s.ringByte (s.ring q) s.myCore 1)

/-- The check of XLD and XST. -/
def State.accessCheck (s : State) (load : Bool) (mode : XMode) (e1 : Bool) (q : QNum) (sd : SNum) (m : MemX) : Verdict :=
  let r := s.ring q
  let feet := s.accessFeetOf mode q sd m
  if !r.v || !(if load then r.prod else r.cons).getLsbD s.x.place.stage then .fault heldFault
  else s.jobCheck (if e1 then 2 else 1) (if load then feet else []) (if load then [] else feet)

/-- The job of XLD and XST enqueued. -/
def State.accessJob (s : State) (load : Bool) (i : Instr) (mode : XMode) (e1 : Bool) (q : QNum) (sd : SNum) (m : MemX) : State :=
  let feet := s.accessFeetOf mode q sd m
  let j := s.newJob i (if e1 then 2 else 1) (s.rs sd) (s.rs m.xi) 0 (s.x.eaX m) sd
  s.addJob { j with reads := if load then feet else [], writes := if load then [] else feet }

/-- XLD (R199). -/
def execXld (mode : XMode) (e1 : Bool) (q : QNum) (sd : SNum) (m : MemX) (s : State) : Out :=
  atIssue (fun s => s.accessCheck true mode e1 q sd m) (fun s => s.accessJob true (.xld mode e1 q sd m) mode e1 q sd m) s

/-- XST (R199). -/
def execXst (mode : XMode) (e1 : Bool) (q : QNum) (sd : SNum) (m : MemX) (s : State) : Out :=
  atIssue (fun s => s.accessCheck false mode e1 q sd m) (fun s => s.accessJob false (.xst mode e1 q sd m) mode e1 q sd m) s

/-! ## Copy jobs (R201, R202) -/

/-- The shape of a copy: bytes of a row, rows, and the row strides of source and destination. -/
structure CopyShape where
  rowBytes : Nat
  rows : Nat
  srcStride : Int
  dstStride : Int
  deriving DecidableEq, Repr

/-- The shape of a copy job. -/
def copyShape (i : Instr) (opi opx : Word) : CopyShape :=
  match i with
  | .cpy2d _ _ _ _ _ => { rowBytes := wbits opi 0 32, rows := wbits opi 32 32, srcStride := sx 32 (wbits opx 0 32), dstStride := sx 32 (wbits opx 32 32) }
  | _ => { rowBytes := opi.toNat, rows := 1, srcStride := 0, dstStride := 0 }

/-- Bytes that a shape copies. -/
def CopyShape.total (c : CopyShape) : Nat := c.rowBytes * c.rows

/-- The source footprint of a copy. -/
def CopyShape.srcFoot (c : CopyShape) (sp : Space) (base : Int) : List Foot := if c.total = 0 then [] else [runFoot sp base c.rowBytes c.rows c.srcStride]

/-- The destination footprint of a copy. -/
def CopyShape.dstFoot (c : CopyShape) (sp : Space) (base : Int) : List Foot := if c.total = 0 then [] else [runFoot sp base c.rowBytes c.rows c.dstStride]

/-- The OVERLAP condition (R202): a source byte is a destination byte, or two destination rows share one. -/
def CopyShape.overlaps (c : CopyShape) (ssp dsp : Space) (src dst : Int) : Bool :=
  c.total != 0 && ((decide (1 < c.rows) && decide (c.dstStride.natAbs < c.rowBytes)) ||
    (c.srcFoot ssp src).any fun f => (c.dstFoot dsp dst).any fun g => f.overlaps g)

/-- The status of a copy that moves nothing (R202): BADLEN or OVERLAP. -/
def CopyShape.refused (c : CopyShape) (ssp dsp : Space) (src dst : Int) : Option Nat :=
  if 0xFFFF_FFFF < c.total then some 2 else if c.overlaps ssp dsp src dst then some 3 else none

/-- CPY and CPY2D: their checks in the order of R202, and the job enqueued. -/
def copyWord (i : Instr) (ssp : Space) (sd : SNum) (m : MemB) (as : ANum) (opi opx : State → Word) (s : State) : Out :=
  atIssue
    (fun s =>
      let c := copyShape i (opi s) (opx s)
      let src : Int := (s.ra as).toNat
      match c.refused ssp m.sp src (s.x.eaB m) with
      | some _ => .go
      | none => s.jobCheck 0 (c.srcFoot ssp src) (c.dstFoot m.sp (s.x.eaB m)))
    (fun s =>
      let c := copyShape i (opi s) (opx s)
      let src : Int := (s.ra as).toNat
      match c.refused ssp m.sp src (s.x.eaB m) with
      | some st => s.tokenNow sd (tokenWord 0 0 0 st)
      | none =>
        s.addJob { s.newJob i 0 0 (opi s) (opx s) (s.x.eaB m) sd with
          src := s.ra as, reads := c.srcFoot ssp src, writes := c.dstFoot m.sp (s.x.eaB m) }) s

/-- CPY (R201). -/
def execCpy (src : Space) (sd : SNum) (m : MemB) (as : ANum) (sl : SNum) (s : State) : Out :=
  copyWord (.cpy src sd m as sl) src sd m as (fun s => s.rs sl) (fun _ => 0) s

/-- CPY2D (R201): its shape in two registers. -/
def execCpy2d (src : Space) (sd : SNum) (m : MemB) (as : ANum) (sp : SNum) (s : State) : Out :=
  copyWord (.cpy2d src sd m as sp) src sd m as (fun s => s.rs sp) (fun s => s.rs (nextNum sp)) s

/-- Whether the accesses that a job's shift issued before it have been performed (R186). -/
def State.jobOrdered (s : State) (j : Job) : Bool :=
  !s.pendingUpTo j.sh j.seq &&
  (match s.sh? j.sh with
    | none => true
    | some x => !x.memLanding j.seq && !x.mx.padDue j.seq)

/-- Whether two lists of footprints share a byte. -/
def feetMeet (a b : List Foot) : Bool := a.any fun f => b.any fun g => f.overlaps g

/-- Whether the engines of a context stand still (R427, R430): from the third step of a freeze, when none of its shifts issues any more, to the end of a thaw.
A copy then ends the piece that it has begun, and a routine the step. -/
def State.enginesStand (s : State) (ctx : Nat) : Bool :=
  let st := (s.ctx ctx).frzState
  decide (2 ≤ st) || (st == 1 && s.shifts.all fun e => e.2.place.ctx != ctx || s.issuer (e.1 / 8) != some e.1)

/-- Whether the engines of a job's context stand still. -/
def State.jobStands (s : State) (j : Job) : Bool :=
  match s.sh? j.sh with
  | none => false
  | some x => s.enginesStand x.place.ctx

/-- Whether a queued copy-engine job may start (R26): every earlier job has started, none that is still running conflicts with it, and R186 holds. -/
def State.copyMayStart (s : State) (j : Job) : Bool :=
  let earlier := (s.jobs.takeWhile fun e => e.id != j.id).filter fun e => e.core == j.core && e.eng == 0 && decide (e.state < 4)
  j.eng == 0 && j.state == 1 && !s.jobStands j && s.jobOrdered j &&
    earlier.all fun e => e.state != 1 && !feetMeet e.writes j.reads && !feetMeet e.writes j.writes && !feetMeet e.reads j.writes

/-- The entry of the copy engine's routine (Table 16.2). -/
def copyEntry (i : Instr) : Nat :=
  match i with
  | .mscan _ _ _ _ _ _ => 0x1C0
  | _ => 0x180

/-- The words that the copy engine's routine executes before its loop: two for CPY and CPY2D, three for MSCAN, whose steps are 3 and 4 beside those of the
pieces and passes with the END that follows them (Table 16.2; log 13). -/
def copySetup (i : Instr) : Nat :=
  match i with
  | .mscan _ _ _ _ _ _ => 3
  | _ => 2

/-- A word of the copy engine's routine before its loop (R302, R311). -/
def State.copyWordDone (s : State) (id : Nat) : State :=
  s.modJob id fun e => { e with unit := { e.unit with mpc := e.unit.mpc + 1, steps := e.unit.steps + 1 } }

/-- COPY_JOB_START (R26): the job's routine stands at its entry. -/
def execCopyJobStart (j : Nat) (s : State) : Out :=
  match s.job? j with
  | none => .next s
  | some e => .next (if s.copyMayStart e then
      s.modJob j fun e => { e with state := 2, began := s.dcc, unit := { e.unit with mpc := copyEntry e.instr, steps := 0 } } else s)

/-! ## Accesses of engines -/

/-- Where an access of an engine stands: its home, the state after its translation, the leaf of a duplicated page that it writes, and the hops
of its route. -/
structure EngAt where
  home : Home
  st : State
  dup : Option Tlb
  via : List Byte
  /-- AC, DT or a log bit that goes before it waits (R338, R348). -/
  waits : Bool

/-- The check of an access of a job's engine (R183): those of its shift, but for the overlap with the job itself. -/
def State.engineAt (s : State) (j : Job) (x : Shift) (tlb : Nat) (micro : Bool) (k : Acc) (sp : Space) (ea : Int) (n : Nat) : Except FaultInfo EngAt :=
  match ({ s with jobs := [] }).checkAccess j.sh x 0 tlb k .sys false micro false sp ea n with
  | .error f => .error f
  | .ok t =>
    let h := s.homeOf x.place.core sp 0 ea t k.writes
    match t with
    | none => .ok { home := h, st := s, dup := none, via := [], waits := false }
    | some e =>
      let v := match e.fab with
        | some (_, n) => let r := (x.handles[n]?).getD Handle.zero; r.hops.take r.len
        | none => []
      let dup := if k.writes ∧ ((e.dupAt ea.toNat).filter s.dupLeaf).isSome then some e else none
      let st := s.useEntry e ea.toNat k.writes
      .ok { home := h, st := match e.fab with | some (_, h) => st.noteRoute j.sh h | none => st, dup := dup, via := v, waits := s.useWaits e ea.toNat k.writes }

/-- A run of bytes cut at sectors (R175); `fuel` bounds the pieces. -/
def sectorsFrom : Nat → Int → Nat → List (Int × Nat)
  | 0, _, _ => []
  | fuel + 1, ea, n =>
    let k := min n (32 - (ea % 32).toNat)
    if n = 0 then [] else (ea, k) :: sectorsFrom fuel (ea + k) (n - k)

/-- A run of bytes cut at sectors. -/
def sectors (ea : Int) (n : Nat) : List (Int × Nat) := sectorsFrom (n / 32 + 2) ea n

/-- What an engine's read gives: bytes, nothing yet, a fault, or a home in another package. -/
inductive EngRead where
  | data (bs : List Byte) (s : State)
  | wait
  | fault (f : FaultInfo)
  | remote (h : Home) (via : List Byte) (n : Nat) (s : State)

/-- One sector piece read by an engine. -/
def State.enginePiece (s : State) (j : Job) (x : Shift) (tlb : Nat) (micro : Bool) (sp : Space) (ea : Int) (n : Nat) : EngRead :=
  match s.engineAt j x tlb micro .read sp ea n with
  | .error f => .fault f
  | .ok a =>
    if a.waits then .wait
    else match a.home with
    | .fab _ _ _ => .remote a.home a.via n a.st
    | h =>
      let r := a.st.homeRead h n
      let t := if r.2.2 then a.st.kmiss (s.deviceOf x.place.ctx) else a.st
      if r.2.1 then .fault { code := 0x13, faddr := a72i ea } else .data r.1 t

/-- Pieces read one after another. -/
def enginePieces (j : Job) (x : Shift) (tlb : Nat) (micro : Bool) (sp : Space) : State → List (Int × Nat) → List Byte → EngRead
  | s, [], acc => .data acc s
  | s, p :: ps, acc =>
    match s.enginePiece j x tlb micro sp p.1 p.2 with
    | .data bs t => enginePieces j x tlb micro sp t ps (acc ++ bs)
    | r => r

/-- Bytes read by an engine, sector by sector. -/
def State.engineRead (s : State) (j : Job) (x : Shift) (tlb : Nat) (micro : Bool) (sp : Space) (ea : Int) (n : Nat) : EngRead :=
  enginePieces j x tlb micro sp s (sectors ea n) []

/-- What an engine's write comes to: done, it waits (R222, R347), a fault, or a home in another package. -/
inductive EngWrite where
  | done (s : State)
  | wait (s : State)
  | fault (f : FaultInfo)
  | remote (h : Home) (via : List Byte) (s : State)

/-- A route that passed its check for a job: the job's handle records the snapshot's generation (R278). -/
def State.noteJobRoute (s : State) (id h : Nat) : State :=
  s.modJob id fun j => match j.handles[h]? with
    | none => j
    | some r => { j with handles := j.handles.setIfInBounds h { r with gen := s.fab.tgen % 2 ^ 32 } }

/-- The collapse record of a page that an engine writes (R347). -/
def State.engineCollapse (s : State) (e : Tlb) (va core : Nat) : State :=
  match e.dupAt va with
  | none => s
  | some leaf =>
    if s.collapses.any fun c => c.leaf == leaf then s
    else { s with collapses := s.collapses ++ [e.collapse va (some (core / 64))] }

/-- One sector piece written by an engine. -/
def State.engineWrite1 (s : State) (j : Job) (x : Shift) (tlb : Nat) (micro : Bool) (sp : Space) (ea : Int) (bs : List Byte) : EngWrite :=
  match s.engineAt j x tlb micro .write sp ea bs.length with
  | .error f => .fault f
  | .ok a =>
    match a.dup with
    | some e => .wait (s.engineCollapse e ea.toNat x.place.core)
    | none =>
      if a.waits then .wait s
      else match a.home with
      | .fab _ _ _ => .remote a.home a.via a.st
      | h => if s.pendAt h || (match h with | .glob pa _ => s.collapsing pa | _ => false) then .wait s else .done ((a.st.deadKey h (s.deviceOf x.place.ctx)).storeQuiet h bs)

/-! ## The steps of a copy job -/

/-- The operands of a copy job in memory: source space and base, destination space and base. -/
def Job.copyEnds (j : Job) : Space × Int × Space × Int :=
  match j.instr with
  | .cpy src _ m _ _ | .cpy2d src _ m _ _ => (src, j.src.toNat, m.sp, j.ea.toNat)
  | _ => (.pad, 0, .pad, 0)

/-- The next piece of a copy job: source, destination and bytes; one sector of the destination (R175, R202). -/
def Job.nextPiece (j : Job) : Int × Int × Nat :=
  let c := copyShape j.instr j.opi j.opx
  let e := j.copyEnds
  let r := j.done / c.rowBytes
  let k := j.done % c.rowBytes
  let src := e.2.1 + (r : Int) * c.srcStride + k
  let dst := e.2.2.2 + (r : Int) * c.dstStride + k
  (src, dst, min (c.rowBytes - k) (32 - (dst % 32).toNat))

/-- A job that a fault stops (R202): its token takes FAULT, or ROUTE for a route fault, with its count. -/
def State.failJob (s : State) (j : Job) (count : Nat) (f : FaultInfo) : State :=
  s.jobDone j.id (tokenWord count (tokenCause f) f.code (if f.code = 0x0E then 6 else 1))

/-- A job's piece counted as moved, which is one step of its routine's loop (Table 16.2). -/
def State.movedBytes (s : State) (j : Job) (n : Nat) : State :=
  s.modJob j.id fun e => { e with done := e.done + n, buf := none, unit := { e.unit with steps := e.unit.steps + 1 } }

/-- Whether a job is a copy, and so a job of pieces (R201). -/
def Job.isCopy (j : Job) : Bool :=
  match j.instr with
  | .cpy _ _ _ _ _ | .cpy2d _ _ _ _ _ => true
  | _ => false

/-- The copy jobs of a context as their shifts resume after a thaw: their footprints are checked again, and one that fails ends with STATUS FAULT and
COUNT = DONE (R429). -/
def State.recheckCopies (s : State) (ctx : Nat) : State :=
  s.jobs.foldl (fun (t : State) j =>
    match s.sh? j.sh with
    | none => t
    | some x =>
      if !j.isCopy ∨ 4 ≤ j.state ∨ x.place.ctx ≠ ctx then t
      else match s.jobFeet x j.reads j.writes with
        | none => t
        | some f => t.jobDone j.id (tokenWord j.done (tokenCause f) f.code 1)) s

/-- Whether a job waits for the fabric. -/
def State.jobAway (s : State) (id : Nat) : Bool := s.fab.ops.any fun o => o.job == some id

/-- An access of a job injected into the fabric. -/
def State.injectJob (s : State) (j : Job) (h : Home) (via : List Byte) (va : Int) (act : Nat → FabAct) : State :=
  match h with
  | .fab pkg pa key =>
    s.inject (newOp (some j.sh) 2 j.core (some j.id) pkg (act pa) (a72i va) via key)
  | _ => s

/-- The bytes of a copy's piece written, or kept where the write waits. -/
def State.copyPut (s : State) (j : Job) (x : Shift) (dst : Int) (bs : List Byte) : State :=
  match s.engineWrite1 j x 3 false j.copyEnds.2.2.1 dst bs with
  | .done t => t.movedBytes j bs.length
  | .wait t => t.modJob j.id fun e => { e with buf := some bs }
  | .fault f => s.failJob j j.done f
  | .remote h via t => (t.injectJob j h via dst fun pa => .write pa bs).modJob j.id fun e => { e with buf := some bs }

/-- A step of a copy job (R202, Table 16.2): a word before the loop, a piece, or the END that writes the token. -/
def State.copyStep (s : State) (j : Job) (x : Shift) : State :=
  let p := j.nextPiece
  let ssp := j.copyEnds.1
  if j.unit.steps < copySetup j.instr then s.copyWordDone j.id
  else if (copyShape j.instr j.opi j.opx).total ≤ j.done then s.jobDone j.id (tokenWord j.done 0 0 0)
  else match j.buf with
    | some bs => s.copyPut j x p.2.1 bs
    | none =>
      match s.engineRead j x 3 false ssp p.1 p.2.2 with
      | .fault f => s.failJob j j.done f
      | .wait => s
      | .data bs t => t.copyPut j x p.2.1 bs
      | .remote _ _ _ _ =>
        match s.enginePiece j x 3 false ssp p.1 (min p.2.2 (32 - (p.1 % 32).toNat)) with
        | .fault f => s.failJob j j.done f
        | .wait => s
        | .data bs t => t.copyPut j x p.2.1 bs
        | .remote h via n t => t.injectJob j h via p.1 fun pa => .read pa n

/-- Whether a running job of the copy engine can take its next step: nothing of it is in flight, it has not stepped in this cycle (R311), and it does not
stand still before a piece (R427). -/
def State.copySteps (s : State) (j : Job) : Bool :=
  j.state == 2 && !s.jobAway j.id && j.unit.last != some s.dcc && (j.buf.isSome || !s.jobStands j)

/-- Whether a copy job can take its next step. -/
def State.copyReady (s : State) (j : Job) : Bool := j.isCopy && s.copySteps j

/-- A job whose engine has stepped in this cycle. -/
def State.stepped (s : State) (id : Nat) : State := s.modJob id fun j => { j with unit := { j.unit with last := some s.dcc } }

/-- COPY_PIECE (R202): one sector piece of job j, and its token after the last. -/
def execCopyPiece (j : Nat) (s : State) : Out :=
  match s.job? j with
  | none => .next s
  | some e =>
    match s.sh? e.sh with
    | none => .next s
    | some x => .next (if s.copyReady e then (s.copyStep e x).stepped j else s)

/-- TOKEN_WRITE (R196): message k, a token, written; its job is no longer outstanding. -/
def execTokenWrite (k : Nat) (s : State) : Out :=
  match s.msgs[k]? with
  | some (.token i dst w job) =>
    let t := { s with msgs := dropAt s.msgs k, jobs := s.jobs.filter fun j => some j.id != job }
    .next (t.modSh i fun x => (x.setS dst w).unmarkS dst)
  | _ => .next s

/-! ## The memory-side scan (R220, R221) -/

/-- The element width in bytes of a scan. -/
def scanWidth : ScanFmt → Nat
  | .bf16 => 2 | _ => 4

/-- The value of an element of a scan; none for a NaN. -/
def scanValue (f : ScanFmt) (e : Nat) : Option FV :=
  let v := match f with
    | .f32 => decodeFV .f32 e
    | .bf16 => decodeFV .bf16 e
    | .s32 => ofInt (sx 32 e)
    | .z32 => ofInt e
  if v.isNan then none else some v

/-- Whether element a, with its index, ranks before element b (R221). -/
def ranksBefore (op : ScanOp) (f : ScanFmt) (a b : Word × Nat) : Bool :=
  match scanValue f a.1.toNat, scanValue f b.1.toNat with
  | some u, some v => if op == .botk then fvLt u v || (!fvLt v u && decide (a.2 < b.2)) else fvLt v u || (!fvLt u v && decide (a.2 < b.2))
  | _, _ => false

/-- A ranked element put in its place. -/
def rankIn (op : ScanOp) (f : ScanFmt) (e : Word × Nat) : List (Word × Nat) → List (Word × Nat)
  | [] => [e]
  | b :: l => if ranksBefore op f e b then e :: b :: l else b :: rankIn op f e l

/-- The fields of a scan: N, K, the output address, the threshold. -/
def scanFields (f : ScanFmt) (sn so : Word) : Nat × Nat × Nat × Nat := (wbits sn 0 32, wbits sn 32 6 + 1, wbits so 0 20, wbits so 32 (8 * scanWidth f))

/-- The footprints of a scan. -/
def scanFeet (op : ScanOp) (f : ScanFmt) (ea : Int) (sn so : Word) : List Foot × List Foot :=
  let p := scanFields f sn so
  (if p.1 = 0 then [] else [runFoot .glob ea (p.1 * scanWidth f) 1 0], if op == .cntge then [] else [runFoot .pad (p.2.2.1 : Nat) (8 * p.2.1) 1 0])

/-- The BADDESC conditions of MSCAN (R220). -/
def scanBad (f : ScanFmt) (ea : Int) (so : Word) : Bool := ea % (scanWidth f : Int) != 0 || wbits so 0 3 != 0

/-- The lines of GLOB that a scan of n bytes from an address reads. -/
def scanLines (ea n : Nat) : List Nat := if n = 0 then [] else upto (ea / 128) ((ea + n - 1) / 128 + 1 - ea / 128)

/-- MSCAN (R220). -/
def execMscan (op : ScanOp) (fmt : ScanFmt) (sd : SNum) (m : MemB) (sn so : SNum) (s : State) : Out :=
  atIssue
    (fun s =>
      let feet := scanFeet op fmt (s.x.eaB m) (s.rs sn) (s.rs so)
      if scanBad fmt (s.x.eaB m) (s.rs so) then .go else s.jobCheck 0 feet.1 feet.2)
    (fun s =>
      let ea := s.x.eaB m
      let feet := scanFeet op fmt ea (s.rs sn) (s.rs so)
      let n := (scanFields fmt (s.rs sn) (s.rs so)).1 * scanWidth fmt
      if scanBad fmt ea (s.rs so) then s.tokenNow sd (tokenWord 0 0 0 5)
      else
        s.addJob { s.newJob (.mscan op fmt sd m sn so) 0 0 (s.rs sn) (s.rs so) ea sd with
          reads := feet.1, writes := feet.2, todo := scanLines ea.toNat n }) s

/-- The scan unit that reads a line of a job's range: 32 × stack + channel, or 512 for the copy engine itself (R404). -/
def State.scanUnitOf (s : State) (j : Job) (x : Shift) (line : Nat) : Nat :=
  match s.translate (tlbUnit j.core 3) x.place.ctx (max (line * 128) j.ea.toNat) false false with
  | .error _ => 512
  | .ok e =>
    if e.fab.isSome then 512
    else
      let pa := s.physOf e (max (line * 128) j.ea.toNat) (some (j.core / 64)) false
      if pa < stackedEnd then 32 * s.stackAt pa + nbits pa 7 5 else 512

/-- The bytes of a line that a scan reads: the first, and how many. -/
def Job.scanSpan (j : Job) (f : ScanFmt) (line : Nat) : Nat × Nat :=
  let lo := max (line * 128) j.ea.toNat
  let hi := min (line * 128 + 128) (j.ea.toNat + wbits j.opi 0 32 * scanWidth f)
  (lo, hi - lo)

/-- The elements of a line taken into the scan (R221). -/
def Job.scanTake (j : Job) (op : ScanOp) (f : ScanFmt) (line : Nat) (bs : List Byte) : Job :=
  let w := scanWidth f
  let lo := (j.scanSpan f line).1
  let p := scanFields f j.opi j.opx
  (upto 0 (bs.length / w)).foldl (fun j k =>
    let e := ofLE ((bs.drop (w * k)).take w)
    let idx := (lo - j.ea.toNat) / w + k
    match op, scanValue f e, scanValue f p.2.2.2 with
    | .cntge, some v, some t => if fvLt v t then j else { j with count := j.count + 1 }
    | .cntge, _, _ => j
    | _, none, _ => { j with count := j.count + 1 }
    | _, some _, _ => { j with best := (rankIn op f (w64 e, idx) j.best).take p.2.1 })
    { j with todo := j.todo.filter (· != line) }

/-- The output of a scan (R221). -/
def Job.scanOut (j : Job) (f : ScanFmt) : List Byte :=
  (upto 0 (scanFields f j.opi j.opx).2.1).flatMap fun k =>
    match j.best[k]? with
    | some e => leBytes 4 e.1.toNat ++ leBytes 4 e.2
    | none => leBytes 4 0 ++ leBytes 4 0xFFFF_FFFF

/-- Pieces written one after another by a scan: the state, and the count of bytes and the fault where one stops it. -/
def scanWrites (j : Job) (x : Shift) : State → List (Int × Nat) → List Byte → Nat → State × Option (Nat × FaultInfo)
  | s, [], _, _ => (s, none)
  | s, p :: ps, bs, n =>
    match s.engineWrite1 j x 3 false .pad p.1 (bs.take p.2) with
    | .done t => scanWrites j x t ps (bs.drop p.2) (n + p.2)
    | .fault f => (s, some (n, f))
    | _ => (s, none)

/-- The end of a scan: its output written, and its token (R221). -/
def State.scanEnd (s : State) (j : Job) (x : Shift) (op : ScanOp) (f : ScanFmt) : State :=
  if op == .cntge then s.jobDone j.id (tokenWord j.count 0 0 0)
  else
    let out := j.scanOut f
    match scanWrites j x s (sectors ((scanFields f j.opi j.opx).2.2.1 : Nat) out.length) out 0 with
    | (t, none) => t.jobDone j.id (tokenWord j.count 0 0 0)
    | (t, some (n, f)) => t.failJob j n f

/-- A line of a scan read by its unit, one pass of its routine's loop. -/
def State.scanStep (s : State) (j : Job) (x : Shift) (ch : Nat) : State :=
  match j.instr with
  | .mscan op f _ _ _ _ =>
    match j.todo.find? fun l => s.scanUnitOf j x l == ch with
      | none => s
      | some l =>
        let span := j.scanSpan f l
        let r := match j.buf with
          | some bs => EngRead.data bs s
          | none => s.engineRead j x 3 false .glob (span.1 : Nat) span.2
        match r with
        | .fault f => s.failJob j 0 f
        | .wait => s
        | .remote h via _ t => t.injectJob j h via (span.1 : Nat) fun pa => .read pa span.2
        | .data bs t =>
          t.modJob j.id fun _ => { { j with buf := none }.scanTake op f l bs with unit := { j.unit with steps := j.unit.steps + 1 } }
  | _ => s

/-- A step of a scan's routine that reads no line: a word before its loop, or the END that writes the output and the token (Table 16.2). -/
def State.scanWord (s : State) (j : Job) (x : Shift) : State :=
  match j.instr with
  | .mscan op f _ _ _ _ => if j.unit.steps < copySetup j.instr then s.copyWordDone j.id else s.scanEnd j x op f
  | _ => s

/-- A step of a scan: the next word of its routine, or, where scan unit ch may read, its next line. -/
def State.scanRead (s : State) (j ch : Nat) (may : Bool) : State :=
  match s.job? j with
  | none => s
  | some e =>
    match s.sh? e.sh with
    | none => s
    | some x =>
      if !s.copySteps e then s
      else if e.unit.steps < copySetup e.instr ∨ e.todo = [] then (s.scanWord e x).stepped j
      else if !may then s
      else
        let t := s.scanStep e x ch
        if t = s then s else (t.stepped j).modJob j fun e => { e with scans := NMap.set e.scans ch s.dcc }

/-- Whether the next read of scan unit ch for a job has waited 2^WAITLG cycles (R404). -/
def State.scanWaited (s : State) (j ch : Nat) : Bool :=
  match s.job? j with
  | none => false
  | some e => decide (max e.began (NMap.getD e.scans ch 0) + 2 ^ s.mg.scanWaitlg ≤ s.dcc)

/-- SCAN_UNIT_READ (R404): scan unit ch reads its next line of job j while the occupancy of its channel is below SCANCTL.THRESH, and the copy engine (512) one
outside stacked memory, or one of no channel any more. -/
def execScanUnitRead (j ch : Nat) (s : State) : Out :=
  .next (s.scanRead j ch (decide (512 ≤ ch ∨ (Config.occupancy s.dcc ch).toNat < s.mg.scanThresh)))

/-- SCAN_WAIT_LIMIT (R404): a read that has waited 2^WAITLG cycles issues, whatever the occupancy. -/
def execScanWaitLimit (j ch : Nat) (s : State) : Out := .next (s.scanRead j ch (s.scanWaited j ch))

end Sys2Proof.Machine
end

