-- ==== Sys2Proof/Machine/Remote.lean ====
section
/-!
DEFINITION. Accesses over a named route handle (R278, R283, R285): their check and their place in the fabric.
-/
namespace Sys2Proof.Machine

/-- Where an access over a handle goes: the package, its local physical address there, the key, the hops, the translation used. -/
structure FabAt where
  pkg : Nat
  pa : Nat
  key : Nat
  hops : List Byte
  tlb : Tlb
  deriving DecidableEq, Repr

/-- The check of an access of a shift's unit over a handle (R183, R278, R283): translation and footprints on the virtual address, then the
route. A LOCAL region counts as one of this package. -/
def State.fabCheck (s : State) (i : Nat) (x : Shift) (unit tlb : Nat) (k : Acc) (h : Handle) (ea : Int) (n : Nat) : Except FaultInfo FabAt :=
  let core := x.place.core
  if ea < 0 ∨ (2 ^ 72 : Int) ≤ ea then .error ({ cause := 9, stage := 1, level := 5 : WalkFault }.info unit ea)
  else match s.translate (tlbUnit core tlb) x.place.ctx ea.toNat k.writes false with
    | .error f => .error (f.info unit ea)
    | .ok e =>
      if k.writes ∧ s.logLim e ea.toNat then .error ({ cause := 8, stage := 1, level := 0 : WalkFault }.info unit ea)
      else if k.writes ∧ s.isManifest (s.fabLineOf e ((e.pa + (ea.toNat - e.va)) / 128)) then .error (memFault unit 8 ea)
      else match s.footCheck i x unit k .sys false .glob ea n true with
      | some f => .error f
      | none =>
        let pkg := match e.fab with | some (p, _) => p | none => s.mg.idpkg
        let pa := if e.fab.isSome then e.pa + (ea.toNat - e.va) else s.physOf e ea.toNat (some (core / 64)) k.writes
        match s.routeTo h (core / 64) pkg with
        | some c => .error { code := 0x0E, cause := c, unit := unit, faddr := a72i ea }
        | none => .ok { pkg := pkg, pa := pa, key := e.key, hops := h.hops.take h.len, tlb := e }

/-- The state with the translation of an access used (R338). -/
def State.useFab (s : State) (a : FabAt) (ea : Int) (write : Bool) : State := s.useEntry a.tlb ea.toNat write

/-- The page of an access over a handle to this package made single before a write of it by a core (R347). -/
def State.collapseFab (s : State) (a : FabAt) (ea : Int) (core : Nat) : State :=
  match (a.tlb.dupAt ea.toNat).filter s.dupLeaf with
  | some leaf => if s.collapses.any fun c => c.leaf == leaf then s
      else { s with collapses := s.collapses ++ [a.tlb.collapse ea.toNat (some (core / 64))] }
  | none => s

/-- An operation of this package injected over a route (R278, R280). -/
def State.injectAt (s : State) (sh : Option Nat) (kind : Nat) (dst : Option SNum) (job : Option Nat) (die : Nat) (a : FabAt) (va : Int)
    (act : FabAct) : State :=
  let seq := ((sh.bind s.sh?).map (·.tim.seq)).getD 0
  s.inject { newOp sh kind (64 * die) job a.pkg act (a72i va) a.hops a.key with dst := dst, seq := seq }

end Sys2Proof.Machine
end

