-- ==== Sys2Proof/Machine/Micro.lean ====
section
/-!
DEFINITION. Micro-routines (chapter 16): the operands of a step, its function unit, tile ports, address generators and sequencing, the checks of
Table 16.9, and the step of a unit (R305 to R319).
-/
namespace Sys2Proof.Machine

/-! ## The unit that steps -/

/-- The record of the unit that steps. -/
def State.unit (s : State) : MicroUnit :=
  if s.cur.unit = 1 then s.x.lane else ((s.cur.job.bind s.job?).map (·.unit)).getD MicroUnit.zero

/-- The state with that record changed. -/
def State.modUnit (s : State) (f : MicroUnit → MicroUnit) : State :=
  if s.cur.unit = 1 then s.modX fun x => { x with lane := f x.lane }
  else match s.cur.job with
    | none => s
    | some j => s.modJob j fun e => { e with unit := f e.unit }

/-- The record as it stood before the step (R307). -/
def State.before (s : State) : MicroUnit := s.cur.old.getD s.unit

/-- Whether the unit that steps is the lane sequencer. -/
def State.onLane (s : State) : Bool := s.cur.unit == 1

/-- The job of the engine that steps; for the lane sequencer, one that stands for its shift. -/
def State.unitJob (s : State) : Job :=
  match s.cur.job.bind s.job? with
  | some j => j
  | none => s.newJob .nop 0 0 0 0 0 0

/-- The number of the TLB of the unit that steps. -/
def State.unitTlb (s : State) : Nat := match s.cur.unit with | 2 => 1 | 3 => 2 | 4 => 6 | _ => 0

/-! ## Operands -/

/-- A number in every lane. -/
def bcast (n : Nat) : VReg := ofLanes fun _ => BitVec.ofNat 32 n

/-- A 64-bit register read by an engine (R304). -/
def sext72 (w : Word) : VReg := (w.signExtend 72).setWidth 2048

/-- MOD of an instruction (Table 16.4). -/
def modField (i : Instr) : Nat :=
  match i with
  | .tenantV _ vt _ _ _ => vt.toNat
  | .tenantM _ _ _ _ _ _ mmod _ => mmod.toNat
  | .tenantX _ xmod _ _ _ => xmod.toNat
  | _ => 0

/-- A source (Table 16.4). EA in a routine that no X instruction invoked is an open value. -/
def State.sel (s : State) (imm : BitVec 12) (a : Sel) : VReg :=
  let u := s.before
  let num (n : Nat) : VReg := if s.onLane then bcast n else BitVec.ofNat 2048 n
  match a with
  | .zero | .opd1 => 0
  | .opd => u.opd
  | .opa => u.opa
  | .opb => u.opb
  | .opc => u.opc
  | .vl => num u.vl
  | .imm => num imm.toNat
  | .ea => if s.onLane then bcast ((Config.freeWord s.free).toNat % 2 ^ 32) else u.ea.setWidth 2048
  | .mod => num (modField u.instr)
  | .m n => u.m[n]

/-- The register that a selector names, by the instruction's class (R57). -/
def regOf (i : Instr) (a : Sel) : Option RegRef :=
  match i, a with
  | .tenantV _ _ d _ _, .opd => some (.v d)
  | .tenantV _ _ _ x _, .opa => some (.v x)
  | .tenantV _ _ _ _ y, .opb => some (.v y)
  | .tenantM _ _ _ x _ _ _ _, .opa => some (.v x)
  | .tenantM _ _ _ _ y _ _ _, .opb => some (.v y)
  | .tenantM _ _ _ _ _ z _ _, .opc => some (.v z)
  | .tenantX _ _ d _ _, .opd => some (.s d)
  | .tenantX _ _ _ _ m, .opa => some (.a m.xa)
  | .tenantX _ _ _ _ m, .opb => some (.s m.xi)
  | .tenantX _ _ _ c _, .opc => some (.s c)
  | .coll _ d _ _, .opd => some (.s d)
  | .coll _ _ m _, .opa => some (.a m.xa)
  | .coll _ _ _ l, .opb => some (.s l)
  | .xld _ _ _ d _, .opd | .xst _ _ _ d _, .opd => some (.s d)
  | _, _ => none

/-- The token register of a job (R314). -/
def tokenReg (i : Instr) : Option RegRef :=
  match i with
  | .tenantX _ _ d _ _ | .coll _ d _ _ | .xld _ _ _ d _ | .xst _ _ _ d _ => some (.s d)
  | _ => none

/-- The record with every operand that reads a register as last written (R305). -/
def MicroUnit.wrote (u : MicroUnit) (r : RegRef) (f : VReg → VReg) : MicroUnit :=
  let is (a : Sel) : Bool := regOf u.instr a == some r
  { u with
    opd := if is .opd then f u.opd else u.opd,
    opa := if is .opa then f u.opa else u.opa,
    opb := if is .opb then f u.opb else u.opb,
    opc := if is .opc then f u.opc else u.opc,
    wopd := u.wopd || is .opd }

/-- The first n lanes of a destination written (the lane sequencer), or its value (the other units): a temporary, or a register of the
instruction; the token of a job waits for the routine's end (R313, R314). -/
def State.putSel (s : State) (d : Sel) (v : VReg) (n : Nat) : State :=
  match d with
  | .m k => s.modUnit fun u => { u with m := u.m.set k (if s.onLane then laneMerge u.m[k] v 0 n else (v.setWidth 72).setWidth 2048) }
  | _ =>
    match regOf s.before.instr d with
    | none => s
    | some r =>
      match r with
      | .v k => (s.modX fun x => x.setV k (laneMerge (x.rv k) v 0 n)).modUnit fun u => u.wrote r fun o => laneMerge o v 0 n
      | .a k => (s.modX fun x => x.setA k (v.setWidth 72)).modUnit fun u => u.wrote r fun _ => (v.setWidth 72).setWidth 2048
      | .s k =>
        let w : Word := v.setWidth 64
        let t := if tokenReg s.before.instr = some r then s else s.modX fun x => x.setS k w
        if k = 0 then t else t.modUnit fun u => u.wrote r fun _ => sext72 w
      | _ => s

/-- The active lanes of a destination written. -/
def State.putActive (s : State) (d : Sel) (v : VReg) : State := s.putSel d v s.before.vl

/-- Flags of a step: they reach STAT when the routine ends (R313). -/
def State.raise (s : State) (f : Flags) : State := s.modUnit fun u => { u with flags := u.flags ||| f }

/-! ## The function unit: lane operations -/

/-- What an operation of the vector half gives on lanes a, b and the old d (R306): the lanes, the flags, the shift after its draws, and how many
lanes it writes. -/
def vectorResult (i : Instr) (stat : Word) (a b d : VReg) (x : Shift) (vl : Nat) : Drawn × Nat :=
  let ints (w : Nat) (f : Nat → Nat → Nat) : Drawn × Nat := ((active vl fun k => elems2 w f (laneGet a k) (laneGet b k), 0, x), vl)
  let fp (t : VFmt) (op : FV → FV → FV → FV × Flags) : Drawn × Nat := (fpLanes (vfmt t) stat op a b d x vl, vl)
  let one (op : FV → FV × Flags) : Drawn × Nat := (fpLanes .f32 stat (fun u _ _ => op u) a a a x vl, vl)
  let lane1 (f : Nat → Lane) : Drawn × Nat := ((active vl f, 0, x), vl)
  let num (k : Nat) : Nat := (laneGet b k).toNat
  let rm := rmOf stat
  match i with
  | .vadd t _ _ _ => ints (elemBits t) (vAdd (elemBits t))
  | .vsub t _ _ _ => ints (elemBits t) (vSub (elemBits t))
  | .vmul t _ _ _ => ints (elemBits t) (vMul (elemBits t))
  | .vmulh t _ _ _ => ints (elemBits t) (vMulh (elemBits t))
  | .vadds t _ _ _ => (satLanes t false a b x vl, vl)
  | .vsubs t _ _ _ => (satLanes t true a b x vl, vl)
  | .vmin t _ _ _ => ints (minBits t).1 (vMinMax t false)
  | .vmax t _ _ _ => ints (minBits t).1 (vMinMax t true)
  | .vabs t _ _ => ints (elemBits t) (vAbs (elemBits t))
  | .vneg t _ _ => ints (elemBits t) (vNeg (elemBits t))
  | .vand _ _ _ => lane1 (laneGet (a &&& b))
  | .vor _ _ _ => lane1 (laneGet (a ||| b))
  | .vxor _ _ _ => lane1 (laneGet (a ^^^ b))
  | .vshl t _ _ _ => ints (elemBits t) (vShl (elemBits t))
  | .vshr t _ _ _ => ints (elemBits t) (vShr (elemBits t))
  | .vsra t _ _ _ => ints (elemBits t) (vSra (elemBits t))
  | .vcmp cc _ _ _ => (cmpLanes cc (ftzOf stat) a b x vl, vl)
  | .vsel _ _ _ => lane1 (laneGet ((a &&& d) ||| (b &&& ~~~d)))
  | .vfadd t _ _ _ => fp t fun u v _ => fvAdd rm u v
  | .vfsub t _ _ _ => fp t fun u v _ => fvAdd rm u v.flip
  | .vfmul t _ _ _ => fp t fun u v _ => fvMul u v
  | .vfma t _ _ _ => fp t fun u v w => fvFma rm u v w
  | .vfms t _ _ _ => fp t fun u v w => fvFma rm u v w.flip
  | .vfnma t _ _ _ => fp t fun u v w => fvFma rm u.flip v w
  | .vfmin t _ _ _ => (fminLanes (vfmt t) stat false a b x vl, vl)
  | .vfmax t _ _ _ => (fminLanes (vfmt t) stat true a b x vl, vl)
  | .vrcp _ _ => one fvRcp
  | .vrsq _ _ => one fvRsq
  | .vexp2 _ _ => one fvExp2
  | .vlog2 _ _ => one fvLog2
  | .vcvt dst src _ _ => (cvtLanes dst src stat a x vl, vl)
  | .vnarrow t _ _ _ => (narrowLanes t stat a b x vl, vl)
  | .vwiden t hi _ _ => (widenLanes t hi stat a x vl, vl)
  | .vbcast t _ _ => lane1 fun k => bcastLane t (w64 (num k))
  | .vperm _ _ _ => lane1 fun k => laneGet a (num k % 64)
  | .vrot _ _ _ => lane1 fun k => laneGet a ((k + num k % 64) % 64)
  | .vslide up _ _ _ =>
    lane1 fun k => if up then (if num k ≤ k then laneGet a (k - num k) else 0) else if k + num k < vl then laneGet a (k + num k) else 0
  | .vred op _ _ => (redLanes op stat a x vl, 64)
  | .vscan op ex _ _ => (scanLanes op ex stat a x vl, vl)
  | _ => ((d, 0, x), 0)

/-- `mov` (Table 16.5). -/
def execMicroMov (fd fa : Sel) (imm : BitVec 12) (s : State) : Out := .next (s.putActive fd (s.sel imm fa))

/-- A lane operation that acts as the vector instruction of its number (R306). -/
def execMicroVectorFop (fop : BitVec 8) (ft : BitVec 2) (fd fa fb : Sel) (imm : BitVec 12) (s : State) : Out :=
  match vectorOp fop ft fd fa fb imm with
  | none => .next s
  | some i =>
    let r := vectorResult i s.before.stat (s.sel imm fa) (s.sel imm fb) (s.sel imm fd) s.x s.before.vl
    .next (((s.modX fun _ => r.1.2.2).putSel fd r.1.1 r.2).raise r.1.2.1)

/-- `lidx`: each lane its number. -/
def execLidx (fd : Sel) (s : State) : Out := .next (s.putActive fd (ofLanes fun i => BitVec.ofNat 32 i))

/-! ## Division steps (R331; log 21) -/

/-- m0 of a lane whose operands are special: its sign and kind (0 zero, 1 infinity, 2 NaN), with its flags. -/
def divSpecial (v : FV) (fl : Flags) : Nat :=
  let k := match v with | .inf _ => 1 | .nan _ => 2 | _ => 0
  bnat v.neg * 2 ^ 31 + 2 ^ 30 + fl.toNat * 2 ^ 8 + k

/-- m0 to m3 of one lane of `divpre`. -/
def divStart (ftz : Bool) (free : Nat) (a b : Lane) : Lane × Lane × Lane × Lane :=
  let u := decodeFtz ftz .f32 a.toNat
  let v := decodeFtz ftz .f32 b.toNat
  let open_ (k : Nat) : Lane := (Config.freeWord (free + k)).setWidth 32
  match u, v with
  | .fin p, .fin q =>
    let la := ilog2 p.n
    let lb := ilog2 q.n
    let fa := p.n * 2 ^ (23 - la)
    let fb := q.n * 2 ^ (23 - lb)
    let e : Int := (p.e + la) - (q.e + lb)
    let sh : Nat := if fb ≤ fa then 0 else 1
    (BitVec.ofNat 32 (bnat (p.neg != q.neg) * 2 ^ 31 + (e - (sh : Int) + 512).toNat), BitVec.ofNat 32 (fa * 2 ^ sh), BitVec.ofNat 32 (2 * fb), 0)
  | _, _ => let r := fvDiv u v; (BitVec.ofNat 32 (divSpecial r.1 r.2), open_ 0, open_ 1, open_ 2)

/-- `divpre`: m0 to m3 of every active lane. -/
def execDivpre (fd fa fb : Sel) (s : State) : Out :=
  let a := s.sel s.cur.imm fa
  let b := s.sel s.cur.imm fb
  let r := (upto 0 64).map fun i => divStart (ftzOf s.before.stat) (s.free + 3 * i) (laneGet a i) (laneGet b i)
  .next ({ ((((s.putActive fd (ofLaneList (r.map (·.1)))).putActive (.m 1) (ofLaneList (r.map (·.2.1)))).putActive (.m 2)
    (ofLaneList (r.map (·.2.2.1)))).putActive (.m 3) (ofLaneList (r.map (·.2.2.2)))) with free := s.free + 192 })

/-- `divq`: five quotient bits; a lane whose divisor is 0 takes an open value. -/
def execDivq (s : State) : Out :=
  let m (k : Fin 16) (i : Nat) : Nat := (laneGet s.before.m[k] i).toNat
  let open_ (k : Nat) : Nat := (Config.freeWord (s.free + k)).toNat
  let r := (upto 0 64).map fun i =>
    if m 2 i = 0 then (open_ (2 * i), open_ (2 * i + 1))
    else let q := 32 * m 1 i / m 2 i; (32 * m 1 i - q * m 2 i, 32 * m 3 i + q)
  .next ({ ((s.putActive (.m 1) (ofLaneList (r.map fun p => BitVec.ofNat 32 p.1))).putActive (.m 3) (ofLaneList (r.map fun p => BitVec.ofNat 32 p.2)))
    with free := s.free + 128 })

/-- One lane of `divfin`: the exact quotient rounded once, or the special result that m0 marks; under SR either takes a draw (R94; log 63). -/
def divEnd (stat : Word) (free : Nat) (g : Nat) (m0 m1 m2 m3 : Nat) (x : Shift) : Lane × Flags × Shift :=
  let neg := nbit m0 31
  if nbit m0 30 then
    let fl : Flags := BitVec.ofNat 6 (nbits m0 8 6)
    let v : FV := match nbits m0 0 2 with
      | 0 => .zero neg
      | 1 => .inf neg
      | _ => .nan false
    let r := roundDraw x g .f32 (rmOf stat) (ftzOf stat) (v, fl)
    (BitVec.ofNat 32 r.1, r.2.1, r.2.2)
  else if m2 = 0 then ((Config.freeWord free).setWidth 32, 0, x)
  else
    let n := m3 * m2 + m1
    let v : FV := if n = 0 then .zero neg else .fin { neg := neg, n := n, d := m2, e := (nbits m0 0 10 : Int) - 512 - 29 }
    let r := roundDraw x g .f32 (rmOf stat) (ftzOf stat) (v, 0)
    (BitVec.ofNat 32 r.1, r.2.1, r.2.2)

/-- `divfin`. -/
def execDivfin (fd fa : Sel) (s : State) : Out :=
  let m0 := s.sel s.cur.imm fa
  let m (k : Fin 16) (i : Nat) : Nat := (laneGet s.before.m[k] i).toNat
  let r := foldLanes (fun x i => divEnd s.before.stat (s.free + i) i (laneGet m0 i).toNat (m 1 i) (m 2 i) (m 3 i) x) s.x s.before.vl
  .next ({ (((s.modX fun _ => r.2.2).putActive fd r.1).raise r.2.1) with free := s.free + 64 })

/-! ## Partition steps (Table 16.5) -/

/-- `pnz`. -/
def execPnz (fd fa : Sel) (s : State) : Out :=
  let a := s.sel s.cur.imm fa
  .next (s.putActive fd (ofLanes fun i => if laneGet a i = 0 then 0 else 1))

/-- The sum of lanes below i. -/
def laneSum (a : VReg) (n : Nat) : Nat := ((upto 0 n).map fun j => (laneGet a j).toNat).foldl (· + ·) 0

/-- `pscan`. -/
def execPscan (fd fa : Sel) (s : State) : Out :=
  let a := s.sel s.cur.imm fa
  .next (s.putActive fd (ofLanes fun i => BitVec.ofNat 32 (laneSum a i)))

/-- The register whose lane k holds the highest active lane that goes there, 0 elsewhere. -/
def gatherLanes (vl : Nat) (dest : Nat → Option Nat) : VReg :=
  ofLanes fun k => match ((upto 0 vl).filter fun i => dest i == some k).getLast? with
    | some i => BitVec.ofNat 32 i
    | none => 0

/-- `pcomp`: all 64 lanes are written. -/
def execPcomp (fd fa fb : Sel) (s : State) : Out :=
  let a := s.sel s.cur.imm fa
  let b := s.sel s.cur.imm fb
  .next (s.putSel fd (gatherLanes s.before.vl fun i => if laneGet a i = 1 then some (laneGet b i).toNat else none) 64)

/-- `pcompf`: all 64 lanes are written. -/
def execPcompf (fd fa fb : Sel) (s : State) : Out :=
  let a := s.sel s.cur.imm fa
  let b := s.sel s.cur.imm fb
  .next (s.putSel fd (gatherLanes s.before.vl fun i =>
    if laneGet a i = 0 ∧ (laneGet b i).toNat ≤ i then some (i - (laneGet b i).toNat) else none) 64)

/-- `ptot`: the sum in every active lane of a vector destination. -/
def execPtot (fd fa : Sel) (s : State) : Out :=
  .next (s.putActive fd (bcast (laneSum (s.sel s.cur.imm fa) s.before.vl)))

/-- `pclamp`. -/
def execPclamp (fd fa : Sel) (imm : BitVec 12) (s : State) : Out :=
  let a := s.sel imm fa
  .next (s.putActive fd (ofLanes fun i => BitVec.ofNat 32 (min (laneGet a i).toNat imm.toNat)))

/-- `pcnt`. -/
def execPcnt (fd fa : Sel) (imm : BitVec 12) (s : State) : Out :=
  let a := s.sel imm fa
  .next (s.putActive fd (ofLanes fun i => if (laneGet a i).toNat = imm.toNat then 1 else 0))

/-! ## The function unit: engine operations -/

/-- An engine operation on 72-bit values (R306). -/
def engineAlu (fop : Nat) (a b : Addr) : Addr :=
  let n := b.toNat % 128
  match fop with
  | 0x01 => a + b
  | 0x02 => a - b
  | 0x03 => a * b
  | 0x07 => if a.toInt < b.toInt then a else b
  | 0x08 => if a.toInt < b.toInt then b else a
  | 0x0B => a &&& b
  | 0x0C => a ||| b
  | 0x0D => a ^^^ b
  | 0x0E => a <<< n
  | 0x0F => a >>> n
  | 0x10 => a.sshiftRight n
  | _ => 0

/-- An engine operation. -/
def execMicroEngineAlu (fop : BitVec 8) (fd fa fb : Sel) (imm : BitVec 12) (s : State) : Out :=
  .next (s.putSel fd ((engineAlu fop.toNat ((s.sel imm fa).setWidth 72) ((s.sel imm fb).setWidth 72)).setWidth 2048) 1)

/-- `zxf`. -/
def execZxf (fd fa : Sel) (imm : BitVec 12) (s : State) : Out :=
  .next (s.putSel fd (BitVec.ofNat 2048 (((s.sel imm fa).toNat % 2 ^ 72) % 2 ^ imm.toNat)) 1)

/-- `tok`: concat(a[31:0], 0x00_0000, IMM[7:0]). -/
def execTok (fd fa : Sel) (imm : BitVec 12) (s : State) : Out :=
  .next (s.putSel fd (BitVec.ofNat 2048 ((s.sel imm fa).toNat % 2 ^ 32 * 2 ^ 32 + imm.toNat % 2 ^ 8)) 1)

/-! ## Tile ports (Table 16.7) -/

/-- The tile of the M instruction. -/
def State.tile (s : State) : TNum := match s.before.instr with | .tenantM _ ct _ _ _ _ _ _ => ct | _ => 0

/-- A row of its tile written. -/
def Shift.setRow (x : Shift) (ct : TNum) (i : Nat) (r : TileRow) : Shift :=
  x.modMx fun m => { m with tiles := NMap.put m.tiles (ct.val * 128 + i) 0 r }

/-- The row that m12 names. -/
def State.tileRow (s : State) : Nat := (laneGet s.before.m[(12 : Fin 16)] 0).toNat % 128

/-- `afeed`. -/
def execAfeed (fa : Sel) (s : State) : Out := let v := s.sel s.cur.imm fa; .next (s.modUnit fun u => { u with ain := v })

/-- `bfeed`. -/
def execBfeed (fb : Sel) (s : State) : Out := let v := s.sel s.cur.imm fb; .next (s.modUnit fun u => { u with bin := v, bsl := none })

/-- `bslot`: the weight slot m14[12:0] of the selected half. -/
def execBslot (s : State) : Out :=
  let x := s.x
  let w := x.mx.wslot x.wbh ((laneGet s.before.m[(14 : Fin 16)] 0).toNat % 8192)
  .next ({ (s.modUnit fun u => { u with bsl := some (if w.state = 0 then some w.body else none, x.bfmt, s.free) }) with free := s.free + 128 })

/-- Element n of the B input (R162): one past the elements of its slot, or of a slot that is not VALID, is open. One of a poisoned block is a NaN whose
products raise NV (R99), as those of a signalling NaN do. -/
def MicroUnit.bElem (u : MicroUnit) (n : Nat) : FV :=
  match u.bsl with
  | none => decodeFV .bf16 (nbits u.bin.toNat (16 * n) 16)
  | some (body, f, free) =>
    match body with
    | none => decodeFV .bf16 ((Config.freeWord (free + n)).toNat % 2 ^ 16)
    | some b =>
      if slotElems f ≤ n then decodeFV .bf16 ((Config.freeWord (free + n)).toNat % 2 ^ 16)
      else match slotGroup f b (n / 16) with
        | none => .nan true
        | some (codes, sc) =>
          let c := codes.getD (n % 16) 0
          if f = .lg6 then (if lg6Zero c then .zero false else .fin (lg6Val (nbit c 5) (lg6El c + sx 8 sc)))
          else if halfFmt f then decodeFV f c
          else scaleFV (decodeFV f c) ((sc : Int) - 127)

/-- `outer`: each element rounded once. -/
def execOuter (s : State) : Out :=
  let u := s.unit
  let ct := s.tile
  let ftz := ftzOf u.stat
  let bs := (upto 0 128).map u.bElem
  let r := (upto 0 128).foldl (fun (p : Shift × Flags) i =>
    let row := p.1.mx.row ct i
    let a := decodeFV .bf16 (nbits u.ain.toNat (16 * i) 16)
    let e := rowOfList ((bs.zip (upto 0 128)).map fun b =>
      let v := fvFma .rne a b.1 (decodeFtz ftz .f32 (rowGet row b.2))
      let c := roundTo .f32 .rne ftz 0 v.1
      (c.1, v.2 ||| c.2))
    (p.1.setRow ct i e.1, p.2 ||| e.2)) (s.x, 0)
  .next ((s.modX fun _ => r.1).raise r.2)

/-- 64 elements of a row from element k on, as lanes. -/
def rowLanes (r : TileRow) (k : Nat) : VReg := r.extractLsb' (32 * k) 2048

/-- `crow`. -/
def execCrow (fd : Sel) (s : State) : Out := .next (s.putSel fd (rowLanes (s.x.mx.row s.tile s.tileRow) 0) 64)

/-- `crowhi`. -/
def execCrowhi (fd : Sel) (s : State) : Out := .next (s.putSel fd (rowLanes (s.x.mx.row s.tile s.tileRow) 64) 64)

/-- `cwrow`: the low half of the row takes FD's lanes. -/
def execCwrow (fd : Sel) (s : State) : Out :=
  let v := s.sel s.cur.imm fd
  .next (s.modX fun x => x.setRow s.tile s.tileRow (rowLanes (x.mx.row s.tile s.tileRow) 64 ++ v))

/-- `cwrowhi`. -/
def execCwrowhi (fd : Sel) (s : State) : Out :=
  let v := s.sel s.cur.imm fd
  .next (s.modX fun x => x.setRow s.tile s.tileRow (v ++ rowLanes (x.mx.row s.tile s.tileRow) 0))

/-- `tclr`. -/
def execTclr (s : State) : Out :=
  .next (s.modX fun x => x.modMx fun m => { m with tiles := m.tiles.filter fun p => p.1 / 128 != s.tile.val })

end Sys2Proof.Machine
end

