-- ==== Sys2Proof/Machine/MicroMem.lean ====
section
/-!
DEFINITION. The address generators of a micro-word (Table 16.6), the checks of a step (Table 16.9), sequencing (Table 16.8), how routines start,
end and fault (R313 to R318), and the tenant V and X instructions.
-/
namespace Sys2Proof.Machine

/-! ## The accesses of a step -/

/-- An access of an address generator: bytes of a space, of a LANE slice, or, over a handle, of a fabric region. -/
structure MAcc where
  write : Bool
  sp : Space
  ea : Int
  n : Nat
  data : List Byte
  lane : Option Nat
  via : Option Nat
  deriving DecidableEq, Repr

/-- The space of the instruction that invoked the routine. -/
def State.unitSpace (s : State) : Space :=
  match s.before.instr with
  | .tenantX _ _ _ _ m | .xld _ _ _ _ m | .xst _ _ _ _ m => m.sp
  | .coll _ _ m _ => m.sp
  | _ => .lane

/-- The number of the ring that a ring operation names (R307). -/
def State.unitRing (s : State) (imm : BitVec 12) : QNum :=
  if imm.getLsbD 4 then
    match s.before.instr with
    | .xld _ _ q _ _ | .xst _ _ q _ _ => q
    | _ => 0
  else (bits imm 0 4).toFin

/-- The shift with the slots that its unit holds, beside its own (Table 9.6). -/
def Shift.withHeld (x : Shift) (u : MicroUnit) : Shift :=
  { x with rings := Vector.ofFn fun q : Fin 16 =>
      match u.held.find? fun h => h.1 == q.val with
      | some h => { x.rings[q] with hc := h.2.2, hw := !h.2.2, hk := h.2.1 }
      | none => x.rings[q] }

/-- The slot size of a ring of the shift. -/
def State.slotBytes (s : State) (n : QNum) : Nat := 2 ^ s.ringByte (s.ring n) s.myCore 1

/-- The bytes of the slot at an address in the space of a ring. -/
def State.slotData (s : State) (n : QNum) (a : Nat) : List Byte :=
  let q := s.ring n
  let m := s.spaceMem q.sp (spDom q.sp s.myCore)
  m.1.bytes (m.2 + a) (s.slotBytes n)

/-- The ring whose slot at an address the unit holds: the one that `xfer` and `xferb` name by their slot (R307). -/
def State.slotRing (s : State) (a : Nat) : Option QNum :=
  (s.before.held.find? fun h => s.slotAt (s.ring (Fin.ofNat 16 h.1)) s.myCore h.2.1 == a).map fun h => Fin.ofNat 16 h.1

/-- The address in a temporary of an engine. -/
def MicroUnit.at_ (u : MicroUnit) (k : Fin 16) : Nat := u.m[k].toNat % 2 ^ 72

/-- One access per active lane. -/
def State.laneAccs (s : State) (write : Bool) (sp : Space) (ma md : Fin 16) : List MAcc :=
  let u := s.before
  (upto 0 u.vl).map fun i =>
    { write := write, sp := sp, ea := (laneGet u.m[ma] i).toNat, n := 4, data := leBytes 4 (laneGet u.m[md] i).toNat,
      lane := if sp == .lane then some i else none, via := none }

/-- An access cut at sectors (R175). -/
def MAcc.pieces (a : MAcc) : List MAcc :=
  (sectors a.ea a.n).map fun p => { a with ea := p.1, n := p.2, data := (a.data.drop (p.1 - a.ea).toNat).take p.2 }

/-- A place in another package: package, address, key, hops. -/
abbrev Away := Nat × Nat × Nat × List Byte

/-- Where a piece of an engine's access stands: none at a home of this package. -/
def State.pieceAway (s : State) (a : MAcc) : Except FaultInfo (Option Away) :=
  let j := s.unitJob
  let x := s.x.withHeld s.before
  let k : Acc := if a.write then .write else .read
  match a.via with
  | some h =>
    match ({ s with jobs := [] }).fabCheck j.sh x 0 s.unitTlb k ((j.handles[h]?).getD Handle.zero) a.ea a.n with
    | .error f => .error f
    | .ok r => .ok (some (r.pkg, r.pa, r.key, r.hops))
  | none =>
    match s.engineAt j x s.unitTlb true k a.sp a.ea a.n with
    | .error f => .error f
    | .ok e =>
      match e.home with
      | .fab p pa key => .ok (some (p, pa, key, e.via))
      | _ => .ok none

/-- Bytes that an access reads: of this package now, of another as they arrived. -/
def State.readAcc (s : State) (a : MAcc) : List Byte × State :=
  if s.onLane then
    (match a.lane with
     | some l => s.lane.bytes (laneKey s.myCore l a.ea.toNat) a.n
     | none => s.pad.bytes (padKey s.myCore a.ea.toNat) a.n, s)
  else
    a.pieces.foldl (fun (p : List Byte × State) b =>
      let s := p.2
      match s.pieceAway b with
      | .ok (some _) =>
        let got := s.unitJob.buf.getD []
        (p.1 ++ got.take b.n, s.modJob s.unitJob.id fun j => { j with buf := some (got.drop b.n) })
      | _ =>
        match s.enginePiece s.unitJob (s.x.withHeld s.before) s.unitTlb true b.sp b.ea b.n with
        | .data bs t => (p.1 ++ bs, t)
        | _ => p) ([], s)

/-- The accesses of an address generator; those of `xfer` and `xferb` to the slot itself stand apart. What `send` writes is what it has read. -/
def State.accsOf (s : State) (i : Instr) : List MAcc :=
  let u := s.before
  let rd (sp : Space) (k : Fin 16) (n : Nat) : MAcc := { write := false, sp := sp, ea := u.at_ k, n := n, data := [], lane := none, via := none }
  let wr (sp : Space) (k : Fin 16) (n : Nat) (bs : List Byte) : MAcc := { write := true, sp := sp, ea := u.at_ k, n := n, data := bs, lane := none, via := none }
  match i with
  | .padrd a d => if s.onLane then s.laneAccs false .pad a d else [rd .pad a 8]
  | .padwr a d => if s.onLane then s.laneAccs true .pad a d else [wr .pad a 8 (leBytes 8 (u.m[d].toNat))]
  | .lanerd a d => s.laneAccs false .lane a d
  | .lanewr a d => s.laneAccs true .lane a d
  | .sprd a _ => [rd s.unitSpace a 8]
  | .spwr a d => [wr s.unitSpace a 8 (leBytes 8 (u.m[d].toNat))]
  | .xfer a d _ => (s.slotRing (u.at_ d)).toList.map fun n => rd s.unitSpace a (s.slotBytes n)
  | .xferb a d _ => (s.slotRing (u.at_ a)).toList.map fun n => wr s.unitSpace d (s.slotBytes n) (s.slotData n (u.at_ a))
  | .send a d imm => let r := rd s.unitSpace a 256; [r, { wr .glob d 256 (s.readAcc r).1 with via := some (imm.toNat % 8) }]
  | .radd a d => [rd s.unitSpace a 256, rd .pad d 256, wr .pad d 256 []]
  | _ => []

/-- The index that XLD `.index` reads for its next slot (log 13). -/
def State.indexAcc (s : State) : MAcc :=
  let j := s.unitJob
  { write := false, sp := .pad, ea := (descList j.desc + 2 * j.done : Nat), n := 2, data := [], lane := none, via := none }

/-- Whether an acquire of the bundle of the lane sequencer's routine, or of an earlier one, has not taken its value (R187); one beside a release of that
bundle is not waited for, since the release waits for the routine. -/
def State.routineBehind (s : State) : Bool :=
  let n := s.x.tim.laneSeq
  let ahead := s.sent s.me
  (ahead.any fun a => a.acq && decide (a.seq ≤ n)) && !ahead.any fun a => a.rel && a.seq == n

/-- The check of an access of the lane sequencer, which waits for the requests of its shift to its bytes (R189), and for earlier acquires. -/
def State.laneAccCheck (s : State) (a : MAcc) : Verdict :=
  let wait : Verdict := if s.bytesPending a.sp (a.lane.getD 0) a.ea a.n || s.routineBehind then .hold s else .go
  if a.sp = .lane then wait
  else match s.checkAccess s.me (s.x.withHeld s.before) 0 0 (if a.write then .write else .read) .shift false true false a.sp a.ea a.n with
    | .error f => .fault f
    | .ok _ => wait

/-- Whether an access of a collective routine in this package, to its space SP or to PAD, leaves the footprint of its job (R291, R327). -/
def State.outsideColl (s : State) (a : MAcc) : Bool :=
  classOf s.before.instr == .coll && a.via.isNone &&
    !s.unitJob.reads.any fun f => f.space == a.sp && decide (f.base ≤ a.ea ∧ a.ea + a.n ≤ f.base + f.len)

/-- The check of a piece of an engine's access, whether it waits, and the poison that a read meets. -/
def State.pieceCheck (s : State) (a : MAcc) : Verdict :=
  let j := s.unitJob
  let x := s.x.withHeld s.before
  match s.pieceAway a with
  | .error f => .fault f
  | .ok away =>
    if s.outsideColl a then .fault (memFault 0 3 a.ea)
    else if away.isSome then .go
    else
    if a.write then
      match s.engineWrite1 j x s.unitTlb true a.sp a.ea (padTo a.n a.data) with
      | .fault f => .fault f
      | .wait t => .hold t
      | _ => .go
    else match s.enginePiece j x s.unitTlb true a.sp a.ea a.n with
      | .fault f => .fault f
      | .wait => .hold s
      | _ => .go

/-- The first fault of a list of verdicts, else the first hold. -/
def firstOf : List Verdict → Verdict
  | [] => .go
  | .fault f :: _ => .fault f
  | .go :: vs => firstOf vs
  | .hold s :: vs => match firstOf vs with | .fault f => .fault f | _ => .hold s

/-- The check of an access by Table 9.7 from RANGE on (order 6). -/
def State.accCheck (s : State) (a : MAcc) : Verdict :=
  if s.onLane then s.laneAccCheck a
  else if a.sp = .lane then .fault (memFault 0 1 a.ea)
  else firstOf (a.pieces.map s.pieceCheck)

/-! ## The checks of a step -/

/-- The fault of a step that names a resource it may not touch (Table 16.9). -/
def foreign (ea : Int) : FaultInfo := { code := 0x0A, faddr := a72i ea }

/-- The selectors that a part names. -/
def selsOf (i : Instr) : List Sel :=
  match i with
  | .microMov d a _ | .zxf d a _ | .tok d a _ | .pclamp d a _ | .pcnt d a _ | .divfin d a | .pnz d a | .pscan d a | .ptot d a => [d, a]
  | .microVectorFop _ _ d a b _ | .microEngineAlu _ d a b _ | .divpre d a b | .pcomp d a b | .pcompf d a b => [d, a, b]
  | .lidx d | .crow d | .crowhi d | .cwrow d | .cwrowhi d | .afeed d | .bfeed d => [d]
  | _ => []

/-- The parts of a word but its sequencing. -/
def Parts.all (p : Parts) : List Instr := p.fu.toList ++ p.ports ++ p.ag0.toList ++ p.ag1.toList

/-- The address generators of a word. -/
def Parts.ags (p : Parts) : List Instr := p.ag0.toList ++ p.ag1.toList

/-- Order 1: a selector that the instruction's class does not name as a register. -/
def badSel (i : Instr) (a : Sel) : Bool :=
  match a with
  | .opd | .opa | .opb | .opc | .opd1 => (regOf i a).isNone
  | _ => false

/-- The address of the slot that `xfer` or `xferb` names. -/
def State.slotUse (s : State) (i : Instr) : Option Nat :=
  match i with
  | .xfer _ d _ => some (s.before.at_ d)
  | .xferb a _ _ => some (s.before.at_ a)
  | _ => none

/-- The ring operation of a part: its ring operand, and whether it claims (0), publishes (1), waits (2) or releases (3). -/
def ringOp (i : Instr) : Option (BitVec 12 × Nat) :=
  match i with
  | .claim _ imm => some (imm, 0)
  | .pub imm => some (imm, 1)
  | .wait _ imm => some (imm, 2)
  | .rel imm => some (imm, 3)
  | _ => none

/-- Order 4: the PAD bytes of a step and their banks. -/
def State.padRanges (s : State) (accs : List MAcc) (ags : List Instr) : List (Int × Nat) :=
  (accs.filter fun a => a.sp == .pad).map (fun a => (a.ea, a.n)) ++
  ags.filterMap fun i => (s.slotUse i).bind fun a => (s.slotRing a).bind fun n =>
    if (s.ring n).sp == .pad then some ((a : Int), s.slotBytes n) else none

/-- Whether bytes of PAD lie in a bank that the word does not enable or the context does not own. -/
def State.bankBad (s : State) (banken : BitVec 32) (r : Int × Nat) : Bool :=
  (upto 0 32).any fun (b : Nat) =>
    decide ((b : Int) * 0x8000 < r.1 + r.2) && decide (r.1 < ((b : Int) + 1) * 0x8000) && (!banken.getLsbD b || !s.x.place.banks.getLsbD b)

/-- Whether a ring that the step names is not there (order 5). -/
def State.ringGone (s : State) (i : Instr) : Bool :=
  match ringOp i with
  | some (imm, _) => !(s.ring (s.unitRing imm)).v
  | none => false

/-- The ring operations of a step in order, on the slots that the unit holds: those that it holds afterwards; a fault, or a wait. -/
def State.ringTry (s : State) : List Instr → List (Nat × Nat × Bool) → Verdict × List (Nat × Nat × Bool)
  | [], held => (.go, held)
  | i :: is, held =>
    match ringOp i with
    | none => s.ringTry is held
    | some (imm, k) =>
      let n := s.unitRing imm
      let q := s.ring n
      let mine := held.find? fun h => h.1 == n.val
      if k = 0 ∨ k = 2 then
        let claim := k == 0
        if mine.isSome || !(if claim then q.prod else q.cons).getLsbD s.x.place.stage then (.fault heldFault, held)
        else if !s.ringTurn s.me s.cur.unit q s.myCore claim then (.hold (s.addWaiter s.me s.cur.unit (q.why s.myCore claim)), held)
        else s.ringTry is ((n.val, s.nextSlot q s.myCore claim, claim) :: held)
      else if mine.map (·.2.2) ≠ some (k == 1) then (.fault heldFault, held)
      else if s.onLane ∧ s.accessPending s.me then (.hold s, held)
      else s.ringTry is (held.filter fun h => h.1 != n.val)

/-- Whether `xfer` or `xferb` names a slot that the unit does not hold. -/
def State.slotBad (s : State) (i : Instr) : Bool :=
  match s.slotUse i with
  | none => false
  | some a => (s.slotRing a).isNone

/-- Whether a word ends its routine. -/
def Parts.ends (p : Parts) : Bool := match p.seq with | .microEnd | .microCont _ => true | _ => false

/-- Order 7: the LANE addresses of a step. -/
def laneFault (accs : List MAcc) : Option FaultInfo :=
  accs.findSome? fun a =>
    if a.lane.isNone then none
    else if a.ea % 4 ≠ 0 then some (alignFault 0 a.ea)
    else if 0x1000 ≤ a.ea then some (memFault 0 1 a.ea)
    else none

/-- The accesses of a word. -/
def State.stepAccs (s : State) (p : Parts) : List MAcc := (if p.index then [s.indexAcc] else []) ++ p.ags.flatMap s.accsOf

/-- The checks of a step in the order of Table 16.9; a step that waits changes nothing. -/
def State.stepCheck (s : State) (p : Parts) : Verdict :=
  let i := s.before.instr
  let c := classOf i
  let accs := s.stepAccs p
  if (p.all.flatMap selsOf).any (badSel i) then .fault (foreign 0)
  else if !p.ports.isEmpty && c != .m then .fault (foreign 0)
  else match (s.padRanges accs p.ags).find? (s.bankBad p.banken) with
    | some r => .fault (foreign r.1)
    | none =>
      if p.ags.any s.ringGone then .fault (foreign 0)
      else
        let r := s.ringTry p.ags s.before.held
        let held : Verdict := if p.ags.any s.slotBad || (p.ends && !r.2.isEmpty) then .fault heldFault else .go
        let full : Verdict := match p.seq with
          | .microCont _ => if 16 ≤ s.x.conts.length then .hold s else .go
          | _ => .go
        match firstOf (r.1 :: held :: accs.map s.accCheck) with
        | .fault f => .fault f
        | v => match laneFault accs with
          | some f => .fault f
          | none => firstOf [v, full]

/-! ## Accesses of a step that go to another package -/

/-- The pieces of a step's accesses that lie in another package, in order. -/
def State.awayPieces (s : State) (accs : List MAcc) : List (MAcc × Away) :=
  if s.onLane then []
  else (accs.flatMap MAcc.pieces).filterMap fun a =>
    match s.pieceAway a with
    | .ok (some w) => some (a, w)
    | _ => none

/-- The state with the translation and the route of a piece that goes over the fabric used (R278, R338), and the duplicated page of this package that it writes
made single (R347); none where the piece waits for a bit of its tables. -/
def State.usePiece (s : State) (a : MAcc) : Option State :=
  let j := s.unitJob
  let x := s.x.withHeld s.before
  let k : Acc := if a.write then .write else .read
  match a.via with
  | some h =>
    match ({ s with jobs := [] }).fabCheck j.sh x 0 s.unitTlb k ((j.handles[h]?).getD Handle.zero) a.ea a.n with
    | .error _ => some s
    | .ok r =>
      if s.useWaits r.tlb a.ea.toNat a.write then none
      else
        let t := (s.useFab r a.ea a.write).noteJobRoute j.id h
        some (if a.write then t.collapseFab r a.ea x.place.core else t)
  | none =>
    match s.engineAt j x s.unitTlb true k a.sp a.ea a.n with
    | .error _ => some s
    | .ok e => if e.waits then none else some e.st

/-- One piece injected into the fabric for the unit's job, or none yet. -/
def State.injectPiece (s : State) (a : MAcc) (w : Away) : State :=
  let j := s.unitJob
  match s.usePiece a with
  | none => s
  | some s => s.inject (newOp (some j.sh) 2 j.core (some j.id) w.1 (if a.write then .write w.2.1 a.data else .read w.2.1 a.n) (a72i a.ea) w.2.2.2 w.2.2.1)

/-- The bytes of an access written where it lies in this package. -/
def State.writeAcc (s : State) (a : MAcc) : State :=
  if s.onLane then
    match a.lane with
    | some l => s.putLane s.myCore l a.ea.toNat a.data
    | none => s.putPad s.myCore a.ea.toNat a.data
  else
    a.pieces.foldl (fun s b =>
      match s.pieceAway b with
      | .ok none =>
        match s.engineWrite1 s.unitJob (s.x.withHeld s.before) s.unitTlb true b.sp b.ea b.data with
        | .done t => t
        | _ => s
      | _ => s) s

/-! ## The address generators -/

/-- What a read puts into md: a word per active lane, or a dword, above which a 72-bit temporary is open. -/
def State.readInto (s : State) (accs : List MAcc) (md : Fin 16) : State :=
  let r := accs.foldl (fun (p : List Nat × State) a => let q := p.2.readAcc a; (p.1 ++ [ofLE q.1], q.2)) ([], s)
  if s.onLane then r.2.putActive (.m md) (ofLaneList (r.1.map (BitVec.ofNat 32)))
  else
    let hi := (Config.freeWord s.free).toNat % 256
    { (r.2.putSel (.m md) (BitVec.ofNat 2048 (r.1.headD 0 + hi * 2 ^ 64)) 1) with free := s.free + 1 }

/-- `padrd`. -/
def execPadrd (ma md : Fin 16) (s : State) : Out := .next (s.readInto (s.accsOf (.padrd ma md)) md)

/-- `padwr`. -/
def execPadwr (ma md : Fin 16) (s : State) : Out := .next ((s.accsOf (.padwr ma md)).foldl State.writeAcc s)

/-- `lanerd`. -/
def execLanerd (ma md : Fin 16) (s : State) : Out := .next (s.readInto (s.accsOf (.lanerd ma md)) md)

/-- `lanewr`. -/
def execLanewr (ma md : Fin 16) (s : State) : Out := .next ((s.accsOf (.lanewr ma md)).foldl State.writeAcc s)

/-- `sprd`. -/
def execSprd (ma md : Fin 16) (s : State) : Out := .next (s.readInto (s.accsOf (.sprd ma md)) md)

/-- `spwr`. -/
def execSpwr (ma md : Fin 16) (s : State) : Out := .next ((s.accsOf (.spwr ma md)).foldl State.writeAcc s)

/-- The next slot of a ring taken by the unit: md takes its address. -/
def State.unitTake (s : State) (md : Fin 16) (imm : BitVec 12) (claim : Bool) : State :=
  let n := s.unitRing imm
  let q := s.ring n
  let k := s.nextSlot q s.myCore claim
  let a := s.slotAt q s.myCore k
  (((s.takeSlot q s.myCore claim).dropWaiter s.me s.cur.unit).modUnit fun u => { u with held := (n.val, k, claim) :: u.held }).putActive (.m md)
    (if s.onLane then bcast a else BitVec.ofNat 2048 a)

/-- The slot that the unit holds of a ring given on: FULL where it was claimed, else EMPTY. -/
def State.unitGive (s : State) (imm : BitVec 12) (claim : Bool) : State :=
  let n := s.unitRing imm
  let q := s.ring n
  match s.unit.held.find? fun h => h.1 == n.val with
  | none => s
  | some h =>
    let t := (s.putRing q s.myCore (0x40 + h.2.1) [if claim then 2 else 0]).modUnit fun u => { u with held := u.held.filter fun h => h.1 != n.val }
    match s.cur.job with
    | none => t
    | some j => t.modJob j fun e => { e with done := e.done + 1 }

/-- `claim`: acts as RCLAIM. -/
def execClaim (md : Fin 16) (imm : BitVec 12) (s : State) : Out := .next (s.unitTake md imm true)

/-- `wait`: acts as RWAIT. -/
def execWait (md : Fin 16) (imm : BitVec 12) (s : State) : Out := .next (s.unitTake md imm false)

/-- `pub`: acts as RPUB. -/
def execPub (imm : BitVec 12) (s : State) : Out := .next (s.unitGive imm true)

/-- `rel`: acts as RREL. -/
def execRel (imm : BitVec 12) (s : State) : Out := .next (s.unitGive imm false)

/-- `xfer`: bytes of the space into the slot. -/
def execXfer (ma md : Fin 16) (imm : BitVec 12) (s : State) : Out :=
  let r := (s.accsOf (.xfer ma md imm)).foldl (fun (p : List Byte × State) a => let y := p.2.readAcc a; (p.1 ++ y.1, y.2)) ([], s)
  match s.slotRing (s.before.at_ md) with
  | none => .next r.2
  | some n => .next (r.2.putSpace (s.ring n).sp (spDom (s.ring n).sp s.myCore) (s.before.at_ md) r.1)

/-- `xferb`: the slot into the space. -/
def execXferb (ma md : Fin 16) (imm : BitVec 12) (s : State) : Out := .next ((s.accsOf (.xferb ma md imm)).foldl State.writeAcc s)

/-- `send`: its bytes have gone by the time that the step takes effect; what it read is dropped. -/
def execSend (ma md : Fin 16) (imm : BitVec 12) (s : State) : Out :=
  .next (((s.accsOf (.send ma md imm)).filter fun a => !a.write).foldl (fun s a => (s.readAcc a).2) s)

/-- `radd`: 64 F32 values added into PAD, each rounded once under RNE, under the job's FTZ (R87). -/
def execRadd (ma md : Fin 16) (s : State) : Out :=
  match s.accsOf (.radd ma md) with
  | [a, b, c] =>
    let x := s.readAcc a
    let y := x.2.readAcc b
    let ftz := ftzOf s.before.stat
    let r := (upto 0 64).map fun k =>
      let v (bs : List Byte) : FV := decodeFtz ftz .f32 (ofLE ((bs.drop (4 * k)).take 4))
      let t := fvAdd .rne (v y.1) (v x.1)
      let e := roundTo .f32 .rne ftz 0 t.1
      (leBytes 4 e.1, t.2 ||| e.2)
    .next ((y.2.writeAcc { c with data := r.flatMap (·.1) }).raise (r.foldl (fun a p => a ||| p.2) 0))
  | _ => .next s

/-! ## The ends of routines -/

/-- The vector registers that a tenant word of the lane sequencer names. -/
def laneRegs (i : Instr) : List VNum :=
  match i with
  | .tenantV _ _ d a b => [d, a, b]
  | .tenantM _ _ _ a b c _ _ => [a, b, c]
  | _ => []

/-- The interlocks of a tenant X word released, but that of its token's register, which ends when the token lands (R313, R318). -/
def Shift.freeX (x : Shift) (i : Instr) : Shift :=
  match i with
  | .tenantX _ _ d c m =>
    let off (x : Shift) (n : SNum) : Shift := if n = d then x else x.unmarkS n
    let y := off (off x c) m.xi
    { y with pend := { y.pend with a := y.pend.a &&& ~~~((1 : BitVec 32) <<< m.xa.val) } }
  | _ => x

/-- The lane sequencer freed of its routine: its flags reach STAT, its interlocks end (R313). An M routine's operation completes instead, in its
barrier's group (R171). -/
def Shift.laneDone (x : Shift) (now : Nat) (code : Nat) : Shift :=
  let u := x.lane
  let x := { x with lane := MicroUnit.zero }
  match classOf u.instr with
  | .m =>
    match x.mx.active.find? fun o => o.instr == u.instr && o.issued.isSome with
    | none => ((laneRegs u.instr).foldl Shift.unmarkV x).orStat now u.flags
    | some o => (x.modMx fun m => { m with active := m.active.filter fun e => e.rank != o.rank }).finishOp o (o.flags ||| u.flags) code
  | _ => ((laneRegs u.instr).foldl Shift.unmarkV x).orStat now u.flags

/-- A routine that has ended: the token of a job is what it wrote to OPD, or OK (R314). -/
def State.endRoutine (s : State) : State :=
  if s.onLane then s.modX fun x => x.laneDone (s.flagCycle s.myCore) 0
  else match s.cur.job.bind s.job? with
    | none => s
    | some j =>
      let t := s.modX fun x => (x.freeX j.instr).orStat (s.flagCycle s.myCore) j.unit.flags
      t.jobDone j.id (if j.unit.wopd then j.unit.opd.setWidth 64 else tokenWord 0 0 0 0)

/-- A fault of the unit that steps (R28, R171, R317): it halts at the step, an M routine completes its operation in error and leaves its MPC, its
temporaries and its step count in the unit, a collective writes its token. -/
def State.unitFault (s : State) (f : FaultInfo) : State :=
  let u := s.unit
  match classOf u.instr with
  | .m => (s.returnHeld s.x u.held).modX fun x =>
    { (x.laneDone (s.flagCycle s.myCore) f.code).haltMx f.code with lane := { u with v := false, held := [], flags := 0 } }
  | .coll =>
    match s.cur.job.bind s.job? with
    | none => s
    | some j => (s.returnHeld s.x u.held).failJob j j.done f
  | _ => s.modUnit fun u =>
    { u with halt := true, code := f.code, cause := f.cause, tstg := f.tstg, tlvl := f.tlvl,
             faddr := f.faddr }

/-- The unit of a shift as the unit that steps: 1 the lane sequencer, 2 AE0, 3 AE1, 4 the link engine. -/
def State.asUnit (s : State) (sh unit : Nat) : State :=
  let job := (s.jobs.find? fun j => j.sh == sh && j.eng + 1 == unit && j.eng != 3 && j.unit.v || j.sh == sh && j.eng == 3 && unit == 4 && j.unit.v).map
    (·.id)
  { s with cur := { Cur.zero with sh := some sh, unit := unit, job := if unit = 1 then none else job } }

/-- STEP_BOUND_FAULT (R317): a tenant or collective routine that has executed its bound of words halts before the next. -/
def execStepBoundFault (sh unit : Nat) (s : State) : Out :=
  let t := s.asUnit sh unit
  let u := t.unit
  .next (if u.v && !u.halt && (u.ten || classOf u.instr == .coll) && decide (u.bound ≤ u.steps) then t.unitFault { code := 0x09 } else s)

/-! ## Sequencing (Table 16.8) -/

/-- Whether a temporary counts as nonzero (R309): in the lane sequencer, in any active lane. -/
def State.nonzero (s : State) (k : Fin 16) : Bool :=
  let u := s.unit
  if s.onLane then (upto 0 u.vl).any fun i => laneGet u.m[k] i != 0 else u.at_ k != 0

/-- The next MPC. -/
def State.goto (s : State) (mpc : Nat) : State := s.modUnit fun u => { u with mpc := mpc }

/-- `next`. -/
def execMicroNext (s : State) : Out := .next (s.goto (s.before.mpc + 1))

/-- `brt`. -/
def execBrt (mc : Fin 16) (tgt : BitVec 12) (s : State) : Out := .next (s.goto (if s.nonzero mc then tgt.toNat else s.before.mpc + 1))

/-- `brf`. -/
def execBrf (mc : Fin 16) (tgt : BitVec 12) (s : State) : Out := .next (s.goto (if s.nonzero mc then s.before.mpc + 1 else tgt.toNat))

/-- `jmp`. -/
def execMicroJmp (tgt : BitVec 12) (s : State) : Out := .next (s.goto tgt.toNat)

/-- `loop`: m15 counts down after the step's writes. -/
def execMicroLoop (tgt : BitVec 12) (s : State) : Out :=
  let v := s.unit.m[(15 : Fin 16)]
  let w : VReg := if s.onLane then ofLanes fun i => laneGet v i - 1 else ((v.setWidth 72 : Addr) - 1).setWidth 2048
  let t := s.putActive (.m 15) w
  .next (t.goto (if t.nonzero 15 then tgt.toNat else s.before.mpc + 1))

/-- `end`. -/
def execMicroEnd (s : State) : Out := .next s.endRoutine

/-- The lane sequencer freed by a CONT of an M routine: its operation stays in progress, with the array and the ports, until the continuation ends
(R315, log 64). -/
def Shift.laneLeft (x : Shift) : Shift :=
  let u := x.lane
  { x with
    lane := MicroUnit.zero,
    mx := { x.mx with active := x.mx.active.map fun o => if o.instr == u.instr && o.issued.isSome then { o with flags := o.flags ||| u.flags } else o } }

/-- `cont`: a record at the tail of the shift's queue (R40, R316), and the unit is free. -/
def execMicroCont (tgt : BitVec 12) (s : State) : Out :=
  let u := s.unit
  let t := s.modX fun x => { x with conts := x.conts ++ [{ tgt := tgt.toNat, m := u.m, instr := u.instr, vl := u.vl, tag := u.tag, stat := u.stat }] }
  .next (if s.onLane && classOf u.instr == .m then t.modX Shift.laneLeft else t.endRoutine)

/-! ## The starts of routines -/

/-- The operands of an instruction as a unit latches them (R305). -/
def Shift.operand (x : Shift) (i : Instr) (a : Sel) : VReg :=
  match regOf i a with
  | some (.v n) => x.rv n
  | some (.s n) => sext72 (x.rs n)
  | some (.a n) => (x.ra n).setWidth 2048
  | _ => 0

/-- A unit at the start of a tenant routine (R305, R313): `ws` are the words of its image. -/
def Shift.unitFor (x : Shift) (i : Instr) (b : Binding) (ws : NMap (BitVec 128)) (mpc : Nat) (m : Vector VReg 16) (vl : Nat) (stat : Word) : MicroUnit :=
  let writes := (routineWrites (classOf i) ws mpc).filterMap (regOf i)
  { MicroUnit.zero with
    v := true, ten := true, bound := b.steps, mpc := mpc, m := m, instr := i, tag := b.tag, opd := x.operand i .opd, opa := x.operand i .opa,
    opb := x.operand i .opb, opc := x.operand i .opc, vl := vl, stat := stat,
    idle := ([Sel.opd, Sel.opa, Sel.opb, Sel.opc].filterMap (regOf i)).filter fun r => !writes.contains r }

/-- No temporaries set. -/
abbrev noTemps : Vector VReg 16 := Vector.replicate 16 0

/-- The binding of a tenant word of the executing shift, and the words of its image where it is READY. -/
def State.tenantWords (s : State) (x : Shift) (core : Nat) (i : Instr) : Option (Binding × Option (NMap (BitVec 128))) :=
  ((tenantKey i).bind x.bindOf).map fun b =>
    (b, (s.bankOf core x.place.ctx b.tag 2).bind fun k => ((s.core core).banks[k]?).map (·.words))

/-- The check of a tenant word at issue: bound (check 4), and its image READY (check 5). -/
def State.tenantCheck (s : State) (i : Instr) (v : Verdict) : Verdict :=
  match s.tenantWords s.x s.myCore i with
  | none => .fault { code := 0x03 }
  | some (_, none) => .hold s
  | some (_, some _) => v

/-- A tenant V word (R313): its routine starts on the lane sequencer, and the registers that it names are interlocked until it ends. -/
def execTenantV (opc : BitVec 6) (vt : BitVec 2) (vd va vb : VNum) (s : State) : Out :=
  let i : Instr := .tenantV opc vt vd va vb
  atIssue (fun s => s.tenantCheck i (if s.x.lane.v then .hold s else .go))
    (fun s =>
      match s.tenantWords s.x s.myCore i with
      | some (b, some ws) => s.modX fun x =>
        { (((x.markV vd).markV va).markV vb) with lane := x.unitFor i b ws b.entry noTemps x.sp.vl x.sp.stat, tim := { x.tim with laneSeq := x.tim.seq } }
      | _ => s) s

/-- A tenant M word (R171, R315): it enters the matrix queue. -/
def execTenantM (opc : BitVec 4) (ct : TNum) (mb : BNum) (fa fb fc : VNum) (mmod : BitVec 5) (stamp : BitVec 20) (s : State) : Out :=
  let i : Instr := .tenantM opc ct mb fa fb fc mmod stamp
  atIssue (fun s => s.tenantCheck i (enterCheck i s)) (fun s => s.modX fun x => x.enterOp (s.mopOf i stamp 0 0 0 0)) s

/-- The bytes of a space that the footprints of a shift permit an access of (R314). -/
def State.permittedFeet (s : State) (sp : Space) (k : Acc) : List Foot :=
  (s.x.feetAll s).filter fun f => f.space == sp && k.permitted f.mode

/-- A tenant X word (R314): a job of the address engine that its binding names; the unit holds s[XC], and the job's OPX is 0 (R373). -/
def execTenantX (opc : BitVec 6) (xmod : BitVec 4) (sd sc : SNum) (m : MemX) (s : State) : Out :=
  let i : Instr := .tenantX opc xmod sd sc m
  let eng (b : Binding) : Nat := if b.rclass = 3 then 2 else 1
  atIssue
    (fun s => s.tenantCheck i (match s.tenantWords s.x s.myCore i with
      | some (b, _) => if s.acquirePending s.me || s.engineFull (eng b) then .hold s else .go
      | none => .go))
    (fun s =>
      match s.tenantWords s.x s.myCore i with
      | some (b, some ws) =>
        let j := s.newJob i (eng b) (s.rs sd) (s.rs m.xi) 0 (s.x.eaX m) sd
        let u := { (s.x.unitFor i b ws b.entry noTemps s.x.sp.vl s.x.sp.stat) with v := false, ea := a72i (s.x.eaX m) }
        (s.addJob { j with unit := u, reads := s.permittedFeet m.sp .read, writes := s.permittedFeet m.sp .write }).modX fun x =>
          let x := (x.markS m.xi).markS sc
          { x with pend := { x.pend with a := x.pend.a ||| (1 : BitVec 32) <<< m.xa.val } }
      | _ => s) s

/-! ## The starts of engine jobs -/

/-- The record of an address engine at the start of a base access routine. -/
def State.baseUnit (s : State) (x : Shift) (j : Job) (load : Bool) (mode : XMode) (q : QNum) : MicroUnit :=
  let sz := 2 ^ s.ringByte x.rings[q] x.place.core 1
  { MicroUnit.zero with
    v := true, mpc := baseEntry load mode, instr := j.instr, opd := sext72 j.desc, opb := sext72 j.opi, vl := x.sp.vl, stat := x.sp.stat, ea := j.ea,
    m := if mode == .stream then noTemps.set 1 (BitVec.ofNat 2048 sz) else noTemps }

/-- A queued job of an address engine or of the link engine started: a routine takes its unit; RLDQ, RSTN and RSEND run no routine. -/
def State.startJob (s : State) (j : Job) (x : Shift) : State :=
  s.modJob j.id fun e =>
    { e with
      state := 2,
      unit := match j.instr with
        | .xld mode _ q _ _ => s.baseUnit x j true mode q
        | .xst mode _ q _ _ => s.baseUnit x j false mode q
        | .rldq _ _ _ _ | .rstn _ _ _ | .rsend _ _ _ _ => e.unit
        | _ => { e.unit with v := true } }

end Sys2Proof.Machine
end

