-- ==== Sys2Proof/Machine/MatrixQueue.lean ====
section
/-!
DEFINITION. The matrix queue at work (chapter 8): an operation that issues (R153, R154, R158), one that completes, and a weight slot that turns
VALID (R163).
-/
namespace Sys2Proof.Machine

/-! ## Table 8.1 -/

/-- MACs per cell per cycle of a row format (Table 8.4). -/
def macRate : Fmt → Nat
  | .e2m1 | .s4 | .lg6 => 4
  | .bf16 | .f16 => 1
  | _ => 2

/-- KG of MMA and MMAZ. -/
abbrev groupsOf (kg1 : BitVec 4) : Nat := kg1.toNat + 1

/-- Occupancy and the cycles from issue to completion (Table 8.1); none where the operation's end is not known at its issue. -/
def Shift.mxTimes (x : Shift) (i : Instr) : Option (Nat × Nat) :=
  match i with
  | .mma kg1 _ _ _ _ _ _ | .mmaz kg1 _ _ _ _ _ _ => let n := 16 * groupsOf kg1 / macRate x.afmt; some (n, n + 8)
  | .mopa t _ _ _ _ _ => let n := if t == .f32 then 4 else 1; some (n, n + 8)
  | .ald _ _ _ _ | .cst _ _ _ _ _ => some (128, 136)
  | .crd _ _ _ _ _ | .cwr _ _ _ _ _ => some (1, 8)
  | .cclr _ _ _ => some (1, 1)
  | .wbsel _ _ _ | .tcfg _ _ _ _ => some (0, 1)
  | _ => none

/-- Whether an operation occupies the array. -/
def onArray (i : Instr) : Bool :=
  match i with
  | .mma _ _ _ _ _ _ _ | .mmaz _ _ _ _ _ _ _ | .mopa _ _ _ _ _ _ => true
  | _ => false

/-- The tile whose port an operation occupies. -/
def portOf (i : Instr) : Option TNum :=
  match i with
  | .ald ct _ _ _ | .cst _ ct _ _ _ | .crd ct _ _ _ _ | .cwr ct _ _ _ _ | .cclr ct _ _ => some ct
  | _ => none

/-- The weight slots that an MMA or MMAZ reads: the first and how many (R165). -/
def Shift.slotsRead (x : Shift) (kg1 : BitVec 4) (o : MOp) : Nat × Nat :=
  (wbits o.sb 0 13, 128 * cdiv (16 * groupsOf kg1) (slotElems x.bfmt))

/-- The slots that an operation reads; none but for MMA and MMAZ. -/
def Shift.slotsOfOp (x : Shift) (o : MOp) : List WSlot :=
  match o.instr with
  | .mma kg1 _ _ _ _ _ _ | .mmaz kg1 _ _ _ _ _ _ =>
    let r := x.slotsRead kg1 o
    (upto r.1 r.2).map fun k => x.mx.wslot x.wbh k
  | _ => []

/-- Whether a tenant routine runs in the unit. -/
def Matrix.tenantRuns (m : Matrix) : Bool := m.active.any fun o => match o.instr with | .tenantM _ _ _ _ _ _ _ _ => true | _ => false

/-- Whether a write is in progress on a tile: by any operation, or by one that is not of the array. -/
def Matrix.writing (m : Matrix) (ct : TNum) (arrayToo : Bool) : Bool :=
  m.active.any fun o => tileOf o.instr == some ct && (arrayToo || !onArray o.instr)

/-- The image of a tenant M word READY, with its binding (R324). -/
def State.tenantReady (s : State) (i : Instr) : Option (Binding × NMap (BitVec 128)) :=
  match s.tenantWords s.x s.myCore i with
  | some (b, some ws) => some (b, ws)
  | _ => none

/-- Whether an operation without a target waits for what the other words of its bundle have sent to its PAD bytes (R187, R189); one with a target reads
and lands at its cycle (R149, R153). -/
def State.mxBehind (s : State) (o : MOp) : Bool := o.target.isNone && s.padBusy o.seq (padBytesOf o.instr o.sa o.sc)

/-- Whether the operation at the head of the queue is ready (Table 8.1); a tenant routine needs its lane sequencer and its image too. -/
def State.mxReady (s : State) (o : MOp) : Bool :=
  let m := s.x.mx
  let array := decide (m.arrayFree ≤ s.dcc) && !m.tenantRuns
  !s.mxBehind o && match o.instr with
  | .mma _ ct _ _ _ _ _ | .mmaz _ ct _ _ _ _ _ => array && !m.writing ct false && (s.x.slotsOfOp o).all fun w => w.state != 1
  | .mopa _ ct _ _ _ _ => array && !m.writing ct false
  | .tcfg _ _ _ _ => m.active.isEmpty
  | .tenantM _ _ _ _ _ _ _ _ =>
    array && m.ports.toList.all (fun p => decide (p ≤ s.dcc)) && m.active.all (fun e => (tileOf e.instr).isNone) &&
      !s.x.lane.v && s.x.tim.laneBusy == 0 && (s.tenantReady o.instr).isSome
  | i =>
    match portOf i with
    | some ct => decide (m.ports[ct] ≤ s.dcc) && !m.tenantRuns && !m.writing ct true
    | none => true

/-! ## The checks of an operation at its issue (R158) -/

/-- The first fault of the PAD elements of an operation (Table 7.10). -/
def State.mxElems (s : State) (k : Acc) (els : List (Int × Nat × Nat)) : Option FaultInfo :=
  match els.filterMap fun e => s.elemFault k false .pad e.2.1 e.2.2 e.1 with
  | [] => none
  | f :: rest => some (rest.foldl (fun a b => if faultRank b < faultRank a then b else a) f)

/-- Base and stride of A (R165). -/
def rowsOfA (o : MOp) : Nat × Nat := (wbits o.sa 0 20, wbits o.sa 20 16)

/-- Bytes of a row of A. -/
def rowBytesOfA (x : Shift) (kg1 : BitVec 4) : Nat := 2 * groupsOf kg1 * x.afmt.width

/-- The fault of MMA and MMAZ at issue: alignment, its PAD bytes, a FAILED slot (R163). DESIGN CHOICE (log 86): the slots are looked at last, and the first
FAILED one gives the code. -/
def State.mmaFault (s : State) (o : MOp) (kg1 : BitVec 4) (ss : SNum) : Option FaultInfo :=
  let p := rowsOfA o
  if p.1 % 16 ≠ 0 ∨ p.2 % 16 ≠ 0 then some (alignFault 0 (p.1 : Nat))
  else
    let rows := (upto 0 128).map fun i => (((p.1 + i * p.2 : Nat) : Int), 1, rowBytesOfA s.x kg1)
    let scales := if ss = 0 then [] else [((o.sc.toNat : Int), 1, 128 * groupsOf kg1)]
    match s.mxElems .read (rows ++ scales) with
    | some f => some f
    | none => ((s.x.slotsOfOp o).find? fun w => w.state == 2).map fun w => { code := w.code }

/-- Bytes of a slot's source (R163). -/
def wbldBytes (plain : Option Fmt) : Nat :=
  match plain with
  | none => 64
  | some f => slotElems f * f.width / 8

/-- A job that stands for the weight stream in the checks of an engine's read. -/
def State.streamJob (s : State) (o : MOp) : Job :=
  { s.newJob o.instr 0 0 0 0 0 0 with
    seq := o.seq }

/-- The fault of WBLD at issue: the alignment of its source, and the read of its first slot (R163). -/
def State.wbldFault (s : State) (o : MOp) (plain : Option Fmt) : Option FaultInfo :=
  if o.aa.toNat % (if plain.isNone then 64 else 8) ≠ 0 then some (alignFault 0 (o.aa.toNat : Nat))
  else match s.engineRead (s.streamJob o) s.x 4 false .glob (o.aa.toNat : Nat) (wbldBytes plain) with
    | .fault f => some f
    | _ => none

/-- The fault of an operation at issue (R158), none where it issues. -/
def State.mxFault (s : State) (o : MOp) : Option FaultInfo :=
  match o.instr with
  | .mma kg1 _ _ _ _ ss _ | .mmaz kg1 _ _ _ _ ss _ => s.mmaFault o kg1 ss
  | .ald _ _ _ _ => s.mxElems .read [((o.sa.toNat : Int), 128, 65536)]
  | .cst f _ _ _ _ => s.mxElems .write [((o.sa.toNat : Int), 128, 2048 * f.width)]
  | .wbld plain _ _ _ _ => s.wbldFault o plain
  | _ => none

/-! ## What an operation does at its issue and at its completion -/

/-- The operation in progress, with its times. -/
def State.mxStart (s : State) (o : MOp) : State :=
  let t := s.x.mxTimes o.instr
  let occ := (t.map (·.1)).getD 0
  let o := { o with issued := some s.dcc, done := t.map fun p => s.dcc + p.2, occ := occ }
  s.modX fun x => x.modMx fun m =>
    { m with
      active := m.active ++ [o],
      arrayFree := if onArray o.instr then s.dcc + occ else m.arrayFree,
      ports := match portOf o.instr with
        | some ct => m.ports.set ct (s.dcc + occ)
        | none => m.ports }

/-- The rows of an MMA or MMAZ that issues now. -/
def State.mmaNow (s : State) (o : MOp) (zero : Bool) (kg1 : BitVec 4) (ct : TNum) (ss : SNum) : MOp :=
  let p := rowsOfA o
  let n := groupsOf kg1
  let w := s.x.slotsRead kg1 o
  let r := mmaRows s.x zero ct n w.1 (ftzOf o.stat) (fun i => s.pad.bytes (padKey s.myCore (p.1 + i * p.2)) (rowBytesOfA s.x kg1))
    (fun i g => if ss = 0 then none else some (s.pad.get (padKey s.myCore (o.sc.toNat + i * n + g))).toNat)
  { o with rows := r.1, flags := r.2, slot := w.1, r := w.2, half := s.x.wbh }

/-- The rows of a tile from 512 bytes each in PAD (R168). -/
def State.aldRows (s : State) (base : Nat) : List (Nat × TileRow) :=
  (upto 0 128).map fun i => (i, BitVec.ofNat 4096 (s.pad.num (padKey s.myCore (base + 512 * i)) 512))

/-- The row that CRD and CWR name. -/
def mxRow (o : MOp) : Nat := wbits o.sa 0 7

/-- The slots of a WBLD, from slot k of its list on. -/
def wbldSlots (o : MOp) (k : Nat) : List Nat := (upto k (o.r - k)).map fun j => wbits o.sa 0 13 + j

/-- Slots of a half in a state. -/
def Shift.putSlots (x : Shift) (half : Bool) (ks : List Nat) (state code : Nat) : Shift :=
  x.modMx fun m => ks.foldl (fun m k => m.setSlot half k { m.wslot half k with state := state, code := code }) m

/-- An operation that passed its checks issues (R154): what it reads, and the state that it changes at issue. -/
def State.mxRun (s : State) (o : MOp) : State :=
  match o.instr with
  | .mma kg1 ct _ _ _ ss _ => s.mxStart (s.mmaNow o false kg1 ct ss)
  | .mmaz kg1 ct _ _ _ ss _ => s.mxStart (s.mmaNow o true kg1 ct ss)
  | .mopa t ct _ va vb _ =>
    let r := mopaRows s.x t ct va vb (ftzOf o.stat)
    s.mxStart { o with rows := r.1, flags := r.2 }
  | .ald _ _ _ _ => s.mxStart { o with rows := s.aldRows o.sa.toNat }
  | .cst f ct _ _ _ =>
    let r := cstBytes s.x f ct o.stat
    (s.modX fun _ => r.2.2).mxStart { o with bytes := r.1, flags := r.2.1 }
  | .crd ct _ vd _ _ =>
    let row := s.x.mx.row ct (mxRow o)
    (s.modX fun x => (x.post 8 0 (.crd vd (row.extractLsb' 0 2048) (row.extractLsb' 2048 2048) o.target.isNone)).nextRank).mxStart o
  | .cwr _ _ vs _ _ => s.mxStart { o with rows := [(mxRow o, s.x.rv (nextNum vs) ++ s.x.rv vs)] }
  | .cclr _ _ _ => s.mxStart { o with rows := (upto 0 128).map fun i => (i, 0) }
  | .wbsel _ h _ => (s.modX fun x => x.setTcb (tcbOf x.mxHalted h x.afmt x.bfmt)).mxStart o
  | .tcfg af bf _ _ => (s.modX fun x => x.setTcb (tcbOf x.mxHalted x.wbh af bf)).mxStart o
  | .wbld _ _ _ _ _ =>
    let o := { o with r := wbits o.sa 16 13 + 1, half := wbits o.sa 13 1 == 1 }
    (s.modX fun x => x.putSlots o.half (wbldSlots o 0) 1 0).mxStart o
  | .tenantM _ _ _ _ _ _ _ _ =>
    match s.tenantReady o.instr with
    | none => s
    | some (b, ws) =>
      let v (k : Nat) : VReg := (o.regs[k]?).getD 0
      (s.modX fun x =>
        { x with lane := { x.unitFor o.instr b ws b.entry noTemps o.vl o.stat with
            opa := v 0, opb := v 1, opc := v 2 }, tim := { x.tim with laneSeq := o.seq } }).mxStart o
  | _ => s

/-- The head of the queue taken out of it; `p` of R153 is this cycle. -/
def State.mxPop (s : State) : State := s.modX fun x => x.modMx fun m => { m with queue := m.queue.drop 1, lastIssue := s.dcc }

/-- An operation that ends in error at its issue (R158). -/
def State.mxError (s : State) (o : MOp) (code : Nat) : State := s.mxPop.modX fun x => (x.finishOp o 0 code).haltMx code

/-- An MBARM that is taken: it arms its barrier (R156). -/
def State.mxArm (s : State) (b : BNum) : State := s.mxPop.modX fun x => x.modMx fun m => m.arm b

/-- The schedule miss of an MBARM (R158): the code of its barrier's open group, where that is 0; the unit halts, and it arms the group. -/
def State.mbarmMiss (s : State) (o : MOp) (b : BNum) : State :=
  let s := s.mxPop.modX fun x =>
    (x.modMx fun m => m.modBar b fun v =>
      if v.opn.code = 0 then { v with opn := { v.opn with code := 8, cs := o.rank } } else v).haltMx 8
  s.modX fun x => x.modMx fun m => m.arm b

/-- The head of the queue misses its cycle (R153). -/
def State.mxMiss (s : State) (o : MOp) : State :=
  match o.instr with
  | .mbarm b _ => s.mbarmMiss o b
  | _ => s.mxError o 8

/-- The head of the queue issues now (R154), or ends in error. -/
def State.mxGo (s : State) (o : MOp) : State :=
  match o.instr with
  | .mbarm b _ => s.mxArm b
  | _ =>
    match s.mxFault o with
    | some f => s.mxError o f.code
    | none => s.mxPop.mxRun o

/-- What the head of the queue does in this cycle (R153, R158). -/
def State.mxHead (s : State) (o : MOp) : State :=
  let m := s.x.mx
  let barm : Bool := match o.instr with | .mbarm _ _ => true | _ => false
  if s.dcc < o.entry ∨ s.dcc ≤ m.lastIssue then s
  else if s.x.mxHalted ∧ barm then s.mxGo o
  else match o.target with
    | none => if s.mxReady o then s.mxGo o else s
    | some t => if s.dcc < t then s else if s.dcc = t ∧ s.mxReady o then s.mxGo o else s.mxMiss o

/-- A TCFG that stands at the head of a halted unit clears HALT (R158). -/
def Shift.clearHalt (x : Shift) : Shift :=
  match x.mx.queue with
  | { instr := .tcfg _ _ _ _, .. } :: _ => if x.mxHalted then x.setTcb (tcbOf false x.wbh x.afmt x.bfmt) else x
  | _ => x

/-- MATRIX_OP_ISSUE (R153): the head of the queue of shift sh issues in this cycle where it may. -/
def execMatrixOpIssue (sh : Nat) (s : State) : Out :=
  let s := ({ s with cur := { Cur.zero with sh := some sh } }).modX Shift.clearHalt
  .next (match s.x.mx.queue with
    | [] => s
    | o :: _ => s.mxHead o)

/-- The earliest-entered operation in progress whose completion cycle has come. -/
def State.mxDue (s : State) (x : Shift) : Option MOp :=
  x.mx.active.find? fun o => match o.done with | some d => decide (d ≤ s.dcc) | none => false

/-- An operation in progress ended. -/
def Shift.endOp (x : Shift) (o : MOp) (fl : Flags) (code : Nat) : Shift :=
  (x.modMx fun m => { m with active := m.active.filter fun e => e.rank != o.rank }).finishOp o fl code

/-- MATRIX_OP_COMPLETE (R154): what the first operation of shift sh that is due wrote becomes its tile's and PAD's, and it ends. -/
def execMatrixOpComplete (sh : Nat) (s : State) : Out :=
  match s.sh? sh with
  | none => .next s
  | some x =>
    match s.mxDue x with
    | none => .next s
    | some o =>
      let s := s.modSh sh fun x =>
        let x := match tileOf o.instr with
          | some ct => o.rows.foldl (fun (x : Shift) (r : Nat × TileRow) => x.setRow ct r.1 r.2) x
          | none => x
        x.endOp o o.flags 0
      .next (if o.bytes.isEmpty then s else s.putPad x.place.core (wbits o.sa 0 20) o.bytes)

/-! ## The weight stream (R163) -/

/-- The body of a slot from its source bytes: the bytes themselves, or a block of their elements. -/
def wbldBody (plain : Option Fmt) (bs : List Byte) : BitVec 512 :=
  match plain with
  | none => BitVec.ofNat 512 (ofLE bs)
  | some f =>
    if halfFmt f then BitVec.ofNat 512 (ofLE bs)
    else
      let g := blockScales f
      let scale : Byte := if f == .lg6 then 0 else 0x7F
      BitVec.ofNat 512 (ofLE (BitVec.ofNat 8 f.code.toNat :: List.replicate g scale ++ bs))

/-- The WBLD whose slots the stream fills: the earliest in progress. -/
def Matrix.stream (m : Matrix) : Option MOp := m.active.find? fun o => match o.instr with | .wbld _ _ _ _ _ => true | _ => false

/-- Whether an earlier operation still reads a slot of a half: an MMA until its occupancy ends, a tenant routine until its end. -/
def State.slotReading (s : State) (x : Shift) (o : MOp) (half : Bool) (k : Nat) : Bool :=
  x.mx.active.any fun e => decide (e.rank < o.rank) && (match e.instr with
    | .mma _ _ _ _ _ _ _ | .mmaz _ _ _ _ _ _ _ =>
      e.half == half && decide ((k % 8192 + 8192 - e.slot) % 8192 < e.r) && decide (s.dcc < e.issued.getD 0 + e.occ)
    | .tenantM _ _ _ _ _ _ _ _ => true
    | _ => false)

/-- The operation in progress changed. -/
def Shift.modOp (x : Shift) (o : MOp) (f : MOp → MOp) : Shift :=
  x.modMx fun m => { m with active := m.active.map fun e => if e.rank = o.rank then f e else e }

/-- A WBLD that stops at the slot it has reached: that slot and every later one FAILED; a fault on slot 0 halts the unit. -/
def Shift.wbldFail (x : Shift) (o : MOp) (code : Nat) : Shift :=
  let x := (x.putSlots o.half (wbldSlots o o.slot) 2 code).endOp o 0 code
  if o.slot = 0 then x.haltMx code else x

/-- The next slot of a WBLD written: VALID, and the operation complete after the last. -/
def Shift.wbldPut (x : Shift) (o : MOp) (plain : Option Fmt) (k : Nat) (bs : List Byte) : Shift :=
  let x := (x.modMx fun m => m.setSlot o.half k { state := 0, code := 0, body := wbldBody plain bs }).modOp o fun e =>
    { e with slot := o.slot + 1, bytes := [] }
  if o.r ≤ o.slot + 1 then x.endOp o 0 0 else x

/-- Whether the accesses that its shift issued before a WBLD have been performed (R186), the writes of earlier matrix operations among them. -/
def State.streamOrdered (s : State) (sh : Nat) (x : Shift) (o : MOp) : Bool :=
  !s.pendingUpTo sh o.seq && !x.memLanding o.seq && !x.mx.active.any fun e => writesPad e.instr && decide (e.rank < o.rank)

/-- The next step of the weight stream of a shift: a slot, a read sent to another package, the end of a WBLD whose read failed in another package, or
nothing. -/
def State.streamStep (s : State) (sh : Nat) (x : Shift) (o : MOp) (plain : Option Fmt) : State :=
  let n := wbldBytes plain
  let k := wbits o.sa 0 13 + o.slot
  let at_ : Int := (o.aa.toNat + o.slot * n + o.bytes.length : Nat)
  let away := s.fab.ops.any fun f => f.kind == 5 && f.sh == some sh
  if o.code ≠ 0 then s.modSh sh fun x => x.wbldFail o o.code
  else if away ∨ s.slotReading x o o.half k ∨ !s.streamOrdered sh x o ∨ o.issued = some s.dcc then s
  else if n ≤ o.bytes.length then s.modSh sh fun x => x.wbldPut o plain k o.bytes
  else match s.engineRead (s.streamJob o) x 4 false .glob at_ (n - o.bytes.length) with
    | .fault f => s.modSh sh fun x => x.wbldFail o f.code
    | .wait => s
    | .data bs t => t.modSh sh fun x => x.wbldPut o plain k (o.bytes ++ bs)
    | .remote _ _ _ _ =>
      match s.enginePiece (s.streamJob o) x 4 false .glob at_ (min (n - o.bytes.length) (32 - (at_ % 32).toNat)) with
      | .remote (.fab pkg pa key) via m t =>
        t.inject (newOp (some sh) 5 x.place.core none pkg (.read pa m) (a72i at_) via key)
      | .data bs t => t.modSh sh fun x => x.modOp o fun e => { e with bytes := e.bytes ++ bs }
      | _ => s

/-- WBLD_SLOT_VALID (R163): the next slot of shift sh's weight stream. -/
def execWbldSlotValid (sh : Nat) (s : State) : Out :=
  let s := { s with cur := { Cur.zero with sh := some sh } }
  match s.sh? sh with
  | none => .next s
  | some x =>
    match x.mx.stream with
    | none => .next s
    | some o => .next (match o.instr with
      | .wbld plain _ _ _ _ => s.streamStep sh x o plain
      | _ => s)

end Sys2Proof.Machine
end

