-- ==== Sys2Proof/Machine/Fabric.lean ====
section
/-!
DEFINITION. The Lemham fabric in this package (chapter 14): packets and their homes (R279, R280), what comes of an operation (R278, R285), and the
fabric instructions (R283 to R291). Other packages are outside (log 11): a packet that leaves over an adit is answered by an event.
-/
namespace Sys2Proof.Machine

/-! ## Links of this package -/

/-- The package-wide number of an adit. -/
def aditOf (die exit : Nat) : Nat := 9 * die + exit

/-- Whether an adit is UP in LEM personality (R292). -/
def Adit.inLem (a : Adit) : Bool := a.st == 1 && a.cur == 3

/-- Whether a direction that this package sends on carries traffic (R273, R281): a die-to-die link that is up, or an adit UP in LEM
personality with a healthy egress lane. -/
def State.liveUp (s : State) (die exit : Nat) : Bool :=
  if exit < 9 then
    let a := s.adit (aditOf die exit)
    a.inLem && !a.down && (a.good &&& a.lcur) != 0
  else !s.mg.off.contains (28 + die) && !s.mg.off.contains (28 + (exit - 9)) && s.fab.links.getLsbD (4 * die + (exit - 9))

/-! ## What comes of an operation -/

/-- An operation that is over. -/
def State.dropOp (s : State) (id : Nat) : State := s.modFab fun f => { f with ops := f.ops.filter fun o => o.id != id }

/-- A packet that is gone. -/
def State.dropPkt (s : State) (k : Nat) : State := s.modFab fun f => { f with pkts := dropAt f.pkts k }

/-- A request that has left this package over an adit (R296), with the dies that it crossed before: kept with its operation, or, of another package,
among those that have crossed this one (R276). -/
def State.leftOver (s : State) (p : Packet) (adit : Nat) : State :=
  s.modFab fun f =>
    { f with
      ops := f.ops.map fun (o : FabOp) => if p.op = some o.id then { o with adit := some adit, path := p.path } else o,
      crossed := match p.src with
        | some a => f.crossed ++ [{ id := p.id, out := adit, path := p.path, src := a }]
        | none => f.crossed }

/-- The waiters of a unit of a shift answered. -/
def State.answerUnit (s : State) (i unit : Nat) (why : WaitFor → Bool) (w : Word) (data : List Byte) (bad : Option FaultInfo) : State :=
  { s with waiters := s.waiters.map fun u =>
      if u.sh = i ∧ u.unit = unit ∧ u.answer.isNone ∧ why u.why then { u with answer := some w, data := data, bad := bad } else u }

/-- The waiter of a shift's issue unit answered. -/
def State.answerWaiter (s : State) (i : Nat) (w : Word) (data : List Byte) (bad : Option FaultInfo) : State := s.answerUnit i 0 (fun _ => true) w data bad

/-- What a link job records of a target or a packet that failed: the first STATUS, with its CODE and CAUSE as one number (R287, R289). -/
def Job.noteFail (j : Job) (status code : Nat) : Job := if j.cause.isSome then j else { j with cause := some (status, code) }

/-- The record of a fault. -/
def Job.noteFault (j : Job) (f : FaultInfo) : Job := j.noteFail (if f.code = 0x0E then 6 else 1) (f.code * 16 + tokenCause f)

/-- The next target of an RSTN (R287). -/
def Job.nextTarget (j : Job) (whole : Bool) : Job := { j with todo := j.todo.drop 1, done := 0, count := j.count + bnat whole }

/-- The response to a piece of a job. -/
def Job.response (j : Job) (act : FabAct) (data : List Byte) : Job :=
  let more : Job := { j with buf := some (j.buf.getD [] ++ data) }
  match j.instr, act with
  | .cpy _ _ _ _ _, .write _ bs | .cpy2d _ _ _ _ _, .write _ bs => { j with done := j.done + bs.length, buf := none }
  | .cpy _ _ _ _ _, _ | .cpy2d _ _ _ _ _, _ | .mscan _ _ _ _ _ _, _ | .rldq _ _ _ _, _ | .rstn _ _ _, .read _ _ | .rsend _ _ _ _, .read _ _ => more
  | .rstn _ _ _, .write _ bs => { j with done := j.done + bs.length }
  | .rsend _ _ _ _, .recv p =>
    match data with
    | [] => { j with done := j.done + p.data.length, count := j.count + p.data.length }
    | c :: _ => { j with done := j.done + p.data.length }.noteFail c.toNat 0
  | _, _ => { more with count := j.count + 1 }

/-- An RLDQ that a fault stops (R286): its slot becomes EMPTY again, and its token takes the fault with the slots published. -/
def State.rldqFail (s : State) (j : Job) (f : FaultInfo) : State :=
  let s := match s.sh? j.sh with
    | none => s
    | some x => s.returnHeld x j.unit.held
  s.failJob j j.done f

/-- A piece of a job that failed in the fabric (R202, R286 to R289, R200). -/
def State.jobFailed (s : State) (j : Job) (act : FabAct) (f : FaultInfo) : State :=
  match j.instr, act with
  | .cpy _ _ _ _ _, _ | .cpy2d _ _ _ _ _, _ => s.failJob j j.done f
  | .mscan _ _ _ _ _ _, _ => s.failJob j 0 f
  | .rldq _ _ _ _, _ => s.rldqFail j f
  | .rstn _ _ _, .write _ _ => s.modJob j.id fun j => (j.noteFault f).nextTarget false
  | .rstn _ _ _, _ => s.failJob j 0 f
  | .rsend _ _ _ _, .recv p => s.modJob j.id fun j => { j.noteFault f with done := j.done + p.data.length }
  | .rsend _ _ _ _, _ => s.failJob j 0 f
  | _, _ => { ((s.asUnit j.sh (j.eng + 1)).unitFault f) with cur := s.cur }

/-- The stream of a WBLD changed. -/
def State.modStream (s : State) (i : Nat) (f : Shift → MOp → Shift) : State :=
  s.modSh i fun x => match x.mx.stream with
    | none => x
    | some o => f x o

/-- The value that a response brings. -/
def FabOp.value (o : FabOp) (data : List Byte) : Word :=
  match o.act with
  | .read _ n => loadValue n o.sx data
  | .bun b => loadValue b.count o.sx data
  | _ => w64 (ofLE (data.take 8))

/-- An operation that is over, with what its response brings or the fault that it ends in: to its register, its waiter, its job, or the record of posted
failures (R278, R280, R285, R290). -/
def State.endOp (s : State) (o : FabOp) (data : List Byte) (fl : Flags) (bad : Option FaultInfo) : State :=
  let s := s.dropOp o.id
  let v : Word := if bad.isSome then 0 else o.value data
  match o.kind, o.sh, o.dst with
  | 0, some i, _ =>
    match bad with
    | none => s
    | some f => s.modSh i fun x => if x.pend.posted.isSome then x else { x with pend := { x.pend with posted := some (f.code, f.cause) } }
  | 1, some i, some d | 3, some i, some d => s.post (.arrive i (some d) v fl bad)
  | 8, some i, _ =>
    match bad with
    | none => s
    | some f => s.systemFault i f
  | 9, some i, _ => s.answerUnit i frameWait (fun w => w == .anchor o.line) v data bad
  | 7, some i, _ => s.answerUnit i codeWait (fun w => w == .anchor o.line) v data bad
  | 3, some i, none => s.answerWaiter i v data bad
  | 5, some i, _ => s.modStream i fun x w => x.modOp w fun e =>
      match bad with
      | none => { e with bytes := e.bytes ++ data }
      | some f => { e with code := f.code }
  | 2, _, _ =>
    match o.job.bind s.job? with
    | none => s
    | some j =>
      match bad with
      | none => s.modJob j.id fun j => j.response o.act data
      | some f => s.jobFailed j o.act f
  | _, _, _ => s

/-- An operation that failed (R278, R280, R285), and is not sent again: a posted one is kept for LFENCE (R290). A cause past 15 is that of a memory-model
fault, 16 more (R223). A message about a bundle is lost (log 71): a commit's fault goes to the shift that waits for it. -/
def State.opFailed (s : State) (o : FabOp) (cause : Nat) : State :=
  let f : FaultInfo := if cause < 16 then { o.info with code := 0x0E, cause := cause } else { o.info with code := 0x0B, cause := cause - 16 }
  match o.kind, o.act, o.sh with
  | 6, .bun b, some i => if b.kind = 2 then (s.dropOp o.id).answerWaiter i 0 [] (some f) else s.dropOp o.id
  | 6, _, _ => s.dropOp o.id
  | _, _, _ => s.endOp o [] 0 (some f)

/-! ## Reads of other packages against the views of their shift (R228, R234 to R236) -/

/-- An operation of a shift in place of another: the same destination and route, another question to the home. -/
def State.askAgain (s : State) (o : FabOp) (act : FabAct) : State := (s.dropOp o.id).inject { o with act := act, adit := none, path := [], late := none }

/-- Whether an operation is an LD or an LDA, which alone an explicit view binds (R235). -/
def FabOp.viewed (o : FabOp) : Bool :=
  o.dst.isSome && match o.act with
    | .read _ _ => true
    | .bun b => b.kind == 12
    | _ => false

/-- How many bytes an operation reads. -/
def FabOp.len (o : FabOp) : Nat :=
  match o.act with
  | .read _ n => n
  | .ge d _ _ _ => dwBytes d
  | .bun b => b.count
  | _ => 0

/-- A read of another package that has come back with the pennant that it met (R234 to R236): taken, kept until an evicted entry's bundle has settled, or
asked again as a fetch. One that its home performed with it, an atomic's or a barrier's, is not asked again (log 71). -/
def State.readBack (s : State) (o : FabOp) (i : Nat) (data : List Byte) (fl : Flags) (pen : Option (Nat × Nat × Nat)) : State :=
  match s.sh? i with
  | none => s.endOp o data fl none
  | some x =>
    match s.seeLine (if o.viewed then x else x.noView) o.line pen with
    | none => (s.modFab fun f => { f with ops := f.ops.map fun (p : FabOp) => if p.id = o.id then { p with late := some (data, pen) } else p }).askSettled i
    | some (y, f) =>
      let s := s.modSh i fun x => { x with opt := y.opt, view := if o.viewed then y.view else x.view }
      match f, o.len with
      | none, _ | _, 0 => s.endOp o data fl none
      | some f, _ =>
        s.askAgain o (.bun { bunTo (if f.fwd then 7 else 6) o.line f.name f.version with
          off := ((placeOf o.act).getD 0) % 128, count := o.len, index := bnat f.fwd })

/-- A read about a bundle that has come back (kinds 6, 7 and 12): EXPIRED of a backward fetch ends the view; a WAITGE whose value does not pass asks
again. -/
def State.fetchBack (s : State) (o : FabOp) (i : Nat) (b : BunAct) (data : List Byte) (fl : Flags) : State :=
  let s := if (data.drop b.count).head? = some 1 then s.modSh i Shift.expireView else s
  let s := if b.kind = 12 ∧ o.viewed then s.modSh i fun x => x.countLine o.line else s
  match o.dst, ((s.waiter? i 0).map (·.why) : Option WaitFor) with
  | none, some (WaitFor.ge _ d sg thr) =>
    if gePasses d sg (w64 (ofLE (data.take b.count))) thr then s.endOp o (data.take b.count) fl none
    else s.askAgain o (if b.kind = 12 then o.act else .ge d sg (b.pa + b.off) thr)
  | _, _ => s.endOp o (data.take b.count) fl none

/-- The answer of an anchor of another package about an entry of a shift's table (R234): where its bundle has settled, the reads that waited go on; else it
is asked again while a read waits. -/
def State.anchorSaid (s : State) (i : Nat) (b : BunAct) (settled : Bool) : State :=
  let late (s : State) : List FabOp := s.fab.ops.filter fun o => o.sh == some i && o.late.isSome
  if settled then
    let s := s.modSh i fun x => { x with opt := x.opt.map fun e => if e.1 = b.name ∧ e.2.1 = b.version then (e.1, e.2.1, 0) else e }
    (late s).foldl (fun s o => match o.late with | some l => s.readBack o i l.1 0 l.2 | none => s) s
  else if late s = [] then s
  else s.askSettled i

/-- What the answer to a message about a bundle brings (log 71). -/
def State.bunBack (s : State) (o : FabOp) (b : BunAct) (data : List Byte) : State :=
  let s := s.dropOp o.id
  let code := (data.headD 0).toNat
  match b.kind, o.sh with
  | 2, some i => s.answerWaiter i (w64 (ofLE (data.take 8))) data none
  | 8, _ => s.resolved (localLine b.count) b.name b.version (if code = 0 then none else some ((data.drop 1).headD 0).toNat)
  | 11, some i => s.anchorSaid i b (code != 0)
  | _, _ => s

/-- The answer of an anchor of another package to BOPEN (R227): given to the shift that waits for it. Where none waits any more, a bundle that the anchor has
opened is aborted there (log 71). -/
def State.opened (s : State) (o : FabOp) (i : Nat) (b : BunAct) (data : List Byte) : State :=
  let w := w64 (ofLE (data.take 8))
  if s.waiters.any fun u => u.sh == i && u.unit == 0 && u.answer.isNone && u.why == .anchor o.line then s.endOp o data 0 none
  else if wbits w 0 8 = 0 then (s.dropOp o.id).sendBun none o.pkg (bunTo 3 o.line b.name (wbits w 32 12))
  else s.dropOp o.id

/-- An operation that completed (R280, R285). -/
def State.opDone (s : State) (o : FabOp) (data : List Byte) (fl : Flags) (pen : Option (Nat × Nat × Nat)) : State :=
  match o.act, o.kind, o.sh with
  | .bun b, 6, _ => s.bunBack o b data
  | .bun b, _, some i =>
    if b.kind = 0 then s.opened o i b data
    else if b.kind = 6 ∨ b.kind = 7 ∨ b.kind = 12 then s.fetchBack o i b data fl
    else s.endOp o data fl none
  | .recv _, _, _ | .resp _ _ _ _, _, _ | .write _ _, _, _ => s.endOp o data fl none
  | _, 1, some i | _, 3, some i => s.readBack o i data fl pen
  | _, _, _ => s.endOp o data fl none

/-- An operation by its number. -/
def State.op? (s : State) (id : Nat) : Option FabOp := s.fab.ops.find? fun o => o.id == id

/-! ## Receive ports (R288, R289) -/

/-- A port of a core that is armed, with its job outstanding; from the third step of a freeze its context's ports are not (R427). -/
def State.port? (s : State) (core n : Nat) : Option Port :=
  match NMap.get? (s.core core).ports n with
  | none => none
  | some p => if p.armed ∧ (s.jobs.any fun j => j.id == p.job) ∧ !s.enginesStand p.ctx then some p else none

/-- Bytes of an element of a receive port. -/
def recvWidth : RecvFmt → Nat
  | .bf16 => 2 | _ => 4

/-- An element added at a receive port, rounded once; F32 under the FTZ of the arming shift's STAT (R87, R289). -/
def recvElem (f : RecvFmt) (ftz : Bool) (old new : Nat) : Nat × Flags :=
  let fp (t : Fmt) : Nat × Flags :=
    let v := fvAdd .rne (decodeFtz ftz t old) (decodeFtz ftz t new)
    let r := roundTo t .rne ftz 0 v.1
    (r.1, v.2 ||| r.2)
  match f with
  | .f32 => fp .f32
  | .bf16 => fp .bf16
  | .s32 => ((old + new) % 2 ^ 32, 0)
  | .put => (new, 0)

/-- The bytes of a window after a packet, and the flags of its adds. -/
def recvBytes (f : RecvFmt) (ftz : Bool) (old new : List Byte) : List Byte × Flags :=
  let w := recvWidth f
  let r := (upto 0 (new.length / w)).map fun k =>
    let e := recvElem f ftz (ofLE ((old.drop (w * k)).take w)) (ofLE ((new.drop (w * k)).take w))
    (leBytes w e.1, e.2)
  (r.flatMap (·.1), r.foldl (fun a p => a ||| p.2) 0)

/-- A packet taken whole at its port (R289): the state after it, and the refusal's STATUS, 0 for none. -/
def State.takeRx (s : State) (p : RxPacket) : State × Nat :=
  let n := p.data.length
  match s.port? p.core p.port with
  | none => (s, 7)
  | some q =>
    if q.ctx ≠ p.ctx then (s, 7)
    else if q.wlen < p.off + n ∨ q.elen < q.received + n then (s, 8)
    else
      let at_ := q.window + p.off
      let r := recvBytes q.fmt (((s.sh? q.sh).map fun x => ftzOf x.sp.stat).getD false) (s.pad.bytes (padKey p.core at_) n) p.data
      let s := s.putPad p.core at_ r.1
      let s := if q.cnten then s.putPad p.core q.cnt (leBytes 8 ((s.pad.num (padKey p.core q.cnt) 8 + n) % 2 ^ 64)) else s
      let full := q.received + n = q.elen
      let fl := q.flags ||| r.2
      let s := s.modCore p.core fun c =>
        { c with ports := NMap.set c.ports p.port { q with received := q.received + n, flags := fl, armed := !decide full } }
      if full then (({ s with jobs := s.jobs.filter fun j => j.id != q.job }).modSh q.sh fun x => x.orStat (s.flagCycle (q.sh / 8)) fl, 0) else (s, 0)

/-- Whether an adit still carries what was under way over it in LEM personality: it is UP, or stops or drains (R295, R296). -/
def State.lemOpen (s : State) (a : Nat) : Bool :=
  let x := s.adit a
  x.cur == 3 && decide (1 ≤ x.st ∧ x.st ≤ 3) && !x.down

/-- RECEIVE_PACKET (R289): a packet of another package reaches a receive port of this one, over an adit that carries traffic (R292). -/
def execReceivePacket (p : RxPacket) (s : State) : Out := .next (if (upto 0 36).any s.lemOpen then (s.takeRx p).1 else s)

/-! ## Delivery at a home of this package -/

/-- What a delivery gives: the bytes of its response, its flags, whether the home refused it, and the pennant that a read met. -/
structure Delivered where
  data : List Byte
  flags : Flags
  refused : Option Nat
  pen : Option (Nat × Nat × Nat)
  deriving DecidableEq, Repr

/-- A response of bytes alone. -/
def Delivered.of (data : List Byte) : Delivered := { data := data, flags := 0, refused := none, pen := none }

/-- The refusal of a home for a route fault's cause REMOTE, where it has one. -/
def remoteIf (bad : Bool) : Option Nat := if bad then some 0x0A else none

/-- A response of bytes as a key read them. -/
def Delivered.ofRead (r : List Byte × Bool × Bool) (more : List Byte) : Delivered := { data := r.1 ++ more, flags := 0, refused := remoteIf r.2.1, pen := none }

/-- Whether an anchor of this package holds a bundle committed at a version with these members: the answer to a commit that is asked again (log 71). -/
def State.committedAs (s : State) (line name version : Nat) (members : List Nat) : Bool :=
  let d := s.manifest line
  manName d == name && manVersion d == version && (manState d == 2 || manState d == 3) && s.membersOf line == members

/-- A message between packages about bundles, taken at its home line or anchor (R227 to R236); none where it waits. -/
def State.takeBun (s : State) (b : BunAct) (key : Nat) (fn : Option Nat) : State × Option Delivered :=
  let line := b.pa / 128
  let d := s.manifest line
  let done (t : State) : State × Option Delivered := (t, some (.of []))
  let status (t : State) (w : Word) : State × Option Delivered := (t, some (.of (leBytes 8 w.toNat)))
  match b.kind with
  | 0 =>
    if openWaits d b.name then (s, none)
    else match openRefused d b.name (if b.off = 1 then 256 else 0) with
      | some w => status s w
      | none =>
        let t := s.anchorOpen b.pa key d b.name b.count b.index
        let t := if t.isManifest (s.fabLine line) then t else { t with manifests := t.manifests ++ [(s.fabLine line, 65536 + b.count, b.version)] }
        status t (bunStatus b.name ((manVersion d + 1) % 4096) 0)
  | 1 => match s.bstAt line b key fn with
    | .inl t => done t
    | .inr _ => (s, none)
  | 2 =>
    let members := (chunks 8 b.count b.data).map fun m => ofLE m / 128
    match s.anchorCommit line b.name b.version members with
    | some t => status t (bunStatus b.name b.version 0)
    | none => status s (bunStatus b.name b.version (if s.committedAs line b.name b.version members then 0 else 0x0A))
  | 3 => done (s.anchorAbort line b.name b.version)
  | 4 => done ((s.promote line b.name b.version b.count).ackSeal b.anchor b.name b.version (s.fabLine line))
  | 5 => done (s.discardAt line b.name b.version)
  | 6 =>
    match s.retainedFor line b.name b.version with
    | some e => (s, some (.ofRead (s.sideRead e b.off b.count key) [0]))
    | none => (s, some (.ofRead (s.peek (b.pa + b.off) b.count (some key)) [1]))
  | 7 =>
    let t := if b.index = 1 then s.fetchForward line b.name b.version else s
    (t, some (.ofRead (t.peek (b.pa + b.off) b.count (some key)) []))
  | 8 => let r := s.resolveAt line b.name b.version; (r.1, some (.of (match r.2 with | some n => [1, BitVec.ofNat 8 n] | none => [0])))
  | 9 => done (s.post (.settle (s.fabLine line) b.name b.version))
  | 10 => done { s with manifests := s.manifests.filter fun m => !(m == (s.fabLine line, 65536 + b.count, b.index)) }
  | 13 => done (s.post (.sealAck (s.fabLine line) b.name b.version b.count))
  | 11 => (s, some (.of [if manName d == b.name && manVersion d == b.version && manState d == 2 then 0 else 1]))
  | _ =>
    match (s.line line).side with
    | some e => if e.pending ∧ e.name = b.name ∧ e.version = b.version then (s, some (.ofRead (s.sideRead e b.off b.count key) []))
        else (s, some (.ofRead (s.peek (b.pa + b.off) b.count (some key)) []))
    | none => (s, some (.ofRead (s.peek (b.pa + b.off) b.count (some key)) []))

/-- Whether an action of a packet writes at its home. -/
def actWrites (a : FabAct) : Bool :=
  match a with
  | .write _ _ | .atom _ _ _ _ | .cas _ _ _ _ | .recv _ => true
  | .bar k _ _ => k != 3
  | .bun b => b.kind == 1
  | _ => false

/-- Whether a home refuses an access of the fabric, and why: a retired page or no memory (Table 14.4, REMOTE), or a write of a manifest in use other than by
a bundle instruction, which is the memory-model fault RESERVED (R223). -/
def State.fabRefuses (s : State) (a : FabAct) : Option Nat :=
  match placeOf a with
  | none => none
  | some pa =>
    if s.retiredAt pa || !s.memThere pa then some 0x0A
    else match a with
      | .bun _ => none
      | a => if actWrites a && s.isManifest (s.fabLine (pa / 128)) then some 24 else none

/-- A wait of packet id at a home of this package (R205, R218): its answer, or its place among the waiters. -/
def State.fabWait (s : State) (id : Nat) (why : WaitFor) (now : Option Word) : State × Option Delivered :=
  match s.waiters.find? fun w => w.unit == 16 + id with
  | some w =>
    match w.answer with
    | some v => ({ s with waiters := s.waiters.filter fun w => w.unit != 16 + id }, some (.of (leBytes 8 v.toNat)))
    | none => (s, none)
  | none =>
    match now with
    | some v => (s, some (.of (leBytes 8 v.toNat)))
    | none => (s.addWaiter fabParty (16 + id) why, none)

/-- A packet delivered in this package (R279): the state after it and its response, none where it waits at its home. -/
def State.deliver (s : State) (a : FabAct) (key id : Nat) (op : Option Nat) : State × Option Delivered :=
  let fn := ((op.bind fun id => s.fab.ops.find? fun o => o.id == id).bind fun o => o.sh.bind s.ctxOf).bind s.deviceOf
  let held (h : Home) : Bool := s.pendAt h || (match h with | .glob pa _ => s.collapsing pa | _ => false)
  let atom (h : Home) (o : HomeOp) : State × Option Delivered :=
    if held h then (s, none)
    else
      let r := s.perform h o fn
      (r.1, some { data := leBytes 8 r.2.val.toNat, flags := r.2.flags, refused := remoteIf r.2.bad, pen := (placeOf a).bind fun pa => s.penOf (pa / 128) })
  -- a write to a retired page is dropped and counted (R378)
  let lost := actWrites a && (placeOf a).any s.retiredAt
  match s.fabRefuses a with
  | some c => (if lost then s.modMg fun g => { g with drop := satAdd 32 g.drop 1 } else s, some { Delivered.of [] with refused := some c })
  | none => match a with
    | .read pa n =>
      let r := s.homeRead (.glob pa key) n
      (if r.2.2 then s.kmiss fn else s, some { Delivered.ofRead r [] with pen := s.penOf (pa / 128) })
    | .write pa bs => if held (.glob pa key) then (s, none) else ((s.deadKey (.glob pa key) fn).storeAt (.glob pa key) bs, some (.of []))
    | .atom o d pa b => atom (.glob pa key) (.atom o d b)
    | .cas d pa e n => atom (.glob pa key) (.cas d e n)
    | .bar 3 pa g => (s.lookMiss (.glob pa key) 32 fn (s.waiter? fabParty (16 + id)).isNone).fabWait id (.bar (.glob pa key) (g.setWidth 32)) (s.barNow (.glob pa key) (wbits g 0 32))
    | .bar 2 pa _ => atom (.glob pa key) .bararr
    | .bar k pa c => atom (.glob pa key) (.barinit (k == 1) c)
    | .ge d sg pa thr =>
      let v := s.geValue fabParty (.glob pa key) d
      let r := (s.lookMiss (.glob pa key) (dwBytes d) fn (s.waiter? fabParty (16 + id)).isNone).fabWait id (.ge (.glob pa key) d sg thr) (if gePasses d sg v thr then some v else none)
      (r.1, r.2.map fun x => { x with pen := s.penOf (pa / 128) })
    | .recv p => let r := s.takeRx p; (r.1, some (.of (if r.2 = 0 then [] else [BitVec.ofNat 8 r.2])))
    | .bun b => s.takeBun b key fn
    | .resp _ _ _ _ => (s, some (.of []))

/-! ## Packets (R276, R279, R280) -/

/-- A packet changed where it stands. -/
def State.setPkt (s : State) (k : Nat) (p : Packet) : State := s.modFab fun f => { f with pkts := setAt f.pkts k p }

/-- A response or a notice at its end: at its operation; or on its way out over the adit by which its request came in. -/
def State.landPkt (s : State) (k : Nat) (p : Packet) : State :=
  let t := s.dropPkt k
  match p.src with
  | some a => { t with replies := t.replies ++ [match p.note.or p.refused with | some c => [BitVec.ofNat 8 c] | none => if s.lemOpen a then p.data else [8]] }
  | none =>
    match p.op.bind t.op? with
    | none => t
    | some o => match p.note with
      | some c => t.opFailed o c
      | none => match p.refused with
        | some c => t.opFailed o c
        | none => t.opDone o p.data p.flags p.pen

/-- A packet that its exit cannot take (R280): a request becomes a failure notice, cause REQ, which retraces its links; a response is lost, cause RESP, and
so is a notice, with its own cause. -/
def State.lose (s : State) (k : Nat) (p : Packet) : State :=
  if p.resp then s.landPkt k { p with note := some (p.note.getD 8) } else s.setPkt k { p with resp := true, note := some 7, fresh := true }

/-- A response one hop further on its way back (R276), or at its end. -/
def State.moveBack (s : State) (k : Nat) (p : Packet) : State :=
  match p.path with
  | [] => s.landPkt k p
  | d :: rest => if s.liveUp p.die (9 + d) then s.setPkt k { p with die := d, path := rest, fresh := false } else s.lose k p

/-- A request at its deliver hop; its home may stand on another die of the package, over a link whose state does not matter here (DESIGN CHOICE, log 82). -/
def State.arriveHome (s : State) (k : Nat) (p : Packet) : State :=
  match s.deliver p.act p.key p.id p.op with
  | (t, none) => t.setPkt k { p with waits := true }
  | (t, some r) => t.setPkt k { p with resp := true, waits := false, data := r.data, flags := r.flags, pen := r.pen, refused := r.refused, fresh := true }

/-- The exit that a packet takes next, by its number on its die and its network: 0 to 8 an adit, 9 to 12 another die, 15 its home; none at its end. -/
def Packet.exit (p : Packet) : Option Nat :=
  if p.resp then (match p.path with | d :: _ => some (9 + d) | [] => p.src.map (· % 9)) else p.hops.head?.map fun h => h.toNat / 16

/-- Whether a packet is in transit at its router: it came over a link, not from the die itself (R279). -/
def Packet.inTransit (p : Packet) : Bool := !p.fresh

/-- An exit of the package with its network, as one number. -/
def Packet.exitKey (p : Packet) (x : Nat) : Nat := (p.die * 16 + x) * 2 + bnat p.resp

/-- The exit of a packet noted as having last served traffic in transit, or the die's own (R279). -/
def State.serveExit (s : State) (p : Packet) : State :=
  match p.exit with
  | none => s
  | some x =>
    let e := p.exitKey x
    s.modFab fun f => { f with transit := if p.inTransit then e :: f.transit.filter (· != e) else f.transit.filter (· != e) }

/-- A packet one hop further (R279). A hop 9 to 12 that names the packet's own die goes over a link of the die to itself, which is up until a link change
says otherwise (log 74). -/
def State.movePkt (s : State) (k : Nat) (p : Packet) : State :=
  if p.resp then (s.serveExit p).moveBack k p
  else match p.hops with
    | [] => s.lose k p
    | h :: rest =>
      let x := h.toNat / 16
      if x = 15 then s.arriveHome k p
      else if 12 < x ∨ !s.liveUp p.die x then s.lose k p
      else if x < 9 then ((s.serveExit p).dropPkt k).leftOver p (aditOf p.die x)
      else (s.serveExit p).setPkt k { p with die := x - 9, hops := rest, path := p.die :: p.path, fresh := false }

/-- Where two packets at their deliver hops meet: a sector of GLOB, or a receive port. -/
def deliverPlace (a : FabAct) : Option (Nat × Nat) :=
  match a with
  | .recv p => some (1, p.core * 16 + p.port)
  | a => (placeOf a).map fun pa => (0, pa / 32)

/-- Whether packet k must wait for another (R279): one before it at its exit and of its kind, so that packets of one route keep their order; at its deliver
hop, one before it for the same place, unless that waits at its home; or, where transit and the die's own traffic both ask for the exit, the kind that was
not served last. -/
def State.pktBefore (s : State) (k : Nat) (p : Packet) : Bool :=
  match p.exit with
  | none => false
  | some x =>
    let same (q : Packet) : Bool := q.die == p.die && q.resp == p.resp && q.exit == some x
    if x = 15 then
      (s.fab.pkts.take k).any fun q => same q && !q.waits && (deliverPlace q.act).isSome && deliverPlace q.act == deliverPlace p.act
    else
      ((s.fab.pkts.take k).any fun q => same q && q.inTransit == p.inTransit) ||
        ((s.fab.pkts.any fun q => same q && q.inTransit != p.inTransit) && s.fab.transit.contains (p.exitKey x) == p.inTransit)

/-- A packet that comes to a router of this package. -/
def State.addPkt (s : State) (p : Packet) : State := s.modFab fun f => { f with pkts := f.pkts ++ [{ p with id := f.nextOp }], nextOp := f.nextOp + 1 }

/-- A packet that has come in over an adit. -/
def Packet.ofAdit (adit : Nat) (act : FabAct) : Packet :=
  { id := 0, op := none, src := some adit, resp := false, die := adit / 9, hops := [], key := 0, act := act, path := [], data := [], flags := 0, pen := none,
    refused := none, note := none, waits := false, fresh := false }

/-- A response to a request of another package that had crossed this one: back over the dies that the request crossed, to the adit by which it had come. -/
def State.crossBack (s : State) (c : Crossing) (act : FabAct) (data : List Byte) (note : Option Nat) : State :=
  (s.modFab fun f => { f with crossed := f.crossed.filter fun x => x.id != c.id }).addPkt
    { Packet.ofAdit c.out act with src := some c.src, resp := true, path := c.path, data := data, note := note }

/-- A packet or a response of another node taken in over an adit, which must carry traffic (R292), or still takes in what was on the link (R296). A response
comes in over the adit by which its request left, and retraces its dies (R276); one to a message about a bundle has no route (log 71). -/
def State.takeIn (s : State) (i : InPacket) : State :=
  let p : Packet := { Packet.ofAdit i.adit i.act with hops := i.hops, key := i.key }
  if 36 ≤ i.adit ∨ !s.lemOpen i.adit then s
  else match i.act with
    | .resp op data fl pen =>
      match s.op? op, s.fab.crossed.find? fun c => c.id == op && c.out == i.adit with
      | some o, _ =>
        if o.kind = 6 then s.opDone o data fl pen
        else if o.adit ≠ some i.adit then s
        else s.addPkt { p with op := some op, src := none, resp := true, hops := [], act := o.act, path := o.path, data := data, flags := fl, pen := pen }
      | none, some c => s.crossBack c i.act data none
      | none, none => s
    | _ => s.addPkt p

/-- PACKET_FORWARD (R279, R280): packet k goes one hop further; or a packet of another node arrives over an adit. -/
def execPacketForward (k : Nat) (arriving : Option InPacket) (s : State) : Out :=
  match arriving with
  | some i => .next (s.takeIn i)
  | none =>
    match s.fab.pkts[k]? with
    | none => .next s
    | some p => .next (if s.pktBefore k p then s else s.movePkt k p)

/-- FAILURE_NOTICE (R276, R280): a notice about a request that left this package comes back from another node, over the adit by which the request left, and
retraces the dies that it crossed; one about a message that has no route is taken at once (log 71). -/
def execFailureNotice (op cause : Nat) (s : State) : Out :=
  match s.op? op, s.fab.crossed.find? fun c => c.id == op with
  | some o, _ =>
    match o.adit with
    | some a =>
      .next (if s.lemOpen a then s.addPkt { Packet.ofAdit a o.act with op := some op, src := none, resp := true, path := o.path, note := some cause } else s)
    | none => .next (if o.kind = 6 then s.opFailed o cause else s)
  | none, some c => .next (if s.lemOpen c.out then s.crossBack c (.resp op [] 0 none) [] (some cause) else s)
  | none, none => .next s

/-- FABRIC_TIMEOUT (R280): an operation without a response 2^24 cycles after its injection. -/
def execFabricTimeout (op : Nat) (s : State) : Out :=
  match s.op? op with
  | none => .next s
  | some o => .next (if o.since + 2 ^ 24 ≤ s.dcc ∧ o.late.isNone then s.opFailed o 9 else s)

/-! ## RTLD (R284) -/

/-- The handle of a route entry's bytes (R275), and whether its reserved bits are zero. -/
def State.routeEntry (s : State) (bs : List Byte) : Handle × Bool :=
  let b (k : Nat) : Nat := ((bs[k]?).getD 0).toNat
  let hops := padTo 24 ((bs.drop 8).take 24)
  ({ v := true, dstpkg := (b 2 + 256 * b 3) % 4096, len := b 0, gen := (s.fab.tgen + 1) % 2 ^ 32, hops := hops },
   b 1 == 0 && decide (b 3 < 16) && ((bs.drop 4).take 4).all (· == 0) && (hops.drop (b 0)).all (· == 0))

/-- The cause for which a route entry is refused (R277). -/
def State.entryBad (s : State) (r : Handle × Bool) : Option Nat :=
  if !r.2 then some 1 else s.routeCheck r.1 (s.myCore / 64)

/-- The route fault of the issue unit at an address. -/
def routeFault (cause : Nat) (ea : Int) : FaultInfo := { code := 0x0E, cause := cause, faddr := a72i ea }

/-- The bytes of the route entry that an RTLD reads: as another package gave them, or those of its home now. -/
def State.entryBytes (s : State) (h : Home) : List Byte :=
  match s.waiter? s.me 0 with
  | some w => w.data
  | none => (s.ownRead s.me h 32).1

/-- The check of a route entry that has been read. -/
def State.entryCheck (s : State) (bs : List Byte) (ea : Int) : Verdict :=
  match s.entryBad (s.routeEntry bs) with
  | some c => .fault (routeFault c ea)
  | none => .go

/-- The check of RTLD: its read, which takes every earlier access of its shift first, then the route. -/
def State.rtldCheck (s : State) (m : MemX) : Verdict :=
  let ea := s.x.eaX m
  match s.waiter? s.me 0 with
  | some w =>
    if w.answer.isNone then .hold s
    else match w.bad with
      | some f => .fault f
      | none => s.entryCheck w.data ea
  | none =>
    match s.issueAccess .read .shift m.sp ea 32 32 with
    | .go =>
      let h := (s.resolve .read m.sp 0 ea).1
      if s.accessPending s.me then .hold s
      else match h with
        | .fab _ _ _ => .hold ((s.addWaiter s.me 0 (.anchor (s.lineNum h))).request h (.read 32 false) true false none ea)
        | _ =>
          match s.seeQuiet s.me h with
          | some t => .hold t
          | none => if (s.ownRead s.me h 32).2.1 then .fault { code := 0x13, faddr := a72i ea } else s.entryCheck (s.entryBytes h) ea
    | v => v

/-- RTLD (R284): bundles that name the handle wait until it is loaded. -/
def execRtld (h : HNum) (m : MemX) (s : State) : Out :=
  atIssue (fun s => s.rtldCheck m)
    (fun s =>
      let r := s.resolve .read m.sp 0 (s.x.eaX m)
      let e := (r.2.routeEntry (s.entryBytes r.1)).1
      let missed := (s.waiter? s.me 0).isNone && (s.ownRead s.me r.1 32).2.2
      let s := ((if missed then r.2.kmiss (s.deviceOf s.x.place.ctx) else r.2).sawQuiet s.me r.1).dropWaiter r.2.me 0
      (s.modX fun x => { x with pend := { x.pend with h := x.pend.h ||| ((1 : BitVec 8) <<< h.val) } }).post
        (.arriveH s.me h { e with gen := s.fab.tgen % 2 ^ 32 })) s

/-! ## RST and RATOM (R285) -/

/-- A handle of the executing shift. -/
def State.handle (s : State) (h : HNum) : Handle := s.x.handles[h]

/-- The check of an access of the issue unit over a handle. -/
def State.overCheck (s : State) (k : Acc) (h : HNum) (ea : Int) (n : Nat) : Verdict :=
  if ea % (n : Int) ≠ 0 then .fault (alignFault 0 ea)
  else match s.fabCheck s.me s.x 0 0 k (s.handle h) ea n with
    | .error f => .fault f
    | .ok a => if s.acquirePending s.me || s.sectorPending s.me (Home.fab a.pkg a.pa 0).sector || s.sectorPending s.me (Home.glob a.pa 0).sector ||
          s.useWaits a.tlb ea.toNat k.writes then .hold s else .go

/-- An access of the issue unit over a handle, whose check passed: its translation used, its route noted, its page made single; then `k`. -/
def State.overRoute (s : State) (kind : Acc) (h : HNum) (ea : Int) (n : Nat) (k : FabAt → State → State) : State :=
  match s.fabCheck s.me s.x 0 0 kind (s.handle h) ea n with
  | .error _ => s
  | .ok a => k a (((s.useFab a ea true).noteRoute s.me h.val).collapseFab a ea s.myCore)

/-- An atomic of the executing shift over a route, on its way into the fabric: an acquire and a release as every read-modify-write (R187). -/
def State.atomRequest (s : State) (a : FabAt) (op : AtomOp) (dword : Bool) (b : Word) (sd : SNum) (ea : Int) : State :=
  (s.post (.req { sh := some s.me, seq := s.x.tim.seq, at_ := .fab a.pkg a.pa a.key, op := .atom op dword b, acq := true, rel := true, dst := some sd,
                  va := a72i ea, via := a.hops, collapse := none, fetch := none, since := s.dcc })).modX fun x => x.markS sd

/-- RST (R285): a posted write. -/
def execRst (sz : Size) (sb : SNum) (h : HNum) (m : MemX) (s : State) : Out :=
  let n := sizeBytes sz
  atIssue (fun s => s.overCheck .write h (s.x.eaX m) n)
    (fun s => s.overRoute .write h (s.x.eaX m) n fun a t =>
      t.injectAt (some s.me) 0 none none (s.myCore / 64) a (s.x.eaX m) (.write a.pa (leBytes n (s.rs sb).toNat))) s

/-- RATOM (R285): an atomic at the home of another package; it goes out after every earlier access of its shift, and later ones follow its value (R187). -/
def execRatom (op : AtomOp) (dword : Bool) (sd : SNum) (m : MemB) (sb : SNum) (h : HNum) (s : State) : Out :=
  let n := dwBytes dword
  atIssue (fun s => s.overCheck .rmw h (s.x.eaB m) n)
    (fun s => s.overRoute .rmw h (s.x.eaB m) n fun a t => t.atomRequest a op dword (s.rs sb) sd (s.x.eaB m)) s

/-! ## Jobs of the link engine (R283, R286 to R289) -/

/-- What a link word finds at issue: a token written at once, with its STATUS word, or a job. -/
inductive LinkTry where
  | token (w : Word)
  | job

/-- The STATUS ROUTE token of a cause. -/
def routeToken (cause : Nat) : Word := tokenWord 0 cause 0x0E 6

/-- BADDESC. -/
def badDescToken : Word := tokenWord 0 0 0 5

/-- A link word (R283): its token's limits, then its footprints, then its route over the handles `hs`, which record the check (R278);
held while `late` bytes that it reads at issue are not there yet (R186). -/
def linkWord (sd : SNum) (late limits : State → Bool) (feet : State → List Foot × List Foot) (route : State → Option Nat) (hs : State → List Nat)
    (job : State → Job) (s : State) : Out :=
  let try_ (s : State) : Except FaultInfo LinkTry :=
    if limits s then .ok (.token badDescToken)
    else match s.jobFeet s.x (feet s).1 (feet s).2 with
      | some f => .error f
      | none =>
        match route s with
        | some c => .ok (.token (routeToken c))
        | none => .ok .job
  atIssue
    (fun s => if late s then .hold s else match try_ s with
      | .error f => .fault f
      | .ok _ => if s.acquirePending s.me then .hold s else .go)
    (fun s => match try_ s with
      | .ok (.token w) => s.tokenNow sd w
      | .ok .job => let t := (hs s).foldl (fun t h => t.noteRoute s.me h) s; t.addJob { job t with reads := (feet s).1, writes := (feet s).2 }
      | .error _ => s) s

/-- The route of an operation over a handle to a virtual address, of which a job checks the first byte at issue; where that has no translation, the handle's
own check alone: the job then ends on the translation fault (R183). -/
def State.routeAt (s : State) (h : Handle) (ea : Int) : Option Nat :=
  match s.translate (tlbUnit s.myCore 0) s.x.place.ctx ea.toNat false false with
  | .error _ => s.routeCheck h (s.myCore / 64)
  | .ok e => s.routeTo h (s.myCore / 64) (match e.fab with | some (p, _) => p | none => s.mg.idpkg)

/-- The handle of the fabric region that an operand's first byte lies in (R335); none where it lies in no such region. -/
def State.regionHandle (s : State) (sp : Space) (ea : Int) : Option Nat :=
  if sp != .glob then none
  else match s.translate (tlbUnit s.myCore 0) s.x.place.ctx ea.toNat false false with
    | .ok e => e.fab.map (·.2)
    | .error _ => none

/-- The route at issue of an operand that may lie in a fabric region (R278, R283). -/
def State.regionRoute (s : State) (sp : Space) (ea : Int) : Option Nat :=
  (s.regionHandle sp ea).bind fun h => s.routeAt ((s.x.handles[h]?).getD Handle.zero) ea

/-- Bytes of PAD that no access of an earlier bundle has still to write (R186). -/
def State.padLate (s : State) (base n : Nat) : Bool :=
  s.x.memLanding s.x.tim.seq || s.x.mx.padDue s.x.tim.seq || s.bytesPending .pad 0 (base : Nat) n

/-- The size of a slot of a ring of the executing shift. -/
def State.slotSize (s : State) (q : QNum) : Nat := 2 ^ s.ringByte (s.ring q) s.myCore 1

/-- RLDQ (R286). -/
def execRldq (h : HNum) (q : QNum) (sd : SNum) (m : MemX) (s : State) : Out :=
  let n (s : State) : Nat := descN (s.rs sd)
  let bad (s : State) : Bool := s.x.eaX m % 8 != 0
  if !(s.ring q).v || !(s.ring q).prod.getLsbD s.x.place.stage then atIssue (fun _ => .fault heldFault) (fun s => s) s
  else linkWord sd (fun _ => false) bad (fun s => (if n s = 0 then [] else [runFoot .glob (s.x.eaX m) (n s * s.slotSize q) 1 0], []))
    (fun s => s.routeAt (s.handle h) (s.x.eaX m)) (fun _ => [h.val]) (fun s => s.newJob (.rldq h q sd m) 3 (s.rs sd) 0 0 (s.x.eaX m) sd) s

/-- The target entries of an RSTN, read at issue (R287): address, handle, and whether the reserved bits are zero. -/
def State.rstnTargets (s : State) (d st : Word) : List (Int × Nat × Bool) :=
  (upto 0 (wbits d 24 3 + 1)).map fun k =>
    let a := padKey s.myCore (wbits st 0 20 + 16 * k)
    let lo := s.pad.num a 8
    let hi := s.pad.num (a + 8) 8
    (((lo + hi % 256 * 2 ^ 64 : Nat) : Int), nbits hi 8 3, decide (hi < 2 ^ 11))

/-- The limits of RSTN. -/
def State.rstnBad (s : State) (d st : Word) : Bool :=
  descN d == 0 || wbits st 0 4 != 0 || (s.rstnTargets d st).any fun t => !t.2.2

/-- RSTN (R287). -/
def execRstn (sd : SNum) (m : MemB) (st : SNum) (s : State) : Out :=
  let targets (s : State) : List (Int × Nat × Bool) := s.rstnTargets (s.rs sd) (s.rs st)
  let len (s : State) : Nat := descN (s.rs sd)
  linkWord sd (fun s => s.padLate (wbits (s.rs st) 0 20) 128) (fun s => s.rstnBad (s.rs sd) (s.rs st))
    (fun s => ([runFoot m.sp (s.x.eaB m) (len s) 1 0, runFoot .pad (wbits (s.rs st) 0 20 : Nat) (16 * (targets s).length) 1 0],
      (targets s).map fun t => runFoot .glob t.1 (len s) 1 0))
    (fun s => (s.regionRoute m.sp (s.x.eaB m)).or ((targets s).findSome? fun t => s.routeAt ((s.x.handles[t.2.1]?).getD Handle.zero) t.1))
    (fun s => (s.regionHandle m.sp (s.x.eaB m)).toList ++ (targets s).map (·.2.1))
    (fun s =>
      { s.newJob (.rstn sd m st) 3 (s.rs sd) (s.rs st) 0 (s.x.eaB m) sd with
        todo := upto 0 (targets s).length,
        best := (targets s).map fun t => (w64i (t.1 % 2 ^ 64), (t.1 / 2 ^ 64).toNat + 256 * t.2.1) }) s

/-- The fields of an RSEND (R289): LEN, OFF, CORE, PORT. -/
def sendFields (st : Word) : Nat × Nat × Nat × Nat := (wbits st 0 24, wbits st 24 20, wbits st 44 8, wbits st 52 4)

/-- RSEND (R289). -/
def execRsend (h : HNum) (sd : SNum) (m : MemB) (st : SNum) (s : State) : Out :=
  let f (s : State) : Nat × Nat × Nat × Nat := sendFields (s.rs st)
  linkWord sd (fun _ => false) (fun s => (f s).1 == 0 || (f s).1 % 4 != 0 || (f s).2.1 % 4 != 0)
    (fun s => ([runFoot m.sp (s.x.eaB m) (f s).1 1 0], []))
    (fun s => (s.regionRoute m.sp (s.x.eaB m)).or (s.routeCheck (s.handle h) (s.myCore / 64)))
    (fun s => (s.regionHandle m.sp (s.x.eaB m)).toList ++ [h.val])
    (fun s => s.newJob (.rsend h sd m st) 3 (s.rs st) 0 0 (s.x.eaB m) sd) s

/-- The words and the table entry of a collective routine in the link store of a crew (R327), which the executing shift's node uses (R328). -/
def State.collEntry (s : State) (k : BitVec 6) : Option (LinkStore × Nat × Nat) :=
  match NMap.get? s.links (s.myCore / 8) with
  | none => none
  | some l =>
    let e := ((l.ctab[k.toNat]?).getD 0).toNat
    if l.users.contains (s.x.place.table, s.x.place.node) ∧ k.toNat < 32 ∧ nbit e 31 then some (l, nbits e 0 10, nbits e 10 12 + 1) else none

/-- The unit of a collective routine at its entry (R291, R327). -/
def collUnit (i : Instr) (l : LinkStore) (entry steps : Nat) (arg : Word) (base : Addr) (len upper : Nat) : MicroUnit :=
  let m := (((noTemps.set 0 (sext72 arg)).set 1 (base.setWidth 2048)).set 2 (BitVec.ofNat 2048 len)).set 3 (BitVec.ofNat 2048 upper)
  { MicroUnit.zero with
    bound := steps, mpc := entry, m := m, instr := i, tag := l.tag, opd := sext72 arg, opa := base.setWidth 2048, ea := base }

/-- COLL (R291). -/
def execColl (k : BitVec 6) (sd : SNum) (m : MemB) (sl : SNum) (s : State) : Out :=
  let i : Instr := .coll k sd m sl
  match s.collEntry k with
  | none => atIssue (fun _ => .fault { code := 0x03 }) (fun s => s) s
  | some (l, entry, steps) =>
    let len (s : State) : Nat := wbits (s.rs sl) 0 32
    let foot (s : State) : List Foot := if len s = 0 then [] else [runFoot m.sp (s.x.eaB m) (len s) 1 0]
    linkWord sd (fun _ => false) (fun _ => false) (fun s => (foot s, foot s)) (fun s => s.regionRoute m.sp (s.x.eaB m))
      (fun s => (s.regionHandle m.sp (s.x.eaB m)).toList)
      (fun s =>
        { s.newJob i 3 (s.rs sd) (s.rs sl) 0 (s.x.eaB m) sd with
          unit := { collUnit i l entry steps (s.rs sd) (a72i (s.x.eaB m)) (len s) (wbits (s.rs sl) 32 32) with
            opb := sext72 (s.rs sl), stat := s.x.sp.stat, vl := s.x.sp.vl } }) s

/-! ## The link engine at work -/

/-- The job at the head of a crew's link engine (R26). -/
def State.linkHead (s : State) (crew : Nat) : Option Job :=
  s.jobs.find? fun j => j.eng == 3 && j.core / 8 == crew && decide (j.state < 4)

/-- A read of a link job's source in this package or another. -/
def State.sourceStep (s : State) (j : Job) (x : Shift) (sp : Space) (len : Nat) : State :=
  let got := (j.buf.getD []).length
  let ea : Int := (j.ea.toNat + got : Nat)
  match s.enginePiece j x 6 false sp ea (min (len - got) (32 - (ea % 32).toNat)) with
  | .fault f => s.failJob j 0 f
  | .wait => s
  | .data bs t => t.modJob j.id fun j => { j with buf := some (j.buf.getD [] ++ bs) }
  | .remote h via n t => t.injectJob j h via ea fun pa => .read pa n

/-- An access of a link job over a named handle; the state as it is where a bit of its tables has to wait. -/
def State.jobOver (s : State) (j : Job) (x : Shift) (k : Acc) (hn : Nat) (ea : Int) (n : Nat) (act : Nat → FabAct) : Except FaultInfo State :=
  match ({ s with jobs := [] }).fabCheck j.sh x 0 6 k ((j.handles[hn]?).getD Handle.zero) ea n with
  | .error f => .error f
  | .ok a =>
    if s.useWaits a.tlb ea.toNat k.writes then .ok s
    else
      let t := (s.useFab a ea k.writes).noteJobRoute j.id hn
      .ok ((if k.writes then t.collapseFab a ea j.core else t).injectAt (some j.sh) 2 none (some j.id) (j.core / 64) a ea (act a.pa))

/-- The next step of an RLDQ (R286): a slot claimed, a piece of it asked for, or the slot published. -/
def State.rldqStep (s : State) (j : Job) (x : Shift) (h : HNum) (qn : QNum) : State :=
  let q := x.rings[qn]
  let sz := 2 ^ s.ringByte q j.core 1
  if descN j.desc ≤ j.done then s.jobDone j.id (tokenWord j.done 0 0 0)
  else match j.unit.held, j.buf with
    | [], _ =>
      if s.ringTurn j.sh 4 q j.core true then
        let k := s.nextSlot q j.core true
        ((s.takeSlot q j.core true).dropWaiter j.sh 4).modJob j.id fun j => { j with unit := { j.unit with held := [(qn.val, k, true)] }, buf := some [] }
      else s.addWaiter j.sh 4 (q.why j.core true)
    | (_, k, _) :: _, b =>
      let got := b.getD []
      let ea : Int := (j.ea.toNat + j.done * sz + got.length : Nat)
      if sz ≤ got.length then
        ((s.putSpace q.sp (spDom q.sp j.core) (s.slotAt q j.core k) got).putRing q j.core (0x40 + k) [2]).modJob j.id fun j =>
          { j with unit := { j.unit with held := [] }, buf := none, done := j.done + 1 }
      else
        let n := min (sz - got.length) (128 - (ea % 128).toNat)
        match s.jobOver j x .read h.val ea n fun pa => .read pa n with
        | .error f => s.rldqFail j f
        | .ok t => t

/-- The token of a link job whose targets or packets are all done. -/
def Job.linkToken (j : Job) : Word :=
  match j.cause with
  | none => tokenWord j.count 0 0 0
  | some (status, c) => tokenWord j.count (c % 16) (c / 16) status

/-- The next step of an RSTN (R287): its source read once, then its targets in order. -/
def State.rstnStep (s : State) (j : Job) (x : Shift) (sp : Space) : State :=
  let len := descN j.desc
  let bytes := j.buf.getD []
  if bytes.length < len then s.sourceStep j x sp len
  else match j.todo with
    | [] => s.jobDone j.id j.linkToken
    | k :: _ =>
      if len ≤ j.done then s.modJob j.id fun j => j.nextTarget true
      else
        let t := (j.best[k]?).getD (0, 0)
        let ea : Int := ((t.1.toNat + t.2 % 256 * 2 ^ 64 + j.done : Nat) : Int)
        let n := min (len - j.done) (32 - (ea % 32).toNat)
        match s.jobOver j x .write (t.2 / 256) ea n fun pa => .write pa ((bytes.drop j.done).take n) with
        | .error f => s.modJob j.id fun j => (j.noteFault f).nextTarget false
        | .ok t => t

/-- The next step of an RSEND (R289): its source read once, then packets of at most 256 bytes in increasing offset. -/
def State.rsendStep (s : State) (j : Job) (x : Shift) (h : HNum) (sp : Space) : State :=
  let f := sendFields j.desc
  let bytes := j.buf.getD []
  if bytes.length < f.1 then s.sourceStep j x sp f.1
  else if f.1 ≤ j.done then s.jobDone j.id j.linkToken
  else
    let r := j.handles[h]
    let n := min 256 (f.1 - j.done)
    let p : RxPacket := { core := f.2.2.1, port := f.2.2.2, ctx := x.place.ctx, off := f.2.1 + j.done, data := (bytes.drop j.done).take n }
    match s.routeCheck r (j.core / 64) with
    | some c => s.modJob j.id fun j => { j.noteFault (routeFault c 0) with done := j.done + n }
    | none =>
      (s.noteJobRoute j.id h.val).inject (newOp (some j.sh) 2 j.core (some j.id) r.dstpkg (.recv p) 0 (r.hops.take r.len) 0)

/-- The next step of a job of the link engine that is no routine; a collective's routine only starts here. -/
def State.linkStep (s : State) (j : Job) (x : Shift) : State :=
  if j.state = 1 then (if s.jobOrdered j then s.startJob j x else s)
  else if j.state ≠ 2 ∨ s.jobAway j.id then s
  else match j.instr with
    | .rldq h q _ _ => s.rldqStep j x h q
    | .rstn _ m _ => s.rstnStep j x m.sp
    | .rsend h _ m _ => s.rsendStep j x h m.sp
    | _ => s

/-! ## RECVADD and LFENCE -/

/-- The fields of a RECVADD (R288): WLEN, ELEN, CNT. -/
def recvFields (sg : Word) : Nat × Nat × Nat := (wbits sg 0 20, wbits sg 20 24, wbits sg 44 20)

/-- BADGEOM of RECVADD (R288). -/
def recvBad (ea : Int) (cnt : Bool) (sg : Word) : Bool :=
  let f := recvFields sg
  f.1 == 0 || f.2.1 == 0 || ea % 4 != 0 || (cnt && f.2.2 % 8 != 0)

/-- Whether a byte of a receive port's counter lies in no SYNC footprint of the issuing shift (R288: cause MODE). -/
def State.counterMode (s : State) (cnt : Nat) : Bool := (upto 0 8).any fun k => !(s.x.modesAt .pad ((cnt + k : Nat) : Int)).contains 2

/-- RECVADD (R288). -/
def execRecvadd (fmt : RecvFmt) (cnt : Bool) (port : Fin 16) (sd : SNum) (m : MemB) (sg : SNum) (s : State) : Out :=
  let window (s : State) : List Foot := [runFoot .pad (s.x.eaB m) (recvFields (s.rs sg)).1 1 0]
  atIssue
    (fun s =>
      let f := recvFields (s.rs sg)
      if recvBad (s.x.eaB m) cnt (s.rs sg) || (s.port? s.myCore port.val).isSome then .go
      else match s.jobFeet s.x [] (window s) with
        | some f => .fault f
        | none =>
          let bad : Bool := cnt && s.counterMode f.2.2
          match (if cnt then s.checkAccess s.me s.x 0 0 .rmw .shift false false false .pad (f.2.2 : Nat) 8 else .ok none) with
          | .error e => .fault (if bad && decide (5 ≤ e.cause ∧ e.cause ≤ 7) then memFault 0 4 (f.2.2 : Nat) else e)
          | .ok _ => if bad then .fault (memFault 0 4 (f.2.2 : Nat)) else if s.acquirePending s.me then .hold s else .go)
    (fun s =>
      let f := recvFields (s.rs sg)
      if recvBad (s.x.eaB m) cnt (s.rs sg) then s.reply sd 5
      else if (s.port? s.myCore port.val).isSome then s.reply sd 1
      else
        let j : Job := { s.newJob (.recvadd fmt cnt port sd m sg) 5 (s.rs sg) 0 0 (s.x.eaB m) 0 with
          state := 2, writes := window s }
        let p : Port := { armed := true, ctx := s.x.place.ctx, sh := s.me, fmt := fmt, cnten := cnt, window := (s.x.eaB m).toNat, wlen := f.1, elen := f.2.1,
                          cnt := f.2.2, received := 0, flags := 0, job := j.id }
        let s := { s with jobs := s.jobs ++ [j], nextJob := s.nextJob + 1 }
        (s.modCore s.myCore fun c => { c with ports := NMap.set c.ports port.val p }).reply sd 0) s

/-- Whether an earlier fabric operation of a shift is still out (R290), or the fault of one on its way to its register (R285). -/
def State.fabricOut (s : State) (i : Nat) : Bool :=
  (s.fab.ops.any fun o => o.sh == some i && (decide (o.kind < 2) || o.kind == 3)) ||
  (s.msgs.any fun m => match m with | .req r => r.sh == some i && r.at_.isFab | _ => false) ||
  (s.msgs.any fun m => match m with | .arrive j _ _ _ (some f) => j == i && f.code == 0x0E | _ => false) ||
  s.jobs.any fun j => j.sh == i && (match j.instr with | .rldq _ _ _ _ | .rstn _ _ _ | .rsend _ _ _ _ => true | _ => false)

/-- LFENCE (R290): then the next bundle is held as by `fence.full.sys`. -/
def execLfence (sd : SNum) (s : State) : Out :=
  atIssue (fun s => if s.fabricOut s.me then .hold s else .go)
    (fun s =>
      let w := match s.x.pend.posted with
        | none => (0 : Word)
        | some (n, c) => w64 (fields [(16, c), (8, n), (0, 6)])
      (s.modX fun x => { x with pend := { x.pend with posted := none, fence := 2 } }).reply sd w) s

/-! ## The topology map (R271 to R273) -/

/-- The map's base address. -/
def State.mapBase (s : State) : Nat := wbits s.fab.tmapbase 7 45 * 128

/-- An entry of the map from its two dwords, and whether its reserved bits are zero. -/
def mapEntry (d0 d1 : Nat) : MapEnt × Bool :=
  ({ pkg := nbits d0 52 12, die := nbits d0 50 2, exit := nbits d0 46 4, srcsw := nbit d0 45, peersw := nbit d0 44, peerpkg := nbits d0 32 12,
     peerdie := nbits d0 30 2, peerexit := nbits d0 26 4, pers := nbits d0 24 2, lanes := nbits d0 16 8, good := nbits d0 8 8, up := nbit d0 0,
     ord := nbits d1 0 16 }, nbits d0 1 7 == 0 && nbits d1 16 48 == 0)

/-- The order of entries. -/
def MapEnt.rank (e : MapEnt) : Nat := (e.pkg * 4 + e.die) * 16 + e.exit

/-- Numbers that strictly increase. -/
def increasing : List Nat → Bool
  | a :: b :: l => decide (a < b) && increasing (b :: l)
  | _ => true

/-- Whether an entry's reverse names it back (R272). -/
def reverseOk (l : List MapEnt) (e : MapEnt) : Bool :=
  match l.find? fun r => r.pkg == e.peerpkg && r.die == e.peerdie && r.exit == e.peerexit && r.srcsw == e.peersw with
  | none => false
  | some r => r.peerpkg == e.pkg && r.peerdie == e.die && r.peerexit == e.exit && r.peersw == e.srcsw

/-- The map in memory, or none where it is not well formed (R272), or where a dword of it cannot be read (log 93). -/
def State.readMap (s : State) : Option (List MapEnt) :=
  let b := s.mapBase
  let d := s.partDword b
  let n := nbits d 0 16
  let lost (k : Nat) : Bool := (s.walkDword (b + 8 * k)).isNone
  if nbits d 32 32 ≠ 0x4C4D4150 ∨ nbits d 16 16 ≠ 0 ∨ n < 1 ∨ 16384 < n ∨ (upto 1 7).any (fun k => s.partDword (b + 8 * k) != 0) ∨
      (upto 0 (8 + 2 * n)).any lost then none
  else
    let es := (upto 0 n).map fun k => mapEntry (s.partDword (b + 64 + 16 * k)) (s.partDword (b + 72 + 16 * k))
    let l := es.map (·.1)
    if es.all (·.2) && increasing (l.map MapEnt.rank) && l.all (reverseOk l) then some l else none

/-- Whether a direction is one that this package sends on. -/
def State.ownDir (s : State) (e : MapEnt) : Bool := e.pkg == s.mg.idpkg && !e.srcsw

/-- UP of entry k of the map written at its home: an atomic write of that bit alone (R273). -/
def State.putMapUp (s : State) (k : Nat) (e : MapEnt) : State := s.ownWrite (s.mapBase + 64 + 16 * k) none (if e.up then .set else .clear) [1]

/-- UP of entry k of the map, and its LANES and GOOD, which the part has changed (R281, R282). -/
def State.putMapLanes (s : State) (k : Nat) (e : MapEnt) : State :=
  (s.putMapUp k e).ownWrite (s.mapBase + 65 + 16 * k) none .put [BitVec.ofNat 8 e.good, BitVec.ofNat 8 e.lanes]

/-- TMAP_COMMIT_DONE (R272): the map as it stands becomes the snapshot, with UP from the live links of this package. -/
def execTmapCommitDone (s : State) : Out :=
  if !s.fab.tbusy then .next s
  else match s.readMap with
    | none => .next (s.modFab fun f => { f with tbusy := false, terr := true })
    | some l =>
      let l := l.map fun e => if s.ownDir e then { e with up := s.liveUp e.die e.exit } else e
      let t := (l.zip (upto 0 l.length)).foldl (fun (t : State) p => if s.ownDir p.1 then t.putMapUp p.2 p.1 else t) s
      .next (t.modFab fun f => { f with tbusy := false, snapshot := l, tgen := (f.tgen + 1) % 2 ^ 64 })

/-- The live state of a direction of this package has changed (R273): the snapshot, the map's entry and TMAPGEN in one step. `lanes` says that its lanes
have changed too (R281, R282). -/
def State.dirChanged (s : State) (die exit : Nat) (lanes : Bool) : State :=
  let p (e : MapEnt) : Bool := s.ownDir e && e.die == die && e.exit == exit
  let a := s.adit (aditOf die exit)
  let new (e : MapEnt) : MapEnt :=
    if lanes then { e with up := s.liveUp die exit, lanes := a.lcur.toNat, good := (a.good &&& a.lcur).toNat }
    else { e with up := s.liveUp die exit }
  let t := s.modFab fun f => { f with snapshot := f.snapshot.map fun e => if p e then new e else e, tgen := (f.tgen + 1) % 2 ^ 64 }
  match s.fab.snapshot.findIdx? p with
  | none => t
  | some k =>
    match s.fab.snapshot[k]? with
    | none => t
    | some e => if lanes then t.putMapLanes k (new e) else t.putMapUp k (new e)

/-- LINK_STATE_CHANGE (R273): a link of this package comes up or goes down. -/
def execLinkStateChange (die exit : Nat) (up : Bool) (s : State) : Out :=
  if 4 ≤ die ∨ 13 ≤ exit then .next s
  else
    let t :=
      if exit < 9 then s.modAdit (aditOf die exit) fun a => { a with down := !up || s.mg.off.contains (65 + aditOf die exit) }
      else
        let bit : BitVec 16 := 1 <<< (4 * die + (exit - 9))
        s.modFab fun f => { f with links := if up then f.links ||| bit else f.links &&& ~~~bit }
    .next (if s.liveUp die exit = t.liveUp die exit then t else t.dirChanged die exit false)

/-- Whether the two ends agree on a turn (R282): over the lanes that both report GOOD, this end's egress set is the complement of the peer's. -/
def Adit.agrees (a : Adit) : Bool :=
  let both := a.good &&& a.peerGood
  a.inLem && a.dir != a.lcur && (a.dir &&& both) == (~~~a.peerDir &&& both)

/-- The lanes of an adit turn while the two ends agree: a turn begins where they come to agree, and is given up where they no longer do. -/
def Adit.agree (a : Adit) : Adit := { a with turn := a.agrees }

/-- LANE_OUT_OF_SERVICE (R281, R299): a lane of an adit leaves service. -/
def execLaneOutOfService (adit lane : Nat) (s : State) : Out :=
  let a := s.adit adit
  if 36 ≤ adit ∨ 8 ≤ lane ∨ !a.good.getLsbD lane then .next s
  else
    let t := (s.modAdit adit fun a => { a with good := a.good &&& ~~~((1 : BitVec 8) <<< lane), ports := a.ports &&& ~~~((1 : BitVec 4) <<< (lane % 4)) }.agree).log 5 adit 0 (BitVec.ofNat 128 lane)
    .next (if a.inLem && a.lcur.getLsbD lane then t.dirChanged (adit / 9) (adit % 9) true else t)

/-- A write of LEMLN (R282): refused where a direction would keep no healthy lane, or outside LEM personality. -/
def State.writeLemln (s : State) (adit : Nat) (v : Word) : State :=
  let a := s.adit adit
  let dir : BitVec 8 := v.extractLsb' 0 8
  if wbits v 25 39 ≠ 0 ∨ !a.inLem ∨ a.good &&& dir = 0 ∨ a.good &&& ~~~dir = 0 then s.regErr
  else s.modAdit adit fun a => { a with dir := dir }.agree

/-- The peer's LEMLN, as the link reports it to this end: its DIR in bits 7 to 0 and its GOOD in bits 23 to 16 (R282). -/
def State.peerLemln (s : State) (adit : Nat) (v : Word) : State :=
  s.modAdit adit fun a => { a with peerDir := v.extractLsb' 0 8, peerGood := v.extractLsb' 16 8 }.agree

/-- LEMLN_WRITE (R282): a write of LEMLN at this end, by function 64, or at the peer's end, which the number 65 stands for (log 75). -/
def execLemlnWrite (fn adit : Nat) (v : Word) (s : State) : Out :=
  .next (if 36 ≤ adit then s.regErr else if fn = 64 then s.writeLemln adit v else if fn = 65 then s.peerLemln adit v else s.regErr)

/-- LANE_TURN_DONE (R282): the lanes that turn have been retrained; the turn takes effect only where the two ends agree. -/
def execLaneTurnDone (adit : Nat) (s : State) : Out :=
  if (s.adit adit).turn ∧ (s.adit adit).agrees then .next ((s.modAdit adit fun a => { a with lcur := a.dir, turn := false }).dirChanged (adit / 9) (adit % 9) true) else .next s

/-- A write of TMAPCMT (R272). -/
def State.writeTmapcmt (s : State) (v : Word) : State :=
  if wbits v 3 61 ≠ 0 then s.regErr
  else if !v.getLsbD 0 then s
  else if s.fab.tbusy then s.regErr
  else s.modFab fun f => { f with tbusy := true, terr := false }

/-- TMAPCMT_GO (R272). -/
def execTmapcmtGo (fn : Nat) (v : Word) (s : State) : Out := .next (if fn = 64 then s.writeTmapcmt v else s.regErr)

end Sys2Proof.Machine
end

