-- ==== Sys2Proof/Machine/Adits.lean ====
section
/-!
DEFINITION. Adits and their personalities (chapter 15): the switch (R295), its drain (R296), windows (R297, R298), ADITX (R393) and the requests of a
UALink peer (R292).
-/
namespace Sys2Proof.Machine

/-! ## The switch (R294 to R299) -/

/-- The map changed where the adit carried a live direction (Table 15.6, step 1). -/
def State.aditStop (s : State) (n : Nat) : State :=
  let a := s.adit n
  let live := s.liveUp (n / 9) (n % 9) || (a.st == 2 && a.cur == 3)
  let t := s.modAdit n fun a => { a with st := 3, drainFrom := s.dcc }
  if live then t.dirChanged (n / 9) (n % 9) false else t

/-- Whether a packet is a write that an adit took in and that has not been performed (R295). -/
def Packet.writeOf (p : Packet) (n : Nat) : Bool := p.src == some n && !p.resp && actWrites p.act

/-- The progress of a switch that waits for nothing outside: STOP where no turn is in progress, FENCE where every write delivered has been
performed (R295). -/
def State.aditStep (s : State) (n : Nat) : Option State :=
  let a := s.adit n
  if a.st = 2 ∧ !a.turn then some (s.aditStop n)
  else if a.st = 4 ∧ !(s.fab.pkts.any fun p => p.writeOf n) then some (s.modAdit n fun a => { a with st := 5 })
  else none

/-- A switch refused or failed with an outcome; a failed one leaves the adit DOWN. -/
def State.aditErr (s : State) (n err : Nat) (down : Bool) : State :=
  s.modAdit n fun a => { a with err := err, st := if down then 0 else a.st }

/-- A switch started by GO (Table 15.6, steps 0 and 1). -/
def State.aditGo (s : State) (n : Nat) : State :=
  let a := s.adit n
  if a.pers = 3 ∧ s.mg.idpkg = 0xFFF then s.aditErr n 1 false
  else if a.st = 1 ∧ a.cur = 0 ∧ a.winEn ∧ a.pers ≠ 0 then s.aditErr n 2 false
  else if a.inLem ∧ a.turn then s.modAdit n fun a => { a with st := 2 }
  else s.aditStop n

/-- A write of ADCTL (Table 15.3, R294). -/
def State.writeAdctl (s : State) (n : Nat) (v : Word) : State :=
  let lg := wbits v 8 5
  let go := v.getLsbD 0
  if wbits v 13 51 ≠ 0 ∨ wbits v 3 5 ≠ 0 ∨ lg < 10 ∨ 24 < lg ∨ (go ∧ 1 < (s.adit n).st) then s.regErr
  else
    let t := s.modAdit n fun a => { a with drainlg := lg, pers := wbits v 1 2 }
    if go then t.aditGo n else t

/-- ADCTL_GO (R295). -/
def execAdctlGo (fn adit : Nat) (v : Word) (s : State) : Out := .next (if fn = 64 ∧ adit < 36 then s.writeAdctl adit v else s.regErr)

/-- The adit that an ADITX packet names, where it is one that has begun to move bytes. -/
def Pkt.aditxOver (p : Pkt) : Option Nat :=
  if nbits p.hd 0 8 = 3 ∧ p.moved.isSome then some (wbits ((p.dw[2]?).getD 0) 8 6) else none

/-- Whether an operation is still out over an adit: its response has not come in (R296). -/
def State.outOver (s : State) (n : Nat) (o : FabOp) : Bool :=
  o.adit == some n && o.late.isNone && !(s.fab.pkts.any fun p => p.resp && p.op == some o.id)

/-- Whether a message is a request to the device of an adit, issued by a cycle (R296). -/
def Msg.overAdit (s : State) (m : Msg) (n limit : Nat) : Bool :=
  match m with
  | .req r => r.window s == some n && decide (r.since ≤ limit)
  | _ => false

/-- Whether a packet of another node is in transit over an adit: what it took in and has not answered, but the writes, for which the fence waits (R296). -/
def Packet.openOver (p : Packet) (n : Nat) : Bool := p.src == some n && !p.writeOf n

/-- Whether traffic over an adit is still in flight (R296). -/
def State.aditBusy (s : State) (n : Nat) : Bool :=
  s.fab.ops.any (s.outOver n) || (s.fab.pkts.any fun p => p.openOver n) || (s.fab.crossed.any fun c => c.out == n || c.src == n) || (s.msgs.any fun m => m.overAdit s n (s.adit n).drainFrom) ||
    (s.fab.uals.any fun u => u.1 == n) || s.queues.any fun q => q.2.pkts.any fun p => p.aditxOver == some n

/-- ADIT_DRAIN_END (R296): the traffic in flight has ended; the adit fences, and trains where every write it delivered has been performed. -/
def execAditDrainEnd (adit : Nat) (s : State) : Out :=
  if (s.adit adit).st = 3 ∧ !s.aditBusy adit then
    let t := s.modAdit adit fun a => { a with st := 4 }
    .next ((t.aditStep adit).getD t)
  else .next s

/-- A request to a device that the limit of a drain ends (Table 15.7): a read completes as a poisoned line; the line of a write is poisoned, and counted. -/
def State.cutReq (s : State) (n : Nat) (r : Req) : State :=
  let t := match r.op.writes, r.at_ with
    | true, .glob pa _ => (s.modLine (pa / 128) fun l => { l with poison := BitVec.allOnes 128 }).countPoison n
    | _, _ => s
  t.answer r.sh r.dst r.va { val := 0, flags := 0, bad := true }

/-- The requests to the device of an adit, issued by a cycle, ended at the limit. -/
def State.cutWindow (s : State) (n limit : Nat) : State :=
  s.msgs.foldl (fun t m => match m with | .req r => if m.overAdit s n limit then t.cutReq n r else t | _ => t)
    { s with msgs := s.msgs.filter fun m => !m.overAdit s n limit }

/-- The packets of other nodes over an adit ended at the limit: dropped, with a notice of cause REQ, or RESP for a response (Table 15.7). The notice of a
request that had left over the adit goes back over the dies that it crossed. -/
def State.cutTransit (s : State) (n : Nat) : State :=
  let gone := s.fab.pkts.filter fun p => p.openOver n
  let t := s.modFab fun f => { f with pkts := f.pkts.filter (fun p => !p.openOver n), crossed := f.crossed.filter fun c => c.src != n }
  let t := (t.fab.crossed.filter fun c => c.out == n).foldl (fun (t : State) c => t.crossBack c (.resp c.id [] 0 none) [] (some 7)) t
  { t with
    replies := t.replies ++ (gone.map fun p => [if p.resp then 8 else 7]) ++ (s.fab.crossed.filter fun c => c.src == n).map fun _ => [8],
    waiters := t.waiters.filter fun w => !(w.sh == fabParty && gone.any fun p => w.unit == 16 + p.id) }

/-- What is still in flight over an adit ended as Table 15.7 gives at the limit: requests with cause REQ, transfers as not delivered. -/
def State.aditCut (s : State) (n : Nat) : State :=
  let t := (s.fab.ops.filter (s.outOver n)).foldl (fun (t : State) o => t.opFailed o 7) (s.cutTransit n)
  let t := t.cutWindow n (t.adit n).drainFrom
  let t : State := { t.modFab fun f => { f with uals := f.uals.filter fun u => u.1 != n } with
    replies := t.replies ++ (t.fab.uals.filter fun u => u.1 == n).map fun _ => [1] }
  t.queues.foldl (fun (t : State) (q : Nat × HQueue) =>
    (q.2.pkts.filter fun p => p.aditxOver == some n).foldl (fun (t : State) p => t.finishPkt q.1 p.idx 3 (p.moved.getD 0)) t) t

/-- ADIT_DRAIN_LIMIT (R296): at 2^DRAINLG cycles of drain. -/
def execAditDrainLimit (adit : Nat) (s : State) : Out :=
  let a := s.adit adit
  if a.st = 3 ∧ a.drainFrom + 2 ^ a.drainlg ≤ s.dcc then
    let t := (s.aditCut adit).modAdit adit fun a => { a with st := 4 }
    .next ((t.aditStep adit).getD t)
  else .next s

/-- Whether two windows of this package share an address. -/
def windowsMeet (a b : Adit) : Bool := decide (a.winBase < b.winBase + b.winSize) && decide (b.winBase < a.winBase + a.winSize)

/-- Whether the window of an adit may open (R297). -/
def State.windowFits (s : State) (n devGib : Nat) : Bool :=
  let a := s.adit n
  decide (stackedEnd ≤ a.winBase * 2 ^ 30) && decide (1 ≤ a.winSize) && decide (a.winSize ≤ devGib) &&
    (upto 0 36).all fun m => m == n || !((s.adit m).winEn && windowsMeet a (s.adit m))

/-- Full-duplex pair p of an adit's lanes is lanes p and p + 4, one of each direction at reset (log 76); the pairs that are GOOD are those of R299's widths
and ports. -/
def Adit.pairs (a : Adit) : BitVec 4 := a.good.extractLsb' 0 4 &&& a.good.extractLsb' 4 4

/-- The width at which MEM trains over its lanes (R299): 4, 2 or 1, and 0 where no pair is left. -/
def Adit.memWidth (a : Adit) : Nat :=
  let n := ((upto 0 4).filter fun p => a.pairs.getLsbD p).length
  if n = 4 then 4 else if 2 ≤ n then 2 else n

/-- Whether the lanes that remain GOOD train at all (R299): a lane of LEM, or a pair of the other personalities. -/
def Adit.trains (a : Adit) : Bool := if a.pers = 3 then a.good != 0 else a.pairs != 0

/-- ADIT_TRAIN_DONE (R295, R299): training ends. It fails with TRAIN, as of an adit left off at power-up (R382), or with NODEV where MEM finds no device; else the window opens under R297, and the adit
is UP in its new personality, at the width, or with the ports, that its lanes allow. -/
def execAditTrainDone (adit : Nat) (ok : Bool) (devGib : Nat) (s : State) : Out :=
  let a := s.adit adit
  if a.st ≠ 5 then .next s
  else if !ok ∨ !a.trains ∨ s.mg.off.contains (65 + adit) then .next (s.aditErr adit 3 true)
  else if a.pers = 0 ∧ devGib = 0 then .next (s.aditErr adit 4 true)
  else if a.pers = 0 ∧ !s.windowFits adit devGib then .next (s.aditErr adit 5 true)
  else
    let t := s.modAdit adit fun a =>
      { a with
        st := 1, cur := a.pers, err := 0, winEn := a.winEn || a.pers == 0, width := if a.pers = 0 then a.memWidth else 0,
        ports := if a.pers = 1 ∨ a.pers = 2 then a.pairs else 0 }.agree
    .next (if a.pers = 3 then t.dirChanged (adit / 9) (adit % 9) false else t)

/-- Whether a packet's route ends at a home of this package. -/
def Packet.endsHere (p : Packet) : Bool := p.hops.all fun h => decide (9 ≤ h.toNat / 16)

/-- The requests over an adit's window performed, in order, and gone (R294). -/
def State.flushWindow (s : State) (n : Nat) : State :=
  let mine (m : Msg) : Bool := m.overAdit s n (s.adit n).drainFrom
  (s.msgs.filter mine).foldl (fun t m => match m with | .req r => (t.perform r.at_ r.op none).1 | _ => t) { s with msgs := s.msgs.filter fun m => !mine m }

/-- What a write that an adit delivered still waits for at its home, ended by the reset that waits for the write (R294): a pending version as its anchor would
resolve it (R231), and the collapse of its page (R347). -/
def State.freeFor (s : State) (a : FabAct) : State :=
  match placeOf a with
  | none => s
  | some pa =>
    let t := match (s.line (pa / 128)).side with
      | some e =>
        if !e.pending then s
        else if linePkg e.anchor = s.mg.idpkg then let r := s.resolveAt (localLine e.anchor) e.name e.version; r.1.resolved (pa / 128) e.name e.version r.2
        else s.discardAt (pa / 128) e.name e.version
      | none => s
    let here (c : Collapse) : Bool := decide (c.page ≤ pa) && decide (pa < c.page + c.size)
    let u := (t.collapses.filter here).foldl (fun (t : State) c => t.clearDup c.leaf) t
    { u with collapses := u.collapses.filter fun c => !here c }

/-- An adit as a warm reset leaves it (R294): through stop, drain and fence, each at once (log 77), then DOWN: the writes over its window and those that it
delivered are performed. -/
def State.aditReset (s : State) (n : Nat) : State :=
  let a := s.adit n
  let t := if a.st = 1 ∧ a.cur = 0 then s.modAdit n fun a => { a with drainFrom := s.dcc, closing := false } else s
  let t := if a.st = 1 ∧ a.cur = 0 then t.flushWindow n else t
  let t := if a.st = 1 then (t.aditStop n).aditCut n else t.aditCut n
  let t := (t.fab.pkts.filter fun p => p.writeOf n && p.endsHere).foldl (fun (t : State) p => ((t.freeFor p.act).deliver p.act p.key p.id none).1) t
  t.modAdit n fun a => { Adit.zero with poisoned := a.poisoned, down := a.down }

/-! ## Windows (R298) -/

/-- A write of ADWIN (Table 15.5, R294, R298). -/
def State.writeAdwin (s : State) (n : Nat) (v : Word) : State :=
  let a := s.adit n
  let base := wbits v 30 22
  let size := wbits v 0 16
  if wbits v 52 10 ≠ 0 ∨ wbits v 16 14 ≠ 0 ∨ (a.winEn ∧ (base ≠ a.winBase ∨ size ≠ a.winSize)) then s.regErr
  else
    let off := v.getLsbD 62 && a.winEn && !a.closing
    s.modAdit n fun a => { a with winBase := base, winSize := size, closing := a.closing || off, offFrom := if off then s.dcc else a.offFrom }

/-- ADWIN_OFF (R298). -/
def execAdwinOff (fn adit : Nat) (v : Word) (s : State) : Out := .next (if fn = 64 ∧ adit < 36 then s.writeAdwin adit v else s.regErr)

/-- ADWIN_CLOSE_DONE (R298): the accesses that the window had taken have ended, or end at 2^DRAINLG cycles. -/
def execAdwinCloseDone (adit : Nat) (s : State) : Out :=
  let a := s.adit adit
  let out := s.msgs.any fun m => m.overAdit s adit a.offFrom
  .next (if a.closing ∧ (!out ∨ a.offFrom + 2 ^ a.drainlg ≤ s.dcc) then
      (s.cutWindow adit a.offFrom).modAdit adit fun a => { a with closing := false, winEn := false }
    else s)

/-! ## UALink and Ultra Ethernet (R292, R393) -/

/-- The key slot under which a UALink peer's accesses meet their lines: the manual names none (log 22). -/
def ualKey : Nat := Config.ualKey.toNat

/-- Whether the memory that a peer names is there and not retired. -/
def State.ualThere (s : State) (pa n : Nat) : Bool :=
  (sectors pa n).all fun p => s.memThere p.1.toNat && !s.retiredAt p.1.toNat && !s.windowShut p.1.toNat

/-- The completion of a UALink request: 0 and its data, or 1 for an error completion. -/
def State.ualServe (s : State) (r : UalReq) : State × List Byte :=
  let refused : State × List Byte := (s, [1])
  match r with
  | .read pa n =>
    let parts := (sectors pa n).map fun p => s.homeRead (.glob p.1.toNat ualKey) p.2
    if n = 0 ∨ 64 < n ∨ !s.ualThere pa n ∨ parts.any (fun p => p.2.1) then refused else (s, 0 :: parts.flatMap (·.1))
  | .write pa bs =>
    if bs.isEmpty ∨ 64 < bs.length ∨ !s.ualThere pa bs.length then refused
    else
      ((sectors pa bs.length).foldl (fun (t : State) p => t.storeAt (.glob p.1.toNat ualKey) ((bs.drop (p.1.toNat - pa)).take p.2)) s, [0])
  | .atom op d pa b =>
    let w := if d then 8 else 4
    if pa % w ≠ 0 ∨ !s.ualThere pa w then refused
    else
      let a := s.perform (.glob pa ualKey) (.atom op d b) none
      if a.2.bad then (a.1, [1]) else (a.1, 0 :: leBytes w a.2.val.toNat)

/-- The sectors that a request of a UALink peer names. -/
def ualSectors (r : UalReq) : List Nat :=
  match r with
  | .read pa n => (sectors pa n).map (·.1.toNat)
  | .write pa bs => (sectors pa bs.length).map (·.1.toNat)
  | .atom _ _ pa _ => [pa]

/-- Whether a request waits at its home: behind an earlier one of its adit to a sector of its own, or, a write, under a pending version or while a page of
its is made single (R222, R347). -/
def State.ualWaits (s : State) (before : List (Nat × UalReq)) (adit : Nat) (r : UalReq) : Bool :=
  (before.any fun u => u.1 == adit && (ualSectors u.2).any fun p => (ualSectors r).any fun q => p / 32 == q / 32) ||
  match r with
  | .read _ _ => false
  | _ => (ualSectors r).any fun p => s.pendAt (.glob p ualKey) || s.collapsing p

/-- A request served, and its completion given. -/
def State.ualAnswer (s : State) (r : UalReq) : State := let p := s.ualServe r; { p.1 with replies := p.1.replies ++ [p.2] }

/-- UAL_REQUEST (R292): served by the part as completer while the adit is UP in UAL personality, or kept while it waits at its home; else it gets an error
completion (R296). -/
def execUalRequest (adit : Nat) (r : UalReq) (s : State) : Out :=
  let a := s.adit adit
  if a.st ≠ 1 ∨ a.cur ≠ 1 ∨ 36 ≤ adit then .next { s with replies := s.replies ++ [[1]] }
  else if s.ualWaits s.fab.uals adit r then .next (s.modFab fun f => { f with uals := f.uals ++ [(adit, r)] })
  else .next (s.ualAnswer r)

/-- A request that waited at its home, number k, served once it no longer waits. -/
def State.ualStep (s : State) (k : Nat) : Option State :=
  match s.fab.uals[k]? with
  | none => none
  | some u => if s.ualWaits (s.fab.uals.take k) u.1 u.2 then none else some ((s.modFab fun f => { f with uals := dropAt f.uals k }).ualAnswer u.2)

/-- The port of an ADITX packet (Table 21.3). -/
def Pkt.aditPort (p : Pkt) : Nat := wbits ((p.dw[2]?).getD 0) 14 2

/-- The fields of an ADITX packet (Table 21.3): the buffer's address, the adit, whether it receives, and its length. -/
def Pkt.aditx (p : Pkt) : Nat × Nat × Bool × Nat :=
  let d (k : Nat) : Word := (p.dw[k]?).getD 0
  ((d 1).toNat + wbits (d 2) 0 8 * 2 ^ 64, wbits (d 2) 8 6, (d 2).getLsbD 16, wbits (d 2) 32 32)

/-- The detail of a packet that a fault ends (Table 21.4). -/
def faultDetail (f : FaultInfo) : Nat := f.code * 256 + tokenCause f * 65536

/-- One piece of an ADITX: as many bytes as the peer gives or acknowledges, at most one sector of the buffer. -/
def State.aditxPiece (s : State) (q : Nat) (p : Pkt) (data : List Byte) : State :=
  let f := p.aditx
  let ctx := wbits (s.queue q).cfg 28 12
  let done := p.moved.getD 0
  let va := f.1 + done
  let n := min (min data.length (f.2.2.2 - done)) (32 - va % 32)
  let more (t : State) : State :=
    if done + n = f.2.2.2 then t.finishPkt q p.idx 0 0
    else t.modQueue q fun Q => { Q with pkts := Q.pkts.map fun (x : Pkt) => if x.idx = p.idx then { x with moved := some (done + n) } else x }
  if f.2.2.2 ≤ done then s.finishPkt q p.idx 0 0
  else if n = 0 then s.finishPkt q p.idx 3 done
  else if f.2.2.1 then
    if s.virtPend ctx va then s
    else match s.virtPut partUnit ctx va (data.take n) with
      | .error e => s.finishPkt q p.idx 2 (faultDetail e)
      | .ok t => more t
  else match s.virtBytes partUnit ctx va n false with
    | .error e => s.finishPkt q p.idx 2 (faultDetail e)
    | .ok bs => more { (s.touchVirt partUnit ctx va n false) with replies := s.replies ++ [bs] }

/-- ADITX (R393): a started packet moves a piece between its buffer and the port, where the adit is UP in UAL or UEC personality with that port up (R299), or
drains with the transfer begun; `data` is what the peer sends, or as many bytes as it acknowledges, and none where it delivers no more (R296). -/
def execAditx (q idx : Nat) (data : List Byte) (s : State) : Out :=
  match (s.queue q).pkts.find? fun p => p.idx == idx with
  | none => .next s
  | some p =>
    let a := s.adit p.aditx.2.1
    if nbits p.hd 0 8 ≠ 3 ∨ !p.started ∨ (s.ctx (wbits (s.queue q).cfg 28 12)).frzState ≠ 0 then .next s
    else if (a.cur = 1 ∨ a.cur = 2) ∧ a.ports.getLsbD p.aditPort ∧ (a.st = 1 ∨ (p.moved.isSome ∧ (a.st = 2 ∨ a.st = 3))) then .next (s.aditxPiece q p data)
    else .next (s.finishPkt q idx 3 (p.moved.getD 0))

end Sys2Proof.Machine
end

