-- ==== Sys2Proof/Machine/Control.lean ====
section
/-!
DEFINITION. Control transfers (R259 to R262), halt and safe points (R263, R264), events and waits (R265 to R267), continuations (R268), traps
(R269, R366) and their return (R374, R375), and the switches of a core (R21, R37, R38, R252).
-/
namespace Sys2Proof.Machine

/-! ## Transfers -/

/-- The check of a target (R260). -/
def State.targetCheck (s : State) (t : Int) : Verdict :=
  if t % 8 ≠ 0 ∨ t < (s.x.img.start : Int) ∨ (s.x.img.lim : Int) - 8 < t then .fault { code := 0x04 } else .go

/-- A transfer taken. -/
def State.goTo (s : State) (t : Int) : State := { s with cur := { s.cur with taken := some t.toNat } }

/-- A target relative to the bundle. -/
def State.rel (s : State) (imm : BitVec 32) : Int := (s.cur.at_ : Int) + imm.toInt

/-- A target of a base register and a displacement. -/
def State.absTarget (s : State) (sa : SNum) (imm : BitVec 32) : Int := ((s.rs sa).toNat : Int) + imm.toInt

/-- BR (R260). -/
def execBr (imm : BitVec 32) (s : State) : Out := atIssue (fun s => s.targetCheck (s.rel imm)) (fun s => s.goTo (s.rel imm)) s

/-- BRI (R260): eight bytes for each count of its register. -/
def execBri (sx : SNum) (imm : BitVec 32) (s : State) : Out :=
  let t (s : State) : Int := s.rel imm + 8 * (s.rs sx).toInt
  atIssue (fun s => s.targetCheck (t s)) (fun s => s.goTo (t s)) s

/-- JMP (R260). -/
def execJmp (sa : SNum) (imm : BitVec 32) (s : State) : Out :=
  atIssue (fun s => s.targetCheck (s.absTarget sa imm)) (fun s => s.goTo (s.absTarget sa imm)) s

/-- The stack pointer. -/
def State.stackPtr (s : State) : Int := ((s.ra 31).toNat : Int)

/-- The stack fault. -/
def stackFault : Verdict := .fault { code := 0x06 }

/-- The check of a call (R39, R261): the stack, the bytes it writes, its target. -/
def State.callCheck (s : State) (t : Int) : Verdict :=
  let p := s.stackPtr
  if p % 16 ≠ 0 ∨ p - 16 < (s.x.sp.stkb.toNat : Int) then stackFault
  else firstOf [s.plainAccess .write .shift .pad 0 (p - 16) 16, s.targetCheck t]

/-- The effect of a call (R261). -/
def State.callTo (s : State) (t : Int) : State :=
  let p := s.stackPtr - 16
  ((s.land 1 0 (.a 31 (a72i p))).land 6 0 (.pad p.toNat (leBytes 8 s.cur.npc ++ zeros 8))).goTo t

/-- CALL (R261). -/
def execCall (imm : BitVec 32) (s : State) : Out := atIssue (fun s => s.callCheck (s.rel imm)) (fun s => s.callTo (s.rel imm)) s

/-- CALLI (R261). -/
def execCalli (sa : SNum) (imm : BitVec 32) (s : State) : Out :=
  atIssue (fun s => s.callCheck (s.absTarget sa imm)) (fun s => s.callTo (s.absTarget sa imm)) s

/-- The PAD bytes that a pending landing writes, as runs. -/
def Landing.padRuns (l : Landing) : List (Nat × Nat) :=
  match l.dst with
  | .pad b data => [(b, data.length)]
  | .padElems _ els => els.map fun e => (e.1, e.2.length)
  | .partn b _ counts idx => (partnWrites b counts idx).map fun e => (e.1, e.2.length)
  | _ => []

/-- Whether a pending write of the shift to [lo, lo + n) of PAD has not landed. -/
def Shift.padLanding (x : Shift) (lo n : Nat) : Bool :=
  x.landings.any fun l => l.padRuns.any fun r => decide (r.1 < lo + n ∧ lo < r.1 + r.2)

/-- The address that RET reads. -/
def State.retTarget (s : State) : Int := (s.pad.num (padKey s.myCore s.stackPtr.toNat) 8 : Nat)

/-- RET (R261). -/
def execRet (s : State) : Out :=
  atIssue
    (fun s =>
      let p := s.stackPtr
      if p % 16 ≠ 0 ∨ (s.x.sp.stkl.toNat : Int) < p + 16 then stackFault
      else match s.plainAccess .read .shift .pad 0 p 8 with
        | .go => if s.x.padLanding p.toNat 8 then .hold s else s.targetCheck s.retTarget
        | v => v)
    (fun s => (s.land 1 0 (.a 31 (a72i (s.stackPtr + 16)))).goTo s.retTarget) s

/-- LOOP (R262). -/
def execLoop (sd : SNum) (imm : BitVec 32) (s : State) : Out :=
  atIssue (fun s => s.targetCheck (s.rel imm))
    (fun s =>
      let n := s.rs sd - 1
      let t := s.land 1 0 (.s sd n)
      if n = 0 then t else t.goTo (s.rel imm)) s

/-! ## Halt and safe points -/

/-- Whether a shift holds a slot, an open bundle or an open view (R213, R237). -/
def Shift.holdsAny (x : Shift) : Bool := (x.rings.toList.any fun q => q.hc || q.hw) || x.bundle.v || x.view.v

/-- Whether everything of a shift has drained (R263). -/
def State.drained (s : State) (i : Nat) (x : Shift) : Bool :=
  x.conts.isEmpty && !x.lane.v && x.tim.laneBusy == 0 && x.mx.queue.isEmpty && x.mx.active.isEmpty && !s.jobs.any fun j => j.sh == i

/-- A handler that ends its shift (R372, R374). -/
def State.tretEnd (s : State) : State := s.endShift s.me 0x0F

/-- A shift that has halted leaves its core. -/
def State.haltEnd (s : State) (i : Nat) : State := ((s.flushMem i).detach fun k => k == i).raiseHalt i

/-- The word that ends the executing shift waits for what other words of its bundle put under way (R263, R374, log 65). -/
def State.waitEnd (s : State) (w : Instr) : State := s.modX fun x => { x with tim := { x.tim with halting := some w } }

/-- The effect of HALT (R263). -/
def State.haltWork (s : State) : State :=
  if s.x.place.serves.isSome then (if s.jobs.any fun j => j.sh == s.me then s.waitEnd .halt else s.tretEnd)
  else if s.drained s.me s.x then s.haltEnd s.me else s.waitEnd .halt

/-- HALT (R263); in a handler it acts as `tret.end s0` (R374). -/
def execHalt (s : State) : Out :=
  atIssue
    (fun s =>
      if s.x.holdsAny then .fault heldFault
      else if s.x.place.serves.isSome then (if s.jobs.any fun j => j.sh == s.me then .hold s else .go)
      else if s.drained s.me s.x then .go else .hold s)
    State.haltWork s

/-- The check of SAFEPT and YIELD (R213, R237, R264). -/
def State.safeCheck (s : State) : Verdict :=
  if s.x.holdsAny then .fault heldFault else if s.x.landings.isEmpty then .go else .hold s

/-- Whether a live-mask entry marks no register live; EV1 marks every register live. -/
def Shift.noneLive (x : Shift) (idx : Nat) : Bool :=
  if x.img.ev = 1 then false
  else match x.img.live[idx]? with
  | some e => e.1 == 0 && e.2.1 == 0 && e.2.2 == 0
  | none => false

/-- A shift at a safe point that has completed (R256, R264). -/
def Shift.atSafe (x : Shift) (idx : Nat) (yields : Bool) : Shift :=
  { x with tim := { x.tim with spc := 0, safe := some idx, yields := yields, safeWait := none } }

/-- SAFEPT and YIELD (R37, R264): they complete once every fixed-latency result has landed, those of their own bundle too, and SPC
counts on until then (R256). -/
def State.safePoint (s : State) (idx : Nat) (yields : Bool) : State :=
  s.modX fun x =>
    if x.landings.isEmpty then x.atSafe idx yields else { x with tim := { x.tim with safeWait := some (idx, yields) } }

/-- The move that withdraws a shift at a safe point (R250), where one is pending: its live-mask entry marks no register live and what it put under
way has drained (log 66). -/
def State.leaves (s : State) (i : Nat) (x : Shift) : Option Move2 :=
  match x.tim.safe with
  | none => none
  | some idx => if x.noneLive idx && s.drained i x && !x.holdsAny then s.moveFor i x else none

/-- SAFEPT (R264). -/
def execSafept (idx : BitVec 32) (s : State) : Out := atIssue State.safeCheck (fun s => s.safePoint idx.toNat false) s

/-- YIELD (R264). -/
def execYield (idx : BitVec 32) (s : State) : Out := atIssue State.safeCheck (fun s => s.safePoint idx.toNat true) s

/-! ## Events and waits -/

/-- The bits that a WAITEV finds latched. -/
def State.evNow (s : State) (mask : BitVec 16) : BitVec 16 := s.x.evl &&& mask

/-- WAITEV (R267): its timeout counts from its first held cycle. -/
def execWaitev (sd st : SNum) (mask : BitVec 16) (s : State) : Out :=
  atIssue
    (fun s =>
      if mask = 0 then .fault { code := 0x01 }
      else if s.evNow mask ≠ 0 ∨ s.x.tim.timedOut then .go
      else .hold (if s.x.tim.waitFrom.isSome then s
        else s.modX fun x =>
          { x with tim := { x.tim with waitFrom := some (if s.rs st = 0 then 0 else s.dcc + (s.rs st).toNat) } }))
    (fun s =>
      let m := s.evNow mask
      (s.land 1 0 (.s sd (m.setWidth 64))).modX fun x => { x with evl := x.evl &&& ~~~m }) s

/-- WAITEV_TIMEOUT (R267): the timeout of shift sh's wait has passed. -/
def execWaitevTimeout (sh : Nat) (s : State) : Out :=
  .next (s.modSh sh fun x =>
    match x.tim.waitFrom with
    | some d => if d ≠ 0 ∧ d ≤ s.dcc then { x with tim := { x.tim with timedOut := true } } else x
    | none => x)

/-- The shifts that a SIGEV reaches (R266). -/
def State.signalled (s : State) (w : Word) : List Nat :=
  let crew := s.myCore / 8
  (s.shifts.filter fun p => p.1 / 64 == crew && decide (p.1 % 8 < 4) && p.2.place.ctx == s.x.place.ctx &&
    (w.getLsbD 3 || decide (p.1 / 8 % 8 = wbits w 0 3))).map (·.1)

/-- SIGEV (R266). -/
def execSigev (sd st : SNum) (e : BitVec 4) (s : State) : Out :=
  atIssue (fun _ => .go)
    (fun s =>
      let ts := s.signalled (s.rs st)
      let bits : BitVec 16 := 1 <<< e.toNat
      let t := ts.foldl (fun (t : State) i => t.post (.event s.me s.x.tim.seq i bits)) s
      t.reply sd (w64 (ts.length * 2 ^ 32 + if ts.isEmpty then 0x10 else 0))) s

/-- Whether the accesses that a shift issued up to a rank have been performed; bundle stores are performed with their bundle. -/
def State.performedUpTo (s : State) (i seq : Nat) : Bool :=
  !s.pendingUpTo i seq &&
  (match s.sh? i with
    | none => true
    | some x => !x.localDue seq)

/-- EVENT_LATCH_SET (R265, R266): message k, an event, latched in its shift once its issuer's earlier accesses have been performed. -/
def execEventLatchSet (k : Nat) (s : State) : Out :=
  match s.msgs[k]? with
  | some (.event src seq i bits) =>
    if s.performedUpTo src seq then
      .next (({ s with msgs := dropAt s.msgs k }).modSh i fun x =>
        { x with evl := x.evl ||| bits, tim := { x.tim with evlSince := x.tim.evlSince ||| bits } })
    else .next s
  | _ => .next s

/-! ## Continuations -/

/-- CONT (R268). -/
def execCont (s : State) : Out :=
  atIssue
    (fun s =>
      let tenant (o : MOp) : Bool := match o.instr with | .tenantM _ _ _ _ _ _ _ _ => true | _ => false
      let jobs := s.jobs.any fun j => j.sh == s.me && (match j.instr with | .tenantX _ _ _ _ _ => true | _ => false)
      if !s.x.conts.isEmpty || s.x.lane.v || s.x.tim.laneBusy != 0 || jobs || (s.x.mx.queue ++ s.x.mx.active).any tenant then .hold s else .go)
    (fun s => s) s

/-- The unit that a continuation record starts (R40, R316), once its image is READY. -/
def State.contUnit (s : State) (x : Shift) (core : Nat) (c : Cont) : Option MicroUnit :=
  match s.tenantWords x core c.instr with
  | some (b, some ws) => some (x.unitFor c.instr b ws c.tgt c.m c.vl c.stat)
  | _ => none

/-- CONTINUATION_DISPATCH (R40): the record at the head of shift sh's queue starts on its lane sequencer. -/
def execContinuationDispatch (sh : Nat) (s : State) : Out :=
  match s.sh? sh with
  | none => .next s
  | some x =>
    match x.conts with
    | [] => .next s
    | c :: rest =>
      if x.lane.v ∨ x.tim.laneBusy ≠ 0 then .next s
      else match s.contUnit x (sh / 8) c with
        | none => .next s
        | some u => .next (s.modSh sh fun x => (laneRegs c.instr).foldl Shift.markV { x with conts := rest, lane := u, tim := { x.tim with laneSeq := x.tim.seq } })

/-! ## Traps -/

/-- TRAP (R269): a program trap at the next boundary. -/
def execTrap (n : BitVec 16) (s : State) : Out :=
  atIssue (fun _ => .go) (fun s => s.modX fun x => { x with pend := { x.pend with trap := some n.toNat } }) s

/-- BRK (R269): a breakpoint at this bundle. -/
def execBrk (n : BitVec 16) (s : State) : Out := atIssue (fun _ => .fault { code := 0x12, num := n.toNat }) (fun s => s) s

/-- The faults pending at a boundary before the bundle's own, in the order of R366. -/
def State.pendingFaults (s : State) (i : Nat) (x : Shift) : List FaultInfo :=
  let unit (n : Nat) (u : MicroUnit) : FaultInfo :=
    { code := u.code, cause := u.cause, unit := n, tstg := u.tstg, tlvl := u.tlvl, faddr := u.faddr }
  (match x.pend.trap with | some n => [{ code := 0x11, num := n : FaultInfo }] | none => []) ++
  (if x.lane.v ∧ x.lane.halt then [unit 1 x.lane] else []) ++
  (s.jobs.filter fun j => j.sh == i && j.eng == 1 && j.unit.v && j.unit.halt).map (fun j => unit 2 j.unit) ++
  (s.jobs.filter fun j => j.sh == i && j.eng == 2 && j.unit.v && j.unit.halt).map (fun j => unit 3 j.unit) ++
  (if x.img.spbound ≤ x.tim.spc then [{ code := 0x0F : FaultInfo }] else [])

/-- The faults that stay pending behind the one that is taken (R366). -/
def State.noteFaults (s : State) (i : Nat) (rest : List FaultInfo) : State := s.modSh i fun x => { x with pend := { x.pend with faults := rest } }

/-- TRAP_DELIVERY (R366): the first fault pending at shift sh's boundary is taken. -/
def execTrapDelivery (sh : Nat) (f : FaultInfo) (s : State) : Out :=
  match s.sh? sh with
  | none => .next s
  | some x =>
    match s.pendingFaults sh x with
    | [] => .next s
    | g :: rest =>
      if g ≠ f then .next s
      else match s.trapWait sh with
        | some t => .next t
        | none =>
          let s := s.noteFaults sh rest
          let s := s.modSh sh fun x => if f.code = 0x11 then { x with pend := { x.pend with trap := none } } else x
          .next (s.takeTrap sh f)

/-- SAFE_POINT_OVERRUN (R256): the fault of a shift whose count has reached its bound; the count returns to 0. -/
def execSafePointOverrun (sh : Nat) (s : State) : Out :=
  match s.sh? sh with
  | none => .next s
  | some x =>
    if x.tim.spc < x.img.spbound then .next s
    else match s.trapWait sh with
      | some t => .next t
      | none =>
        let s := (s.noteFaults sh []).modSh sh fun x => { x with tim := { x.tim with spc := 0 } }
        .next (s.takeTrap sh { code := 0x0F })

/-- DELAYED_FAULT_DELIVERY (R285, R364): the fault of an interlocked register at the bundle that meets it. -/
def execDelayedFaultDelivery (sh : Nat) (r : SNum) (s : State) : Out :=
  match (s.sh? sh).bind fun x => x.pend.delayed.find? fun d => d.reg == r with
  | none => .next s
  | some d =>
    match s.trapWait sh with
    | some t => .next t
    | none =>
      let s := s.modSh sh fun x => { x with pend := { x.pend with delayed := x.pend.delayed.filter fun e => e.reg != r } }
      .next (s.takeTrap sh { d.info with word := s.cur.word })

/-! ## The return from a trap -/

/-- The unit records of a shift as its frame shows them. -/
def State.unitsShown (s : State) (i : Nat) (x : Shift) (n : Nat) : MicroUnit :=
  let u := if n = 0 then x.lane else ((s.jobs.find? fun j => j.sh == i && j.eng == n && j.unit.v).map (·.unit)).getD MicroUnit.zero
  { u with halt := u.halt && x.tim.shownHalt.getLsbD n }

/-- A bank whose load of an image failed made EMPTY, so that a routine that is resumed asks for it again (R326; log 78). -/
def State.retryImage (s : State) (core ctx : Nat) (u : MicroUnit) : State :=
  (upto 0 2).foldl (fun (s : State) k => s.modBank core k fun b => if u.ten ∧ b.state = 3 ∧ b.ctx = ctx ∧ b.tag = u.tag then Bank.zero else b) s

/-- What the ACTION of a unit's record does (R375): 0 restarts its routine at MPC, 1 ends it (R318, R200). -/
def State.unitAction (s : State) (i : Nat) (bs : List Byte) (n : Nat) : State :=
  match s.sh? i with
  | none => s
  | some x =>
    let u := s.unitsShown i x n
    let act := nbits (fdw bs (if n = 0 then 0x11000 else if n = 1 then 0x13000 else 0x13200)) 48 8
    let again (u : MicroUnit) : MicroUnit := { u with halt := false, steps := 0, code := 0, cause := 0 }
    if !(u.v && u.halt) then s
    else if n = 0 then
      if act = 0 then (s.retryImage (i / 8) x.place.ctx u).modSh i fun x => { x with lane := again x.lane }
      else (s.returnHeld x u.held).modSh i fun x => x.laneDone (s.flagCycle (i / 8)) 0
    else match s.jobs.find? fun j => j.sh == i && j.eng == n && j.unit.v with
      | none => s
      | some j =>
        if act = 0 then (s.retryImage (i / 8) x.place.ctx u).modJob j.id fun j => { j with unit := again j.unit }
        else (s.modSh i fun x => x.freeX j.instr).endJob j.id

/-- A handler gone: its writes land, and nothing answers it any more. DESIGN CHOICE (log 89): a bundle that it has open is dropped without a discard, and its
context still counts it as open. -/
def State.endHandler (s : State) (h : Nat) : State :=
  let s := (s.flushMem h).detach fun k => k == h
  { s with shifts := NMap.del s.shifts h, jobs := s.jobs.filter fun j => j.sh != h }

/-- The effect of `tret.resume` (R375). -/
def State.tretResume (s : State) (sd : SNum) (i : Nat) : State :=
  match s.sh? i with
  | none => s
  | some x =>
    match s.frameRead s.me x s.x.place.frame.toNat with
    | .error f => if f.code = notArrived then s else s.systemFault s.me f
    | .ok bs =>
      let s := s.dropWaiter s.me frameWait
      match badFrame x bs (s.unitsShown i x) with
      | some off => s.land 1 0 (.s sd (w64 (off * 2 ^ 32 + 0x20)))
      | none =>
        let s := s.modSh i fun x =>
          let y := x.fromFrame bs x.tim.shownS.toNat x.tim.shownV.toNat
          { y with pend := { y.pend with faults := [], routine := false } }
        (((s.unitAction i bs 0).unitAction i bs 1).unitAction i bs 2).endHandler s.me

/-- Whether a TRET still waits: its handler has a job, or, before the frame is read, an access of its own that is not performed (R374, R189). -/
def State.tretWaits (s : State) (fin : Bool) : Bool := (s.jobs.any fun j => j.sh == s.me) || (!fin && s.accessPending s.me)

/-- The lines of the frame that a `tret.resume` waits for, asked for; none where they are all here (R335, R374). -/
def State.tretAsks (s : State) (fin : Bool) : Option State :=
  match s.sh? (baseOf s.me) with
  | none => none
  | some x =>
    if fin || !s.frameFar x.place.ctx s.x.place.frame.toNat then none
    else match s.frameRead s.me x s.x.place.frame.toNat with
      | .error f => if f.code = notArrived then some (s.askFrame s.me x s.x.place.frame.toNat) else none
      | .ok _ => none

/-- The effect of TRET. -/
def State.tretWork (fin : Bool) (sd : SNum) (s : State) : State :=
  if s.tretWaits fin then s.waitEnd (.tret fin sd)
  else match s.tretAsks fin with
    | some t => t.waitEnd (.tret fin sd)
    | none => if fin then s.tretEnd else s.tretResume sd (baseOf s.me)

/-- TRET (R374, R375): `fin` for `tret.end`. -/
def execTret (fin : Bool) (sd : SNum) (s : State) : Out :=
  atIssue
    (fun s =>
      if s.x.place.serves.isNone then .fault { code := 0x01 }
      else if s.tretWaits fin then .hold s
      else match s.tretAsks fin with
        | some t => .hold t
        | none => .go)
    (State.tretWork fin sd) s

/-- A shift whose ending word waited for the work of its bundle, at a boundary (R263, R374). -/
def State.resumeEnd (s : State) (w : Instr) : State :=
  let s := s.modX fun x => { x with tim := { x.tim with halting := none } }
  match w with
  | .tret fin sd => s.tretWork fin sd
  | _ => s.haltWork

/-! ## Landings -/

/-- LAND (R30): the fixed-latency results of shift sh whose cycle has come. -/
def execLand (sh : Nat) (s : State) : Out :=
  match s.sh? sh with
  | none => .next s
  | some x =>
    .next ((s.modSh sh fun x => { x with landings := x.landings.filter fun l => l.left != 0 }).landAll sh (x.landings.filter fun l => l.left == 0))

/-! ## Switches of a core -/

/-- The point at which a shift of a core stops: the present cycle where the core's part of it is not over (R36, R151). -/
def State.stopPoint (s : State) (core : Nat) : Nat := if s.cur.sh.isSome ∨ s.turn ≤ core then s.dcc else s.dcc + 1

/-- The registers that are not live at a safe point read zero after the switch (R37); EV1 marks every register live. -/
def Shift.keepLive (x : Shift) (idx : Nat) : Shift :=
  if x.img.ev = 1 then x
  else
    let e := (x.img.live[idx]?).getD (0, 0, 0)
    { x with
      tim := { x.tim with stackAt := if e.2.2.getLsbD 31 then none else if x.ra 31 = 0 then x.tim.stackAt else some (x.ra 31) },
      regs := { x.regs with
        s := Vector.ofFn fun n : Fin 64 => if e.1.getLsbD n.val then x.regs.s[n] else 0,
        v := Vector.ofFn fun n : Fin 64 => if e.2.1.getLsbD n.val then x.regs.v[n] else 0,
        a := Vector.ofFn fun n : Fin 32 => if e.2.2.getLsbD n.val then x.regs.a[n] else 0,
        g := Vector.ofFn fun n : Fin 8 => if e.2.2.getLsbD (32 + n.val) then x.regs.g[n] else false } }

/-- Whether a waiter is a question to another package that is asked once: of an anchor or of a route's line (R227, R284). -/
def State.asksFar (s : State) (w : Waiter) : Bool :=
  match w.why with
  | .anchor line => linePkg line != s.mg.idpkg
  | _ => false

/-- The wait of a shift's issue unit dropped: it starts afresh (R193); a question to another package stands. -/
def State.dropWait (s : State) (i : Nat) : State := { s with waiters := s.waiters.filter fun w => !(w.sh == i && w.unit == 0 && !s.asksFar w) }

/-- A shift that stops at P: its wait starts afresh when it resumes (R193). -/
def State.stopShift (s : State) (i p : Nat) : State :=
  let s := s.dropWait i
  s.modSh i fun x =>
    { x with tim := { x.tim with stopped := some p, waitFrom := none, timedOut := false, safe := none, yields := false, waitLoad := none } }

/-- Whether the shift of a slot is ready to issue. -/
def State.slotReady (s : State) (core slot : Nat) : Bool :=
  match s.sh? (8 * core + slot) with
  | none => false
  | some x => (s.ctx x.place.ctx).frzState == 0 && (s.core core).order.contains slot

/-- The issuing slot of a core changed, for a new turn (R252); at that decision the image of the next shift in order is prefetched, while the outgoing shift
still counts as the issuing one (R325, Table 24.3). -/
def State.setIssuing (s : State) (core : Nat) (slot : Option Nat) : State :=
  let s := (s.prefetch core).modCore core fun c => { c with issuing := slot }
  match slot with
  | none => s
  | some k => s.modSh (8 * core + k) fun x => { x with tim := { x.tim with turnUsed := 0 } }

/-- A shift's pre-emption request met. -/
def State.met (s : State) (i : Nat) : State :=
  let f (x : Shift) : Shift := { x with pend := { x.pend with preempt := false } }
  (s.modSh i f).modSh (baseOf i) f

/-- Whether a pre-emption of a shift is pending. -/
def State.preemptAsked (s : State) (i : Nat) : Bool :=
  let p (k : Nat) : Bool := match s.sh? k with | some x => x.pend.preempt | none => false
  p i || p (baseOf i)

/-- Whether the pre-emption asked of a shift is one of a READY node that outranks its own (R251), not one of a freeze (R427). -/
def State.outrankedNow (s : State) (i : Nat) (x : Shift) : Bool := s.preemptAsked i && (s.ctx x.place.ctx).frzState == 0

/-- A shift out of the residency order of its core: it is switched out (R251). -/
def State.leaveOrder (s : State) (i : Nat) : State := s.modCore (i / 8) fun c => { c with order := c.order.filter (· != i % 4) }

/-- SHIFT_SWITCH (R21, R37, R251, R252): a core on which no shift issues, or whose issuing shift stands at a safe point, gives a ready resident shift its
turn. -/
def execShiftSwitch (core slot : Nat) (s : State) : Out :=
  if !s.slotReady core slot ∨ 4 ≤ slot ∨ (s.core core).issuing = some slot then .next s
  else match s.issuer core with
    | none => .next (s.setIssuing core (some slot))
    | some i =>
      match s.sh? i, (s.sh? i).bind fun x => x.tim.safe with
      | some x, some idx =>
        let out := s.outrankedNow i x
        let t := ((s.modSh i fun x => x.keepLive idx).stopShift i (s.stopPoint core)).met i
        .next ((if out then t.leaveOrder i else t).setIssuing core (some slot))
      | _, _ => .next s

/-- Whether a bundle of a shift waits for an image that neither bank can take, since both are pinned by work of other shifts (R326). -/
def State.banksTaken (s : State) (i : Nat) (x : Shift) : Bool :=
  match x.tim.waitLoad with
  | none => false
  | some (t, _) =>
    !s.bankHas (i / 8) x.place.ctx t && (upto 0 2).all fun k => match (s.core (i / 8)).banks[k]? with
      | none => false
      | some b => b.state != 0 && (s.shifts.any fun p => p.1 / 8 == i / 8 && baseOf p.1 != baseOf i && s.shiftPins b.ctx b.tag (s.issuer (i / 8)) p != 0)

/-- Whether a full-state pre-emption of an issuing shift is due at its boundary: 65,536 cycles after its last safe point with a request pending
(R38), a safe point from which no other shift takes over (R257), or R326. -/
def State.preemptDue (s : State) (i : Nat) (x : Shift) : Bool :=
  let other := (s.nextReady (i / 8) (some (i % 4))).isSome
  (s.preemptAsked i && (decide (65536 ≤ x.tim.spc) || (x.tim.safe.isSome && !other))) || (other && s.banksTaken i x)

/-- FULL_STATE_PREEMPTION (R38, R251, R257, R326): the shift stops with all its state, and another ready resident shift issues, or none; one that a READY
node outranks is switched out of its core. -/
def execFullStatePreemption (sh : Nat) (s : State) : Out :=
  match s.sh? sh with
  | none => .next s
  | some x =>
    let core := sh / 8
    if s.issuer core ≠ some sh ∨ !s.preemptDue sh x then .next s
    else
      let next := s.nextReady core (some (sh % 4))
      let s := if s.outrankedNow sh x then s.leaveOrder sh else s
      let s := match next, x.tim.safe with
        | none, some idx => s.modSh sh fun x => x.keepLive idx
        | _, _ => s
      .next (((s.met sh).stopShift sh (s.stopPoint core)).setIssuing core next)

end Sys2Proof.Machine
end

