-- ==== Sys2Proof/Machine/Codec.lean ====
section
/-!
DEFINITION. What a freeze image holds beside the sections that the manual lays out (R428; log 25): the state of a context as a list of numbers, written as
bytes. A codec names the numbers of a type and reads them back.
-/
namespace Sys2Proof.Machine

/-- How the values of a type stand in a list of numbers, and how the first of a list is read. -/
structure Codec (α : Type) where
  put : α → List Nat
  get : List Nat → α × List Nat

/-- The first value of a list, made a value of another type. -/
def Codec.read {α β : Type} (c : Codec α) (g : α → β) (l : List Nat) : β × List Nat := let r := c.get l; (g r.1, r.2)

/-- A codec carried over to another type. -/
def Codec.as {α β : Type} (c : Codec α) (f : β → α) (g : α → β) : Codec β := { put := fun x => c.put (f x), get := c.read g }

/-- A pair. -/
def Codec.and {α β : Type} (c : Codec α) (d : Codec β) : Codec (α × β) :=
  { put := fun x => c.put x.1 ++ d.put x.2, get := fun l => let r := c.get l; let q := d.get r.2; ((r.1, q.1), q.2) }

def cNat : Codec Nat := { put := fun n => [n], get := fun l => (l.headD 0, l.tail) }

def cInt : Codec Int := cNat.as (fun i => if i < 0 then 2 * i.natAbs + 1 else 2 * i.natAbs) fun n => if n % 2 = 1 then -((n / 2 : Nat) : Int) else (n / 2 : Nat)

def cBool : Codec Bool := cNat.as bnat fun n => n == 1

def cBits {n : Nat} : Codec (BitVec n) := cNat.as (·.toNat) (BitVec.ofNat n)

def cFin {n : Nat} [NeZero n] : Codec (Fin n) := cNat.as (·.val) (Fin.ofNat n)

/-- A name among those of a list. -/
def cEnum {α : Type} [BEq α] (l : List α) (d : α) : Codec α := cNat.as (fun x => l.findIdx (· == x)) fun n => (l[n]?).getD d

/-- n values, one after another. -/
def takeN {α : Type} (c : Codec α) : Nat → List Nat → List α × List Nat
  | 0, l => ([], l)
  | n + 1, l => let r := c.get l; let q := takeN c n r.2; (r.1 :: q.1, q.2)

/-- A list: its length, which what follows bounds, and its values. -/
def cList {α : Type} (c : Codec α) : Codec (List α) :=
  { put := fun xs => xs.length :: xs.flatMap c.put, get := fun l => takeN c (min (l.headD 0) l.length) l.tail }

def cOpt {α : Type} (c : Codec α) : Codec (Option α) := (cList c).as Option.toList List.head?

/-- A vector; a place that its list lacks holds what an empty list reads as. -/
def cVec {α : Type} {n : Nat} (c : Codec α) : Codec (Vector α n) :=
  (cList c).as Vector.toList fun l => Vector.ofFn fun k : Fin n => (l[k.val]?).getD (c.get []).1

/-- An instruction, as a word that decodes to it. -/
def cInstr : Codec Instr := cBits.as (fun i => (encode i).getD 0) fun w => ((decodeWord 3 w).bind DWord.main).getD .nop

/-! ## The names of Syntax.lean -/

def cSpace : Codec Space := cEnum [.lane, .pad, .crew, .chip, .glob] .lane

def cScope : Codec Scope := cEnum [.shift, .crew, .die, .pkg, .sys] .shift

def cRecvFmt : Codec RecvFmt := cEnum [.f32, .bf16, .s32, .put] .f32

def cFmt : Codec Fmt := cEnum [.f32, .f16, .bf16, .e4m3, .e5m2, .e2m1, .lg6, .s4, .s8, .s16, .s32, .s64, .z8, .z16, .z32, .z64] .f32

def cSpecReg : Codec SpecReg := cEnum [.vl, .stat, .tcb, .sb, .stkb, .stkl, .rnd, .chk] .vl

/-! ## The parts of a context's state -/

/-- The state of a context as a freeze image holds it (R428): its shifts, in the order of their records, its jobs, resident tables, ring objects, manifests,
open bundles, queues and receive ports (core, number, port). A freeze writes it, and a thaw
reads it back. -/
structure Frozen where
  shifts : List (Nat × Shift)
  jobs : List Job
  tables : List (Nat × GTable)
  rings : List RingObj
  manifests : List (Nat × Nat × Nat)
  opens : Nat
  queues : List (Nat × HQueue)
  ports : List (Nat × Nat × Port)
  deriving DecidableEq, Repr

/-- A register that a word names. -/
def cRegRef : Codec RegRef :=
  (cNat.and cNat).as
    (fun r => match r with
      | .s n => (0, n.val) | .a n => (1, n.val) | .g n => (2, n.val) | .v n => (3, n.val) | .h n => (4, n.val) | .sp r => (5, (cSpecReg.put r).headD 0))
    fun (k, n) => match k with
      | 0 => .s (Fin.ofNat 64 n) | 1 => .a (Fin.ofNat 32 n) | 2 => .g (Fin.ofNat 8 n) | 3 => .v (Fin.ofNat 64 n) | 4 => .h (Fin.ofNat 8 n)
      | _ => .sp (cSpecReg.get [n]).1

/-- Where a result goes: its kind, and what goes with the kind. -/
def cLandTo : Codec LandTo :=
  { put := fun d => match d with
      | .nothing => [0]
      | .s r x => 1 :: (cFin.and cBits).put (r, x)
      | .a r x => 2 :: (cFin.and cBits).put (r, x)
      | .g r b => 3 :: (cFin.and cBool).put (r, b)
      | .v r f n x => 4 :: (cFin.and <| cNat.and <| cNat.and cBits).put (r, f, n, x)
      | .special r x => 5 :: (cSpecReg.and cBits).put (r, x)
      | .crd r lo hi held => 6 :: (cFin.and <| cBits.and <| cBits.and cBool).put (r, lo, hi, held)
      | .part r t f sd nt => 7 :: (cFin.and <| cBits.and <| cBits.and <| cFin.and cBits).put (r, t, f, sd, nt)
      | .vsetvl sd n => 8 :: (cFin.and cBits).put (sd, n)
      | .pad b bs => 9 :: (cNat.and (cList cBits)).put (b, bs)
      | .padElems w els => 10 :: (cNat.and (cList (cNat.and (cList cBits)))).put (w, els)
      | .lane one els => 11 :: ((cOpt cNat).and (cList (cNat.and <| cNat.and (cList cBits)))).put (one, els)
      | .partn b arms cs idx => 12 :: (cNat.and <| cNat.and <| (cList cNat).and (cList (cList cNat))).put (b, arms, cs, idx)
    get := fun l =>
      let r := l.tail
      match l.headD 0 with
      | 1 => (cFin.and cBits).read (fun (r, x) => LandTo.s r x) r
      | 2 => (cFin.and cBits).read (fun (r, x) => LandTo.a r x) r
      | 3 => (cFin.and cBool).read (fun (r, b) => LandTo.g r b) r
      | 4 => (cFin.and <| cNat.and <| cNat.and cBits).read (fun (r, f, n, x) => LandTo.v r f n x) r
      | 5 => (cSpecReg.and cBits).read (fun (r, x) => LandTo.special r x) r
      | 6 => (cFin.and <| cBits.and <| cBits.and cBool).read (fun (r, lo, hi, held) => LandTo.crd r lo hi held) r
      | 7 => (cFin.and <| cBits.and <| cBits.and <| cFin.and cBits).read (fun (r, t, f, sd, nt) => LandTo.part r t f sd nt) r
      | 8 => (cFin.and cBits).read (fun (sd, n) => LandTo.vsetvl sd n) r
      | 9 => (cNat.and (cList cBits)).read (fun (b, bs) => LandTo.pad b bs) r
      | 10 => (cNat.and (cList (cNat.and (cList cBits)))).read (fun (w, els) => LandTo.padElems w els) r
      | 11 => ((cOpt cNat).and (cList (cNat.and <| cNat.and (cList cBits)))).read (fun (one, els) => LandTo.lane one els) r
      | 12 => (cNat.and <| cNat.and <| (cList cNat).and (cList (cList cNat))).read (fun (b, arms, cs, idx) => LandTo.partn b arms cs idx) r
      | _ => (.nothing, r) }

def cFaultInfo : Codec FaultInfo :=
  (cNat.and <| cNat.and <| cNat.and <| cNat.and <| cNat.and <| cNat.and <| cNat.and <| cBits).as
    (fun x => (x.code, x.cause, x.unit, x.word, x.tstg, x.tlvl, x.num, x.faddr))
    fun (code, cause, unit, word, tstg, tlvl, num, faddr) =>
      { code := code, cause := cause, unit := unit, word := word, tstg := tstg, tlvl := tlvl, num := num, faddr := faddr }

def cFoot : Codec Foot :=
  (cSpace.and <| cNat.and <| cBool.and <| cInt.and <| cNat.and <| cNat.and <| cInt).as
    (fun x => (x.space, x.mode, x.host, x.base, x.len, x.rows, x.rstride))
    fun (space, mode, host, base, len, rows, rstride) =>
      { space := space, mode := mode, host := host, base := base, len := len, rows := rows, rstride := rstride }

def cDesc : Codec Desc :=
  (cSpace.and <| cNat.and <| cBool.and <| cNat.and <| cNat.and <| cNat.and <| cInt.and <| cInt.and <| cBool).as
    (fun x => (x.space, x.mode, x.host, x.base, x.len, x.rows, x.sstride, x.rstride, x.good))
    fun (space, mode, host, base, len, rows, sstride, rstride, good) =>
      { space := space, mode := mode, host := host, base := base, len := len, rows := rows, sstride := sstride, rstride := rstride, good := good }

def cRingEnt : Codec RingEnt :=
  (cNat.and <| cNat.and <| cNat.and <| cNat).as
    (fun x => (x.q, x.ring, x.prod, x.cons))
    fun (q, ring, prod, cons) =>
      { q := q, ring := ring, prod := prod, cons := cons }

def cBinding : Codec Binding :=
  (cNat.and <| cNat.and <| cNat.and <| cNat.and <| cNat.and <| cBits).as
    (fun x => (x.cls, x.opc, x.entry, x.steps, x.rclass, x.tag))
    fun (cls, opc, entry, steps, rclass, tag) =>
      { cls := cls, opc := opc, entry := entry, steps := steps, rclass := rclass, tag := tag }

def cImage : Codec Image :=
  (cNat.and <| cNat.and <| cNat.and <| cNat.and <| (cList (cBits.and (cBits.and cBits))).and <| (cList cFoot).and <| (cList cBinding).and <| cBits.and <|
    cNat).as
    (fun x => (x.ev, x.start, x.lim, x.spbound, x.live, x.feet, x.binds, x.base, x.timg))
    fun (ev, start, lim, spbound, live, feet, binds, base, timg) =>
      { ev := ev, start := start, lim := lim, spbound := spbound, live := live, feet := feet, binds := binds, base := base, timg := timg }

def cStageImg : Codec StageImg :=
  (cImage.and <| cBool.and <| cNat.and <| cNat.and <| (cList cRingEnt).and <| (cList cDesc)).as
    (fun x => (x.img, x.chk, x.entry, x.stack, x.rings, x.descs))
    fun (img, chk, entry, stack, rings, descs) =>
      { img := img, chk := chk, entry := entry, stack := stack, rings := rings, descs := descs }

def cPlaced : Codec Placed :=
  (cNat.and <| cNat.and <| cNat.and <| cNat.and <| cNat.and <| cBits.and <| cBool.and <| cNat.and <| (cList cFoot).and <| cBool.and <| cBool.and <|
    cBool.and <| (cList (cNat.and (cList cBits)))).as
    (fun x => (x.core, x.slot, x.stage, x.unum, x.index, x.banks, x.mx, x.lkq, x.feet, x.halted, x.withdrawn, x.away, x.saved))
    fun (core, slot, stage, unum, index, banks, mx, lkq, feet, halted, withdrawn, away, saved) =>
      { core := core, slot := slot, stage := stage, unum := unum, index := index, banks := banks, mx := mx, lkq := lkq, feet := feet, halted := halted,
        withdrawn := withdrawn, away := away, saved := saved }

def cNode : Codec Node :=
  ((cList cBits).and <| cNat.and <| cNat.and <| cNat.and <| cNat.and <| cNat.and <| cBool.and <| cBool.and <| (cList cStageImg).and <| (cList cPlaced)).as
    (fun x => (x.dw, x.status, x.state, x.iter, x.pred, x.ready, x.checked, x.cond, x.images, x.placed))
    fun (dw, status, state, iter, pred, ready, checked, cond, images, placed) =>
      { dw := dw, status := status, state := state, iter := iter, pred := pred, ready := ready, checked := checked, cond := cond, images := images,
        placed := placed }

def cSample : Codec Sample :=
  (cNat.and <| cNat.and <| cNat.and <| cNat.and <| cNat.and <| cNat).as
    (fun x => (x.node, x.space, x.dom, x.base, x.full, x.starved))
    fun (node, space, dom, base, full, starved) =>
      { node := node, space := space, dom := dom, base := base, full := full, starved := starved }

def cMove2 : Codec Move2 :=
  (cNat.and <| cNat.and <| cNat.and <| cNat.and <| cNat).as
    (fun x => (x.crew, x.fromStage, x.toStage, x.until_, x.sh))
    fun (crew, fromStage, toStage, until_, sh) =>
      { crew := crew, fromStage := fromStage, toStage := toStage, until_ := until_, sh := sh }

def cGTable : Codec GTable :=
  (cNat.and <| cBits.and <| (cList cBits).and <| (cList cNode).and <| (cList (cNat.and (cNat.and cNat))).and <| (cList (cNat.and cNat)).and <| cNat.and <|
    cNat.and <| cNat.and <| (cList cSample).and <| (cList (cNat.and cNat)).and <| (cList cMove2)).as
    (fun x => (x.ctx, x.addr, x.bytes, x.nodes, x.edges, x.fails, x.queue, x.pkt, x.prioCap, x.samples, x.windows, x.moves))
    fun (ctx, addr, bytes, nodes, edges, fails, queue, pkt, prioCap, samples, windows, moves) =>
      { ctx := ctx, addr := addr, bytes := bytes, nodes := nodes, edges := edges, fails := fails, queue := queue, pkt := pkt, prioCap := prioCap,
        samples := samples, windows := windows, moves := moves }

def cRingObj : Codec RingObj :=
  (cNat.and <| cNat.and <| cNat.and <| cNat.and <| cNat.and <| cBool).as
    (fun x => (x.space, x.dom, x.base, x.table, x.node, x.decl))
    fun (space, dom, base, table, node, decl) =>
      { space := space, dom := dom, base := base, table := table, node := node, decl := decl }

def cPkt : Codec Pkt :=
  (cNat.and <| (cList cBits).and <| (cList (cNat.and (cNat.and cNat))).and <| cBool.and <| (cOpt cNat).and <| (cOpt cNat)).as
    (fun x => (x.idx, x.dw, x.bufs, x.started, x.table, x.moved))
    fun (idx, dw, bufs, started, table, moved) =>
      { idx := idx, dw := dw, bufs := bufs, started := started, table := table, moved := moved }

def cCpl : Codec Cpl :=
  (cBits.and <| cNat.and <| cBits.and <| cBool.and <| cBool).as
    (fun x => (x.tag, x.status, x.detail, x.irq, x.write))
    fun (tag, status, detail, irq, write) =>
      { tag := tag, status := status, detail := detail, irq := irq, write := write }

def cHQueue : Codec HQueue :=
  (cBits.and <| cBits.and <| cBits.and <| cBits.and <| cNat.and <| cNat.and <| cBits.and <| cBits.and <| cBits.and <| cBits.and <| cBits.and <|
    (cList cPkt).and <| (cList cCpl).and <| cNat.and <| (cOpt cNat).and <| (cOpt cNat).and <| cNat).as
    (fun x => (x.cfg, x.base, x.tail, x.head, x.st, x.errst, x.cpl, x.cwrite, x.chead, x.int, x.live, x.pkts, x.cpls, x.counted, x.oldest, x.sent,
      x.atFreeze))
    fun (cfg, base, tail, head, st, errst, cpl, cwrite, chead, int, live, pkts, cpls, counted, oldest, sent, atFreeze) =>
      { cfg := cfg, base := base, tail := tail, head := head, st := st, errst := errst, cpl := cpl, cwrite := cwrite, chead := chead, int := int,
        live := live, pkts := pkts, cpls := cpls, counted := counted, oldest := oldest, sent := sent, atFreeze := atFreeze }

def cPort : Codec Port :=
  (cBool.and <| cNat.and <| cNat.and <| cRecvFmt.and <| cBool.and <| cNat.and <| cNat.and <| cNat.and <| cNat.and <| cNat.and <| cBits.and <| cNat).as
    (fun x => (x.armed, x.ctx, x.sh, x.fmt, x.cnten, x.window, x.wlen, x.elen, x.cnt, x.received, x.flags, x.job))
    fun (armed, ctx, sh, fmt, cnten, window, wlen, elen, cnt, received, flags, job) =>
      { armed := armed, ctx := ctx, sh := sh, fmt := fmt, cnten := cnten, window := window, wlen := wlen, elen := elen, cnt := cnt, received := received,
        flags := flags, job := job }

def cWSlot : Codec WSlot :=
  (cNat.and <| cNat.and <| cBits).as
    (fun x => (x.state, x.code, x.body))
    fun (state, code, body) =>
      { state := state, code := code, body := body }

def cGroup : Codec Group :=
  (cNat.and <| cBits.and <| cNat.and <| cNat).as
    (fun x => (x.count, x.flags, x.code, x.cs))
    fun (count, flags, code, cs) =>
      { count := count, flags := flags, code := code, cs := cs }

def cMBar : Codec MBar :=
  (cGroup.and <| cGroup.and <| cBool.and <| cBits.and <| cNat.and <| cBits).as
    (fun x => (x.opn, x.arm, x.armed, x.phase, x.lastCode, x.lastFlags))
    fun (opn, arm, armed, phase, lastCode, lastFlags) =>
      { opn := opn, arm := arm, armed := armed, phase := phase, lastCode := lastCode, lastFlags := lastFlags }

def cMOp : Codec MOp :=
  (cBits.and <| cInstr.and <| (cOpt cNat).and <| cNat.and <| cBits.and <| cBool.and <| cBits.and <| cBits.and <| cBits.and <| cBits.and <|
    (cOpt cNat).and <| (cOpt cNat).and <| cBits.and <| cNat.and <| cNat.and <| cNat.and <| (cList (cNat.and cBits)).and <| (cList cBits).and <| cNat.and <|
    cBool.and <| cNat.and <| cNat.and <| cNat.and <| (cList cBits)).as
    (fun x => (x.raw, x.instr, x.target, x.entry, x.stat, x.armed, x.sa, x.sb, x.sc, x.aa, x.issued, x.done, x.flags, x.code, x.rank, x.seq, x.rows,
      x.bytes, x.r, x.half, x.slot, x.occ, x.vl, x.regs))
    fun (raw, instr, target, entry, stat, armed, sa, sb, sc, aa, issued, done, flags, code, rank, seq, rows, bytes, r, half, slot, occ, vl, regs) =>
      { raw := raw, instr := instr, target := target, entry := entry, stat := stat, armed := armed, sa := sa, sb := sb, sc := sc, aa := aa,
        issued := issued, done := done, flags := flags, code := code, rank := rank, seq := seq, rows := rows, bytes := bytes, r := r, half := half,
        slot := slot, occ := occ, vl := vl, regs := regs }

def cMatrix : Codec Matrix :=
  ((cList (cNat.and cBits)).and <| (cList (cNat.and cWSlot)).and <| (cList cMOp).and <| (cList cMOp).and <| (cVec cMBar).and <| cNat.and <| cNat.and <|
    (cVec cNat).and <| cNat.and <| cNat.and <| (cList cFin)).as
    (fun x => (x.tiles, x.slots, x.queue, x.active, x.bars, x.lastIssue, x.arrayFree, x.ports, x.haltCode, x.rank, x.ready))
    fun (tiles, slots, queue, active, bars, lastIssue, arrayFree, ports, haltCode, rank, ready) =>
      { tiles := tiles, slots := slots, queue := queue, active := active, bars := bars, lastIssue := lastIssue, arrayFree := arrayFree, ports := ports,
        haltCode := haltCode, rank := rank, ready := ready }

def cDelayed : Codec Delayed :=
  (cFin.and <| cFaultInfo).as
    (fun x => (x.reg, x.info))
    fun (reg, info) =>
      { reg := reg, info := info }

def cPend : Codec Pend :=
  (cBits.and <| cBits.and <| cBits.and <| cBits.and <| (cList cDelayed).and <| (cOpt (cNat.and cNat)).and <| (cOpt cNat).and <| (cList cFaultInfo).and <|
    cBool.and <| cNat.and <| cBool).as
    (fun x => (x.s, x.v, x.a, x.h, x.delayed, x.posted, x.trap, x.faults, x.preempt, x.fence, x.routine))
    fun (s, v, a, h, delayed, posted, trap, faults, preempt, fence, routine) =>
      { s := s, v := v, a := a, h := h, delayed := delayed, posted := posted, trap := trap, faults := faults, preempt := preempt, fence := fence,
        routine := routine }

def cBundle : Codec Bundle :=
  (cBool.and <| cBool.and <| cNat.and <| cNat.and <| cNat.and <| cNat.and <| (cList cNat).and <| (cList cNat)).as
    (fun x => (x.v, x.full, x.version, x.name, x.manifest, x.key, x.members, x.vas))
    fun (v, full, version, name, manifest, key, members, vas) =>
      { v := v, full := full, version := version, name := name, manifest := manifest, key := key, members := members, vas := vas }

def cView : Codec View :=
  (cBool.and <| cBool.and <| cBool.and <| cScope.and <| (cList (cNat.and cNat)).and <| (cList cNat)).as
    (fun x => (x.v, x.expired, x.overflow, x.scope, x.vers, x.lines))
    fun (v, expired, overflow, scope, vers, lines) =>
      { v := v, expired := expired, overflow := overflow, scope := scope, vers := vers, lines := lines }

def cCont : Codec Cont :=
  (cNat.and <| (cVec cBits).and <| cInstr.and <| cNat.and <| cBits.and <| cBits).as
    (fun x => (x.tgt, x.m, x.instr, x.vl, x.tag, x.stat))
    fun (tgt, m, instr, vl, tag, stat) =>
      { tgt := tgt, m := m, instr := instr, vl := vl, tag := tag, stat := stat }

def cMicroUnit : Codec MicroUnit :=
  (cBool.and <| cBool.and <| cBool.and <| cNat.and <| cNat.and <| cNat.and <| cNat.and <| cBits.and <| cNat.and <| cNat.and <| cNat.and <|
    (cVec cBits).and <| cInstr.and <| cBits.and <| (cOpt cNat).and <| cBits.and <| cBits.and <| cBits.and <| cBits.and <| cBool.and <| cBool.and <|
    cBool.and <| cBool.and <| cNat.and <| cBits.and <| cBits.and <| (cList (cNat.and (cNat.and cBool))).and <| cBits.and <| cBits.and <| cBits.and <|
    (cOpt ((cOpt cBits).and (cFmt.and cNat))).and <| cBits.and <| (cList cRegRef).and <| (cOpt cNat)).as
    (fun x => (x.v, x.halt, x.ten, x.code, x.cause, x.tstg, x.tlvl, x.faddr, x.steps, x.bound, x.mpc, x.m, x.instr, x.tag, x.bank, x.opd, x.opa, x.opb,
      x.opc, x.wopd, x.wopa, x.wopb, x.wopc, x.vl, x.stat, x.ea, x.held, x.flags, x.ain, x.bin, x.bsl, x.banken, x.idle, x.last))
    fun (v, halt, ten, code, cause, tstg, tlvl, faddr, steps, bound, mpc, m, instr, tag, bank, opd, opa, opb, opc, wopd, wopa, wopb, wopc, vl, stat, ea,
      held, flags, ain, bin, bsl, banken, idle, last) =>
      { v := v, halt := halt, ten := ten, code := code, cause := cause, tstg := tstg, tlvl := tlvl, faddr := faddr, steps := steps, bound := bound,
        mpc := mpc, m := m, instr := instr, tag := tag, bank := bank, opd := opd, opa := opa, opb := opb, opc := opc, wopd := wopd, wopa := wopa,
        wopb := wopb, wopc := wopc, vl := vl, stat := stat, ea := ea, held := held, flags := flags, ain := ain, bin := bin, bsl := bsl, banken := banken,
        idle := idle, last := last }

def cRegs : Codec Regs :=
  (cNat.and <| (cVec cBits).and <| (cVec cBits).and <| (cVec cBool).and <| (cVec cBits)).as
    (fun x => (x.pc, x.s, x.a, x.g, x.v))
    fun (pc, s, a, g, v) =>
      { pc := pc, s := s, a := a, g := g, v := v }

def cSpec : Codec Spec :=
  (cNat.and <| cBits.and <| cBits.and <| cBits.and <| cBits.and <| cBits.and <| cBits.and <| (cVec cBits).and <| cBits).as
    (fun x => (x.vl, x.stat, x.tcb, x.sb, x.stkb, x.stkl, x.seed, x.gens, x.chk))
    fun (vl, stat, tcb, sb, stkb, stkl, seed, gens, chk) =>
      { vl := vl, stat := stat, tcb := tcb, sb := sb, stkb := stkb, stkl := stkl, seed := seed, gens := gens, chk := chk }

def cRing : Codec Ring :=
  (cBool.and <| cNat.and <| cBits.and <| cBits.and <| cNat.and <| cBool.and <| cBool.and <| cNat.and <| cNat).as
    (fun x => (x.v, x.space, x.prod, x.cons, x.log2sz, x.hc, x.hw, x.hk, x.base))
    fun (v, space, prod, cons, log2sz, hc, hw, hk, base) =>
      { v := v, space := space, prod := prod, cons := cons, log2sz := log2sz, hc := hc, hw := hw, hk := hk, base := base }

def cHandle : Codec Handle :=
  (cBool.and <| cNat.and <| cNat.and <| cNat.and <| (cList cBits)).as
    (fun x => (x.v, x.dstpkg, x.len, x.gen, x.hops))
    fun (v, dstpkg, len, gen, hops) =>
      { v := v, dstpkg := dstpkg, len := len, gen := gen, hops := hops }

def cLanding : Codec Landing :=
  (cNat.and <| cNat.and <| cBits.and <| cLandTo).as
    (fun x => (x.left, x.seq, x.flags, x.dst))
    fun (left, seq, flags, dst) =>
      { left := left, seq := seq, flags := flags, dst := dst }

def cTiming : Codec Timing :=
  (cNat.and <| cNat.and <| cNat.and <| cNat.and <| cNat.and <| (cOpt cNat).and <| cNat.and <| cBool.and <| (cOpt cNat).and <| cBool.and <|
    (cOpt cNat).and <| cBool.and <| (cOpt (cNat.and cBool)).and <| (cOpt cInstr).and <| (cOpt (cBits.and cBool)).and <| (cOpt cBits).and <| cBits.and <|
    cBits.and <| cNat.and <| cBits.and <| cBits.and <| cBits.and <| cBits).as
    (fun x => (x.spc, x.owed, x.laneBusy, x.seq, x.laneSeq, x.stopped, x.turnUsed, x.started, x.waitFrom, x.timedOut, x.safe, x.yields, x.safeWait,
      x.halting, x.waitLoad, x.stackAt, x.statSince, x.statNow, x.statAt, x.evlSince, x.shownS, x.shownV, x.shownHalt))
    fun (spc, owed, laneBusy, seq, laneSeq, stopped, turnUsed, started, waitFrom, timedOut, safe, yields, safeWait, halting, waitLoad, stackAt, statSince,
      statNow, statAt, evlSince, shownS, shownV, shownHalt) =>
      { spc := spc, owed := owed, laneBusy := laneBusy, seq := seq, laneSeq := laneSeq, stopped := stopped, turnUsed := turnUsed, started := started,
        waitFrom := waitFrom, timedOut := timedOut, safe := safe, yields := yields, safeWait := safeWait, halting := halting, waitLoad := waitLoad,
        stackAt := stackAt, statSince := statSince, statNow := statNow, statAt := statAt, evlSince := evlSince, shownS := shownS, shownV := shownV,
        shownHalt := shownHalt }

def cPlace : Codec Place :=
  (cNat.and <| cNat.and <| cNat.and <| cNat.and <| cNat.and <| cNat.and <| cNat.and <| cBits.and <| cBool.and <| cNat.and <| (cOpt cNat).and <| cBits.and <|
    cBits).as
    (fun x => (x.core, x.ctx, x.table, x.node, x.stage, x.slot, x.index, x.banks, x.mx, x.lkq, x.serves, x.frame, x.fpbase))
    fun (core, ctx, table, node, stage, slot, index, banks, mx, lkq, serves, frame, fpbase) =>
      { core := core, ctx := ctx, table := table, node := node, stage := stage, slot := slot, index := index, banks := banks, mx := mx, lkq := lkq,
        serves := serves, frame := frame, fpbase := fpbase }

def cShift : Codec Shift :=
  (cRegs.and <| cSpec.and <| (cList cLanding).and <| (cVec cRing).and <| (cVec cHandle).and <| cPend.and <| cBits.and <| cBundle.and <| cView.and <|
    (cList (cNat.and (cNat.and cNat))).and <| (cList cCont).and <| cMicroUnit.and <| cTiming.and <| cMatrix.and <| cImage.and <| cPlace).as
    (fun x => (x.regs, x.sp, x.landings, x.rings, x.handles, x.pend, x.evl, x.bundle, x.view, x.opt, x.conts, x.lane, x.tim, x.mx, x.img, x.place))
    fun (regs, sp, landings, rings, handles, pend, evl, bundle, view, opt, conts, lane, tim, mx, img, place) =>
      { regs := regs, sp := sp, landings := landings, rings := rings, handles := handles, pend := pend, evl := evl, bundle := bundle, view := view,
        opt := opt, conts := conts, lane := lane, tim := tim, mx := mx, img := img, place := place }

def cJob : Codec Job :=
  (cNat.and <| cNat.and <| cNat.and <| cNat.and <| cBits.and <| cInstr.and <| cBits.and <| cBits.and <| cBits.and <| cBits.and <| cBits.and <| cFin.and <|
    cNat.and <| (cList cFoot).and <| (cList cFoot).and <| cNat.and <| cNat.and <| cMicroUnit.and <| (cList cNat).and <| (cList (cBits.and cNat)).and <|
    cNat.and <| (cOpt (cNat.and cNat)).and <| (cOpt (cList cBits)).and <| (cVec cHandle).and <| cNat.and <| (cList (cNat.and cNat))).as
    (fun x => (x.id, x.sh, x.core, x.eng, x.raw, x.instr, x.desc, x.opi, x.opx, x.ea, x.src, x.tok, x.state, x.reads, x.writes, x.done, x.seq, x.unit,
      x.todo, x.best, x.count, x.cause, x.buf, x.handles, x.began, x.scans))
    fun (id, sh, core, eng, raw, instr, desc, opi, opx, ea, src, tok, state, reads, writes, done, seq, unit, todo, best, count, cause, buf, handles, began,
      scans) =>
      { id := id, sh := sh, core := core, eng := eng, raw := raw, instr := instr, desc := desc, opi := opi, opx := opx, ea := ea, src := src, tok := tok,
        state := state, reads := reads, writes := writes, done := done, seq := seq, unit := unit, todo := todo, best := best, count := count,
        cause := cause, buf := buf, handles := handles, began := began, scans := scans }

def cFrozen : Codec Frozen :=
  ((cList (cNat.and cShift)).and <| (cList cJob).and <| (cList (cNat.and cGTable)).and <| (cList cRingObj).and <| (cList (cNat.and (cNat.and cNat))).and <|
    cNat.and <| (cList (cNat.and cHQueue)).and <| (cList (cNat.and (cNat.and cPort)))).as
    (fun x => (x.shifts, x.jobs, x.tables, x.rings, x.manifests, x.opens, x.queues, x.ports))
    fun (shifts, jobs, tables, rings, manifests, opens, queues, ports) =>
      { shifts := shifts, jobs := jobs, tables := tables, rings := rings, manifests := manifests, opens := opens, queues := queues, ports := ports }

/-! ## Numbers as bytes -/

/-- The bytes that a number takes, without leading zeros; `fuel` bounds them. -/
def byteLen : Nat → Nat → Nat
  | 0, _ => 0
  | fuel + 1, n => if n = 0 then 0 else byteLen fuel (n / 256) + 1

/-- A number as its length in two bytes and its bytes. -/
def natBytes (n : Nat) : List Byte := let k := byteLen 1024 n; leBytes 2 k ++ leBytes k n

/-- The numbers of some bytes; `fuel` bounds how many. -/
def natsOf : Nat → List Byte → List Nat
  | 0, _ => []
  | fuel + 1, bs =>
    if bs.length < 2 then []
    else
      let k := ofLE (bs.take 2)
      ofLE ((bs.drop 2).take k) :: natsOf fuel (bs.drop (2 + k))

end Sys2Proof.Machine
end

