-- ==== Sys2Proof/Machine/HostSide.lean ====
section
/-!
DEFINITION. The host side (chapter 21): queue registers (R388 to R390), packets (R391 to R396), completions and interrupts (R397 to R400), and the
host's own accesses of device memory (R387).
-/
namespace Sys2Proof.Machine

/-! ## Queue registers (Table 21.1) -/

/-- FN of a queue. -/
def HQueue.fn (Q : HQueue) : Nat := wbits Q.cfg 48 7
/-- CTX of a queue. -/
def HQueue.ctx (Q : HQueue) : Nat := wbits Q.cfg 28 12
/-- The packet slots of a queue. -/
def HQueue.slots (Q : HQueue) : Nat := 2 ^ wbits Q.cfg 0 5
/-- The entries of a queue's completion ring. -/
def HQueue.entries (Q : HQueue) : Nat := 2 ^ wbits Q.cpl 0 5

/-- Whether the registers of a queue allow it to run (R389). -/
def State.queueMayRun (s : State) (Q : HQueue) (v : Word) : Bool :=
  let n := wbits v 0 5
  let c := wbits Q.cpl 0 5
  let fn := wbits v 48 7
  decide (6 ≤ n) && decide (n ≤ 20) && decide (6 ≤ c) && decide (c ≤ 20) && wbits (s.ctx (wbits v 28 12)).own 0 7 == fn &&
    (fn == 64 || (decide (fn < 64) && (s.func fn).vst == 1))

/-- A write of QCFG by the physical function (R389). -/
def State.writeQcfg (s : State) (q : Nat) (v : Word) : State :=
  let Q := s.queue q
  if wbits v 55 7 ≠ 0 ∨ wbits v 47 1 ≠ 0 ∨ wbits v 5 23 ≠ 0 then s.regErr
  else if Q.st = 0 then
    if !v.getLsbD 63 then s.modQueue q fun Q => { Q with cfg := v }
    else if s.queueMayRun Q v then
      s.modQueue q fun Q => { Q with cfg := v, head := 0, tail := 0, cwrite := 0, chead := 0, st := 1 }
    else s.regErr
  else if Q.cfg.getLsbD 63 ∧ v = Q.cfg &&& ~~~((1 : Word) <<< 63) then s.modQueue q fun Q => { Q with cfg := v, st := 3 }
  else s.regErr

/-- A write of QBASE (R389). -/
def State.writeQbase (s : State) (q : Nat) (v : Word) : State :=
  if wbits v 0 6 ≠ 0 ∨ (s.queue q).st ≠ 0 then s.regErr else s.modQueue q fun Q => { Q with base := v }

/-- A write of QCPL (R389). -/
def State.writeQcpl (s : State) (q : Nat) (v : Word) : State :=
  if wbits v 5 1 ≠ 0 ∨ (s.queue q).st ≠ 0 then s.regErr else s.modQueue q fun Q => { Q with cpl := v }

/-- A write of QTAIL (R390). -/
def State.writeQtail (s : State) (q : Nat) (v : Word) : State :=
  let Q := s.queue q
  let t : BitVec 32 := v.extractLsb' 0 32
  if wbits v 32 32 ≠ 0 ∨ s.mg.fwState ≠ 1 ∨ Q.st ≠ 1 ∨ Q.slots < (t - Q.head).toNat ∨ Q.slots < (t - Q.tail).toNat then s.regErr
  else s.modQueue q fun Q => { Q with tail := t }

/-- A write of QCHEAD: CWRITE is RO. -/
def State.writeQchead (s : State) (q : Nat) (v : Word) : State := s.modQueue q fun Q => { Q with chead := v.extractLsb' 0 32 }

/-- A write of QINT; the new value takes effect from the next completion entry (R389). -/
def State.writeQint (s : State) (q : Nat) (v : Word) : State :=
  if wbits v 43 20 ≠ 0 then s.regErr else s.modQueue q fun Q => { Q with int := v }

/-- Whether a function's window reaches a queue page (R385). -/
def State.reachesQueue (s : State) (fn q : Nat) : Bool := decide (q < 65536) && (fn == 64 || (decide (fn < 64) && (s.queue q).fn == fn))

/-- QCFG_ENABLE (R389). -/
def execQcfgEnable (fn q : Nat) (v : Word) (s : State) : Out := .next (if fn = 64 ∧ q < 65536 then s.writeQcfg q v else s.regErr)

/-- QCFG_DISABLE (R389). -/
def execQcfgDisable (fn q : Nat) (v : Word) (s : State) : Out := .next (if fn = 64 ∧ q < 65536 then s.writeQcfg q v else s.regErr)

/-- QTAIL_WRITE (R390). -/
def execQtailWrite (fn q : Nat) (v : Word) (s : State) : Out := .next (if s.reachesQueue fn q then s.writeQtail q v else s.regErr)

/-- QCHEAD_WRITE (R388). -/
def execQcheadWrite (fn q : Nat) (v : Word) (s : State) : Out := .next (if s.reachesQueue fn q then s.writeQchead q v else s.regErr)

/-- QUEUE_DRAIN_END (R389): no packet is outstanding and every completion has been written. -/
def execQueueDrainEnd (q : Nat) (s : State) : Out :=
  let Q := s.queue q
  .next (if Q.st = 3 ∧ Q.pkts.isEmpty ∧ Q.cpls.isEmpty then s.modQueue q fun Q => { Q with st := 0 } else s)

/-! ## Packets (R390 to R394) -/

/-- The packet at the head of a queue, as one image of its 64 bytes. -/
def State.headPacket (s : State) (Q : HQueue) : List Byte :=
  s.host.bytes (wbits Q.base 6 58 * 64 + 64 * (Q.head.toNat % Q.slots)) 64

/-- The bits of dword k that a packet of an opcode may set (Tables 21.2, 21.3); `list` for list mode. -/
def packetMask (op k : Nat) (list : Bool) : Nat :=
  let high : Nat := 0xFFFF_FFFF_0000_07FF
  let all : Nat := 2 ^ 64 - 1
  match op, k with
  | 1, 0 => if list then high + 0xF0_0000 else high
  | _, 0 => high
  | _, 1 => all
  | 1, 2 => 0xFF
  | 1, 3 => if list then all - 15 else 0
  | 2, 2 => 0xFFFF_FFFF_FF00_03FF
  | 3, 2 => 0xFFFF_FFFF_0001_FFFF
  | 3, 3 | 3, 4 => all
  | _, _ => 0

/-- The first byte of a list of dwords that has a bit outside its mask. -/
def firstBad (dw : List Nat) (mask : Nat → Nat) : Option Nat :=
  (upto 0 (8 * dw.length)).find? fun b => nbits ((dw[b / 8]?).getD 0) (8 * (b % 8)) 8 &&& (0xFF ^^^ nbits (mask (b / 8)) (8 * (b % 8)) 8) != 0

/-- The first byte of a field out of its range (R394): OP, LEN and ADIT. -/
def fieldBad (op : Nat) (d2 : Nat) : Option Nat :=
  match op with
  | 2 => if nbits d2 8 2 = 0 ∨ nbits d2 8 2 = 3 then some 17 else if nbits d2 24 40 = 0 then some 19 else none
  | 3 => if 36 ≤ nbits d2 8 6 then some 17 else none
  | _ => none

/-- The earlier of two bytes, where there is one (R398: the first byte that is refused). -/
def earliest (a b : Option Nat) : Option Nat :=
  match a, b with
  | some m, some n => some (min m n)
  | none, b => b
  | a, none => a

/-- The buffer entries of a list-mode LAUNCH: address, length and mode; or the first byte that is refused (R393). -/
def bufEntries (bs : List Byte) (n : Nat) : Except Nat (List (Nat × Nat × Nat)) :=
  let dw := (upto 0 (2 * n)).map (dwordAt bs)
  let es := (upto 0 n).map fun k =>
    let d := (dw[2 * k + 1]?).getD 0
    ((dw[2 * k]?).getD 0 + nbits d 0 8 * 2 ^ 64, nbits d 24 40, nbits d 8 2)
  let reserved := firstBad dw fun k => if k % 2 = 0 then 2 ^ 64 - 1 else 0xFFFF_FFFF_FF00_03FF
  match earliest reserved ((es.findIdx? fun e => e.2.1 == 0).map fun k => 16 * k + 11) with
  | some b => .error (64 + b)
  | none => .ok es

/-- What the hewer finds in a packet (R394): its buffers, or the status and detail of its rejection. -/
def State.checkPacket (s : State) (list : Bool) (bs : List Byte) (readable : Bool) : Except (Nat × Nat) (List (Nat × Nat × Nat)) :=
  let dw := (upto 0 8).map (dwordAt bs)
  let d (k : Nat) : Nat := (dw[k]?).getD 0
  let op := nbits (d 0) 0 8
  let va := d 1 + nbits (d 2) 0 8 * 2 ^ 64
  if op = 0 ∨ 3 < op then .error (0x10, 0)
  else match earliest (firstBad dw fun k => packetMask op k list) (fieldBad op (d 2)) with
    | some b => .error (0x11, b)
    | none =>
      match op with
      | 1 =>
        let n := nbits (d 0) 20 4
        if n = 0 then .ok []
        else if !readable then .error (0x12, 0)
        else match bufEntries (s.host.bytes (d 3) (16 * n)) n with
          | .error b => .error (0x11, b)
          | .ok es => .ok es
      | 2 => .ok [(va, nbits (d 2) 24 40, if nbits (d 2) 8 2 = 2 then 2 else 1)]
      | _ => .ok [(va, nbits (d 2) 32 32, if nbit (d 2) 16 then 2 else 1)]

/-- Whether a hewer may read the next packet of a queue (R389, R390, R427): a hewer is in service, and the context is not under a freeze. -/
def State.parseReady (s : State) (Q : HQueue) : Bool :=
  Q.st == 1 && Q.head != Q.tail && s.mg.hewers != 0 && (s.ctx Q.ctx).frzState == 0

/-- The priority of a queue (Table 21.1). -/
def HQueue.prio (Q : HQueue) : Nat := wbits Q.cfg 40 7

/-- How many queue numbers lie between a queue and the one last served at its priority. -/
def State.queueTurn (s : State) (q : Nat × HQueue) : Nat :=
  match NMap.get? s.mg.served q.2.prio with
  | none => q.1
  | some last => (q.1 + 65535 - last) % 65536

/-- Whether the hewers serve one queue before another: decreasing PRIO, and round robin among queues of equal PRIO (R391). -/
def State.queueFirst (s : State) (a b : Nat × HQueue) : Bool :=
  decide (b.2.prio < a.2.prio) || (a.2.prio == b.2.prio && decide (s.queueTurn a < s.queueTurn b))

/-- A queue served. -/
def State.noteServed (s : State) (q : Nat) : State := s.modMg fun g => { g with served := NMap.set g.served (s.queue q).prio q }

/-- Whether a queue's next packet is read now (R391): no queue with a pending packet goes before it. -/
def State.parseTurn (s : State) (q : Nat) : Bool :=
  s.parseReady (s.queue q) && !s.queues.any fun r => r.1 != q && s.parseReady r.2 && s.queueFirst r (q, s.queue q)

/-- PACKET_PARSE (R391, R394): the packet at HEAD accepted, or rejected whole with the queue stopped. `readable` says whether the host's buffer entries
could be read. -/
def execPacketParse (q : Nat) (readable : Bool) (s : State) : Out :=
  let Q := s.queue q
  if !s.parseTurn q then .next s
  else
    let bs := s.headPacket Q
    let dw : List Word := (upto 0 8).map fun k => w64 (dwordAt bs k)
    let hd := dwordAt bs 0
    match s.checkPacket (!Q.cfg.getLsbD 62) bs readable with
    | .ok bufs =>
      let p : Pkt := { idx := Q.head.toNat, dw := dw, bufs := bufs, started := false, table := none, moved := none }
      .next ((s.noteServed q).modQueue q fun Q => { Q with head := Q.head + 1, pkts := Q.pkts ++ [p] })
    | .error (st, d) =>
      let c : Cpl := { tag := w64 (nbits hd 32 32), status := st, detail := w64 d, irq := nbit hd 9, write := true }
      .next ((s.noteServed q).modQueue q fun Q => { Q with st := 2, errst := st, cpls := Q.cpls ++ [c] })

/-! ## Order of packets (R392, R395, R396) -/

/-- Whether two packets have overlapping buffers with OUT or INOUT on either side (R395). -/
def Pkt.conflicts (a b : Pkt) : Bool :=
  a.bufs.any fun x => b.bufs.any fun y =>
    (decide (2 ≤ x.2.2) || decide (2 ≤ y.2.2)) && decide (x.1 < y.1 + y.2.1) && decide (y.1 < x.1 + x.2.1)

/-- Whether an accepted packet may start now. -/
def State.startReady (s : State) (Q : HQueue) (p : Pkt) : Bool :=
  let earlier := Q.pkts.takeWhile fun e => e.idx != p.idx
  !p.started && (s.ctx Q.ctx).frzState == 0 && (!nbit p.hd 10 || (earlier.isEmpty && Q.cpls.isEmpty)) &&
    earlier.all fun e => (e.started || !nbit e.hd 10) && (Q.cfg.getLsbD 62 || !p.conflicts e)

/-- PACKET_START (R395). -/
def execPacketStart (q idx : Nat) (s : State) : Out :=
  let Q := s.queue q
  match Q.pkts.find? fun p => p.idx == idx with
  | none => .next s
  | some p =>
    .next (if s.startReady Q p then
      s.modQueue q fun Q => { Q with pkts := Q.pkts.map fun (x : Pkt) => if x.idx = idx then { x with started := true } else x }
    else s)

/-- The translations of a range, page by page: the state with their entries used, or the first fault. -/
def State.walkRange (s : State) (ctx : Nat) : Nat → Nat → Nat → Except FaultInfo State
  | 0, _, _ => .ok s
  | fuel + 1, va, n =>
    if n = 0 then .ok s
    else if 2 ^ 72 ≤ va then .error (({ cause := 9, stage := 1, level := 5 } : WalkFault).info 0 va)
    else match s.translate partUnit ctx va false false with
      | .error f => .error (f.info 0 va)
      | .ok e =>
        let k := min n (max 1 (e.va + e.size - va))
        (s.useEntry e va false).walkRange ctx fuel (va + k) (n - k)

/-- CMO (R393): WB writes the dirty cached lines of its range back to their homes, INV does so and drops every cached copy; a range of which a page does not
translate fails before any of it is written. -/
def execCmo (q idx : Nat) (s : State) : Out :=
  let Q := s.queue q
  match Q.pkts.find? fun p => p.idx == idx with
  | none => .next s
  | some p =>
    if nbits p.hd 0 8 ≠ 2 ∨ !p.started ∨ (s.ctx Q.ctx).frzState ≠ 0 then .next s
    else
      let b := p.bufs.headD (0, 0, 0)
      match s.walkRange Q.ctx (b.2.1 / 4096 + 2) b.1 b.2.1 with
      | .error f => .next (s.finishPkt q idx 2 (f.code * 256 + tokenCause f * 65536))
      | .ok t =>
        let inv := nbits ((p.dw[2]?).getD 0).toNat 8 2 == 2
        .next ((t.cacheRange inv Q.ctx (b.2.1 / 4096 + 2) b.1 b.2.1).finishPkt q idx 0 0)

/-! ## Completions and interrupts (R397 to R400) -/

/-- The message of a vector written to the host, or kept while the vector is masked (R385; log 96). -/
def State.msixSend (s : State) (fn vec : Nat) : State :=
  match NMap.get? (s.func fn).msix vec with
  | none => s
  | some m =>
    if m.masked then s.modFunc fn fun f => { f with msix := NMap.set f.msix vec { m with pending := true } }
    else { s with host := s.host.put m.addr.toNat (leBytes 4 m.data.toNat) }

/-- A vector of a function's MSI-X table set by the host: one that waits is sent as it is unmasked (R385; log 96). -/
def State.setMsix (s : State) (fn vec : Nat) (addr : Word) (data : BitVec 32) (masked : Bool) : State :=
  if 64 < fn ∨ 2048 ≤ vec then s
  else
    let waits := ((NMap.get? (s.func fn).msix vec).map (·.pending)).getD false
    let t := s.modFunc fn fun f => { f with msix := NMap.set f.msix vec { addr := addr, data := data, masked := masked, pending := waits && masked } }
    if waits && !masked then t.msixSend fn vec else t

/-- The interrupt of a queue sent (R385, R400): the message covers every entry of its cycle, those written later in it too. -/
def State.sendIrq (s : State) (q : Nat) : State :=
  let Q := s.queue q
  { s.modQueue q (fun Q => { Q with counted := 0, oldest := none, sent := some s.dcc }) with
    irqs := s.irqs ++ [(Q.fn, wbits Q.live 32 11)] }.msixSend Q.fn (wbits Q.live 32 11)

/-- Whether writes of ended shifts, or of the part itself (R222), are still on their way, which a completion follows (R397). -/
def State.strayWrites (s : State) : Bool :=
  (s.msgs.any fun m => match m with
    | .req r => r.op.writes && r.sh.isNone
    | .own _ _ _ _ _ => true
    | _ => false) || s.straying fun _ => true

/-- The 16 bytes of a completion entry (R398). -/
def cplBytes (c : Cpl) (phase : Bool) : List Byte := leBytes 8 (c.tag.toNat * 2 ^ 32 + c.status * 256 + bnat phase) ++ leBytes 8 c.detail.toNat

/-- COMPLETION_WRITE (R399, R400): the oldest completion of a queue that waits, once its ring has room; its interrupt where the count is reached, the
packet asks for one, or its status is 0x02 or more. -/
def execCompletionWrite (q : Nat) (s : State) : Out :=
  let Q := s.queue q
  match Q.cpls with
  | [] => .next s
  | c :: rest =>
    if Q.entries ≤ (Q.cwrite - Q.chead).toNat ∨ s.strayWrites then .next s
    else
      let n := Q.cwrite.toNat
      let at_ := wbits Q.cpl 6 58 * 64 + 16 * (n % Q.entries)
      let ien := Q.int.getLsbD 63
      -- an entry written in the cycle of a message is covered by it (R400)
      let covered := Q.sent == some s.dcc
      let count := if ien && !covered then Q.counted + 1 else 0
      let t := { s with host := s.host.put at_ (cplBytes c (n / Q.entries % 2 == 0)) }.modQueue q fun Q =>
        { Q with cpls := rest, cwrite := Q.cwrite + 1, live := Q.int, counted := count,
                 oldest := if ien && !covered then some (Q.oldest.getD s.dcc) else none }
      .next (if ien ∧ !covered ∧ (max 1 (wbits Q.int 0 16) ≤ count ∨ c.irq ∨ 2 ≤ c.status) then t.sendIrq q else t)

/-- INTERRUPT_TIMER (R400). -/
def execInterruptTimer (q : Nat) (s : State) : Out :=
  let Q := s.queue q
  match Q.oldest with
  | none => .next s
  | some d =>
    let time := wbits Q.live 16 16
    .next (if Q.live.getLsbD 63 ∧ 0 < Q.counted ∧ time ≠ 0 ∧ d + time * 1024 ≤ s.dcc then s.sendIrq q else s)

/-! ## The host's accesses of device memory (R387) -/

/-- The key of a function's accesses. -/
def State.hostKey (s : State) (fn : Nat) : Nat := wbits (s.func fn).hkey 0 8

/-- A run of device memory cut at lines. -/
def linesOf (pa n : Nat) : List (Nat × Nat) :=
  (upto 0 (n / 128 + 2)).filterMap fun k =>
    let a := max pa ((pa / 128 + k) * 128)
    let b := min (pa + n) ((pa / 128 + k + 1) * 128)
    if a < b then some (a, b - a) else none

/-- What memory at a line's home holds, for the PCIe path: of a line that a device cache holds, the bytes behind it (R385, R397). -/
def State.behind (s : State) (pa : Nat) (r : List Byte × Bool × Bool) : List Byte × Bool × Bool :=
  match NMap.get? s.cache (pa / 128) with
  | some h => if r.2.2 then r else ((h.home.drop (pa % 128)).take r.1.length, r.2)
  | none => r

/-- Device memory read by the host: its bytes in `replies`, or an empty reply where a line is poisoned. -/
def State.hostRead (s : State) (pcie : Bool) (fn pa n : Nat) : State :=
  let dev := if fn < 64 then some fn else none
  let parts := (linesOf pa n).map fun l =>
    let r := s.homeRead (.glob l.1 (s.hostKey fn)) l.2
    if pcie then s.behind l.1 r else r
  let t := parts.foldl (fun (t : State) p => if p.2.2 then t.kmiss dev else t) s
  { t with replies := t.replies ++ [if parts.any (·.2.1) then [] else parts.flatMap (·.1)] }

/-- A piece of one line written by the host. Over the PCIe path it goes to memory at the line's home, behind a device cache that holds the line under the same
key (R385, R396; log 60); a line that cannot take it so leaves its cache first. -/
def State.hostWrite (s : State) (pcie : Bool) (fn : Nat) (pa : Nat) (piece : List Byte) : State :=
  let h : Home := .glob pa (s.hostKey fn)
  let u := s.deadKey h (if fn < 64 then some fn else none)
  let wait := u.pendLine (pa / 128) || ownAhead u.msgs pa || u.collapsing pa
  match NMap.get? u.cache (pa / 128) with
  | some c =>
    if pcie && !wait && (u.line (pa / 128)).tag == s.hostKey fn && u.keyLive (s.hostKey fn) && !u.retiredAt pa && !u.windowShut pa then
      let m := byteMask (pa % 128) piece.length
      { u with cache := NMap.set u.cache (pa / 128) { home := mergeLine m (zeros (pa % 128) ++ piece) c.home, dirty := c.dirty &&& ~~~m } }
    else
      let u := u.cacheBack true (pa / 128)
      if wait then u.post (.own pa (some (s.hostKey fn)) .put piece none) else u.storeAt h piece
  | none => if wait then u.post (.own pa (some (s.hostKey fn)) .put piece none) else u.storeAt h piece

/-- HOST_MEMORY_ACCESS (R385, R387): an access under the key of the function's HKEY, over CXL.mem at `.sys` or over the PCIe memory path; a write under a
pending version, in a page that is being made single or behind a held write of its line waits as a write of that line (R222, R347). -/
def execHostMemoryAccess (by_ : HostPath) (pa : Nat) (len : Nat) (write : Option (List Byte)) (s : State) : Out :=
  if 64 < by_.fn then .next s
  else match write with
    | none => .next (s.hostRead by_.pcie by_.fn pa len)
    | some bs => .next ((linesOf pa bs.length).foldl (fun (t : State) l => t.hostWrite by_.pcie by_.fn l.1 ((bs.drop (l.1 - pa)).take l.2)) s)

end Sys2Proof.Machine
end

