-- ==== Sys2Proof/Machine/FreezeImage.lean ====
section
/-!
DEFINITION. The freeze image (R428, R437): what a freeze writes (Tables 27.3, 27.7, 27.8), and what a thaw reads of its parts.
-/
namespace Sys2Proof.Machine

/-! ## Writing -/

/-- The shifts of a context with their numbers: faulting shifts and their handlers each have a record (R427). -/
def State.ctxShifts (s : State) (ctx : Nat) : List (Nat × Shift) := s.shifts.filter fun e => e.2.place.ctx == ctx

/-- The tables of a context. -/
def State.ctxTables (s : State) (ctx : Nat) : List (Nat × GTable) := s.tables.filter fun t => t.2.ctx == ctx

/-- The queues of a context that are not OFF. -/
def State.ctxQueues (s : State) (ctx : Nat) : List (Nat × HQueue) := s.queues.filter fun q => q.2.ctx == ctx && q.2.st != 0

/-- A queue record, 64 bytes. -/
def queueRecord (q : Nat) (Q : HQueue) : List Byte :=
  dwords [fields [(16, Q.atFreeze), (0, q % 65536)], Q.cfg.toNat, Q.base.toNat, Q.cpl.toNat, Q.int.toNat, Q.tail.toNat * 2 ^ 32 + Q.head.toNat,
    Q.chead.toNat * 2 ^ 32 + Q.cwrite.toNat, 0]

/-- A resident copy of a graph table, with dword 1 of each node entry as the dispatcher holds it. -/
def GTable.copy (T : GTable) : List Nat :=
  (T.nodes.zip (upto 0 T.nodes.length)).foldl (fun (l : List Nat) p => setAt l (9 + 32 * p.2) p.1.dword1) (T.bytes.map (·.toNat))

/-- A graph-section entry (Table 27.8). -/
def GTable.entry (T : GTable) : List Byte :=
  dwords ([fields [(32, T.edges.length % 65536), (0, T.dword 16 % 2 ^ 32)], T.addr.toNat % 2 ^ 64, T.addr.toNat / 2 ^ 64, 0] ++ T.copy ++
    T.edges.map fun e => fields [(16, e.2.2 % 4096), (0, e.2.1 % 4096)])

/-- Receive port n of a core for a context, as recorded (Table 27.7). -/
def State.portRecord (s : State) (core ctx n : Nat) : List Byte :=
  match NMap.get? (s.core core).ports n with
  | none => zeros 32
  | some p =>
    if !p.armed ∨ p.ctx ≠ ctx then zeros 32
    else
      let f := match p.fmt with | .f32 => 0 | .bf16 => 1 | .s32 => 2 | .put => 3
      dwords [fields [(63, 1), (58, bnat p.cnten), (56, f), (0, p.wlen % 2 ^ 20)], fields [(44, p.cnt % 2 ^ 20), (0, p.window % 2 ^ 20)],
        p.elen % 2 ^ 24, p.received % 2 ^ 24]

/-- The placement block of a shift record (Table 27.7). -/
def State.placement (s : State) (ctx i : Nat) (x : Shift) : List Byte :=
  let core := i / 8
  let pos {α : Type} (l : List (Nat × α)) (k : Nat) : Nat := (l.findIdx? fun e => e.1 == k).getD 0xFFFF
  let u := ((s.placedOf i).map (·.unum)).getD 0
  let hof := match x.place.serves with | some b => pos (s.ctxShifts ctx) b | none => 0xFFFF
  let ctag := match NMap.get? s.links (core / 8) with | some l => if l.users.contains (x.place.table, x.place.node) then l.tag.toNat else 0 | none => 0
  padTo 0x100 (dwords [fields [(56, core / 8), (48, core % 8), (40, pos (s.ctxTables ctx) x.place.table), (16, x.place.node), (0, x.place.stage)],
    fields [(48, hof), (32, u), (0, x.place.index)], x.place.banks.toNat, ((x.img.binds.head?).map (·.tag.toNat)).getD 0, ctag]) ++
  (upto 0 16).flatMap (s.portRecord core ctx)

/-- The bytes of a PAD bank of a shift: those kept for it while it is switched out (R251). -/
def State.bankBytes (s : State) (i b : Nat) : List Byte :=
  match (s.placedOf i).bind fun p => p.saved.find? fun e => e.1 == b with
  | some e => e.2
  | none => s.pad.bytes (padKey (i / 8) (0x8000 * b)) 0x8000

/-- A shift record of 4 MiB, whose frame lists the faults pending at its boundary (R366, R256), the number of a pending TRAP, and its running jobs as stopped
(R427). The manual gives no layout of the slot states: one byte for each slot holds its state and, when FAILED, its code (log 25). -/
def State.shiftRecord (s : State) (ctx i : Nat) (x : Shift) : List Byte :=
  let p := s.pendShown i x
  let core := i / 8
  let slots := upto 0 16384
  let slot (k : Nat) : WSlot := x.mx.wslot (decide (8192 ≤ k)) k
  let shown : Shift := { x with pend := { x.pend with faults := s.pendingFaults i x } }
  let jobs := (s.jobs.filter fun j => j.sh == i && decide (j.state < 4)).map fun (j : Job) => if j.state = 2 then { j with state := 3 } else j
  let stop := x.tim.stopped.getD s.dcc
  padTo 0x40000 (frameBytes shown { code := 0, num := x.pend.trap.getD 0 } jobs stop p.1 p.2 stop s.free) ++
  s.lane.bytes (laneKey core 0 0) 0x40000 ++
  (upto 0 512).flatMap (fun r => leBytes 512 (NMap.getD x.mx.tiles r (0 : TileRow)).toNat) ++
  padTo 0x40000 (slots.map fun k => BitVec.ofNat 8 ((slot k).state + 4 * (slot k).code)) ++
  slots.flatMap (fun k => leBytes 64 (slot k).body.toNat) ++
  (upto 0 32).flatMap (fun b => if x.place.banks.getLsbD b then s.bankBytes i b else zeros 0x8000) ++
  padTo 0x100000 (s.placement ctx i x)

/-- A run of CREW or CHIP bytes: its space, its crew or die, its offset and its length. -/
abbrev SharedRun := Space × Nat × Nat × Nat

/-- A node with its images, read again where the dispatcher holds none; none where they do not pass the checks. -/
def State.withImages (s : State) (T : GTable) (n : Node) : Option Node :=
  if n.kind ≠ 0 then none else if n.images = [] then (s.checkNode T n).toOption else some n

/-- The CREW and CHIP bytes that the footprints and ring declarations of a node cover, over every stage index and crew of its CREWMASK. -/
def GTable.nodeRuns (T : GTable) (n : Node) : List SharedRun :=
  let shared (sp : Space) : Bool := sp == .crew || sp == .chip
  (n.slots.flatMap fun p => ((n.feetOf p.1 p.2.1 0).filter fun f => shared f.space).flatMap fun f =>
    (upto 0 f.rows).map fun (r : Nat) => (f.space, spDom f.space (8 * p.2.2), (f.base + (r : Int) * f.rstride).toNat, f.len)) ++
  ((T.ringDecls n).filter fun d => shared (spaceOfNum d.1)).flatMap fun d => (crewsOf n.crewMask).map fun c =>
    (spaceOfNum d.1, spDom (spaceOfNum d.1) (8 * c), d.2.2.2.1, 0x80 + (d.2.1 + 1) * 2 ^ d.2.2.1)

/-- The CREW and CHIP bytes that the footprints and ring declarations of a context's nodes cover. -/
def State.sharedRuns (s : State) (ctx : Nat) : List SharedRun :=
  ((s.ctxTables ctx).flatMap fun t => t.2.nodes.flatMap fun n => match s.withImages t.2 n with | none => [] | some y => t.2.nodeRuns y).eraseDups

/-- A shift without what its record's own sections hold, and no more asked to stop. -/
def Shift.slim (x : Shift) : Shift :=
  { x with mx := { x.mx with tiles := [], slots := [] }, pend := { x.pend with preempt := false } }

/-- A placement without the bytes that its record's PAD section holds. -/
def Placed.slim (p : Placed) : Placed := { p with saved := [] }

/-- The state of a context that its image holds. -/
def State.frzCopy (s : State) (ctx : Nat) : Frozen :=
  let shs := s.ctxShifts ctx
  let mine (i : Nat) : Bool := shs.any fun e => e.1 == i
  let tabs := s.ctxTables ctx
  let ours (t : Nat) : Bool := tabs.any fun e => e.1 == t
  { shifts := shs.map fun (e : Nat × Shift) => (e.1, e.2.slim),
    jobs := s.jobs.filter fun j => mine j.sh,
    tables := tabs.map fun (t : Nat × GTable) =>
      (t.1, { t.2 with nodes := t.2.nodes.map fun (n : Node) => { n with placed := n.placed.map Placed.slim } }),
    rings := s.rings.filter fun (r : RingObj) => ours r.table, manifests := s.manifests.filter fun m => ours m.2.1, opens := NMap.getD s.opens ctx 0,
    queues := s.ctxQueues ctx,
    ports := s.cores.flatMap fun c => (c.2.ports.filter fun p => p.2.armed && p.2.ctx == ctx).map fun p => (c.1, p.1, p.2) }

/-- A run of the shared section: its length, domain and space, its offset, and its bytes up to a multiple of 8. -/
def runBytes (space dom off : Nat) (bs : List Byte) : List Byte :=
  dwords [fields [(32, bs.length), (8, dom), (0, space)], off] ++ padTo ((bs.length + 7) / 8 * 8) bs

/-- The space number of the last run, which holds no space's bytes but what a thaw needs beside the sections of Tables 19.3 and 27.3 (R428; log 25). -/
abbrev keptRun : Nat := 0xFF

/-- The shared section of an image: the runs, and what no other section holds. -/
def State.sharedSection (s : State) (ctx : Nat) : List Byte :=
  ((s.sharedRuns ctx).flatMap fun r => let m := s.spaceMem r.1 r.2.1; runBytes (spNum r.1) r.2.1 r.2.2.1 (m.1.bytes (m.2 + r.2.2.1) r.2.2.2)) ++
  runBytes keptRun 0 0 ((cFrozen.put (s.frzCopy ctx)).flatMap natBytes)

/-- The bytes that DIGEST covers: all but DIGEST itself, the QNUM fields and the crew fields (R428). -/
def digestBytes (bs : List Byte) (nq nsh : Nat) : List Byte :=
  let cut (l : List Byte) (a n : Nat) : List Byte := l.take a ++ l.drop (a + n)
  let crews := (upto 0 nsh).reverse.foldl (fun (l : List Byte) j => cut l (0x40000 + 0x400000 * j + 0x300007) 1) bs
  let qs := (upto 0 nq).reverse.foldl (fun (l : List Byte) r => cut l (0x1000 + 64 * r) 2) crews
  cut qs 0x40 32

/-- The freeze image of a context, without its digest. -/
def State.imageBody (s : State) (ctx : Nat) : List Byte :=
  let shs := s.ctxShifts ctx
  let qs := s.ctxQueues ctx
  let ts := s.ctxTables ctx
  let shared := s.sharedSection ctx
  padTo 0x1000 (dwords [fields [(32, 0x465A524E), (16, shs.length), (0, qs.length)], fields [(32, shared.length), (16, ts.length), (0, ctx)], s.dcc % 2 ^ 64]) ++
  padTo 0x1000 (qs.flatMap fun q => queueRecord q.1 q.2) ++ padTo 0x3E000 (ts.flatMap fun t => t.2.entry) ++
  shs.flatMap (fun e => s.shiftRecord ctx e.1 e.2) ++ shared

/-- An image with its digest in place. -/
def sealImage (bs : List Byte) (nq nsh : Nat) : List Byte := bs.take 0x40 ++ sha256 (digestBytes bs nq nsh) ++ bs.drop 0x60

/-! ## Reading an image -/

/-- A cycle of the package that froze as one of the package that thaws, d later. -/
def moved (d : Int) (t : Nat) : Nat := ((t : Int) + d).toNat

/-- A shift that stopped at p, as one that stopped at q: SB and matrix time move with it, so that its resume moves them on (R151). -/
def Shift.rebase (x : Shift) (p q : Nat) : Shift :=
  let d : Int := (q : Int) - p
  { x with
    sp := { x.sp with sb := x.sp.sb + BitVec.ofInt 64 d },
    mx := x.mx.mapTimes (moved d),
    lane := { x.lane with last := none },
    tim := { x.tim with stopped := x.tim.stopped.map fun _ => q, statAt := moved d x.tim.statAt } }

/-- A job on a part whose DCC is q: no step of this cycle, and its scan units' waits begin anew. -/
def Job.rebase (j : Job) (q : Nat) : Job := { j with unit := { j.unit with last := none }, began := q, scans := [] }

/-- A table's cycles moved. -/
def GTable.rebase (T : GTable) (d : Int) : GTable :=
  { T with
    nodes := T.nodes.map fun (n : Node) => { n with ready := moved d n.ready },
    windows := T.windows.map fun w => (w.1, moved d w.2),
    moves := T.moves.map fun (m : Move2) => { m with until_ := moved d m.until_ } }

/-- A ring register of its dword (Table 10.7). -/
def ringOf (d : Nat) : Ring :=
  { v := nbit d 63, space := nbits d 60 3, prod := BitVec.ofNat 4 (nbits d 56 4), cons := BitVec.ofNat 4 (nbits d 52 4), log2sz := nbits d 42 5,
    hc := nbit d 41, hw := nbit d 40, hk := nbits d 34 6, base := nbits d 0 26 }

/-- A special register of its number (Table 6.9). -/
def specOf (n : Nat) : SpecReg := ([SpecReg.vl, .stat, .tcb, .sb, .stkb, .stkl, .rnd, .chk][n]?).getD .vl

/-- A landing of its entry (Table 19.6); the entry of a vector register names all of its lanes. -/
def landingOf (bs : List Byte) : Landing :=
  let h := fdw bs 0
  let aux := fdw bs 8
  let dest := nbits h 48 8
  let count := nbits h 24 8
  let val := bs.drop 0x200
  let v (o : Nat) : VReg := BitVec.ofNat 2048 (ofLE ((val.drop o).take 256))
  let word (l : List Byte) (k : Nat) : Nat := ofLE ((l.drop (4 * k)).take 4)
  let adr := bs.drop 0x100
  let w0 : Word := w64 (fdw val 0)
  let r : Fin 64 := Fin.ofNat 64 dest
  let w := nbits h 16 8
  let n := if count = 0 then 256 else count
  let counts := (upto 0 8).map (word val)
  let dst : LandTo := match nbits h 56 8 with
    | 0x01 => .s r w0
    | 0x02 => .a (Fin.ofNat 32 dest) (BitVec.ofNat 72 (ofLE (val.take 9)))
    | 0x03 => .g (Fin.ofNat 8 dest) (w0.getLsbD 0)
    | 0x04 => .v r 0 64 (v 0)
    | 0x05 => .special (specOf dest) w0
    | 0x06 => .crd r (v 0) (v 256) true
    | 0x07 => .part r (v 0) (v 256) (Fin.ofNat 64 w) (w64 aux)
    | 0x08 => .vsetvl r w0
    | 0x10 => .pad aux (val.take n)
    | 0x11 => .padElems w ((upto 0 count).map fun k => (word adr k, (val.drop (w * k)).take w))
    | 0x12 => .lane none ((upto 0 count).map fun k => (if count = 1 then dest else k, word adr k, (val.drop (4 * k)).take 4))
    | 0x13 => .partn aux count counts ((counts.foldl (fun (a : Nat × List (List Nat)) c =>
        (a.1 + c, a.2 ++ [(upto a.1 c).map fun k => word (val.drop 32) k])) (0, [])).2)
    | _ => .nothing
  { left := nbits h 40 8, seq := nbits h 32 8, flags := BitVec.ofNat 6 (nbits h 0 6), dst := dst }

/-- The unit of its record (Table 19.7) and of what the image keeps of it beside. -/
def unitOf (u : MicroUnit) (bs : List Byte) (lane : Bool) : MicroUnit :=
  let h := fdw bs 0
  if !nbit h 63 then MicroUnit.zero
  else
    { u with
      v := true, halt := nbit h 62, ten := nbit h 12, code := nbits h 40 8, cause := nbits h 36 4, steps := nbits h 16 13, mpc := nbits h 0 12,
      faddr := BitVec.ofNat 72 (ofLE ((bs.drop 8).take 9)),
      m := Vector.ofFn fun k : Fin 16 =>
        if lane then BitVec.ofNat 2048 (ofLE ((bs.drop (0x100 + 256 * k.val)).take 256)) else BitVec.ofNat 2048 (ofLE ((bs.drop (0x100 + 16 * k.val)).take 9)) }

/-- The instruction of a word. -/
def instrOf (ev raw : Nat) : Instr := ((decodeWord ev (w64 raw)).bind DWord.main).getD .nop

/-- The four dwords of a footprint (Table 19.10). -/
def footOf (d : Nat → Nat) : List Foot :=
  let rows := nbits (d 1) 32 32
  if rows = 0 then []
  else
    let b := d 0 + nbits (d 1) 0 8 * 2 ^ 64
    [{ space := spaceOfNum (nbits (d 1) 8 3), mode := 0, host := false, base := sx 72 b, len := nbits (d 2) 0 40, rows := rows, rstride := sx 64 (d 3) }]

/-- A job of its record (Table 19.10), of an image that keeps nothing of it beside; none for an empty place. -/
def jobOf (ev i : Nat) (x : Shift) (units : List MicroUnit) (bs : List Byte) : Option Job :=
  let d (k : Nat) : Nat := fdw bs (8 * k)
  let st := nbits (d 5) 16 8
  let eng := nbits (d 5) 30 2
  let instr := instrOf ev (d 0)
  let lines : List Nat := match instr with
    | .mscan _ f _ _ _ _ => scanLines (d 4) ((scanFields f (w64 (d 2)) (w64 (d 3))).1 * scanWidth f)
    | _ => []
  if st = 0 then none
  else some
    { id := 0, sh := i, core := i / 8, eng := eng, raw := w64 (d 0), instr := instr, desc := w64 (d 1), opi := w64 (d 2), opx := w64 (d 3),
      ea := BitVec.ofNat 72 (d 4 + nbits (d 5) 0 8 * 2 ^ 64), src := BitVec.ofNat 72 (d 6 + nbits (d 5) 8 8 * 2 ^ 64), tok := Fin.ofNat 64 (nbits (d 5) 24 6),
      state := if st = 1 then 1 else 2, reads := footOf fun k => d (7 + k), writes := footOf fun k => d (11 + k), done := d 15, seq := 0,
      unit := if st = 1 then MicroUnit.zero else (units[eng]?).getD MicroUnit.zero, todo := lines, best := [], count := 0, cause := none, buf := none, began := 0, scans := [],
      handles := x.handles }

/-- The scalar operands and the address that an M word latches (R152), as the registers of the image hold them. -/
def mLatch (x : Shift) (i : Instr) : Word × Word × Word × Addr :=
  match i with
  | .mma _ _ _ a b c _ | .mmaz _ _ _ a b c _ => (x.rs a, x.rs b, x.rs c, 0)
  | .ald _ _ a _ | .crd _ _ _ a _ | .cwr _ _ _ a _ | .cst _ _ _ a _ => (x.rs a, 0, 0, 0)
  | .wbld _ _ a d _ => (x.rs d, 0, 0, x.ra a)
  | _ => (0, 0, 0, 0)

/-- A matrix-queue entry (Table 19.11), with its target counted from P, and what the image keeps of the queue's operations beside. -/
def mopFrom (ev p : Nat) (x : Shift) (kept : List MOp) (rank : Nat) (bs : List Byte) : Option MOp :=
  let d := fdw bs 8
  let i := instrOf ev (fdw bs 0)
  let l := mLatch x i
  if !nbit d 63 then none
  else match kept[rank]? with
  | some o => some { o with target := if nbit d 62 then none else some ((p : Int) + sx 32 (nbits d 0 32)).toNat }
  | none =>
    some { raw := w64 (fdw bs 0), instr := i, target := if nbit d 62 then none else some ((p : Int) + sx 32 (nbits d 0 32)).toNat, entry := p,
           stat := x.sp.stat, armed := false, sa := l.1, sb := l.2.1, sc := l.2.2.1, aa := l.2.2.2, issued := none, done := none, flags := 0, code := 0,
           rank := rank, seq := 0, rows := [], bytes := [], r := 0, half := false, slot := 0, occ := 0, vl := x.sp.vl, regs := [] }

/-- A barrier group of its dword. -/
def groupOf (g : Group) (d : Nat) : Group := { count := nbits d 0 16, flags := BitVec.ofNat 6 (nbits d 16 6), code := nbits d 24 8, cs := g.cs }

/-- A barrier of its record (Table 19.11). -/
def mbarOf (b : MBar) (bs : List Byte) : MBar :=
  { opn := groupOf b.opn (fdw bs 0), arm := groupOf b.arm (fdw bs 8), armed := nbit (fdw bs 8) 63, phase := BitVec.ofNat 32 (nbits (fdw bs 16) 32 32),
    lastCode := nbits (fdw bs 16) 16 8, lastFlags := BitVec.ofNat 6 (nbits (fdw bs 16) 0 6) }

/-- The bundle section (Table 19.12). -/
def Shift.withBundles (x : Shift) (bs : List Byte) : Shift :=
  let d := fdw bs
  let n := nbits (d 0) 56 4
  let b : Bundle := if !nbit (d 0) 63 then Bundle.zero else
    { v := true, full := nbit (d 0) 62, version := nbits (d 0) 32 12, name := nbits (d 0) 0 20, manifest := d 8 / 128, key := x.bundle.key,
      members := (upto 0 n).map fun k => d (0x10 + 8 * k) / 128, vas := x.bundle.vas }
  let h := d 0x100
  let vers := (upto 0 64).filterMap fun k => let e := d (0x110 + 8 * k); if nbit e 63 then some (nbits e 0 20, nbits e 32 12) else none
  let w : View := if !nbit h 63 then View.zero else
    { v := true, expired := nbit h 62, overflow := nbit h 61, scope := ([Scope.shift, .crew, .die, .pkg, .sys][nbits h 0 3]?).getD .sys, vers := vers,
      lines := (upto 0 (nbits h 32 8)).map fun k => d (0x310 + 8 * k) / 128 }
  let opt := (upto 0 64).flatMap fun rank => (upto 0 64).filterMap fun k =>
    let e := d (0x800 + 16 * k)
    if nbit e 63 && d (0x808 + 16 * k) % 64 == rank then
      some (nbits e 0 20, nbits e 32 12, ((x.opt.find? fun o => o.1 == nbits e 0 20 && o.2.1 == nbits e 32 12).map (·.2.2)).getD 0)
    else none
  { x with bundle := b, view := w, opt := opt }

/-- The landings of a record: one that the image keeps takes its VALUE, distance and flags from its entry and is dropped where KIND is 0, as TRET reads it;
any other is what its entry says. -/
def landingsFrom (kept : List Landing) (n : Nat) (bs : List Byte) : List Landing :=
  (upto 0 n).filterMap fun k =>
    let e := (bs.drop (1024 * k)).take 1024
    match kept[k]? with
    | none => some (landingOf e)
    | some l =>
      if nbits (fdw e 0) 56 8 = 0 ∧ l.dst ≠ .nothing then none
      else some { l with left := nbits (fdw e 0) 40 8, flags := BitVec.ofNat 6 (nbits (fdw e 0) 0 6), dst := l.dst.edit (e.drop 0x200) }

/-- The shift of a record: `x0` holds what the image keeps of it beside its record, or what its node or its handler's image gives it. -/
def shiftFrom (x0 : Shift) (bs : List Byte) : Shift :=
  let d := fdw bs
  let ev := x0.img.ev
  let p := d 0x20
  let x : Shift :=
    { x0 with
      regs := { pc := nbits (d 8) 0 32, s := Vector.ofFn fun n : Fin 64 => w64 (d (0x100 + 8 * n.val)),
                a := Vector.ofFn fun n : Fin 32 => BitVec.ofNat 72 (ofLE ((bs.drop (0x300 + 16 * n.val)).take 9)),
                g := Vector.ofFn fun n : Fin 8 => nbit (d 0x540) n.val,
                v := Vector.ofFn fun n : Fin 64 => BitVec.ofNat 2048 (ofLE ((bs.drop (0x1000 + 256 * n.val)).take 256)) },
      sp := { vl := d 0x500, stat := w64 (d 0x508), tcb := w64 (d 0x510), sb := w64 (d 0x518), stkb := w64 (d 0x520), stkl := w64 (d 0x528),
              seed := w64 (d 0x530), gens := Vector.ofFn fun n : Fin 66 => BitVec.ofNat 32 (ofLE ((bs.drop (0x600 + 4 * n.val)).take 4)), chk := w64 (d 0x538) },
      evl := BitVec.ofNat 16 (d 0x548),
      tim := { x0.tim with spc := d 0x550, owed := d 0x558, laneBusy := d 0x560, stopped := x0.tim.stopped.map fun _ => p },
      rings := Vector.ofFn fun n : Fin 16 => ringOf (d (0x800 + 8 * n.val)),
      handles := Vector.ofFn fun n : Fin 8 =>
        let h := d (0x880 + 32 * n.val)
        { v := nbit h 63, dstpkg := nbits h 40 12, len := nbits h 35 5, gen := nbits h 0 32, hops := (bs.drop (0x888 + 32 * n.val)).take 24 },
      landings := landingsFrom x0.landings (nbits (d 0) 0 6) (bs.drop 0x5000),
      pend :=
        { x0.pend with
          s := BitVec.ofNat 64 (d 0x30), v := BitVec.ofNat 64 (d 0x38),
          trap := if nbit (d 0x28) 0x11 then some (nbits (d 8) 48 16) else none },
      lane := unitOf x0.lane (bs.drop 0x11000) true }
  let x := x.withBundles (bs.drop 0x34000)
  let slot (k : Nat) : Nat × WSlot :=
    let b := ((bs.drop (0xC0000 + k)).headD 0).toNat
    (k, { state := b % 4, code := b / 4, body := BitVec.ofNat 512 (ofLE ((bs.drop (0x100000 + 64 * k)).take 64)) })
  { x with mx :=
      { x0.mx with
        tiles := (upto 0 512).filterMap fun r =>
          let t : TileRow := BitVec.ofNat 4096 (ofLE ((bs.drop (0x80000 + 512 * r)).take 512))
          if t = 0 then none else some (r, t),
        slots := (upto 0 16384).filterMap fun k => let e := slot k; if e.2 = { state := 0, code := 0, body := 0 } then none else some e,
        queue := (upto 0 16).filterMap fun k => mopFrom ev p x x0.mx.queue k ((bs.drop (0xC00 + 32 * k)).take 32),
        bars := Vector.ofFn fun b : Fin 4 => mbarOf x0.mx.bars[b] (bs.drop (0xE00 + 32 * b.val)), rank := max 16 x0.mx.rank } }

/-- The place of a job among those of a record: four of each address engine, then sixteen of the copy engine. -/
def jobPlace (eng k : Nat) : Nat := if eng = 1 then k else if eng = 2 then 4 + k else 8 + k

/-- The jobs of a record of which the image keeps nothing beside. -/
def jobsFrom (ev i : Nat) (x : Shift) (bs : List Byte) : List Job :=
  let units := [MicroUnit.zero, unitOf MicroUnit.zero (bs.drop 0x13000) false, unitOf MicroUnit.zero (bs.drop 0x13200) false]
  (upto 0 24).filterMap fun k => jobOf ev i x units ((bs.drop (0x13400 + 128 * k)).take 128)

/-- A job that the image keeps, with its record, the k-th of its engine: its operands, its DONE and, where its routine has begun, its unit. -/
def Job.withRecord (j : Job) (k : Nat) (bs : List Byte) : Job :=
  let r := (bs.drop (0x13400 + 128 * jobPlace j.eng k)).take 128
  let d (n : Nat) : Nat := fdw r (8 * n)
  { j with
    desc := w64 (d 1), opi := w64 (d 2), opx := w64 (d 3), ea := BitVec.ofNat 72 (d 4 + nbits (d 5) 0 8 * 2 ^ 64),
    src := BitVec.ofNat 72 (d 6 + nbits (d 5) 8 8 * 2 ^ 64), done := d 15,
    unit := if j.eng = 0 ∨ !j.unit.v then j.unit else unitOf j.unit (bs.drop (if j.eng = 1 then 0x13000 else 0x13200)) false }

/-- A shift's kept jobs with their records. -/
def withRecords (js : List Job) (i : Nat) (bs : List Byte) : List Job :=
  (js.zip (upto 0 js.length)).map fun (p : Job × Nat) =>
    let j := p.1
    if j.sh ≠ i ∨ 2 < j.eng ∨ 4 ≤ j.state then j else j.withRecord ((js.take p.2).countP fun e => e.sh == i && e.eng == j.eng && decide (e.state < 4)) bs

/-- The tables of a graph section (Table 27.8), n of them, with the byte at which each begins. -/
def tablesFrom (ctx : Nat) (bs : List Byte) : Nat → Nat → List GTable
  | 0, _ => []
  | n + 1, o =>
    let d (k : Nat) : Nat := fdw bs (o + k)
    let size := nbits (d 0) 0 32
    let ne := nbits (d 0) 32 16
    let body := wordsOf (cdiv size 8) (bs.drop (o + 32))
    let e := o + 32 + 8 * cdiv size 8
    let nodes := (upto 0 (nbits ((body.headD 0).toNat) 16 16)).map fun i =>
      let dw := (body.drop (8 + 32 * i)).take 32
      let st := ((dw[1]?).getD 0).toNat
      { nodeOf dw with status := nbits st 56 8, state := nbits st 52 4, iter := nbits st 32 16, pred := nbits st 0 16 }
    { ctx := ctx, addr := BitVec.ofNat 72 (d 8 + nbits (d 16) 0 8 * 2 ^ 64), bytes := body, nodes := nodes,
      edges := (upto 0 ne).map fun k => let g := fdw bs (e + 8 * k); (0, nbits g 0 12, nbits g 16 12),
      fails := ((upto 0 nodes.length).zip nodes).filterMap fun p => if p.2.state = 5 then some (p.1, p.2.status) else none, queue := 0, pkt := 0, prioCap := 127, samples := [],
      windows := [], moves := [] } :: tablesFrom ctx bs n (e + 8 * ne)

end Sys2Proof.Machine
end

