-- ==== Sys2Proof/Machine/Freeze.lean ====
section
/-!
DEFINITION. The freeze and the thaw of a context (R426, R427, R430; log 25).
-/
namespace Sys2Proof.Machine

/-! ## The registers of a freeze -/

/-- Whether a write of CTXFRZ is refused (R426). -/
def State.ctxfrzBad (s : State) (ctx : Nat) (v : Word) : Bool :=
  let st := (s.ctx ctx).frzState
  let go := v.getLsbD 0
  let thaw := v.getLsbD 1
  let free := !(s.tables.any fun t => t.2.ctx == ctx) && (s.ctxShifts ctx).isEmpty
  wbits v 52 12 != 0 || wbits v 2 10 != 0 || (go && thaw) || st == 1 || st == 3 || (go && st != 0) ||
    (thaw && st != 2 && !(st == 0 && free))

/-- A write of CTXFRZ that does not thaw (R426, R427). -/
def State.writeCtxfrz (s : State) (ctx : Nat) (v : Word) : State :=
  if s.ctxfrzBad ctx v then s.regErr
  else
    let s := s.modCtx ctx fun c => { c with frzAddr := w64 (wbits v 12 40 * 4096) }
    if v.getLsbD 0 then
      let s := s.modCtx ctx fun c => { c with frzState := 1, frzErr := 0 }
      let s := (s.ctxQueues ctx).foldl (fun (s : State) (q : Nat × HQueue) => s.modQueue q.1 fun Q => { Q with atFreeze := Q.st }) s
      (s.ctxShifts ctx).foldl (fun (s : State) (e : Nat × Shift) => s.modSh e.1 fun x => { x with pend := { x.pend with preempt := true } }) s
    else s

/-- The address of a freeze image. -/
def State.frzBase (s : State) (ctx : Nat) : Nat := (s.ctx ctx).frzAddr.toNat

/-- FREEZE_GO (R426, R427). -/
def execFreezeGo (fn ctx : Nat) (v : Word) (s : State) : Out :=
  .next (if fn = 64 ∧ ctx < 4096 ∧ v.getLsbD 0 then s.writeCtxfrz ctx v else s.regErr)

/-! ## The freeze -/

/-- The shift to which a message brings something. -/
def Msg.target (m : Msg) : Option Nat :=
  match m with
  | .arrive sh _ _ _ _ | .arriveH sh _ _ | .token sh _ _ _ | .event _ _ sh _ => some sh
  | _ => none

/-- Whether a job stands at a boundary of its engine (R427, step 3): a copy with no piece in hand, a routine with no step begun, no job of the link
engine, and nothing of it in the fabric. -/
def State.jobStill (s : State) (j : Job) : Bool :=
  !s.jobAway j.id && j.eng != 3 && (if j.eng = 0 then j.buf.isNone else j.count == 0)

/-- Whether a node at a place of this package is of a context. -/
def State.placeOf (s : State) (ctx place : Nat) : Bool := (s.table? (place / 65536)).map (·.ctx) == some ctx

/-- Whether everything of a context has stopped and every write of it has been performed (R427, steps 2 to 4): its shifts and engines stand, none of their
accesses, answers or fabric operations is on its way, nor an access of one of its shifts that has ended, nor a write of the part or a store of a bundle,
which name no context. -/
def State.freezeQuiet (s : State) (ctx : Nat) : Bool :=
  ((s.ctxShifts ctx).all fun e =>
    s.issuer (e.1 / 8) != some e.1 && !s.accessPending e.1 && !s.bstPending e.1 && !(s.msgs.any fun m => m.target == some e.1) &&
    s.jobs.all fun j => j.sh != e.1 || s.jobStill j) &&
  !s.straying (s.placeOf ctx) &&
  !(s.msgs.any fun m => match m with | .own _ _ _ _ _ | .seal _ _ _ _ _ => true | _ => false) && !s.fab.ops.any fun o => actIsSeal o.act

/-- Whether a state of a context is larger than the image's layout (R427). -/
def State.frzTooBig (s : State) (ctx : Nat) : Bool :=
  decide (64 < (s.ctxQueues ctx).length) || decide (65535 < (s.ctxShifts ctx).length) || decide (0x3E000 < ((s.ctxTables ctx).flatMap fun t => t.2.entry).length)

/-- Whether a line of a range cannot be written (R427). -/
def State.frzUnwritable (s : State) (a n : Nat) : Bool :=
  (upto 0 (n / 4096 + 1)).any fun k => let p := a + 4096 * k; decide (p < a + n) && (!s.memThere p || s.retiredAt p || s.windowShut p)

/-- Whether a line of a range holds a pending version, under which a write waits (R222). -/
def State.frzWaits (s : State) (a n : Nat) : Bool :=
  s.lines.any fun l => decide (a / 128 ≤ s.lineOfKey l.1) && decide (s.lineOfKey l.1 < (a + n) / 128) && (l.2.side.map (·.pending)).getD false

/-- The bytes of an image written line by line under key slot 0. -/
def State.writeImage (s : State) (a : Nat) (bs : List Byte) : State :=
  (linesOf a bs.length).foldl (fun (s : State) (l : Nat × Nat) => s.storeAt (.glob l.1 0) ((bs.drop (l.1 - a)).take l.2)) s

/-- A freeze that fails (R427): every stopped shift and job goes on; the line locks that step 3 released stay
released. -/
def State.frzFail (s : State) (ctx err : Nat) : State :=
  let s := s.modCtx ctx fun c => { c with frzState := 0, frzErr := err }
  let s := { s with cores := s.cores.map fun (c : Nat × Core) => (c.1, { c.2 with locks := c.2.locks.filter fun l => l.1 != ctx }) }
  ((s.ctxShifts ctx).foldl (fun (s : State) (e : Nat × Shift) => s.modSh e.1 fun x => { x with pend := { x.pend with preempt := false } }) s).giveTurns

/-- A context taken off the part once its image is written (R427, steps 3 and 5). -/
def State.frzRemove (s : State) (ctx : Nat) : State :=
  let shs := s.ctxShifts ctx
  let mine (i : Nat) : Bool := shs.any fun e => e.1 == i
  let tabs := s.ctxTables ctx
  let ours (t : Nat) : Bool := tabs.any fun e => e.1 == t
  let s := (s.ctxQueues ctx).foldl (fun (s : State) (q : Nat × HQueue) =>
    s.modQueue q.1 fun Q => { Q with st := 0, pkts := [], cpls := [], counted := 0, oldest := none }) s
  let s := { s with
    shifts := s.shifts.filter fun e => !mine e.1, jobs := s.jobs.filter fun j => !mine j.sh, waiters := s.waiters.filter fun w => !mine w.sh,
    tables := s.tables.filter fun t => !ours t.1, rings := s.rings.filter fun (r : RingObj) => !ours r.table,
    manifests := s.manifests.filter fun m => !ours m.2.1, opens := NMap.del s.opens ctx,
    cores := s.cores.map fun (c : Nat × Core) =>
      let gone (k : Nat) : Bool := mine (8 * c.1 + k)
      (c.1, { c.2 with order := c.2.order.filter fun k => !gone k, issuing := c.2.issuing.filter fun k => !gone k,
                       locks := c.2.locks.filter fun l => l.1 != ctx,
                       ports := c.2.ports.filter fun p => !(p.2.armed && p.2.ctx == ctx) }) }
  (s.leaveLinks fun u => ours u.1).giveTurns

/-- FREEZE_IMAGE_WRITE (R427, R428): once everything of the context has stopped, its image is written and the context leaves the part. -/
def execFreezeImageWrite (ctx : Nat) (s : State) : Out :=
  if (s.ctx ctx).frzState ≠ 1 ∨ !s.freezeQuiet ctx then .next s
  else if s.frzTooBig ctx then .next (s.frzFail ctx 2)
  else
    let shs := (s.ctxShifts ctx).length
    let bs := sealImage (s.imageBody ctx) (s.ctxQueues ctx).length shs
    let a := s.frzBase ctx
    if s.frzUnwritable a bs.length then .next (s.frzFail ctx 1)
    else if s.frzWaits a bs.length then .next s
    else
      .next (((s.writeImage a bs).frzRemove ctx).modCtx ctx fun x => { x with frzState := 2, frzErr := 0, frzShifts := shs })

/-! ## The image that a thaw reads -/

/-- The image at the address of a context: its bytes, and its numbers of shift records, queue records and graph entries. -/
structure FrzImage where
  bytes : List Byte
  nsh : Nat
  nq : Nat
  ngr : Nat

/-- Whether a byte of a range of local physical memory cannot be read: poison, a retired page, or a shut window. -/
def State.lostBytes (s : State) (a n : Nat) : Bool :=
  (upto (a / 128) ((a + n + 127) / 128 - a / 128)).any fun l => (s.line l).poison != 0 || s.retiredAt (l * 128) || s.windowShut (l * 128)

/-- The image at an address, or none where MAGIC or DIGEST does not hold (R430), or where it cannot be read whole (log 93). -/
def State.readImage (s : State) (a : Nat) : Option FrzImage :=
  let h := s.physBytes a 128
  let nsh := nbits (fdw h 0) 16 16
  let nq := nbits (fdw h 0) 0 16
  if nbits (fdw h 0) 32 32 ≠ 0x465A524E ∨ s.lostBytes a 128 then none
  else
    let bs := s.physBytes a (0x40000 + 0x400000 * nsh + nbits (fdw h 8) 32 32)
    if !s.lostBytes a bs.length ∧ sha256 (digestBytes bs nq nsh) = (bs.drop 0x40).take 32 then some { bytes := bs, nsh := nsh, nq := nq, ngr := nbits (fdw h 8) 16 16 } else none

/-- The offset of a shift record. -/
def recAt (j : Nat) : Nat := 0x40000 + 0x400000 * j

/-- A dword of the placement block of a record. -/
def FrzImage.place (m : FrzImage) (j k : Nat) : Nat := fdw m.bytes (recAt j + 0x300000 + 8 * k)

/-- The crew that a placement block names. -/
def FrzImage.crew (m : FrzImage) (j : Nat) : Nat := nbits (m.place j 0) 56 8

/-- The queues that the queue records name. -/
def FrzImage.qnums (m : FrzImage) : List Nat := (upto 0 m.nq).map fun r => nbits (fdw m.bytes (0x1000 + 64 * r)) 0 16

/-- The record that a record's shift serves as a trap handler (R437). -/
def FrzImage.hof (m : FrzImage) (j : Nat) : Option Nat := let h := nbits (m.place j 1) 48 16; if h = 0xFFFF then none else some h

/-- The sections of record j that hold its shift: the frame, the tiles and the weight buffer. -/
def FrzImage.shiftBytes (m : FrzImage) (j : Nat) : List Byte := (m.bytes.drop (recAt j)).take 0x200000

/-- The armed ports of the cores of an image (Table 27.7): `num` is the number of each record's shift, `kept` what the image keeps of them beside. -/
def FrzImage.ports (m : FrzImage) (ctx : Nat) (num : Nat → Nat) (kept : List (Nat × Nat × Port)) : List (Nat × Nat × Port) :=
  ((upto 0 m.nsh).filter fun j => (m.hof j).isNone).flatMap fun j => (upto 0 16).filterMap fun n =>
    let d (k : Nat) : Nat := m.place j (32 + 4 * n + k)
    let i := num j
    let old := (kept.find? fun p => p.1 == i / 8 && p.2.1 == n).map (·.2.2)
    if !nbit (d 0) 63 then none
    else some (i / 8, n,
      { armed := true, ctx := ctx, sh := (old.map (·.sh)).getD i, fmt := ([RecvFmt.f32, .bf16, .s32, .put][nbits (d 0) 56 2]?).getD .put,
        cnten := nbit (d 0) 58, window := nbits (d 1) 0 20, wlen := nbits (d 0) 0 20, elen := nbits (d 2) 0 24, cnt := nbits (d 1) 44 20,
        received := nbits (d 3) 0 24, flags := (old.map (·.flags)).getD 0, job := (old.map (·.job)).getD (2 ^ 64) })

/-- A queue's record (Table 27.3) over what the image keeps of the queue beside. -/
def queueFrom (Q : HQueue) (bs : List Byte) (r : Nat) : HQueue :=
  let d (k : Nat) : Nat := fdw bs (0x1000 + 64 * r + 8 * k)
  let b (n : Nat) : BitVec 32 := BitVec.ofNat 32 n
  { Q with
    cfg := w64 (d 1), base := w64 (d 2), cpl := w64 (d 3), int := w64 (d 4), live := w64 (d 4), tail := b (d 5 / 2 ^ 32), head := b (d 5),
    chead := b (d 6 / 2 ^ 32), cwrite := b (d 6) }

/-! ### What an image keeps beside its sections -/

/-- The bytes of the last run of a shared section; `fuel` bounds the runs. -/
def keptBytes : Nat → List Byte → Option (List Byte)
  | 0, _ => none
  | fuel + 1, bs =>
    let n := nbits (fdw bs 0) 32 32
    if bs.length < 16 then none
    else if nbits (fdw bs 0) 0 8 = keptRun then some ((bs.drop 16).take n)
    else keptBytes fuel (bs.drop (16 + (n + 7) / 8 * 8))

/-- A table of the graph section over the table as the image keeps it. -/
def GTable.withEntry (T e : GTable) : GTable :=
  { T with
    addr := e.addr, edges := if T.edges.map (·.2) = e.edges.map (·.2) then T.edges else e.edges,
    nodes := (T.nodes.zip e.nodes).map fun (p : Node × Node) =>
      { p.1 with status := p.2.status, state := p.2.state, iter := p.2.iter, pred := p.2.pred } }

/-- The state that an image keeps, under its sections: every section that it holds is taken from there (R428, R430). -/
def FrzImage.overKept (m : FrzImage) (ctx : Nat) (f : Frozen) : Frozen :=
  let recs := f.shifts.zip (upto 0 f.shifts.length)
  let num (j : Nat) : Nat := ((f.shifts[j]?).map (·.1)).getD 0
  { f with
    shifts := recs.map fun (e : (Nat × Shift) × Nat) => (e.1.1, shiftFrom e.1.2 (m.shiftBytes e.2)),
    jobs := recs.foldl (fun (js : List Job) e => withRecords js e.1.1 (m.shiftBytes e.2)) f.jobs,
    tables := (f.tables.zip (tablesFrom ctx m.bytes m.ngr 0x2000)).map fun (p : (Nat × GTable) × GTable) => (p.1.1, p.1.2.withEntry p.2),
    queues := (f.queues.zip (upto 0 f.queues.length)).map fun (q : (Nat × HQueue) × Nat) => (q.1.1, queueFrom q.1.2 m.bytes q.2),
    ports := m.ports ctx num f.ports }

/-- The state of an image that a part of this model wrote; none where its shared section ends in no run of that kind. -/
def FrzImage.kept (m : FrzImage) (ctx : Nat) : Option Frozen :=
  let sh := m.bytes.drop (recAt m.nsh)
  (keptBytes sh.length sh).map fun bs => m.overKept ctx (cFrozen.get (natsOf bs.length bs)).1

/-! ### An image that keeps nothing beside its sections (log 25) -/

/-- A packet of a queue's ring, k slots before HEAD. -/
def State.ringPacket (s : State) (Q : HQueue) (k : Nat) : List Word :=
  let a := wbits Q.base 6 58 * 64 + 64 * ((Q.head.toNat + Q.slots * k - k) % Q.slots)
  (upto 0 8).map fun j => w64 (dwordAt (s.host.bytes a 64) j)

/-- The launch of a graph table, the latest in the ring behind HEAD. -/
def State.launchOf (s : State) (Q : HQueue) (addr : Addr) (table : Nat) : Option Pkt :=
  (upto 1 Q.slots).findSome? fun k =>
    let p : Pkt := { idx := (Q.head.toNat + 2 ^ 32 - k) % 2 ^ 32, dw := s.ringPacket Q k, bufs := [], started := true, table := some table, moved := none }
    if nbits p.hd 0 8 = 1 ∧ p.launchAddr = addr then some p else none

/-- The queues of an image with the launches of its tables, and the tables with their queues and packets. -/
def State.queuesFrom (s : State) (m : FrzImage) (tabs : List (Nat × GTable)) : List (Nat × HQueue) × List (Nat × GTable) :=
  tabs.foldl (fun (a : List (Nat × HQueue) × List (Nat × GTable)) (t : Nat × GTable) =>
    match (a.1.findSome? fun q => (s.launchOf q.2 t.2.addr t.1).map fun p => (q.1, p)) with
    | none => (a.1, a.2 ++ [t])
    | some (q, p) =>
      (a.1.map fun (e : Nat × HQueue) => if e.1 = q then (e.1, { e.2 with pkts := e.2.pkts ++ [p] }) else e,
       a.2 ++ [(t.1, { t.2 with queue := q, pkt := p.idx, prioCap := ((a.1.find? fun e => e.1 == q).map fun e => wbits e.2.cfg 40 7).getD 127 })]))
    (m.qnums.zip (upto 0 m.nq) |>.map fun p => (p.1, queueFrom HQueue.zero m.bytes p.2), [])

/-- The number that a record's shift has in such an image, which does not say its slot: slot 0 of a core of the record's own number. -/
def FrzImage.index (m : FrzImage) (j : Nat) : Nat :=
  match m.hof j with
  | none => 8 * j
  | some b => 8 * b + 4

/-- What the part keeps of the placement of a record. -/
def FrzImage.placed (m : FrzImage) (j : Nat) (n : Node) : Placed :=
  let st := nbits (m.place j 0) 0 2
  let banks : BitVec 32 := BitVec.ofNat 32 (m.place j 2)
  let i := nbits (m.place j 1) 0 32
  { core := j, slot := 0, stage := st, unum := nbits (m.place j 1) 32 8, index := i, banks := banks, mx := n.mxOf st,
    lkq := n.lkqOf st, feet := n.feetOf st i (lowBank banks * 0x8000), halted := false, withdrawn := false, away := false, saved := [] }

/-- The nodes of a table with their images read and their placements taken from the records; none where an image does not pass its checks. -/
def State.placedTable (s : State) (m : FrzImage) (t : Nat) (T : GTable) : Option GTable :=
  let recs (n : Nat) : List Nat := (upto 0 m.nsh).filter fun j =>
    nbits (m.place j 0) 40 8 == t && nbits (m.place j 0) 16 12 == n && (m.hof j).isNone
  let nodes := (T.nodes.zip (upto 0 T.nodes.length)).map fun (p : Node × Nat) =>
    if p.1.state = 3 ∧ p.1.kind = 0 then
      (s.checkNode T p.1).toOption.map fun (y : Node) => { y with placed := (recs p.2).map fun j => m.placed j y }
    else some p.1
  if nodes.all (·.isSome) then some { T with nodes := nodes.filterMap id } else none

/-- The shift of record j, of a faulting shift or a placed one. -/
def FrzImage.baseShift (m : FrzImage) (ctx j : Nat) (tabs : List (Nat × GTable)) : Option Shift :=
  let d := m.place j 0
  let t := nbits d 40 8
  let node := nbits d 16 12
  let st := nbits d 0 2
  match (NMap.get? tabs t).bind fun T => T.nodes[node]? with
  | none => none
  | some n =>
    (n.images[st]?).map fun g =>
      let pl := m.placed j n
      let x : Shift :=
        { Shift.zero with
          img := { g.img with feet := pl.feet },
          place := { Place.zero with
            core := pl.core, ctx := ctx, table := t, node := node, stage := st, slot := 0, index := pl.index, banks := pl.banks, mx := pl.mx, lkq := pl.lkq,
            fpbase := BitVec.ofNat 72 n.fpbase },
          tim := { Timing.zero with stopped := some 0, started := true } }
      shiftFrom x (m.shiftBytes j)

/-- The handler of record j, which serves the shift of another record. -/
def State.handlerShift (s : State) (m : FrzImage) (ctx j : Nat) (xs : List (Nat × Shift)) : Option Shift :=
  let b := m.index j - 4
  let c := s.ctx ctx
  let frame : Addr := BitVec.ofNat 72 (wbits c.tvfrm 16 48 * 65536 + wbits c.tvctl 8 8 * 2 ^ 64)
  match NMap.get? xs b with
  | none => none
  | some x => (s.handlerFor b x 0 frame).map fun h => shiftFrom { h with tim := { h.tim with stopped := some 0, started := true } } (m.shiftBytes j)

/-- An image read from its sections alone; none where a program image of it cannot be read. -/
def State.parseImage (s : State) (ctx : Nat) (m : FrzImage) : Option Frozen :=
  let raw := (upto 0 m.ngr).zip (tablesFrom ctx m.bytes m.ngr 0x2000)
  let raw := raw.map fun (t : Nat × GTable) => (t.1, { t.2 with edges := t.2.edges.map fun e => (t.1, e.2) })
  let tabs := raw.map fun (t : Nat × GTable) => (s.placedTable m t.1 t.2).map fun T => (t.1, T)
  if !tabs.all (·.isSome) then none
  else
    let q := s.queuesFrom m (tabs.filterMap id)
    let recs := upto 0 m.nsh
    let bases := (recs.filter fun j => (m.hof j).isNone).filterMap fun j => (m.baseShift ctx j q.2).map fun x => (m.index j, x)
    let shs := recs.filterMap fun j =>
      (if (m.hof j).isNone then NMap.get? bases (m.index j) else s.handlerShift m ctx j bases).map fun x => (m.index j, x)
    if shs.length ≠ m.nsh then none
    else some
      { shifts := shs,
        jobs := (recs.zip shs).flatMap fun r => jobsFrom r.2.2.img.ev r.2.1 r.2.2 (m.shiftBytes r.1),
        tables := q.2, rings := [], manifests := [], opens := 0, queues := q.1, ports := m.ports ctx m.index [] }

/-! ## The thaw -/

/-- The PAD banks of a core that other contexts own. -/
def State.banksUsed (s : State) (core ctx : Nat) : BitVec 32 :=
  (s.holding core).foldl (fun (a : BitVec 32) p => if p.1 = ctx then a else a ||| p.2.banks) 0

/-- Where a thaw places the shifts of an image (R430, R247), in the order of its records: the core that the shift had in its crew where it can be taken,
else the lowest that can; a handler stands with its shift. The old number of each placed shift with its new one; none where one has no place. -/
def State.thawPlaces (s : State) (ctx : Nat) (m : FrzImage) (old : List (Nat × Shift)) : Option (List (Nat × Nat)) :=
  ((upto 0 old.length).zip old).foldl (fun (a : Option (List (Nat × Nat))) (r : Nat × Nat × Shift) =>
    match a with
    | none => none
    | some l =>
      let i := r.2.1
      let x := r.2.2
      if x.place.serves.isSome then some l
      else
        let crew := m.crew r.1
        let ok (c : Nat) : Bool := decide (crew < 32) && !(l.any fun p => p.2 / 8 == c) && s.canTake c ctx 0 x.place.mx x.place.lkq &&
          (s.banksUsed c ctx &&& x.place.banks) == 0
        match (nbits (m.place r.1 0) 48 3 :: upto 0 8).find? fun k => ok (8 * crew + k) with
        | none => none
        | some k => let c := 8 * crew + k; some (l ++ [(i, 8 * c + (s.freeSlots c).headD 0)])) (some [])

/-- The renaming of a thaw: shifts, crews, dies, tables and queues, each old number with its new one, the first job number, and the context. -/
structure Renaming where
  shs : List (Nat × Nat)
  crews : List (Nat × Nat)
  dies : List (Nat × Nat)
  tabs : List (Nat × Nat)
  qs : List (Nat × Nat)
  job : Nat
  ctx : Nat

/-- The new number of an old one. -/
def lookup (l : List (Nat × Nat)) (k : Nat) : Nat := ((l.find? fun p => p.1 == k).map (·.2)).getD k

/-- The new number of a shift or a handler. -/
def Renaming.sh (r : Renaming) (i : Nat) : Nat := if 4 ≤ i % 8 then lookup r.shs (i - 4) + 4 else lookup r.shs i

/-- The new number of a core. -/
def Renaming.core (r : Renaming) (c : Nat) : Nat := ((r.shs.find? fun p => p.1 / 8 == c).map fun p => p.2 / 8).getD c

/-- The new domain of a space. -/
def Renaming.dom (r : Renaming) (sp d : Nat) : Nat :=
  match spaceOfNum sp with
  | .crew => lookup r.crews d
  | .chip => lookup r.dies d
  | _ => r.core d

/-- A shift under its new numbers. -/
def Renaming.shift (r : Renaming) (i : Nat) (x : Shift) : Shift :=
  let j := r.sh i
  { x with place := { x.place with
      core := j / 8, slot := j % 8, ctx := r.ctx, table := lookup r.tabs x.place.table, serves := x.place.serves.map r.sh } }

/-- A table under its new numbers; shifts that had halted hold nothing any more, and one that was switched out is resident again (R251). -/
def Renaming.table (r : Renaming) (T : GTable) : GTable :=
  let pl (p : Placed) : Placed := let i := r.sh (8 * p.core + p.slot); { p with core := i / 8, slot := i % 8, away := false }
  { T with
    ctx := r.ctx, queue := lookup r.qs T.queue, edges := T.edges.map fun e => (lookup r.tabs e.1, e.2),
    nodes := T.nodes.map fun (n : Node) => { n with placed := (n.placed.filter fun p => !p.halted).map pl },
    samples := T.samples.map fun (a : Sample) => { a with dom := r.dom a.space a.dom },
    moves := T.moves.map fun (m : Move2) => { m with crew := lookup r.crews m.crew, sh := r.sh m.sh } }

/-- A job under its new numbers. -/
def Renaming.jobOf (r : Renaming) (k : Nat) (j : Job) : Job := { j with id := r.job + k, sh := r.sh j.sh, core := r.core j.core }

/-- The rings of a table that its placed nodes declare, for an image that does not list its ring objects. -/
def State.declRings (s : State) (t : Nat) (T : GTable) : State :=
  (upto 0 T.nodes.length).foldl (fun (s : State) (n : Nat) => match T.nodes[n]? with
    | none => s
    | some x => x.placed.foldl (fun (s : State) (p : Placed) =>
        let decls := T.ringDecls x
        (upto 0 decls.length).foldl (fun (s : State) (k : Nat) => match decls[k]? with
          | none => s
          | some d => s.placeRing t n x d k p.core (lowBank p.banks * 0x8000)) s) s) s

/-- The LANE slices and PAD banks of a record restored on a core. -/
def State.restoreBanks (s : State) (m : FrzImage) (j core : Nat) (banks : BitVec 32) : State :=
  let s := { s with lane := s.lane.put (laneKey core 0 0) ((m.bytes.drop (recAt j + 0x40000)).take 0x40000) }
  (upto 0 32).foldl (fun (s : State) (b : Nat) =>
    if banks.getLsbD b then { s with pad := s.pad.put (padKey core (0x8000 * b)) ((m.bytes.drop (recAt j + 0x200000 + 0x8000 * b)).take 0x8000) } else s) s

/-- The runs of the shared section restored, but for the last, which holds no space's bytes; `fuel` bounds their number. -/
def State.restoreShared (s : State) (r : Renaming) : Nat → List Byte → State
  | 0, _ => s
  | fuel + 1, bs =>
    if bs.length < 16 then s
    else
      let h := fdw bs 0
      let n := nbits h 32 32
      let s := if nbits h 0 8 = keptRun then s
        else s.putSpace (spaceOfNum (nbits h 0 8)) (r.dom (nbits h 0 8) (nbits h 8 24)) (fdw bs 8) ((bs.drop 16).take n)
      s.restoreShared r fuel (bs.drop (16 + (n + 7) / 8 * 8))

/-- The collective words of the running nodes of a table back in the link stores of their crews (R328, R430). -/
def State.refillLinks (s : State) (t : Nat) (T : GTable) : State :=
  (T.nodes.zip (upto 0 T.nodes.length)).foldl (fun (s : State) (n : Node × Nat) =>
    match (if n.1.state = 3 then s.nodeColl T n.1 else .ok none) with
    | .ok (some c) => s.fillLinks (t, n.2) T.ctx c (n.1.placed.map fun p => p.core / 8).eraseDups
    | _ => s) s

/-- A receive port armed again. -/
def State.rearmPort (s : State) (r : Renaming) (ids : List Nat) (p : Nat × Nat × Port) : State :=
  let q : Port :=
    { p.2.2 with ctx := r.ctx, sh := r.sh p.2.2.sh, job := ((ids.findIdx? fun i => i == p.2.2.job).map (r.job + ·)).getD (2 ^ 64) }
  s.modCore (r.core p.1) fun c => { c with ports := NMap.set c.ports p.2.1 q }

/-- The image applied (R430). -/
def State.applyThaw (s : State) (ctx : Nat) (m : FrzImage) (f : Frozen) (r : Renaming) : State :=
  let own := wbits (s.ctx ctx).own 0 7
  let late : Int := (s.dcc : Int) - fdw m.bytes 16
  let s := f.queues.foldl (fun (s : State) (q : Nat × HQueue) => s.modQueue (lookup r.qs q.1) fun _ =>
    let keep := q.2.cfg.toNat - fields [(48, wbits q.2.cfg 48 7), (28, wbits q.2.cfg 28 12)]
    { q.2 with oldest := q.2.oldest.map (moved late), sent := none, cfg := w64 (keep + fields [(48, own), (28, ctx)]), st := 1, errst := 0,
               pkts := q.2.pkts.map fun (p : Pkt) => { p with table := p.table.map (lookup r.tabs) } }) s
  let s := f.tables.foldl (fun (s : State) (t : Nat × GTable) => { s with tables := NMap.set s.tables (lookup r.tabs t.1) ((r.table t.2).rebase late) }) s
  let s := if f.rings.isEmpty then f.tables.foldl (fun (s : State) (t : Nat × GTable) => s.declRings (lookup r.tabs t.1) (r.table t.2)) s
    else { s with rings := s.rings ++ f.rings.map fun (o : RingObj) => { o with dom := r.dom o.space o.dom, table := lookup r.tabs o.table } }
  let s := { s with
    manifests := s.manifests ++ f.manifests.map fun (e : Nat × Nat × Nat) => (e.1, lookup r.tabs e.2.1, e.2.2),
    opens := NMap.put s.opens ctx 0 f.opens }
  let s := ((upto 0 f.shifts.length).zip f.shifts).foldl (fun (s : State) (e : Nat × Nat × Shift) =>
    let i := r.sh e.2.1
    let s := { s with shifts := NMap.set s.shifts i ((r.shift e.2.1 e.2.2).rebase (fdw (m.shiftBytes e.1) 0x20) s.dcc) }
    if 4 ≤ i % 8 then s
    else (s.modCore (i / 8) fun c => { c with order := c.order ++ [i % 8] }).restoreBanks m e.1 (i / 8) e.2.2.place.banks) s
  let s := s.restoreShared r m.bytes.length (m.bytes.drop (recAt m.nsh))
  let s := { s with jobs := s.jobs ++ ((upto 0 f.jobs.length).zip f.jobs).map fun (e : Nat × Job) => (r.jobOf e.1 e.2).rebase s.dcc,
                    nextJob := s.nextJob + f.jobs.length }
  let s := f.ports.foldl (fun (s : State) p => s.rearmPort r (f.jobs.map (·.id)) p) s
  let s := f.tables.foldl (fun (s : State) (t : Nat × GTable) => s.refillLinks (lookup r.tabs t.1) (r.table t.2)) s
  s.modCtx ctx fun c => { c with frzState := 3, frzErr := 0, frzShifts := m.nsh }

/-- A thaw that fails (R430). -/
def State.thawFail (s : State) (ctx err : Nat) : State := s.modCtx ctx fun c => { c with frzErr := err }

/-- The state that an image holds, and whether its shifts bear the numbers that they had at the freeze. -/
def State.imageState (s : State) (ctx : Nat) (m : FrzImage) : Option (Frozen × Bool) :=
  match m.kept ctx with
  | some f => some (f, true)
  | none => (s.parseImage ctx m).map fun f => (f, false)

/-- A thaw's checks, and the image applied where they hold (R430). -/
def State.thaw (s : State) (ctx : Nat) : State :=
  match s.readImage (s.frzBase ctx) with
  | none => s.thawFail ctx 3
  | some m =>
    if !distinct m.qnums || m.qnums.any (fun q => (s.queue q).st != 0) then s.thawFail ctx 5
    else
      match s.imageState ctx m with
      | none => s.thawFail ctx 4
      | some (f, numbered) =>
        let free := (upto 0 256).filter fun k => (s.table? k).isNone
        match s.thawPlaces ctx m f.shifts with
        | none => s.thawFail ctx 4
        | some ps =>
          let by_ (n : Nat) : List (Nat × Nat) := if numbered then ps.map fun p => (p.1 / n, p.2 / n) else []
          if free.length < f.tables.length then s.thawFail ctx 4
          else s.applyThaw ctx m f
            { shs := ps, crews := by_ 64, dies := by_ 512, tabs := (f.tables.map (·.1)).zip free, qs := (f.queues.map (·.1)).zip m.qnums, job := s.nextJob,
              ctx := ctx }

/-- A write of CTXFRZ with its thaw. -/
def State.putCtxfrz (s : State) (ctx : Nat) (v : Word) : State :=
  let t := s.writeCtxfrz ctx v
  if v.getLsbD 1 && !s.ctxfrzBad ctx v then t.thaw ctx else t

/-- THAW (R426, R430). -/
def execThaw (fn ctx : Nat) (v : Word) (s : State) : Out :=
  .next (if fn = 64 ∧ ctx < 4096 ∧ v.getLsbD 1 then s.putCtxfrz ctx v else s.regErr)

/-- THAW_COMPLETE (R430): the context's queues and shifts resume, their copy jobs checked again (R429). -/
def execThawComplete (ctx : Nat) (s : State) : Out :=
  .next (if (s.ctx ctx).frzState = 3 then ((s.modCtx ctx fun c => { c with frzState := 0 }).recheckCopies ctx).giveTurns else s)

end Sys2Proof.Machine
end

