-- ==== Sys2Proof/Machine/Translation.lean ====
section
/-!
DEFINITION. Walks and invalidations (R337, R341, R343 to R345), and the collapse of duplicated pages (R347). The accesses themselves walk, set AC and DT
and log in Memory.lean.
-/
namespace Sys2Proof.Machine

/-- PAGE_WALK (R337, R341): a walk for a unit's TLB; its translation is cached in the unit's room, without setting AC or DT (R338), and one that would fault
has no effect. -/
def execPageWalk (unit ctx : Nat) (va : Addr) (kind : AccKind) (s : State) : Out :=
  match s.walk unit ctx va.toNat (kind == .write) (kind == .fetch) with
  | .error _ => .next s
  | .ok e => .next (s.cacheTlb e)

/-! ## Invalidation -/

/-- The size of the first-stage page of a cached translation. -/
def Tlb.firstSize (e : Tlb) : Nat :=
  match e.path.find? fun p => p.stage == 1 && some p.at_ == e.leaves.head? with
  | none => e.size
  | some p => if nbits p.value 61 2 = 2 then 65536 else levelSize p.level

/-- Whether an invalidation covers a cached translation (R343, R344): every one derived from an entry that it covers. Kinds 3 and 4 take every
translation of the context with a second stage. -/
def Tlb.covered (e : Tlb) (kind ctx addr : Nat) : Bool :=
  match kind with
  | 0 => e.ctx == ctx && e.va / e.firstSize == addr * 4096 / e.firstSize
  | 1 => e.ctx == ctx && e.va / 2 ^ 57 == nbits addr 45 15
  | 2 => e.ctx == ctx
  | 3 | 4 => e.ctx == ctx && e.path.any fun p => p.stage == 2
  | _ => true

/-- Whether an invalidation covers a cached upper-level entry (R341, R343): those of the context's first stage that serve the page or the region, or every one
of the context. -/
def Upper.covered (u : Upper) (kind ctx addr : Nat) : Bool :=
  match kind with
  | 0 => u.ctx == ctx && u.stage == 1 && u.base == addr * 4096 % 2 ^ 57 / levelSize (u.level + 1) * levelSize (u.level + 1)
  | 1 => u.ctx == ctx && u.stage == 1
  | 5 => true
  | _ => u.ctx == ctx

/-- A write of TLBIA by a function to a port (Table 17.6). -/
def State.writeTlbia (s : State) (port : Nat) (v : Word) : State :=
  if wbits v 60 4 ≠ 0 then s.regErr else s.modFunc port fun x => { x with tlbia := v }

/-- A write of TLBIC to a port (Table 17.7, R343). -/
def State.writeTlbic (s : State) (port : Nat) (v : Word) : State :=
  let kind := wbits v 8 4
  let ctx := wbits v 20 12
  let go := v.getLsbD 0
  let x := s.func port
  if wbits v 17 3 ≠ 0 ∨ wbits v 12 4 ≠ 0 ∨ wbits v 1 7 ≠ 0 ∨ 5 < kind ∨ (2 < kind ∧ port ≠ 64) ∨
      (port ≠ 64 ∧ wbits (s.ctx ctx).own 0 7 ≠ port) ∨ (go ∧ x.topen.isSome) then s.regErr
  else s.modFunc port fun x =>
    { x with tlbic := w64 (kind * 256 + ctx * 2 ^ 20), topen := if go then some (kind, ctx, x.tlbia.toNat) else x.topen }

/-- Whether a function's window reaches an invalidation port (R385). -/
def reachesPort (fn port : Nat) : Bool := decide (port ≤ 64) && (fn == 64 || (fn == port && decide (fn < 64)))

/-- A GO at a port, as a function's window gives it. -/
def State.tlbi (s : State) (fn port : Nat) (v : Word) : State := if reachesPort fn port then s.writeTlbic port v else s.regErr

/-- TLBI_PAGE (R343), KIND 0. -/
def execTlbiPage (fn port : Nat) (v : Word) (s : State) : Out := .next (s.tlbi fn port v)
/-- TLBI_REGION (R343), KIND 1. -/
def execTlbiRegion (fn port : Nat) (v : Word) (s : State) : Out := .next (s.tlbi fn port v)
/-- TLBI_CONTEXT (R343), KIND 2. -/
def execTlbiContext (fn port : Nat) (v : Word) (s : State) : Out := .next (s.tlbi fn port v)
/-- TLBI_S2_PAGE (R343), KIND 3. -/
def execTlbiS2Page (fn port : Nat) (v : Word) (s : State) : Out := .next (s.tlbi fn port v)
/-- TLBI_S2_CONTEXT (R343), KIND 4. -/
def execTlbiS2Context (fn port : Nat) (v : Word) (s : State) : Out := .next (s.tlbi fn port v)
/-- TLBI_ALL (R343), KIND 5. -/
def execTlbiAll (fn port : Nat) (v : Word) (s : State) : Out := .next (s.tlbi fn port v)

/-- Whether an access that may have used a covered entry is still on its way (R344): of the contexts covered, or of a shift that has ended. A wait at a home
has not taken its value, and the stores of a bundle are performed when its seals have reached their homes, here or in another package. -/
def State.usesOpen (s : State) (kind ctx : Nat) : Bool :=
  let of (i : Option Nat) : Bool := kind == 5 || (i.bind s.ctxOf).getD ctx == ctx
  (s.msgs.any fun m => match m with
    | .req r => (match r.at_ with | .glob _ _ | .fab _ _ _ => of r.sh | _ => false)
    | .own _ _ _ _ _ | .seal _ _ _ _ _ => true
    | _ => false) ||
  (s.fab.ops.any fun o => (o.kind != 6 && of o.sh) || actIsSeal o.act) ||
  (s.waiters.any fun w => w.sh != fabParty && (match w.why with | .ge (.glob _ _) _ _ _ | .bar (.glob _ _) _ => w.answer.isNone && of (some w.sh) | _ => false)) ||
  s.shifts.any fun e => e.2.bundle.v && e.2.bundle.members != [] && of (some e.1)

/-- Cached translations removed. -/
def State.invalidate (s : State) (kind ctx addr : Nat) : State := 
  { s with tlb := s.tlb.filter (fun e => !e.covered kind ctx addr), uppers := s.uppers.filter fun u => !u.covered kind ctx addr }

/-- INVALIDATION_COMPLETE (R344): every derived entry is removed, and the accesses that used one have been performed; BUSY falls and DONE grows. -/
def execInvalidationComplete (port : Nat) (s : State) : Out :=
  match (s.func port).topen with
  | none => .next s
  | some (k, c, a) =>
    if s.usesOpen k c then .next s
    else .next ((s.invalidate k c a).modFunc port fun x => { x with topen := none, tdone := x.tdone + 1 })

/-! ## Read duplication -/

/-- Whether a replica read of a page by a die is still on its way (R347). -/
def State.replicaRead (s : State) (c : Collapse) (die : Nat) : Bool :=
  let rep := c.page - nbits c.page c.rsh 2 * 2 ^ c.rsh + die * 2 ^ c.rsh
  let here (pa : Nat) : Bool := decide (rep ≤ pa) && decide (pa < rep + c.size)
  (s.msgs.any fun m => match m with
    | .req r => (match r.at_ with
      | .glob pa _ => !r.op.writes && here pa && ((r.sh.map fun i => coreOf i / 64) == some die)
      | _ => false)
    | _ => false) ||
  s.fab.ops.any fun o => o.die == die && o.pkg == s.mg.idpkg && (match o.act with | .read pa _ => here pa | _ => false)

/-- COLLAPSE_ACK (R347): die `die` acknowledges record k once its entries for the page are gone and its replica reads have completed; at the last, RDUP
of the leaf is cleared and the record closed. -/
def execCollapseAck (k die : Nat) (s : State) : Out :=
  match s.collapses[k]? with
  | none => .next s
  | some c =>
    let rest := c.dies.filter (· != die)
    -- no replica, that of the writer's die among them, serves a read once the writes go on; the clear of RDUP is held under a pending version (R222)
    let last : Bool := rest.isEmpty && ((upto 0 4).any (s.replicaRead c) || s.pendLine (c.leaf / 128) || ownAhead s.msgs c.leaf)
    if !c.dies.contains die ∨ s.replicaRead c die ∨ last then .next s
    else
      let t := { s with tlb := s.tlb.filter fun e => !(e.dupBy c.leaf && e.unit / 512 == die), collapses := setAt s.collapses k { c with dies := rest } }
      .next (if rest.isEmpty then t.clearDup c.leaf else t)

end Sys2Proof.Machine
end

