-- ==== Sys2Proof/Machine/Tenancy.lean ====
section
/-!
DEFINITION. Keys and the sweeper (R350 to R352), virtual devices (R353), adapters (R355 to R359) and attestation (R360 to R362).
-/
namespace Sys2Proof.Machine

/-! ## Keys -/

/-- The state of a key slot: 0 FREE, 1 LIVE, 2 RETIRING. -/
def State.keyState (s : State) (k : Nat) : Nat := ((NMap.get? s.keys.slots k).map (·.st)).getD 0

/-- The key unit changed. -/
def State.modKeys (s : State) (f : Keys → Keys) : State := { s with keys := f s.keys }

/-- A write of KEYD (R352): the next dword of the pair; more than eight are only counted. -/
def State.writeKeyd (s : State) (v : Word) : State := s.modKeys fun k => { k with seq := if k.seq.length < 9 then k.seq ++ [v] else k.seq }

/-- KEYD_WRITE (R352). -/
def execKeydWrite (fn : Nat) (v : Word) (s : State) : Out := .next (if fn = 64 then s.writeKeyd v else s.regErr)

/-- The pair of eight dwords, data key first and low dwords first. -/
def pairOf (ws : List Word) : BitVec 512 := BitVec.ofNat 512 (ofLE (ws.flatMap fun w => leBytes 8 w.toNat))

/-- The KEYD sequence cleared, as every write to KEYCMD does. -/
def State.clearKeyd (s : State) : State := s.modKeys fun k => { k with seq := [] }

/-- A write of KEYCMD (R352). -/
def State.writeKeycmd (s : State) (v : Word) : State :=
  let id := wbits v 8 8
  let t := s.clearKeyd
  let put (e : KeySlot) : State := t.modKeys fun k => { k with id := id, slots := NMap.set k.slots id e }
  if wbits v 26 38 ≠ 0 ∨ wbits v 16 8 ≠ 0 ∨ wbits v 2 6 ≠ 0 then t.regErr
  else match wbits v 0 2 with
    | 1 => if s.keyState id = 0 ∧ s.keys.seq.length = 8 then put { st := 1, pair := pairOf s.keys.seq } else t.regErr
    | 2 => if s.keyState id = 1 ∧ id ≠ 0 then put { st := 2, pair := ((NMap.get? s.keys.slots id).map (·.pair)).getD 0 } else t.regErr
    | _ => t.modKeys fun k => { k with id := id }

/-- KEY_LOAD (R352). -/
def execKeyLoad (fn : Nat) (v : Word) (s : State) : Out := .next (if fn = 64 then s.writeKeycmd v else s.regErr)

/-- KEY_RETIRE (R352). -/
def execKeyRetire (fn : Nat) (v : Word) (s : State) : Out := .next (if fn = 64 then s.writeKeycmd v else s.regErr)

/-- A line under a retiring slot zeroed and retagged 0, with the side entry of that slot (R352). -/
def State.sweepLine (s : State) (slot n : Nat) : State :=
  let l := s.line n
  let side := l.side.map fun e => if e.key = slot then { e with key := 0, data := zeros 128, poison := 0 } else e
  if l.tag = slot then
    { s with glob := s.glob.put (s.globAt (n * 128)) (zeros 128), cache := NMap.del s.cache n }.modLine n fun l => { l with tag := 0, poison := 0, pennant := none, side := side }
  else s.modLine n fun l => { l with side := side }

/-- KEY_SWEEP_LINE (R352): the sweeper visits a line at its home. -/
def execKeySweepLine (slot line : Nat) (s : State) : Out := .next (if s.keyState slot = 2 then s.sweepLine slot line else s)

/-- Whether a line still bears a slot. -/
def Line.bears (l : Line) (slot : Nat) : Bool := l.tag == slot || (match l.side with | some e => e.key == slot | none => false)

/-- KEY_SWEEP_END (R352): no line is left under the slot; it becomes FREE, and its keys are erased. -/
def execKeySweepEnd (slot : Nat) (s : State) : Out :=
  .next (if s.keyState slot = 2 ∧ !(s.lines.any fun l => l.2.bears slot) then s.modKeys fun k => { k with slots := NMap.del k.slots slot } else s)

/-! ## Virtual devices -/

/-- A write of VFCTL (R353). -/
def State.writeVfctl (s : State) (vf : Nat) (v : Word) : State :=
  let x := s.func vf
  let en := v.getLsbD 0
  if wbits v 2 62 ≠ 0 ∨ (v.getLsbD 1 ∧ x.vst ≠ 1) ∨ (en ∧ x.vst = 2) then s.regErr
  else if v.getLsbD 1 then
    let t := s.modFunc vf fun x => { x with en := en, vst := 2 }
    { t with queues := t.queues.map fun q =>
        if q.2.fn = vf ∧ (q.2.st = 1 ∨ q.2.st = 2) then (q.1, { q.2 with st := 3 }) else q }
  else s.modFunc vf fun x => { x with en := en, vst := if x.vst = 2 then 2 else bnat en }

/-- Whether a function's window reaches the registers of a device (R385). -/
def reachesVf (fn vf : Nat) : Bool := decide (vf < 64) && (fn == 64 || fn == vf)

/-- VF_RESET (R353): the first step of a reset; `State.vfResetStep` runs the others. -/
def execVfReset (fn vf : Nat) (v : Word) (s : State) : Out := .next (if reachesVf fn vf then s.writeVfctl vf v else s.regErr)

/-- VF_ENABLE (R353). -/
def execVfEnable (fn vf : Nat) (v : Word) (s : State) : Out := .next (if reachesVf fn vf then s.writeVfctl vf v else s.regErr)

/-- The copy of an adapter dropped. -/
def Pin.drop (p : Pin) : Pin := { p with copy := none, version := 0 }

/-- An adapter whose pin count has come to 0: its copy is dropped where it is revoked (R359). -/
def Pin.unpinned (p : Pin) : Pin := if p.revoked then { p.drop with count := 0 } else { p with count := 0 }

/-- The pins of a context released (R353, R357): revoked copies are dropped. -/
def Ctx.release (c : Ctx) : Ctx := { c with pins := c.pins.map fun p => (p.1, p.2.unpinned) }

/-- The nodes of a table that have neither completed nor failed fail with ABANDONED, and the launch finishes after the last of them (R246, R353). -/
def State.abandonTable (s : State) (t : Nat) : State :=
  match s.table? t with
  | none => s
  | some T => ((upto 0 T.nodes.length).foldl (fun (s : State) n =>
      match s.node? t n with
      | some x => if x.state = 4 ∨ x.state = 5 then s else (s.failOnly t n 0x10).dropEdges t n
      | none => s) s).launchFinish t

/-- The packets of a device's queues that have not come to run end with ABANDONED: a launch, and an ADITX as not delivered. -/
def State.abandonPackets (s : State) (vf : Nat) : State :=
  s.queues.foldl (fun (s : State) q =>
    if q.2.fn ≠ vf then s
    else q.2.pkts.foldl (fun (s : State) p =>
      match nbits p.hd 0 8 with
      | 1 => if p.table.isSome then s else s.finishPkt q.1 p.idx 1 0x10
      | 3 => s.finishPkt q.1 p.idx 3 (p.moved.getD 0)
      | _ => s) s) s

/-- The shifts, pins, nodes and packets of a device's contexts ended (R353, step 2). -/
def State.vfDiscard (s : State) (vf : Nat) : State :=
  let own (c : Nat) : Bool := s.deviceOf c == some vf
  let s := (s.tables.filter fun t => own t.2.ctx).foldl (fun (s : State) t => s.abandonTable t.1) s
  let s := (s.shifts.filter fun e => e.1 % 8 < 4 && own e.2.place.ctx).foldl (fun (s : State) e => s.endShift e.1 0x10) s
  let s := { s with ctxs := s.ctxs.map fun (c : Nat × Ctx) => if own c.1 then (c.1, c.2.release) else c }
  s.abandonPackets vf

/-- The later steps of a device's reset (R353): its work discarded, then, once no access of its contexts is on its way, the invalidation of each of
them, and OFF. -/
def State.vfResetStep (s : State) (vf : Nat) : Option State :=
  if (s.func vf).vst ≠ 2 then none
  else
    let own (c : Nat) : Bool := s.deviceOf c == some vf
    if (s.shifts.any fun e => own e.2.place.ctx) || (s.tables.any fun t => own t.2.ctx) ||
        (s.queues.any fun q => q.2.fn == vf && q.2.pkts.any fun p => p.table.isNone && nbits p.hd 0 8 != 2) then some (s.vfDiscard vf)
    else if s.straying fun _ => true then none
    else some ({ s with tlb := s.tlb.filter (fun e => !own e.ctx), uppers := s.uppers.filter fun u => !own u.ctx }.modFunc vf fun x => { x with vst := 0, en := false })

/-! ## Adapters -/

/-- The pin of an adapter. -/
def Ctx.pin (c : Ctx) (i : Nat) : Pin := NMap.getD c.pins i Pin.zero

/-- A pin of a context set. -/
def State.setPin (s : State) (ctx i : Nat) (p : Pin) : State := s.modCtx ctx fun c => { c with pins := NMap.put c.pins i Pin.zero p }

/-- The line of a descriptor. -/
def Ctx.descLine (c : Ctx) (i : Nat) : Nat := wbits c.adtb 7 45 + i

/-- A descriptor read under a shift's implicit view (R234, R358): none where the read waits; else the state after it, the line's 16 dwords, and
whether it is poisoned. -/
def State.readDescriptor (s : State) (line : Nat) : Option (State × List Nat × Bool) :=
  match s.seeLine s.x.noView (s.fabLine line) (s.penOf line) with
  | none => none
  | some (x', f) =>
    let t := s.modX fun x => { x with opt := x'.opt }
    let t := match f with
      | some f => t.fetchForward line f.name f.version
      | none => t
    let r := t.peek (line * 128) 128 none
    some (t, (upto 0 16).map (dwordAt r.1), r.2.1)

/-- The fields of a descriptor (R356): V, LEN and the weights' address; none where a reserved bit is set or V is 0. -/
def descFields (d : List Nat) : Option (Nat × Nat) :=
  let w (k : Nat) : Nat := (d[k]?).getD 0
  if !nbit (w 0) 63 || nbits (w 0) 60 3 != 0 || nbits (w 0) 40 16 != 0 || nbits (w 2) 8 56 != 0 || (upto 4 12).any (fun k => w k != 0) then none
  else some (nbits (w 0) 0 40, w 1 + nbits (w 2) 0 8 * 2 ^ 64)

/-- Whether every byte of a context's range lies in an ADWIN window; none where it does not translate. -/
def State.inWindow (s : State) (ctx : Nat) : Nat → Nat → Nat → Bool
  | 0, _, _ => true
  | fuel + 1, va, n =>
    if n = 0 then true
    else match s.translate partUnit ctx (va % 2 ^ 72) false false with
      | .error _ => false
      | .ok e =>
        let k := min n (max 1 (e.va + e.size - va % 2 ^ 72))
        e.fab.isNone && decide (stackedEnd ≤ e.pa + (va % 2 ^ 72 - e.va)) && s.inWindow ctx fuel (va + k) (n - k)

/-- The lowest offset of the cache at which n bytes lie apart from the copies (log 23); copies stand at multiples of 128 bytes. -/
def cacheFit (copies : List (Nat × Nat)) (size n : Nat) : Option Nat :=
  let ends := 0 :: copies.map fun c => (c.1 + c.2 + 127) / 128 * 128
  (sortBy (fun a b => decide (a < b)) ends).find? fun o =>
    decide (o + n ≤ size) && copies.all fun c => decide (o + n ≤ c.1) || decide (c.1 + c.2 ≤ o)

/-- Copies of a pin table, as offset and length. -/
def Ctx.copies (c : Ctx) (pinned : Bool) : List (Nat × Nat) := c.pins.filterMap fun p => if pinned ∧ p.2.count = 0 then none else p.2.copy

/-- Where a fill of n bytes goes in a context's cache, and the context after the evictions it takes: none where there is no room (R358). -/
def Ctx.room (c : Ctx) (n : Nat) : Option (Nat × Ctx) :=
  let size := wbits c.adlim 48 16 * 2 ^ 21
  match cacheFit (c.copies false) size n with
  | some o => some (o, c)
  | none =>
    match cacheFit (c.copies true) size n with
    | some o => some (o, { c with pins := c.pins.map fun p => if p.2.count = 0 then (p.1, p.2.drop) else p })
    | none => none

/-- The first byte of a context's cache region. -/
def Ctx.cacheBase (c : Ctx) : Nat := wbits c.adcb 0 15 * 2 ^ 57

/-- Bytes put into the cache by physical writes under its region's key (R222, R355), line by line. -/
def State.cachePut (s : State) (ctx : Nat) : Nat → Nat → List Byte → Except FaultInfo State
  | 0, _, _ => .ok s
  | fuel + 1, va, bs =>
    let k := min bs.length (128 - va % 128)
    if bs.isEmpty then .ok s
    else match s.translate partUnit ctx (va % 2 ^ 72) false false with
      | .error f => .error (f.info 0 va)
      | .ok e =>
        ((s.useEntry e (va % 2 ^ 72) false).ownLine e (va % 2 ^ 72) (bs.take k)).cachePut ctx fuel (va + k) (bs.drop k)

/-- The weights read as an engine reads, through the shift's translation and footprints. -/
def State.fillRead (s : State) (i : Instr) (va n : Nat) : EngRead :=
  s.engineRead (s.newJob i 0 0 0 0 va 0) s.x 3 false .glob va n

/-- What an ADPIN or ADUNPIN comes to: it waits in a state, it faults, or the state after it, its status word and its address. -/
inductive PinOut where
  | wait (s : State)
  | fault (f : FaultInfo)
  | done (s : State) (status : Word) (a : Option Addr)

/-- The status word of ADPIN and ADUNPIN (R358). -/
def pinStatus (count : Nat) (inplace : Bool) (code : Nat) : Word := w64 (fields [(48, count), (8, bnat inplace), (0, code)])

/-- The address of a pinned adapter: its copy, or the weights in place. -/
def Ctx.pinAddr (c : Ctx) (p : Pin) (weights : Nat) : Addr :=
  match p.copy with
  | some k => BitVec.ofNat 72 (c.cacheBase + k.1)
  | none => BitVec.ofNat 72 weights

/-- The pin table's answer (R358): `op` 0 ADPIN, 1 ADPIN.chk, 2 ADUNPIN. -/
def State.pinAnswer (s : State) (i : Instr) (op idx : Nat) : PinOut :=
  let ctx := s.x.place.ctx
  let c := s.ctx ctx
  let p := c.pin idx
  if !c.adtb.getLsbD 63 ∨ wbits c.adlim 0 17 ≤ idx then .done s (pinStatus p.count false 0x11) none
  else match s.readDescriptor (c.descLine idx) with
    | none => .wait (s.askSettled s.me)
    | some (t, d, bad) =>
      if bad then .fault { code := 0x13, faddr := a72i (c.descLine idx * 128 : Nat) }
      else match descFields d with
        | none => .done t (pinStatus p.count false 0x13) none
        | some (len, weights) =>
          match op with
          | 2 =>
            if p.count = 0 then .done t (pinStatus 0 false 0x14) none
            else
              let q := if p.count = 1 then p.unpinned else { p with count := p.count - 1 }
              .done (t.setPin ctx idx q) (pinStatus q.count false 0) none
          | 1 =>
            if p.revoked then .fault { code := 0x10 }
            else if p.count = 0 then .done t (pinStatus 0 false 0x14) none
            else .done t (pinStatus p.count p.copy.isNone 0) (some (c.pinAddr p weights))
          | _ =>
            if p.revoked then .fault { code := 0x10 }
            else if p.count = 0xFFFF then .done t (pinStatus p.count false 0x12) none
            else
              let pinned (t : State) (q : Pin) : PinOut :=
                .done (t.setPin ctx idx { q with count := p.count + 1 }) (pinStatus (p.count + 1) q.copy.isNone 0) (some (c.pinAddr q weights))
              if p.count ≠ 0 ∨ p.copy.isSome then pinned t p
              else match (if t.inWindow ctx (len / 4096 + 2) weights len then c.room len else none) with
                | none => pinned t p
                | some (o, c') =>
                  match t.virtWait partUnit ctx (c.cacheBase + o) len with
                  | some t => .wait t
                  | none =>
                  match t.fillRead i weights len with
                  | .wait => .wait s
                  | .fault f => .fault f
                  | .remote _ _ _ _ => pinned t p
                  | .data bs t =>
                    match (t.modCtx ctx fun _ => c').cachePut ctx (len / 128 + 2) (c.cacheBase + o) bs with
                    | .error f => .fault f
                    | .ok t => pinned t { p with copy := some (o, len), version := w64 ((d[3]?).getD 0) }

/-- The check of ADPIN and ADUNPIN: held until earlier accesses have been performed and the descriptor can be read (R193, R358). -/
def State.pinCheck (s : State) (i : Instr) (op idx : Nat) : Verdict :=
  if s.accessPending s.me then .hold s
  else match s.pinAnswer i op idx with
    | .wait t => .hold t
    | .fault f => .fault f
    | .done _ _ _ => .go

/-- The effect of ADPIN and ADUNPIN: the status and the address land one cycle later. -/
def State.pinDo (s : State) (i : Instr) (op idx : Nat) (sd : SNum) (aw : ANum) : State :=
  match s.pinAnswer i op idx with
  | .done t w a =>
    let t := t.land 1 0 (.s sd w)
    match a with
    | some a => t.land 1 0 (.a aw a)
    | none => t
  | _ => s

/-- ADPIN (R358). -/
def execAdpin (chk : Bool) (sd : SNum) (aw : ANum) (sn : SNum) (s : State) : Out :=
  let i : Instr := .adpin chk sd aw sn
  atIssue (fun s => s.pinCheck i (bnat chk) (wbits (s.rs sn) 0 16)) (fun s => s.pinDo i (bnat chk) (wbits (s.rs sn) 0 16) sd aw) s

/-- ADUNPIN (R358). -/
def execAdunpin (sd sn : SNum) (s : State) : Out :=
  let i : Instr := .adunpin sd sn
  atIssue (fun s => s.pinCheck i 2 (wbits (s.rs sn) 0 16)) (fun s => s.pinDo i 2 (wbits (s.rs sn) 0 16) sd 0) s

/-- A write of ADREV (R359). -/
def State.writeAdrev (s : State) (ctx : Nat) (v : Word) : State :=
  let idx := wbits v 0 16
  if wbits v 16 46 ≠ 0 then s.regErr
  else
    let t := s.modCtx ctx fun c => { c with adrev := w64 idx }
    let p := (t.ctx ctx).pin idx
    if !v.getLsbD 63 then t
    else if v.getLsbD 62 then t.setPin ctx idx { p with revoked := false }
    else t.setPin ctx idx (if p.count = 0 then { p.drop with revoked := true } else { p with revoked := true })

/-- ADREV_REVOKE (R359). -/
def execAdrevRevoke (fn ctx : Nat) (v : Word) (s : State) : Out := .next (if fn = 64 ∧ ctx < 4096 then s.writeAdrev ctx v else s.regErr)

/-- ADREV_CLEAR (R359). -/
def execAdrevClear (fn ctx : Nat) (v : Word) (s : State) : Out := .next (if fn = 64 ∧ ctx < 4096 then s.writeAdrev ctx v else s.regErr)

/-- ADAPTER_EVICTION (R357): the copy of an adapter with no pin is dropped. -/
def execAdapterEviction (ctx idx : Nat) (s : State) : Out :=
  let p := (s.ctx ctx).pin idx
  .next (if p.count = 0 ∧ p.copy.isSome then s.setPin ctx idx p.drop else s)

/-! ## Attestation -/

/-- A write of ATTN (R360). -/
def State.writeAttn (s : State) (port : Nat) (v : Word) : State := s.modFunc port fun x => { x with nonce := x.nonce.drop 1 ++ [v] }

/-- ATTN_WRITE (R360). -/
def execAttnWrite (fn port : Nat) (v : Word) (s : State) : Out := .next (if reachesPort fn port then s.writeAttn port v else s.regErr)

/-- The place of a new request among those of all ports. -/
def State.attNext (s : State) : Nat := s.funcs.foldl (fun a f => match f.2.attReq with | some r => max a (r.2.2.2 + 1) | none => a) 0

/-- A write of ATTCTL (R360). -/
def State.writeAttctl (s : State) (port : Nat) (v : Word) : State :=
  let vf := wbits v 2 7
  let go := v.getLsbD 0
  let x := s.func port
  if wbits v 52 12 ≠ 0 ∨ wbits v 1 1 ≠ 0 ∨ 64 < vf ∨ (port ≠ 64 ∧ vf ≠ port) ∨ (go ∧ x.attReq.isSome) then s.regErr
  else s.modFunc port fun x =>
    let x := { x with attctl := v &&& ~~~1 }
    if go then { x with attReq := some (wbits v 9 43 * 512, vf, x.nonce, s.attNext), attDone := false } else x

/-- ATTEST_GO (R360). -/
def execAttestGo (fn port : Nat) (v : Word) (s : State) : Out := .next (if reachesPort fn port then s.writeAttctl port v else s.regErr)

/-- The image tags of a context (R361): those of its resident shifts' bindings and of the link stores that its nodes use. -/
def State.tagList (s : State) (ctx : Nat) : List Nat :=
  let shifts := (s.shifts.filter fun e => e.2.place.ctx == ctx).flatMap fun e => e.2.img.binds.map (·.tag.toNat)
  let links := (s.links.filter fun l => l.2.users.any fun u => (s.table? u.1).map (·.ctx) == some ctx).map (·.2.tag.toNat)
  sortBy (fun a b => decide (a < b)) (shifts ++ links).eraseDups

/-- The context list of a function as a byte string (R361). -/
def State.contextList (s : State) (f : Nat) : List Byte :=
  (upto 0 4096).flatMap fun c =>
    if wbits (s.ctx c).own 0 7 = f then
      let ts := s.tagList c
      leBytes 8 c ++ leBytes 8 ts.length ++ ts.flatMap (leBytes 8)
    else []

/-- IDFW (R19, R384). -/
def State.idfw (s : State) : Word := w64 (s.mg.version * 2 ^ 32 + s.mg.build)

/-- Bytes of a bit string, most significant first. -/
def beBytes (n : Nat) (x : Nat) : List Byte := (leBytes n x).reverse

/-- The report of R360. -/
def State.report (s : State) (vf : Nat) (nonce : List Word) : List Byte :=
  let digest := if vf = 64 ∨ (s.func vf).vst = 1 then sha256 (s.contextList vf) else zeros 32
  let head := leBytes 8 0x4154_5453 ++ leBytes 8 Config.serial.toNat ++ leBytes 8 s.idfw.toNat ++ leBytes 8 vf ++
    nonce.flatMap (fun w => leBytes 8 w.toNat) ++ beBytes 32 (Config.firmwareDigest s.mg.fwImage).toNat ++ digest
  head ++ beBytes 384 (Config.signature (BitVec.ofNat 256 (ofLE (sha256 head).reverse))).toNat

/-- ATTEST_DONE (R360): the oldest request served; its report is written under key slot 0, and DONE is set. -/
def execAttestDone (port : Nat) (s : State) : Out :=
  match (s.func port).attReq with
  | none => .next s
  | some (at_, vf, nonce, rank) =>
    let first := s.funcs.all fun f => match f.2.attReq with | some r => decide (rank ≤ r.2.2.2) | none => true
    let ls := linesOf at_ 512
    if !first ∨ ls.any (fun l => s.pendLine (l.1 / 128) || s.collapsing l.1) then .next s
    else
      let bs := s.report vf nonce
      let t := ls.foldl (fun (t : State) l => t.storeAt (.glob l.1 0) ((bs.drop (l.1 - at_)).take l.2)) s
      .next (t.modFunc port fun x => { x with attReq := none, attDone := true })

end Sys2Proof.Machine
end

