-- ==== Sys2Proof/Machine/Reset.lean ====
section
/-!
DEFINITION. Cold and warm reset (R11, R19, R294), power-up (R382), and the firmware image (R384).
-/
namespace Sys2Proof.Machine

/-! ## Resets -/

/-- The hewers in service where units of the power-up order were left off. -/
def hewersUp (off : List Nat) : BitVec 8 := BitVec.ofNat 8 (((upto 0 8).filter fun h => !off.contains (4 + h)).foldl (fun a h => a + 2 ^ h) 0)

/-- The adits after a cold reset: those that were left off stay down. -/
def aditsUp (off : List Nat) : Vector Adit 36 := Vector.ofFn fun n => { Adit.zero with down := off.contains (65 + n.val) }

/-- What outlasts a cold reset: the outside world, the stores of the overman (R378, R384), the counter of free values, whether the part has power, and how
far its power-up has come, with what that left off (R16, R379, R382); and a black box that was flushed (R383). -/
def State.afterCold (s : State) : State :=
  { State.reset with
    agenda := s.agenda, host := s.host, irqs := s.irqs, replies := s.replies, free := s.free,
    fab := { Fabric.zero with adits := aditsUp s.mg.off },
    mg := { Mgmt.zero with
      retired := s.mg.retired, fwStored := s.mg.fwStored, powered := s.mg.powered, powerStep := s.mg.powerStep, off := s.mg.off,
      coresvc := s.mg.coresvc, hewers := hewersUp s.mg.off,
      box := if s.mg.flushed then s.mg.box else [], boxHead := if s.mg.flushed then s.mg.boxHead else 0 } }

/-- COLD_RESET (R11). -/
def execColdReset (s : State) : Out := .next s.afterCold

/-- Whether a local physical address lies in chunk n of stacked memory (chapter 22). -/
def inChunk (n pa : Nat) : Bool := decide (pa < stackedEnd) && pa / 2 ^ 36 == n

/-- A chunk of stacked memory zeroed, tagged 0 and free of poison (R402). -/
def State.zeroChunk (s : State) (n : Nat) : State :=
  { s with
    glob := s.glob.filter fun c => !inChunk n c.1
    lines := s.lines.filter fun l => !inChunk n (l.1 * 128)
    cache := s.cache.filter fun l => !inChunk n (l.1 * 128) }

/-- The chunks whose bits differ between two values of DIL zeroed. -/
def State.zeroChunks (s : State) (old new : BitVec 12) : State :=
  (upto 0 12).foldl (fun (s : State) n => if old.getLsbD n == new.getLsbD n then s else s.zeroChunk n) s

/-- What outlasts a warm reset of a core: the failed loads counted since cold reset. -/
def Core.afterWarm (c : Core) : Core := { Core.zero with ldFails := c.ldFails, ldCtx := c.ldCtx, ldCode := c.ldCode }

/-- What outlasts a warm reset of a context: the traps counted since cold reset. -/
def Ctx.afterWarm (c : Ctx) : Ctx := { Ctx.zero with traps := c.traps }

/-- What outlasts a warm reset of a function: KMISS. -/
def Func.afterWarm (f : Nat) (x : Func) : Func := { Func.zero f with kmiss := x.kmiss }

/-- What outlasts a warm reset of a stack: its counts since cold reset. -/
def Stack.afterWarm (x : Stack) : Stack := { Stack.zero with ce := x.ce, ue := x.ue, banks := x.banks }

/-- The state after a warm reset (R294; log 10): the adits stop, drain and fence, then every register takes its reset value but DCC, IDFW, the
black box, the counts since cold reset, the keys, and the stored image, which starts; memory keeps its bytes. -/
def State.afterWarm (s : State) : State :=
  let s := (upto 0 36).foldl (fun (s : State) n => s.aditReset n) s
  let s := s.zeroChunks s.mg.dil 0
  let g := s.mg
  { State.reset with
    dcc := s.dcc, agenda := s.agenda, free := s.free, host := s.host, irqs := s.irqs, replies := s.replies, glob := s.glob, pad := s.pad, lane := s.lane,
    crew := s.crew, chip := s.chip, lines := s.lines, acks := s.acks, keys := { s.keys with seq := [], id := 0 },
    cores := s.cores.map fun (c : Nat × Core) => (c.1, c.2.afterWarm),
    ctxs := s.ctxs.map fun (c : Nat × Ctx) => (c.1, c.2.afterWarm),
    funcs := s.funcs.map fun (f : Nat × Func) => (f.1, f.2.afterWarm f.1),
    fab := { Fabric.zero with adits := s.fab.adits, links := s.fab.links },
    mg := { Mgmt.zero with
      version := g.version, build := g.build, retired := g.retired, stks := g.stks.map Stack.afterWarm, coresvc := g.coresvc,
      mismatch := g.mismatch, hewers := g.hewers, box := g.box, boxHead := g.boxHead, hot := g.hot, powered := g.powered, powerStep := g.powerStep, off := g.off,
      fwStored := g.fwStored, fwSince := s.dcc } }

/-- WARM_RESET (R294). -/
def execWarmReset (s : State) : Out := .next s.afterWarm

/-! ## Power-up (R382) -/

/-- A unit of Table 20.6, in its order. -/
inductive PowerUnit where
  | base | bootRom | overman | deputies
  | hewer (n : Nat)
  | stack (n : Nat)
  | die (n : Nat)
  | crew (n : Nat)
  | hostPort
  | adit (n : Nat)

/-- Unit k of the power-up order: 101 in all. -/
def powerUnit (k : Nat) : PowerUnit :=
  if k = 0 then .base else if k = 1 then .bootRom else if k = 2 then .overman else if k = 3 then .deputies
  else if k < 12 then .hewer (k - 4) else if k < 28 then .stack (k - 12) else if k < 32 then .die (k - 28)
  else if k < 64 then .crew (k - 32) else if k = 64 then .hostPort else .adit (k - 65)

/-- The package-wide index of a unit of the power-up order among those of its kind (R10, R381); 0 for a unit of which there is one. -/
def PowerUnit.index : PowerUnit → Nat
  | .base | .bootRom | .overman | .deputies | .hostPort => 0
  | .hewer n | .stack n | .die n | .crew n | .adit n => n

/-- The cores of a crew that fail their self test at its power-up taken out of service (R379). -/
def State.selfTest (s : State) (k : Nat) : State :=
  match powerUnit k with
  | .crew n =>
    { s with free := s.free + 1 }.modMg fun g =>
      { g with coresvc := g.coresvc &&& ~~~((Config.selfTestFails s.free).setWidth 256 <<< (8 * n)) }
  | _ => s

/-- POWER_ON (R16, R382): power returns to a part without it, as after a cold reset; then one unit at a time reaches steady current. The manual names no
state of sleep apart from a part without power, so a wake is this event too (log 10). -/
def execPowerOn (s : State) : Out :=
  if !s.mg.powered then
    .next ((s.modMg fun g => { g with off := [] }).afterCold.modMg fun g => { g with powered := true, powerStep := 0, coresvc := Mgmt.zero.coresvc })
  else .next (if s.mg.powerStep < 101 then (s.selfTest s.mg.powerStep).modMg fun g => { g with powerStep := g.powerStep + 1 } else s)

/-- The eight bits of a crew's cores cleared. -/
def dropCrew (v : BitVec 256) (n : Nat) : BitVec 256 := v &&& ~~~((0xFF : BitVec 256) <<< (8 * n))

/-- POWER_STEP_LIMIT (R382): the unit whose turn it is did not reach steady current; it is left off, and the sequence goes on. The entry of kind 9 bears the
unit's index, 0 in CODE, and how many units are left off (log 6). What is off does no work (log 94): `State.allows`, `State.stackOff`, `State.liveUp`. -/
def execPowerStepLimit (s : State) : Out :=
  let k := s.mg.powerStep
  if !s.mg.powered ∨ 101 ≤ k then .next s
  else
    let t := match powerUnit k with
      | .hewer n => s.modMg fun g => { g with hewers := g.hewers &&& ~~~((1 : BitVec 8) <<< n) }
      | .crew n => s.modMg fun g => { g with coresvc := dropCrew g.coresvc n }
      | .adit n => s.modAdit n fun a => { a with down := true }
      | _ => s
    .next ((t.log 9 (powerUnit k).index 0 (BitVec.ofNat 128 (s.mg.off.length + 1))).modMg fun g => { g with powerStep := g.powerStep + 1, off := g.off ++ [k] })

/-! ## The firmware image (R384) -/

/-- A firmware image started: IDFW takes its values. Its entry of the black box bears FWCTL.ADDR (log 6). -/
def State.startImage (s : State) (n : Nat) : State :=
  (s.modMg fun g =>
    { g with fwState := 1, fwImage := n, version := (Config.firmwareVersion n).toNat, build := (Config.firmwareBuild n).toNat }).log 8 0 0
      (BitVec.ofNat 128 (s.mg.fwAddr * 4096))

/-- The part in RECOVERY: IDFW reads 0. -/
def State.recovery (s : State) : State := s.modMg fun g => { g with fwState := 2, version := 0, build := 0 }

/-- FIRMWARE_BOOT (R384): the boot ROM checks the stored image, which then reports running; or the check fails. -/
def execFirmwareBoot (s : State) : Out :=
  .next (if s.mg.fwState ≠ 0 then s else if Config.firmwareValid s.mg.fwStored then s.startImage s.mg.fwStored else s.recovery)

/-- FIRMWARE_START_TIMEOUT (R384): 2^32 cycles without an image that reports running. -/
def execFirmwareStartTimeout (s : State) : Out := .next (if s.mg.fwState = 0 ∧ s.mg.fwSince + 2 ^ 32 ≤ s.dcc then s.recovery else s)

/-- A write of FWCTL (Table 20.7). -/
def State.writeFwctl (s : State) (v : Word) : State :=
  let go := v.getLsbD 0
  if wbits v 52 12 ≠ 0 ∨ wbits v 1 11 ≠ 0 ∨ (go ∧ s.mg.fwBusy) then s.regErr
  else s.modMg fun g => { g with fwAddr := wbits v 12 40, fwBusy := g.fwBusy || go, fwErr := g.fwErr && !go }

/-- FWCTL_GO (R384). -/
def execFwctlGo (fn : Nat) (v : Word) (s : State) : Out := .next (if fn = 64 then s.writeFwctl v else s.regErr)

/-- The bytes of stacked memory from an address on, by their offsets from it. -/
def State.bytesFrom (s : State) (pa : Nat) : List (Nat × Byte) :=
  (s.glob.filter fun c => decide (pa ≤ c.1) && decide (c.1 < stackedEnd)).map fun c => (c.1 - pa, c.2)

/-- FW_VERIFY_DONE (R384): the image at FWCTL.ADDR verified by its bytes; a valid one replaces the stored image, and starts at once in RECOVERY. -/
def execFwVerifyDone (s : State) : Out :=
  if !s.mg.fwBusy then .next s
  else
    let n := Config.firmwareAt (s.bytesFrom (s.mg.fwAddr * 4096))
    let t := s.modMg fun g => { g with fwBusy := false }
    if !Config.firmwareValid n then .next (t.modMg fun g => { g with fwErr := true })
    else
      let t := t.modMg fun g => { g with fwStored := n }
      .next (if t.mg.fwState = 2 then t.startImage n else t)

end Sys2Proof.Machine
end

