-- ==== Sys2Proof/Machine/Mgmt.lean ====
section
/-!
DEFINITION. Errors and management (chapter 20): the fallback scrubber (R377), retired pages (R378), the deputy pair and the hewers (R380), and thermal
limits (R383).
-/
namespace Sys2Proof.Machine

/-! ## Memory stacks -/

/-- A memory stack's error state. -/
def State.stack (s : State) (n : Nat) : Stack := (s.mg.stks[n]?).getD Stack.zero

/-- The state with a stack changed. -/
def State.modStack (s : State) (n : Nat) (f : Stack → Stack) : State :=
  s.modMg fun g => match g.stks[n]? with
    | none => g
    | some x => { g with stks := g.stks.setIfInBounds n (f x) }

/-- The lines of a stack: 48 GiB. -/
abbrev stackLines : Nat := 0x18000000

/-- The local physical address of line k of a stack, in increasing order (Table 22.1). -/
def State.stackLine (s : State) (n k : Nat) : Nat :=
  let c := k / 2 ^ 25
  let r := k % 2 ^ 25
  let lo := c * 2 ^ 36 + n % 4 * 2 ^ 12 + r % 32 * 2 ^ 7
  if s.mg.dil.getLsbD c then lo + n / 4 * 2 ^ 34 + r / 32 * 2 ^ 14 else lo + r / 32 * 2 ^ 16 + n / 4 * 2 ^ 14

/-- Whether the fallback scrubber of a stack runs (R377). -/
def Stack.scrubs (x : Stack) : Bool := !x.ecsok && x.fben

/-- An error found in the line of an address counted in its bank and its stack (R376). -/
def Stack.found (x : Stack) (pa : Nat) (bad : Bool) : Stack :=
  let b := (Config.bankOf pa).toNat
  let x := { x with banks := NMap.set x.banks b (NMap.getD x.banks b 0 + 1) }
  if bad then { x with ue := satAdd 16 x.ue 1 } else { x with ce := satAdd 16 x.ce 1 }

/-- A line whose error cannot be corrected: poisoned in place, counted and logged (R376, R381). -/
def State.poisonLine (s : State) (n pa : Nat) : State :=
  ((s.modLine (pa / 128) fun l => { l with poison := BitVec.allOnes 128 }).modStack n fun x => x.found pa true).log 2 n 0 (BitVec.ofNat 128 pa)

/-- An error of the cells in a line of stacked memory, found by a read or by the scrub of the stack itself (R376): corrected, or the line poisoned. -/
def State.cellError (s : State) (pa : Nat) (bad : Bool) : State :=
  if stackedEnd ≤ pa then s
  else if bad then s.poisonLine (s.stackAt pa) (pa / 128 * 128)
  else s.modStack (s.stackAt pa) fun x => x.found (pa / 128 * 128) false

/-- Whether the fallback scrubber of a stack may issue a command for a line at its level of escalation (R377): by the occupancy of the line's channel, or, at
level 3, one in every 64 cycles. -/
def State.scrubMay (s : State) (n pa : Nat) : Bool :=
  let x := s.stack n
  let o := (Config.occupancy s.dcc (32 * n + nbits pa 7 5)).toNat
  match x.esc with
  | 0 => decide (o < x.thresh)
  | 1 => decide (o < 2 * x.thresh)
  | 2 => decide (o < min 255 (4 * x.thresh))
  | _ => s.dcc % 64 == 0

/-- SCRUB_COMMAND (R376, R377): the scrubber reads and corrects its next line where its escalation lets it; what it finds is left open (log 24). -/
def execScrubCommand (stack : Nat) (s : State) : Out :=
  let x := s.stack stack
  let pa := s.stackLine stack x.scrubbed
  if 16 ≤ stack ∨ !x.scrubs ∨ stackLines ≤ x.scrubbed ∨ !s.scrubMay stack pa then .next s
  else
    let t := { s with free := s.free + 1 }.modStack stack fun x => { x with scrubbed := x.scrubbed + 1 }
    match (Config.scrubFinds s.free).toNat with
    | 1 => .next (t.modStack stack fun x => x.found pa false)
    | 2 => .next (t.poisonLine stack pa)
    | _ => .next t

/-- ESC after quarter q of a pass (R377). -/
def escOf (q scrubbed : Nat) : Nat := if q * stackLines ≤ 4 * scrubbed then 0 else min (cdiv (q * stackLines - 4 * scrubbed) stackLines) 3

/-- A new pass of a stack's scrubber. -/
def Stack.newPass (x : Stack) (now : Nat) : Stack := { x with quarter := 0, scrubbed := 0, esc := 0, passAt := now }

/-- SCRUB_QUARTER_END (R377): ESC after quarters 1 to 3, and a new pass after the fourth. -/
def execScrubQuarterEnd (stack : Nat) (s : State) : Out :=
  let x := s.stack stack
  let q := x.quarter + 1
  if 16 ≤ stack ∨ !x.scrubs ∨ s.dcc < x.passAt + q * 2 ^ x.passlg / 4 then .next s
  else if q = 4 then .next (s.modStack stack fun x => x.newPass s.dcc)
  else
    let e := escOf q x.scrubbed
    let t := s.modStack stack fun x => { x with quarter := q, esc := e }
    .next (if x.esc < e then t.log 3 stack 0 (BitVec.ofNat 128 e) else t)

/-- ON_DIE_SCRUB_PATH_FAILURE (R377): the fallback scrubber begins a pass where it comes to run. -/
def execOnDieScrubPathFailure (stack : Nat) (working : Bool) (s : State) : Out :=
  .next (s.modStack stack fun x =>
    let y := { x with ecsok := working }
    if y.scrubs && !x.scrubs then y.newPass s.dcc else y)

/-- A write of MSCCTL (Table 20.2). -/
def State.writeMscctl (s : State) (n : Nat) (v : Word) : State :=
  let lg := wbits v 16 6
  if wbits v 40 24 ≠ 0 ∨ wbits v 22 10 ≠ 0 ∨ wbits v 1 15 ≠ 0 ∨ lg < 24 ∨ 40 < lg then s.regErr
  else s.modStack n fun x =>
    let y := { x with thresh := wbits v 32 8, passlg := lg, fben := v.getLsbD 0 }
    if y.scrubs && !x.scrubs then y.newPass s.dcc else y

/-- A write of PGRET (R378). -/
def State.writePgret (s : State) (v : Word) : State :=
  let page := wbits v 12 40
  let go := v.getLsbD 52
  if wbits v 0 12 ≠ 0 ∨ (go ∧ (1024 ≤ s.mg.retired.length ∨ stackedEnd ≤ page * 4096)) then s.regErr
  else
    let t := s.modMg fun g => { g with pgAddr := page }
    if go ∧ !s.mg.retired.contains page then (t.modMg fun g => { g with retired := g.retired ++ [page] }).log 4 0 0 (BitVec.ofNat 128 (page * 4096)) else t

/-- PGRET_GO (R378). -/
def execPgretGo (fn : Nat) (v : Word) (s : State) : Out := .next (if fn = 64 then s.writePgret v else s.regErr)

/-! ## The firmware complex -/

/-- DEPUTY_MISMATCH (R380): the cycle's outputs are suppressed and the decision replayed, so that nothing but the count and the log changes; a third
within 2^30 cycles causes a warm reset. -/
def execDeputyMismatch (s : State) : Out :=
  let times := (s.mg.mmTimes.filter fun d => decide (s.dcc < d + 2 ^ 30)) ++ [s.dcc]
  let t := (s.modMg fun g => { g with mismatch := satAdd 32 g.mismatch 1, mmTimes := times }).log 6 0 0 (BitVec.ofNat 128 (satAdd 32 s.mg.mismatch 1))
  .next (if 3 ≤ times.length then t.afterWarm else t)

/-- HEWER_WATCHDOG (R380): a hewer leaves service; no part of the packet that it parsed has taken effect, and another hewer reads it again. -/
def execHewerWatchdog (h : Nat) (s : State) : Out :=
  .next (if h < 8 then s.modMg fun g => { g with hewers := g.hewers &&& ~~~((1 : BitVec 8) <<< h) } else s)

/-- THERMAL_PLACEMENT_LIMIT (R383): whether a die's junction is above 95 °C. -/
def execThermalPlacementLimit (die : Nat) (above : Bool) (s : State) : Out :=
  let bit : BitVec 4 := 1 <<< die
  .next (s.modMg fun g => { g with hot := if above then g.hot ||| bit else g.hot &&& ~~~bit })

/-- THERMAL_LIMIT (R383): above 105 °C the overman logs, flushes the black box, so that it outlasts the loss of power (log 6), and removes power. -/
def execThermalLimit (die : Nat) (s : State) : Out := .next ((s.log 10 die 0 1).modMg fun g => { g with powered := false, flushed := true })

end Sys2Proof.Machine
end

