-- ==== Sys2Proof/Machine/Registers.lean ====
section
/-!
DEFINITION. The package register block: its map, its reads and its writes (R4, R17, R385), for the physical function (function 64) and the windows of the
virtual devices.
-/
namespace Sys2Proof.Machine

/-! ## Registers written here -/

/-- Whether a shift of a context is resident (R333): one that has left its core for another is not (R251). -/
def State.residentCtx (s : State) (ctx : Nat) : Bool :=
  s.shifts.any fun e => e.2.place.ctx == ctx && !((s.placedOf e.1).map (·.away)).getD false

/-- A write that a mask of reserved bits refuses (R4). -/
def State.masked (s : State) (v : Word) (reserved : Word) (f : State) : State := if v &&& reserved ≠ 0 then s.regErr else f

/-- A write of a context's register, refused while a shift of it is resident (R333, R365, R386). -/
def State.ctxWrite (s : State) (ctx : Nat) (v reserved : Word) (held : Bool) (f : Ctx → Ctx) : State :=
  if held && s.residentCtx ctx then s.regErr else s.masked v reserved (s.modCtx ctx f)

/-- A write of IDPKG (Table 1.9, R18). -/
def State.writeIdpkg (s : State) (v : Word) : State :=
  if (upto 0 36).any fun n => (s.adit n).st == 1 && (s.adit n).cur != 0 then s.regErr
  else s.masked v (~~~0xFFF) (s.modMg fun g => { g with idpkg := wbits v 0 12 })

/-- IDPKG_WRITE (R18). -/
def execIdpkgWrite (fn : Nat) (v : Word) (s : State) : Out := .next (if fn = 64 then s.writeIdpkg v else s.regErr)

/-- A write of MEMIL (R402). -/
def State.writeMemil (s : State) (v : Word) : State :=
  if s.ctxs.any fun c => c.2.rt.getLsbD 63 then s.regErr
  else
    let d : BitVec 12 := v.extractLsb' 0 12
    s.masked v (~~~0xFFF) ((s.zeroChunks s.mg.dil d).modMg fun g => { g with dil := d })

/-- MEMIL_WRITE (R402). -/
def execMemilWrite (fn : Nat) (v : Word) (s : State) : Out := .next (if fn = 64 then s.writeMemil v else s.regErr)

/-- A write of DSPCFG (Table 12.5). -/
def State.writeDspcfg (s : State) (v : Word) : State :=
  if wbits v 48 16 = 0 then s.regErr else s.masked v 0x8080_FFFF (s.modMg fun g => { g with dspcfg := v })

/-- A write of SCANCTL (Table 22.4). -/
def State.writeScanctl (s : State) (v : Word) : State :=
  let t := wbits v 32 8
  let w := wbits v 16 6
  if t = 0 ∨ w < 10 ∨ 24 < w then s.regErr
  else s.masked v (~~~0xFF_003F_0000) (s.modMg fun g => { g with scanThresh := t, scanWaitlg := w })

/-- A write of WINCTL (Table 22.5). -/
def State.writeWinctl (s : State) (die : Nat) (v : Word) : State :=
  let o := wbits v 12 12
  if o = 0 then s.regErr
  else s.masked v (~~~0xFF_F00F) (s.modMg fun g =>
    { g with maxout := g.maxout.setIfInBounds die o, ways := g.ways.setIfInBounds die (wbits v 0 4) })

/-! ## Values read -/

/-- Entry `bbsel` of the black box: its dword k (R381). -/
def State.bbData (s : State) (k : Nat) : Word :=
  let g := s.mg
  let at_ (j : Nat) : Nat := (g.boxHead + 8192 - g.box.length + j) % 4096
  match (upto 0 g.box.length).find? fun j => at_ j == g.bbsel with
  | none => 0
  | some j => match g.box[j]? with
    | none => 0
    | some e => match k with
      | 0 => w64 e.dcc
      | 1 => w64 (fields [(0, e.kind % 256), (8, e.unit % 65536), (24, e.code % 256)])
      | 2 => e.data.extractLsb' 0 64
      | 3 => e.data.extractLsb' 64 64
      | _ => 0

/-- LDST of a core (Table 16.12). -/
def State.ldst (s : State) (core : Nat) : Word :=
  let b (k : Nat) : Bank := ((s.core core).banks[k]?).getD Bank.zero
  let p (k : Nat) : Nat := s.bankPins core k (s.issuer core) % 65536
  w64 (fields [(52, (b 1).ctx % 4096), (40, (b 0).ctx % 4096), (38, (b 1).state % 4), (36, (b 0).state % 4), (16, p 1), (0, p 0)])

/-- LEMLN of an adit (Table 14.5). -/
def State.lemln (s : State) (n : Nat) : Word :=
  let a := s.adit n
  w64 (fields [(24, bnat a.turn), (16, a.good.toNat), (8, a.lcur.toNat), (0, a.dir.toNat)])

/-- The registers of an adit by their offsets (Tables 15.3 to 15.5). -/
def State.aditReg (s : State) (n k : Nat) : Option Word :=
  let a := s.adit n
  match k with
  | 0 => some (w64 (fields [(8, a.drainlg), (1, a.pers)]))
  | 8 => some (w64 (fields [(32, a.poisoned % 2 ^ 32), (16, a.err), (8, a.st), (0, a.cur)]))
  | 16 => some (w64 (fields [(63, bnat a.winEn), (30, a.winBase), (0, a.winSize)]))
  | _ => none

/-- The registers of a queue page (Table 21.1). -/
def HQueue.reg (Q : HQueue) (k : Nat) : Option Word :=
  match k with
  | 0x00 => some Q.cfg
  | 0x08 => some Q.base
  | 0x10 => some (w64 Q.tail.toNat)
  | 0x18 => some (w64 (fields [(40, Q.errst % 256), (32, Q.st % 4), (0, Q.head.toNat)]))
  | 0x20 => some Q.cpl
  | 0x28 => some (w64 (fields [(32, Q.cwrite.toNat), (0, Q.chead.toNat)]))
  | 0x30 => some Q.int
  | _ => none

/-- The registers of a context by block and offset: 0 translation, 1 adapters, 2 trap vectors. -/
def Ctx.reg (c : Ctx) (block k : Nat) : Option Word :=
  match block, k with
  | 0, 0 => some c.rt
  | 0, 8 => some c.s2
  | 0, 16 => some c.dl
  | 0, 24 => some c.dll
  | 1, 0 => some c.adtb
  | 1, 8 => some c.adlim
  | 1, 16 => some c.adcb
  | 1, 24 => some c.adrev
  | 2, 0 => some c.tvimg
  | 2, 8 => some c.tvfrm
  | 2, 16 => some c.tvctl
  | 2, 24 => some (w64 (c.traps * 2 ^ 32 + c.lastTrap))
  | _, _ => none

/-- The registers of the identification block and of management, below 0x8000 outside the arrays. -/
def State.fixedReg (s : State) (off : Nat) : Option Word :=
  let g := s.mg
  match off with
  | 0x0000 => some 0x1E4D_9256_0303_0B01
  | 0x0008 => some 0x0004_0808_0904_0030
  | 0x0010 => some (w64 g.idpkg)
  | 0x0018 => some Config.serial
  | 0x0020 => some s.idfw
  | 0x1000 => some g.dspcfg
  | 0x3000 => some s.fab.tmapbase
  | 0x3008 => some (w64 (fields [(2, bnat s.fab.tbusy), (1, bnat s.fab.terr)]))
  | 0x3010 => some (w64 s.fab.tgen)
  | 0x5400 => some 0
  | 0x5408 => some (w64 (fields [(24, s.keyState s.keys.id), (8, s.keys.id)]))
  | 0x7000 => some (w64 (g.regerr * 2 ^ 32 + g.drop))
  | 0x7200 => some (w64 (fields [(53, g.retired.length), (12, g.pgAddr)]))
  | 0x7300 => some (g.coresvc.extractLsb' 0 64)
  | 0x7308 => some (g.coresvc.extractLsb' 64 64)
  | 0x7310 => some (g.coresvc.extractLsb' 128 64)
  | 0x7318 => some (g.coresvc.extractLsb' 192 64)
  | 0x7400 => some (w64 (g.mismatch * 2 ^ 32 + g.hewers.toNat))
  | 0x7500 => some (w64 g.boxHead)
  | 0x7508 => some (w64 g.bbsel)
  | 0x7510 => some (s.bbData 0)
  | 0x7518 => some (s.bbData 1)
  | 0x7520 => some (s.bbData 2)
  | 0x7528 => some (s.bbData 3)
  | 0x7600 => some (w64 (g.fwAddr * 4096))
  | 0x7608 => some (w64 (fields [(3, bnat g.fwErr), (2, bnat g.fwBusy), (0, g.fwState)]))
  | 0x7800 => some (w64 g.dil.toNat)
  | 0x7808 => some (w64 (fields [(32, g.scanThresh), (16, g.scanWaitlg)]))
  | _ => none

/-- The register at an offset of the block, or none where there is none. -/
def State.register (s : State) (off : Nat) : Option Word :=
  let at_ (base step : Nat) : Nat × Nat := ((off - base) / step, (off - base) % step)
  if off < 0x2000 then s.fixedReg off
  else if off < 0x2000 + 32 * 65 then
    let p := at_ 0x2000 32
    let x := s.func p.1
    match p.2 with
    | 0 => some x.tlbia
    | 8 => some (w64 (fields [(32, x.tdone.toNat), (16, bnat x.topen.isSome)] + x.tlbic.toNat))
    | _ => none
  else if off < 0x3100 then s.fixedReg off
  else if off < 0x3100 + 8 * 36 then some (s.lemln (at_ 0x3100 8).1)
  else if 0x3400 ≤ off ∧ off < 0x3400 + 32 * 36 then let p := at_ 0x3400 32; s.aditReg p.1 p.2
  else if 0x4000 ≤ off ∧ off < 0x5000 then
    let p := at_ 0x4000 16
    let c := s.core p.1
    if p.2 = 0 then some (s.ldst p.1) else some (w64 (fields [(32, c.ldFails), (20, c.ldCtx), (0, c.ldCode)]))
  else if 0x5000 ≤ off ∧ off < 0x5400 then
    let p := at_ 0x5000 16
    let x := s.func p.1
    if p.2 = 0 then some (w64 (bnat x.en)) else some (w64 (x.kmiss * 2 ^ 32 + x.vst))
  else if 0x5800 ≤ off ∧ off < 0x5800 + 32 * 65 then
    let p := at_ 0x5800 32
    let x := s.func p.1
    match p.2 with
    | 0 => some x.attctl
    | 8 => some 0
    | 16 => some (w64 (fields [(1, bnat x.attReq.isSome), (0, bnat x.attDone)]))
    | _ => none
  else if 0x7100 ≤ off ∧ off < 0x7200 then
    let p := at_ 0x7100 16
    let x := s.stack p.1
    if p.2 = 0 then some (w64 (fields [(48, x.ce), (32, x.ue), (31, bnat x.ecsok), (29, x.esc)]))
    else some (w64 (fields [(32, x.thresh), (16, x.passlg), (0, bnat x.fben)]))
  else if 0x7810 ≤ off ∧ off < 0x7830 then
    let d := (off - 0x7810) / 8
    some (w64 (fields [(12, (s.mg.maxout[d]?).getD 0), (0, (s.mg.ways[d]?).getD 0)]))
  else if off < 0x8000 then s.fixedReg off
  else if 0x1_0000 ≤ off ∧ off < 0x3_0000 then let p := at_ 0x1_0000 32; (s.ctx p.1).reg 0 p.2
  else if 0x6_0000 ≤ off ∧ off < 0x8_0000 then let p := at_ 0x6_0000 32; (s.ctx p.1).reg 1 p.2
  else if 0x8_0000 ≤ off ∧ off < 0xA_0000 then let p := at_ 0x8_0000 32; (s.ctx p.1).reg 2 p.2
  else if 0xA_0000 ≤ off ∧ off < 0xB_0000 then
    let p := at_ 0xA_0000 16
    let c := s.ctx p.1
    if p.2 = 0 then some c.frzAddr else some (w64 (fields [(32, c.frzShifts), (8, c.frzErr), (0, c.frzState)]))
  else if 0xB_0000 ≤ off ∧ off < 0xB_8000 then some (s.ctx (at_ 0xB_0000 8).1).own
  else if 0xB_8000 ≤ off ∧ off < 0xB_8000 + 8 * 65 then some (s.func (at_ 0xB_8000 8).1).hkey
  else if 0x1000_0000 ≤ off ∧ off < 0x2000_0000 then let p := at_ 0x1000_0000 4096; (s.queue p.1).reg p.2
  else none

/-! ## The windows (R385) -/

/-- Whether a function's window reaches an offset, for a read. -/
def State.windowReads (s : State) (fn off : Nat) : Bool :=
  if fn = 64 then true
  else if 64 < fn then false
  else decide (off < 0x28) || decide (0x2000 + 32 * fn ≤ off ∧ off < 0x2000 + 32 * fn + 32) ||
    decide (0x5000 + 16 * fn ≤ off ∧ off < 0x5000 + 16 * fn + 16) || decide (0x5800 + 32 * fn ≤ off ∧ off < 0x5800 + 32 * fn + 32) ||
    (decide (0x1000_0000 ≤ off ∧ off < 0x2000_0000) && s.reachesQueue fn ((off - 0x1000_0000) / 4096))

/-- Whether a function's window writes an offset (R385, R388). -/
def State.windowWrites (s : State) (fn off : Nat) : Bool :=
  s.windowReads fn off && (fn == 64 ||
    (decide (0x28 ≤ off) && (decide (off < 0x1000_0000) || off % 4096 == 0x10 || off % 4096 == 0x28)))

/-- REGISTER_READ (R17, R385): what the read returns goes into `replies`. -/
def execRegisterRead (fn off width : Nat) (s : State) : Out :=
  let bad : Out := .next { s.regErr with replies := s.replies ++ [zeros width] }
  let shape := (width == 8 && off % 8 == 0) || (width == 4 && off % 4 == 0)
  if !shape ∨ !s.windowReads fn off then bad
  else match s.register (off / 8 * 8) with
    | none => bad
    | some v => .next { s with replies := s.replies ++ [(leBytes 8 v.toNat).drop (off % 8) |>.take width] }

/-! ## Writes -/

/-- A write of a context's register by block and offset; none where there is no such register. -/
def State.writeCtxReg (s : State) (block ctx k : Nat) (v : Word) : Option State :=
  let page : Word := 0x7FF0_0000_0000_0FFF
  match block, k with
  | 0, 0 => some (s.ctxWrite ctx v page true fun c => { c with rt := v })
  | 0, 8 => some (s.ctxWrite ctx v page true fun c => { c with s2 := v })
  | 0, 16 => some (s.ctxWrite ctx v 0x3FF0_0000_0000_0007 true fun c => { c with dl := v })
  | 0, 24 => some (s.ctxWrite ctx v 0xFFFF_FF00_0000_0000 false fun c => { c with dll := v })
  | 1, 0 => some (s.ctxWrite ctx v 0x7FF0_0000_0000_007F true fun c => { c with adtb := v })
  | 1, 8 => some (s.ctxWrite ctx v 0x0000_FFFF_FFFE_0000 true fun c => { c with adlim := v })
  | 1, 16 => some (s.ctxWrite ctx v 0xFFFF_FFFF_FFFF_8000 true fun c => { c with adcb := v })
  | 1, 24 => some (s.writeAdrev ctx v)
  | 2, 0 => some (s.ctxWrite ctx v 0 true fun c => { c with tvimg := v })
  | 2, 8 => some (s.ctxWrite ctx v 0xFFFF true fun c => { c with tvfrm := v })
  | 2, 16 => some (s.ctxWrite ctx v 0x7FFF_FFFF_FFFF_0000 true fun c => { c with tvctl := v })
  | 2, 24 => some s
  | _, _ => none

/-- A write of a queue register; none where there is no such register. -/
def State.writeQueueReg (s : State) (q k : Nat) (v : Word) : Option State :=
  match k with
  | 0x00 => some (s.writeQcfg q v)
  | 0x08 => some (s.writeQbase q v)
  | 0x10 => some (s.writeQtail q v)
  | 0x18 => some s
  | 0x20 => some (s.writeQcpl q v)
  | 0x28 => some (s.writeQchead q v)
  | 0x30 => some (s.writeQint q v)
  | _ => none

/-- A write of a register below 0x8000 outside the arrays; none where there is no such register. A register whose fields are all RO ignores it (R17). -/
def State.writeFixed (s : State) (off : Nat) (v : Word) : Option State :=
  match off with
  | 0x0010 => some (s.writeIdpkg v)
  | 0x1000 => some (s.writeDspcfg v)
  | 0x3000 => some (s.masked v 0xFFF0_0000_0000_007F (s.modFab fun f => { f with tmapbase := v }))
  | 0x3008 => some (s.writeTmapcmt v)
  | 0x5400 => some (s.writeKeyd v)
  | 0x5408 => some (s.writeKeycmd v)
  | 0x7200 => some (s.writePgret v)
  | 0x7508 => some (s.masked v (~~~0xFFF) (s.modMg fun g => { g with bbsel := wbits v 0 12 }))
  | 0x7600 => some (s.writeFwctl v)
  | 0x7800 => some (s.writeMemil v)
  | 0x7808 => some (s.writeScanctl v)
  | _ => (s.fixedReg off).map fun _ => s

/-- A whole 64-bit write of a register by a function whose window writes it; none where there is no such register. -/
def State.writeRegister (s : State) (off : Nat) (v : Word) : Option State :=
  let at_ (base step : Nat) : Nat × Nat := ((off - base) / step, (off - base) % step)
  if off < 0x2000 then s.writeFixed off v
  else if off < 0x2000 + 32 * 65 then
    let p := at_ 0x2000 32
    match p.2 with
    | 0 => some (s.writeTlbia p.1 v)
    | 8 => some (s.writeTlbic p.1 v)
    | _ => none
  else if off < 0x3100 then s.writeFixed off v
  else if off < 0x3100 + 8 * 36 then some (s.writeLemln (at_ 0x3100 8).1 v)
  else if 0x3400 ≤ off ∧ off < 0x3400 + 32 * 36 then
    let p := at_ 0x3400 32
    match p.2 with
    | 0 => some (s.writeAdctl p.1 v)
    | 8 => some s
    | 16 => some (s.writeAdwin p.1 v)
    | _ => none
  else if 0x4000 ≤ off ∧ off < 0x5000 then some s
  else if 0x5000 ≤ off ∧ off < 0x5400 then let p := at_ 0x5000 16; if p.2 = 0 then some (s.writeVfctl p.1 v) else some s
  else if 0x5800 ≤ off ∧ off < 0x5800 + 32 * 65 then
    let p := at_ 0x5800 32
    match p.2 with
    | 0 => some (s.writeAttctl p.1 v)
    | 8 => some (s.writeAttn p.1 v)
    | 16 => some s
    | _ => none
  else if 0x7100 ≤ off ∧ off < 0x7200 then let p := at_ 0x7100 16; if p.2 = 0 then some s else some (s.writeMscctl p.1 v)
  else if 0x7810 ≤ off ∧ off < 0x7830 then some (s.writeWinctl ((off - 0x7810) / 8) v)
  else if off < 0x8000 then s.writeFixed off v
  else if 0x1_0000 ≤ off ∧ off < 0x3_0000 then let p := at_ 0x1_0000 32; s.writeCtxReg 0 p.1 p.2 v
  else if 0x6_0000 ≤ off ∧ off < 0x8_0000 then let p := at_ 0x6_0000 32; s.writeCtxReg 1 p.1 p.2 v
  else if 0x8_0000 ≤ off ∧ off < 0xA_0000 then let p := at_ 0x8_0000 32; s.writeCtxReg 2 p.1 p.2 v
  else if 0xA_0000 ≤ off ∧ off < 0xB_0000 then let p := at_ 0xA_0000 16; some (if p.2 = 0 then s.putCtxfrz p.1 v else s)
  else if 0xB_0000 ≤ off ∧ off < 0xB_8000 then some (s.ctxWrite (at_ 0xB_0000 8).1 v (~~~0x7F) true fun c => { c with own := v })
  else if 0xB_8000 ≤ off ∧ off < 0xB_8000 + 8 * 65 then
    some (s.masked v (~~~0xFF) (s.modFunc (at_ 0xB_8000 8).1 fun x => { x with hkey := v }))
  else if 0x1000_0000 ≤ off ∧ off < 0x2000_0000 then let p := at_ 0x1000_0000 4096; s.writeQueueReg p.1 p.2 v
  else none

/-- REGISTER_WRITE (R4, R17, R385): a write that is not a whole aligned 64-bit one, that the window does not reach, or that meets no register is refused
whole; every write to KEYCMD clears the KEYD sequence (R352). -/
def execRegisterWrite (fn off width : Nat) (v : Word) (s : State) : Out :=
  let t := if fn = 64 ∧ off / 8 = 0x5408 / 8 then s.clearKeyd else s
  if width ≠ 8 ∨ off % 8 ≠ 0 ∨ !s.windowWrites fn off then .next t.regErr
  else .next ((s.writeRegister off v).getD s.regErr)

end Sys2Proof.Machine
end

