-- ==== Sys2Proof/Machine/Dispatch.lean ====
section
/-!
DEFINITION. The meaning of each instruction: one arm per constructor.
-/
namespace Sys2Proof.Machine

/-- What an instruction does in a state: the word being executed is described by `s.cur`. -/
def exec (i : Instr) (s : State) : Host.Outcome State Fault Refusal :=
  match i with
  | .nop => Sys2Proof.Machine.execNop s
  | .add sd sa sb => Sys2Proof.Machine.execAdd sd sa sb s
  | .sub sd sa sb => Sys2Proof.Machine.execSub sd sa sb s
  | .mul sd sa sb => Sys2Proof.Machine.execMul sd sa sb s
  | .mulh sd sa sb => Sys2Proof.Machine.execMulh sd sa sb s
  | .mulhz sd sa sb => Sys2Proof.Machine.execMulhz sd sa sb s
  | .div sd sa sb => Sys2Proof.Machine.execDiv sd sa sb s
  | .divz sd sa sb => Sys2Proof.Machine.execDivz sd sa sb s
  | .rem sd sa sb => Sys2Proof.Machine.execRem sd sa sb s
  | .remz sd sa sb => Sys2Proof.Machine.execRemz sd sa sb s
  | .and sd sa sb => Sys2Proof.Machine.execAnd sd sa sb s
  | .or sd sa sb => Sys2Proof.Machine.execOr sd sa sb s
  | .xor sd sa sb => Sys2Proof.Machine.execXor sd sa sb s
  | .andn sd sa sb => Sys2Proof.Machine.execAndn sd sa sb s
  | .shl sd sa sb => Sys2Proof.Machine.execShl sd sa sb s
  | .shr sd sa sb => Sys2Proof.Machine.execShr sd sa sb s
  | .sra sd sa sb => Sys2Proof.Machine.execSra sd sa sb s
  | .rotl sd sa sb => Sys2Proof.Machine.execRotl sd sa sb s
  | .min sd sa sb => Sys2Proof.Machine.execMin sd sa sb s
  | .max sd sa sb => Sys2Proof.Machine.execMax sd sa sb s
  | .minz sd sa sb => Sys2Proof.Machine.execMinz sd sa sb s
  | .maxz sd sa sb => Sys2Proof.Machine.execMaxz sd sa sb s
  | .shli sd sa n => Sys2Proof.Machine.execShli sd sa n s
  | .shri sd sa n => Sys2Proof.Machine.execShri sd sa n s
  | .srai sd sa n => Sys2Proof.Machine.execSrai sd sa n s
  | .clz sd sa => Sys2Proof.Machine.execClz sd sa s
  | .ctz sd sa => Sys2Proof.Machine.execCtz sd sa s
  | .popc sd sa => Sys2Proof.Machine.execPopc sd sa s
  | .sext sd sa w1 => Sys2Proof.Machine.execSext sd sa w1 s
  | .zext sd sa w1 => Sys2Proof.Machine.execZext sd sa w1 s
  | .bfx sd sa sb => Sys2Proof.Machine.execBfx sd sa sb s
  | .bfi sd sa sb => Sys2Proof.Machine.execBfi sd sa sb s
  | .sel sd sa sb => Sys2Proof.Machine.execSel sd sa sb s
  | .cmp cc gd sa sb => Sys2Proof.Machine.execCmp cc gd sa sb s
  | .fadd sd sa sb => Sys2Proof.Machine.execFadd sd sa sb s
  | .fsub sd sa sb => Sys2Proof.Machine.execFsub sd sa sb s
  | .fmul sd sa sb => Sys2Proof.Machine.execFmul sd sa sb s
  | .ffma sd sa sb => Sys2Proof.Machine.execFfma sd sa sb s
  | .fdiv sd sa sb => Sys2Proof.Machine.execFdiv sd sa sb s
  | .fsqrt sd sa => Sys2Proof.Machine.execFsqrt sd sa s
  | .fmin sd sa sb => Sys2Proof.Machine.execFmin sd sa sb s
  | .fmax sd sa sb => Sys2Proof.Machine.execFmax sd sa sb s
  | .fcmp cc gd sa sb => Sys2Proof.Machine.execFcmp cc gd sa sb s
  | .fcvt fmt toF32 rz sd sa => Sys2Proof.Machine.execFcvt fmt toF32 rz sd sa s
  | .fclass sd sa => Sys2Proof.Machine.execFclass sd sa s
  | .gand gd ga gb => Sys2Proof.Machine.execGand gd ga gb s
  | .gor gd ga gb => Sys2Proof.Machine.execGor gd ga gb s
  | .gnot gd ga => Sys2Proof.Machine.execGnot gd ga s
  | .rddcc sd => Sys2Proof.Machine.execRddcc sd s
  | .adda ad aa sb => Sys2Proof.Machine.execAdda ad aa sb s
  | .lea ad sa sb => Sys2Proof.Machine.execLea ad sa sb s
  | .suba sd aa ab => Sys2Proof.Machine.execSuba sd aa ab s
  | .movas hi sd aa => Sys2Proof.Machine.execMovas hi sd aa s
  | .movsa ad sa => Sys2Proof.Machine.execMovsa ad sa s
  | .cmpa sd aa ab => Sys2Proof.Machine.execCmpa sd aa ab s
  | .anda ad aa sb => Sys2Proof.Machine.execAnda ad aa sb s
  | .addi sd sa imm => Sys2Proof.Machine.execAddi sd sa imm s
  | .andi sd sa imm => Sys2Proof.Machine.execAndi sd sa imm s
  | .ori sd sa imm => Sys2Proof.Machine.execOri sd sa imm s
  | .xori sd sa imm => Sys2Proof.Machine.execXori sd sa imm s
  | .cmpi cc gd sa imm => Sys2Proof.Machine.execCmpi cc gd sa imm s
  | .movi sd imm => Sys2Proof.Machine.execMovi sd imm s
  | .movhi sd imm => Sys2Proof.Machine.execMovhi sd imm s
  | .addai ad aa imm => Sys2Proof.Machine.execAddai ad aa imm s
  | .rdsr sd r => Sys2Proof.Machine.execRdsr sd r s
  | .wrsr r sa => Sys2Proof.Machine.execWrsr r sa s
  | .vadd t vd va vb => Sys2Proof.Machine.execVadd t vd va vb s
  | .vsub t vd va vb => Sys2Proof.Machine.execVsub t vd va vb s
  | .vmul t vd va vb => Sys2Proof.Machine.execVmul t vd va vb s
  | .vmulh t vd va vb => Sys2Proof.Machine.execVmulh t vd va vb s
  | .vadds t vd va vb => Sys2Proof.Machine.execVadds t vd va vb s
  | .vsubs t vd va vb => Sys2Proof.Machine.execVsubs t vd va vb s
  | .vmin t vd va vb => Sys2Proof.Machine.execVmin t vd va vb s
  | .vmax t vd va vb => Sys2Proof.Machine.execVmax t vd va vb s
  | .vabs t vd va => Sys2Proof.Machine.execVabs t vd va s
  | .vneg t vd va => Sys2Proof.Machine.execVneg t vd va s
  | .vand vd va vb => Sys2Proof.Machine.execVand vd va vb s
  | .vor vd va vb => Sys2Proof.Machine.execVor vd va vb s
  | .vxor vd va vb => Sys2Proof.Machine.execVxor vd va vb s
  | .vshl t vd va vb => Sys2Proof.Machine.execVshl t vd va vb s
  | .vshr t vd va vb => Sys2Proof.Machine.execVshr t vd va vb s
  | .vsra t vd va vb => Sys2Proof.Machine.execVsra t vd va vb s
  | .vcmp cc vd va vb => Sys2Proof.Machine.execVcmp cc vd va vb s
  | .vsel vd va vb => Sys2Proof.Machine.execVsel vd va vb s
  | .vfadd t vd va vb => Sys2Proof.Machine.execVfadd t vd va vb s
  | .vfsub t vd va vb => Sys2Proof.Machine.execVfsub t vd va vb s
  | .vfmul t vd va vb => Sys2Proof.Machine.execVfmul t vd va vb s
  | .vfma t vd va vb => Sys2Proof.Machine.execVfma t vd va vb s
  | .vfms t vd va vb => Sys2Proof.Machine.execVfms t vd va vb s
  | .vfnma t vd va vb => Sys2Proof.Machine.execVfnma t vd va vb s
  | .vfmin t vd va vb => Sys2Proof.Machine.execVfmin t vd va vb s
  | .vfmax t vd va vb => Sys2Proof.Machine.execVfmax t vd va vb s
  | .vfdiv vd va vb => Sys2Proof.Machine.execVfdiv vd va vb s
  | .vrcp vd va => Sys2Proof.Machine.execVrcp vd va s
  | .vrsq vd va => Sys2Proof.Machine.execVrsq vd va s
  | .vexp2 vd va => Sys2Proof.Machine.execVexp2 vd va s
  | .vlog2 vd va => Sys2Proof.Machine.execVlog2 vd va s
  | .vcvt dst src vd va => Sys2Proof.Machine.execVcvt dst src vd va s
  | .vnarrow t vd va vb => Sys2Proof.Machine.execVnarrow t vd va vb s
  | .vwiden t hi vd va => Sys2Proof.Machine.execVwiden t hi vd va s
  | .vbcast t vd sb => Sys2Proof.Machine.execVbcast t vd sb s
  | .viota vd sb => Sys2Proof.Machine.execViota vd sb s
  | .vsetvl sd sb => Sys2Proof.Machine.execVsetvl sd sb s
  | .vextr signed sd va n => Sys2Proof.Machine.execVextr signed sd va n s
  | .vins vd sb n => Sys2Proof.Machine.execVins vd sb n s
  | .vperm vd va vb => Sys2Proof.Machine.execVperm vd va vb s
  | .vrot vd va sb => Sys2Proof.Machine.execVrot vd va sb s
  | .vslide up vd va sb => Sys2Proof.Machine.execVslide up vd va sb s
  | .vred op vd va => Sys2Proof.Machine.execVred op vd va s
  | .vscan op ex vd va => Sys2Proof.Machine.execVscan op ex vd va s
  | .part vd va sd => Sys2Proof.Machine.execPart vd va sd s
  | .partn n1 va sb => Sys2Proof.Machine.execPartn n1 va sb s
  | .vgath t vd va sb => Sys2Proof.Machine.execVgath t vd va sb s
  | .vscat t vs va sb => Sys2Proof.Machine.execVscat t vs va sb s
  | .vld vd sb off => Sys2Proof.Machine.execVld vd sb off s
  | .vst vs sb off => Sys2Proof.Machine.execVst vs sb off s
  | .vldl vd va => Sys2Proof.Machine.execVldl vd va s
  | .vstl vs va => Sys2Proof.Machine.execVstl vs va s
  | .tenantV opc vt vd va vb => Sys2Proof.Machine.execTenantV opc vt vd va vb s
  | .tcfg af bf mb stamp => Sys2Proof.Machine.execTcfg af bf mb stamp s
  | .mma kg1 ct mb sa sw ss stamp => Sys2Proof.Machine.execMma kg1 ct mb sa sw ss stamp s
  | .mmaz kg1 ct mb sa sw ss stamp => Sys2Proof.Machine.execMmaz kg1 ct mb sa sw ss stamp s
  | .mopa t ct mb va vb stamp => Sys2Proof.Machine.execMopa t ct mb va vb stamp s
  | .ald ct mb sa stamp => Sys2Proof.Machine.execAld ct mb sa stamp s
  | .wbld plain mb aa sd stamp => Sys2Proof.Machine.execWbld plain mb aa sd stamp s
  | .wbsel mb half stamp => Sys2Proof.Machine.execWbsel mb half stamp s
  | .crd ct mb vd sr stamp => Sys2Proof.Machine.execCrd ct mb vd sr stamp s
  | .cwr ct mb vs sr stamp => Sys2Proof.Machine.execCwr ct mb vs sr stamp s
  | .cclr ct mb stamp => Sys2Proof.Machine.execCclr ct mb stamp s
  | .cst fmt ct mb sa stamp => Sys2Proof.Machine.execCst fmt ct mb sa stamp s
  | .mbarm mb stamp => Sys2Proof.Machine.execMbarm mb stamp s
  | .mbwait sd mb => Sys2Proof.Machine.execMbwait sd mb s
  | .setsb abs sa => Sys2Proof.Machine.execSetsb abs sa s
  | .tenantM opc ct mb fa fb fc mmod stamp => Sys2Proof.Machine.execTenantM opc ct mb fa fb fc mmod stamp s
  | .ld sz sx sd m lane => Sys2Proof.Machine.execLd sz sx sd m lane s
  | .st sz sb m lane => Sys2Proof.Machine.execSt sz sb m lane s
  | .lda sz sx sc sd m => Sys2Proof.Machine.execLda sz sx sc sd m s
  | .sta sz sc sb m => Sys2Proof.Machine.execSta sz sc sb m s
  | .xld mode e1 q sd m => Sys2Proof.Machine.execXld mode e1 q sd m s
  | .xst mode e1 q sd m => Sys2Proof.Machine.execXst mode e1 q sd m s
  | .cpy src sd m as sl => Sys2Proof.Machine.execCpy src sd m as sl s
  | .cpy2d src sd m as sp => Sys2Proof.Machine.execCpy2d src sd m as sp s
  | .atom op dword sc sd m sb => Sys2Proof.Machine.execAtom op dword sc sd m sb s
  | .cas dword sc sd m sb => Sys2Proof.Machine.execCas dword sc sd m sb s
  | .fence kind sc => Sys2Proof.Machine.execFence kind sc s
  | .waitge dword signed sc sd m sb => Sys2Proof.Machine.execWaitge dword signed sc sd m sb s
  | .lockl sd m => Sys2Proof.Machine.execLockl sd m s
  | .unlockl sd m => Sys2Proof.Machine.execUnlockl sd m s
  | .pref l2 m => Sys2Proof.Machine.execPref l2 m s
  | .rinit sd q m sg => Sys2Proof.Machine.execRinit sd q m sg s
  | .rclaim sd q => Sys2Proof.Machine.execRclaim sd q s
  | .rpub q => Sys2Proof.Machine.execRpub q s
  | .rwait sd q => Sys2Proof.Machine.execRwait sd q s
  | .rrel q => Sys2Proof.Machine.execRrel q s
  | .barinit force sc sd m sn => Sys2Proof.Machine.execBarinit force sc sd m sn s
  | .bararr sc sd m => Sys2Proof.Machine.execBararr sc sd m s
  | .barwait sc sd m sg => Sys2Proof.Machine.execBarwait sc sd m sg s
  | .mscan op fmt sd m sn so => Sys2Proof.Machine.execMscan op fmt sd m sn so s
  | .bopen sd m sn => Sys2Proof.Machine.execBopen sd m sn s
  | .bst sz sb m => Sys2Proof.Machine.execBst sz sb m s
  | .bseal sc sd => Sys2Proof.Machine.execBseal sc sd s
  | .babort sd => Sys2Proof.Machine.execBabort sd s
  | .viewb sc => Sys2Proof.Machine.execViewb sc s
  | .viewe sd => Sys2Proof.Machine.execViewe sd s
  | .rtld h m => Sys2Proof.Machine.execRtld h m s
  | .rldq h q sd m => Sys2Proof.Machine.execRldq h q sd m s
  | .rst sz sb h m => Sys2Proof.Machine.execRst sz sb h m s
  | .ratom op dword sd m sb h => Sys2Proof.Machine.execRatom op dword sd m sb h s
  | .rstn sd m st => Sys2Proof.Machine.execRstn sd m st s
  | .recvadd fmt cnt port sd m sg => Sys2Proof.Machine.execRecvadd fmt cnt port sd m sg s
  | .rsend h sd m st => Sys2Proof.Machine.execRsend h sd m st s
  | .lfence sd => Sys2Proof.Machine.execLfence sd s
  | .coll k sd m sl => Sys2Proof.Machine.execColl k sd m sl s
  | .adpin chk sd aw sn => Sys2Proof.Machine.execAdpin chk sd aw sn s
  | .adunpin sd sn => Sys2Proof.Machine.execAdunpin sd sn s
  | .tenantX opc xmod sd sc m => Sys2Proof.Machine.execTenantX opc xmod sd sc m s
  | .br imm => Sys2Proof.Machine.execBr imm s
  | .bri sx imm => Sys2Proof.Machine.execBri sx imm s
  | .jmp sa imm => Sys2Proof.Machine.execJmp sa imm s
  | .call imm => Sys2Proof.Machine.execCall imm s
  | .calli sa imm => Sys2Proof.Machine.execCalli sa imm s
  | .ret => Sys2Proof.Machine.execRet s
  | .loop sd imm => Sys2Proof.Machine.execLoop sd imm s
  | .halt => Sys2Proof.Machine.execHalt s
  | .safept idx => Sys2Proof.Machine.execSafept idx s
  | .yield idx => Sys2Proof.Machine.execYield idx s
  | .waitev sd st mask => Sys2Proof.Machine.execWaitev sd st mask s
  | .sigev sd st e => Sys2Proof.Machine.execSigev sd st e s
  | .cont => Sys2Proof.Machine.execCont s
  | .trap n => Sys2Proof.Machine.execTrap n s
  | .brk n => Sys2Proof.Machine.execBrk n s
  | .tret fin sd => Sys2Proof.Machine.execTret fin sd s
  | .microMov fd fa imm => Sys2Proof.Machine.execMicroMov fd fa imm s
  | .microVectorFop fop ft fd fa fb imm => Sys2Proof.Machine.execMicroVectorFop fop ft fd fa fb imm s
  | .microEngineAlu fop fd fa fb imm => Sys2Proof.Machine.execMicroEngineAlu fop fd fa fb imm s
  | .zxf fd fa imm => Sys2Proof.Machine.execZxf fd fa imm s
  | .lidx fd => Sys2Proof.Machine.execLidx fd s
  | .divpre fd fa fb => Sys2Proof.Machine.execDivpre fd fa fb s
  | .divq => Sys2Proof.Machine.execDivq s
  | .divfin fd fa => Sys2Proof.Machine.execDivfin fd fa s
  | .pnz fd fa => Sys2Proof.Machine.execPnz fd fa s
  | .pscan fd fa => Sys2Proof.Machine.execPscan fd fa s
  | .pcomp fd fa fb => Sys2Proof.Machine.execPcomp fd fa fb s
  | .pcompf fd fa fb => Sys2Proof.Machine.execPcompf fd fa fb s
  | .ptot fd fa => Sys2Proof.Machine.execPtot fd fa s
  | .tok fd fa imm => Sys2Proof.Machine.execTok fd fa imm s
  | .pclamp fd fa imm => Sys2Proof.Machine.execPclamp fd fa imm s
  | .pcnt fd fa imm => Sys2Proof.Machine.execPcnt fd fa imm s
  | .padrd ma md => Sys2Proof.Machine.execPadrd ma md s
  | .padwr ma md => Sys2Proof.Machine.execPadwr ma md s
  | .lanerd ma md => Sys2Proof.Machine.execLanerd ma md s
  | .lanewr ma md => Sys2Proof.Machine.execLanewr ma md s
  | .sprd ma md => Sys2Proof.Machine.execSprd ma md s
  | .spwr ma md => Sys2Proof.Machine.execSpwr ma md s
  | .claim md imm => Sys2Proof.Machine.execClaim md imm s
  | .pub imm => Sys2Proof.Machine.execPub imm s
  | .wait md imm => Sys2Proof.Machine.execWait md imm s
  | .rel imm => Sys2Proof.Machine.execRel imm s
  | .xfer ma md imm => Sys2Proof.Machine.execXfer ma md imm s
  | .xferb ma md imm => Sys2Proof.Machine.execXferb ma md imm s
  | .send ma md imm => Sys2Proof.Machine.execSend ma md imm s
  | .radd ma md => Sys2Proof.Machine.execRadd ma md s
  | .afeed fa => Sys2Proof.Machine.execAfeed fa s
  | .bfeed fb => Sys2Proof.Machine.execBfeed fb s
  | .bslot => Sys2Proof.Machine.execBslot s
  | .outer => Sys2Proof.Machine.execOuter s
  | .crow fd => Sys2Proof.Machine.execCrow fd s
  | .crowhi fd => Sys2Proof.Machine.execCrowhi fd s
  | .cwrow fd => Sys2Proof.Machine.execCwrow fd s
  | .cwrowhi fd => Sys2Proof.Machine.execCwrowhi fd s
  | .tclr => Sys2Proof.Machine.execTclr s
  | .microNext => Sys2Proof.Machine.execMicroNext s
  | .brt mc tgt => Sys2Proof.Machine.execBrt mc tgt s
  | .brf mc tgt => Sys2Proof.Machine.execBrf mc tgt s
  | .microJmp tgt => Sys2Proof.Machine.execMicroJmp tgt s
  | .microLoop tgt => Sys2Proof.Machine.execMicroLoop tgt s
  | .microEnd => Sys2Proof.Machine.execMicroEnd s
  | .microCont tgt => Sys2Proof.Machine.execMicroCont tgt s
  | .coldReset => Sys2Proof.Machine.execColdReset s
  | .warmReset => Sys2Proof.Machine.execWarmReset s
  | .powerOn => Sys2Proof.Machine.execPowerOn s
  | .powerStepLimit => Sys2Proof.Machine.execPowerStepLimit s
  | .firmwareBoot => Sys2Proof.Machine.execFirmwareBoot s
  | .firmwareStartTimeout => Sys2Proof.Machine.execFirmwareStartTimeout s
  | .fwctlGo fn v => Sys2Proof.Machine.execFwctlGo fn v s
  | .fwVerifyDone => Sys2Proof.Machine.execFwVerifyDone s
  | .registerWrite fn off width v => Sys2Proof.Machine.execRegisterWrite fn off width v s
  | .idpkgWrite fn v => Sys2Proof.Machine.execIdpkgWrite fn v s
  | .land sh => Sys2Proof.Machine.execLand sh s
  | .interlockArrival k => Sys2Proof.Machine.execInterlockArrival k s
  | .fullStatePreemption sh => Sys2Proof.Machine.execFullStatePreemption sh s
  | .shiftSwitch core slot => Sys2Proof.Machine.execShiftSwitch core slot s
  | .continuationDispatch sh => Sys2Proof.Machine.execContinuationDispatch sh s
  | .safePointOverrun sh => Sys2Proof.Machine.execSafePointOverrun sh s
  | .trapDelivery sh f => Sys2Proof.Machine.execTrapDelivery sh f s
  | .delayedFaultDelivery sh r => Sys2Proof.Machine.execDelayedFaultDelivery sh r s
  | .tenantImageLoad core ctx tag => Sys2Proof.Machine.execTenantImageLoad core ctx tag s
  | .tenantLoadComplete core bank => Sys2Proof.Machine.execTenantLoadComplete core bank s
  | .wbldSlotValid sh => Sys2Proof.Machine.execWbldSlotValid sh s
  | .matrixOpIssue sh => Sys2Proof.Machine.execMatrixOpIssue sh s
  | .matrixOpComplete sh => Sys2Proof.Machine.execMatrixOpComplete sh s
  | .copyJobStart j => Sys2Proof.Machine.execCopyJobStart j s
  | .copyPiece j => Sys2Proof.Machine.execCopyPiece j s
  | .tokenWrite k => Sys2Proof.Machine.execTokenWrite k s
  | .homeRequest k => Sys2Proof.Machine.execHomeRequest k s
  | .scanUnitRead j ch => Sys2Proof.Machine.execScanUnitRead j ch s
  | .scanWaitLimit j ch => Sys2Proof.Machine.execScanWaitLimit j ch s
  | .homeLineBst k => Sys2Proof.Machine.execHomeLineBst k s
  | .homeLineSeal k => Sys2Proof.Machine.execHomeLineSeal k s
  | .homeLineDiscard k => Sys2Proof.Machine.execHomeLineDiscard k s
  | .backwardFetch k => Sys2Proof.Machine.execBackwardFetch k s
  | .forwardFetch k => Sys2Proof.Machine.execForwardFetch k s
  | .sealAck k => Sys2Proof.Machine.execSealAck k s
  | .pendingResolution line => Sys2Proof.Machine.execPendingResolution line s
  | .retentionEnd line => Sys2Proof.Machine.execRetentionEnd line s
  | .receivePacket p => Sys2Proof.Machine.execReceivePacket p s
  | .waitevTimeout sh => Sys2Proof.Machine.execWaitevTimeout sh s
  | .eventLatchSet k => Sys2Proof.Machine.execEventLatchSet k s
  | .stepBoundFault sh unit => Sys2Proof.Machine.execStepBoundFault sh unit s
  | .launch q idx => Sys2Proof.Machine.execLaunch q idx s
  | .cmo q idx => Sys2Proof.Machine.execCmo q idx s
  | .aditx q idx data => Sys2Proof.Machine.execAditx q idx data s
  | .nodeCheck t n => Sys2Proof.Machine.execNodeCheck t n s
  | .condEvaluate t n => Sys2Proof.Machine.execCondEvaluate t n s
  | .dispatchDecision => Sys2Proof.Machine.execDispatchDecision s
  | .rebalanceWindowEnd t n => Sys2Proof.Machine.execRebalanceWindowEnd t n s
  | .nodeComplete t n => Sys2Proof.Machine.execNodeComplete t n s
  | .tmapcmtGo fn v => Sys2Proof.Machine.execTmapcmtGo fn v s
  | .tmapCommitDone => Sys2Proof.Machine.execTmapCommitDone s
  | .linkStateChange die exit up => Sys2Proof.Machine.execLinkStateChange die exit up s
  | .packetForward k arriving => Sys2Proof.Machine.execPacketForward k arriving s
  | .failureNotice op cause => Sys2Proof.Machine.execFailureNotice op cause s
  | .fabricTimeout op => Sys2Proof.Machine.execFabricTimeout op s
  | .laneOutOfService adit lane => Sys2Proof.Machine.execLaneOutOfService adit lane s
  | .lemlnWrite fn adit v => Sys2Proof.Machine.execLemlnWrite fn adit v s
  | .laneTurnDone adit => Sys2Proof.Machine.execLaneTurnDone adit s
  | .adctlGo fn adit v => Sys2Proof.Machine.execAdctlGo fn adit v s
  | .aditDrainEnd adit => Sys2Proof.Machine.execAditDrainEnd adit s
  | .aditDrainLimit adit => Sys2Proof.Machine.execAditDrainLimit adit s
  | .aditTrainDone adit ok devGib => Sys2Proof.Machine.execAditTrainDone adit ok devGib s
  | .adwinOff fn adit v => Sys2Proof.Machine.execAdwinOff fn adit v s
  | .adwinCloseDone adit => Sys2Proof.Machine.execAdwinCloseDone adit s
  | .pageWalk unit ctx va kind => Sys2Proof.Machine.execPageWalk unit ctx va kind s
  | .tlbiPage fn port v => Sys2Proof.Machine.execTlbiPage fn port v s
  | .tlbiRegion fn port v => Sys2Proof.Machine.execTlbiRegion fn port v s
  | .tlbiContext fn port v => Sys2Proof.Machine.execTlbiContext fn port v s
  | .tlbiS2Page fn port v => Sys2Proof.Machine.execTlbiS2Page fn port v s
  | .tlbiS2Context fn port v => Sys2Proof.Machine.execTlbiS2Context fn port v s
  | .tlbiAll fn port v => Sys2Proof.Machine.execTlbiAll fn port v s
  | .invalidationComplete port => Sys2Proof.Machine.execInvalidationComplete port s
  | .collapseAck k die => Sys2Proof.Machine.execCollapseAck k die s
  | .keydWrite fn v => Sys2Proof.Machine.execKeydWrite fn v s
  | .keyLoad fn v => Sys2Proof.Machine.execKeyLoad fn v s
  | .keyRetire fn v => Sys2Proof.Machine.execKeyRetire fn v s
  | .keySweepLine slot line => Sys2Proof.Machine.execKeySweepLine slot line s
  | .keySweepEnd slot => Sys2Proof.Machine.execKeySweepEnd slot s
  | .hostMemoryAccess fn pa len write => Sys2Proof.Machine.execHostMemoryAccess fn pa len write s
  | .vfReset fn vf v => Sys2Proof.Machine.execVfReset fn vf v s
  | .vfEnable fn vf v => Sys2Proof.Machine.execVfEnable fn vf v s
  | .adrevRevoke fn ctx v => Sys2Proof.Machine.execAdrevRevoke fn ctx v s
  | .adrevClear fn ctx v => Sys2Proof.Machine.execAdrevClear fn ctx v s
  | .attnWrite fn port v => Sys2Proof.Machine.execAttnWrite fn port v s
  | .attestGo fn port v => Sys2Proof.Machine.execAttestGo fn port v s
  | .attestDone port => Sys2Proof.Machine.execAttestDone port s
  | .scrubCommand stack => Sys2Proof.Machine.execScrubCommand stack s
  | .scrubQuarterEnd stack => Sys2Proof.Machine.execScrubQuarterEnd stack s
  | .pgretGo fn v => Sys2Proof.Machine.execPgretGo fn v s
  | .deputyMismatch => Sys2Proof.Machine.execDeputyMismatch s
  | .hewerWatchdog h => Sys2Proof.Machine.execHewerWatchdog h s
  | .thermalPlacementLimit die above => Sys2Proof.Machine.execThermalPlacementLimit die above s
  | .thermalLimit die => Sys2Proof.Machine.execThermalLimit die s
  | .qcfgEnable fn q v => Sys2Proof.Machine.execQcfgEnable fn q v s
  | .qcfgDisable fn q v => Sys2Proof.Machine.execQcfgDisable fn q v s
  | .queueDrainEnd q => Sys2Proof.Machine.execQueueDrainEnd q s
  | .qtailWrite fn q v => Sys2Proof.Machine.execQtailWrite fn q v s
  | .packetParse q readable => Sys2Proof.Machine.execPacketParse q readable s
  | .packetStart q idx => Sys2Proof.Machine.execPacketStart q idx s
  | .qcheadWrite fn q v => Sys2Proof.Machine.execQcheadWrite fn q v s
  | .completionWrite q => Sys2Proof.Machine.execCompletionWrite q s
  | .interruptTimer q => Sys2Proof.Machine.execInterruptTimer q s
  | .memilWrite fn v => Sys2Proof.Machine.execMemilWrite fn v s
  | .freezeGo fn ctx v => Sys2Proof.Machine.execFreezeGo fn ctx v s
  | .freezeImageWrite ctx => Sys2Proof.Machine.execFreezeImageWrite ctx s
  | .thaw fn ctx v => Sys2Proof.Machine.execThaw fn ctx v s
  | .registerRead fn off width => Sys2Proof.Machine.execRegisterRead fn off width s
  | .settleNotice k => Sys2Proof.Machine.execSettleNotice k s
  | .onDieScrubPathFailure stack working => Sys2Proof.Machine.execOnDieScrubPathFailure stack working s
  | .thawComplete ctx => Sys2Proof.Machine.execThawComplete ctx s
  | .adapterEviction ctx idx => Sys2Proof.Machine.execAdapterEviction ctx idx s
  | .ualRequest adit r => Sys2Proof.Machine.execUalRequest adit r s

end Sys2Proof.Machine
end

