-- ==== Sys2Proof/Machine/Routine.lean ====
section
/-!
DEFINITION. The micro-step of a unit (R305 to R319), and the work of the engines in one cycle (R26, log 1).
-/
namespace Sys2Proof.Machine

/-- The outcome carried on. -/
def andThen (o : Out) (f : State → Out) : Out :=
  match o with
  | .next s => f s
  | .fault r => .fault r
  | .refused r => .refused r

/-- Instructions run one after another, each on the state that the one before it leaves. -/
def runAll : List Instr → State → Out
  | [], s => .next s
  | i :: is, s => andThen (exec i s) (runAll is)

/-! ## A micro-step -/

/-- What a fetch of a micro-word finds: nothing yet, an image whose load failed, an illegal word, or the parts of a word. -/
inductive MicroFetch where
  | wait
  | failed
  | illegal
  | word (p : Parts)

/-- The word at the MPC of the unit that steps: base words come from the part, a collective's from the link store of the crew (R327), a tenant
routine's from the bank that holds its image READY (R324, R326). -/
def State.microFetch (s : State) : MicroFetch :=
  let u := s.unit
  let c := classOf u.instr
  let found (p : Option Parts) : MicroFetch := match p with
    | some p => .word p
    | none => .illegal
  let from_ (ws : Option (NMap (BitVec 128))) : MicroFetch := match ws with
    | none => .wait
    | some ws => found (decodeMicro c (NMap.getD ws u.mpc 0))
  match c with
  | .base => found (baseWord u.mpc)
  | .coll => from_ ((NMap.get? s.links (s.myCore / 8)).map (·.words))
  | _ =>
    let at_ (st : Nat) : Option Nat := s.bankOf s.myCore s.x.place.ctx u.tag st
    if (at_ 2).isNone && (at_ 1).isNone && (at_ 3).isSome then .failed
    else from_ ((at_ 2).bind fun k => ((s.core s.myCore).banks[k]?).map (·.words))

/-- The index that a word of XLD `.index` reads (R199, log 13): m0 takes the source of the next slot. -/
def State.takeIndex (s : State) (p : Parts) : State :=
  if !p.index then s
  else
    let r := s.readAcc s.indexAcc
    let u := s.before
    r.2.putSel (.m 0) (BitVec.ofNat 2048 (u.ea.toNat + ofLE r.1 * r.2.slotBytes (r.2.unitRing p.imm))) 1

/-- A step whose checks passed takes effect: its operation, its tile ports, its address generators, its sequencing (R307, R308). -/
def State.microRun (s : State) (p : Parts) : Out :=
  let s := (s.modUnit fun u => { u with steps := u.steps + 1 }).takeIndex p
  let openEa := s.onLane && (p.all.flatMap selsOf).contains .ea
  andThen (runAll (p.fu.toList ++ p.ports ++ p.ag0.toList ++ p.ag1.toList ++ [p.seq]) s) fun t =>
    let t := if openEa then { t with free := t.free + 1 } else t
    .next (match s.cur.job with
      | none => t
      | some j => t.modJob j fun e => { e with count := 0, buf := none })

/-- A step of the unit that steps, of the word at its MPC: it faults, waits, asks another package for its next piece, or takes effect. -/
def State.microWord (s : State) (p : Parts) : Out :=
  let s := s.modUnit fun u => { u with banken := p.banken }
  let s := { s with cur := { s.cur with old := some s.unit, imm := p.imm } }
  match s.stepCheck p with
  | .fault f => .next (s.unitFault f)
  | .hold t => .next t
  | .go =>
    let away := s.awayPieces (s.stepAccs p)
    let j := s.unitJob
    match away[j.count]? with
    | none => s.microRun p
    | some (a, w) => .next (if s.jobAway j.id then s else s.injectPiece a w)

/-- A micro-step of a unit of a shift (1 the lane sequencer, 2 AE0, 3 AE1, 4 the link engine): at most one in a cycle. A tenant or collective
routine that has executed its bound of words halts (R317); an illegal micro-word halts it with code 0x05 (R310); a paused routine whose image no longer
passes its checks halts with the fault that a bundle takes there (R326; log 78). -/
def State.microStep (s : State) (sh unit : Nat) : Out :=
  let t := s.asUnit sh unit
  let u := t.unit
  let done (o : Out) : Out := andThen o fun t => .next { t with cur := s.cur }
  if !u.v ∨ u.halt ∨ u.last = some s.dcc then .next s
  else
    let t := t.modUnit fun u => { u with last := some s.dcc }
    if (u.ten || classOf u.instr == .coll) && decide (u.bound ≤ u.steps) then done (execStepBoundFault sh unit t)
    else match t.microFetch with
      | .wait => .next s
      | .failed => done (.next (t.unitFault { code := 0x03 }))
      | .illegal => done (.next (t.unitFault { code := 0x05 }))
      | .word p => done (t.microWord p)

/-- A step of a base routine on the lane sequencer (R302, R311, R312): its words act on the temporaries alone, since its results land from its bundle. PARTN,
of which no word is printed, steps through words of its own count and leaves its temporaries (log 13). -/
def State.baseStep (s : State) (i : Nat) (x : Shift) : Out :=
  let done : Out := .next (s.modSh i fun x => { x with lane := MicroUnit.zero })
  if x.lane.last = some s.dcc then .next s
  else match laneWord x.lane.mpc with
    | none =>
      if x.tim.laneBusy ≤ 1 then done
      else .next (s.modSh i fun x => { x with lane := { x.lane with mpc := x.lane.mpc + 1, steps := x.lane.steps + 1, last := some s.dcc } })
    | some p =>
      if p.seq = .microEnd then done
      else
        let t := s.asUnit i 1
        andThen ({ t with cur := { t.cur with old := some x.lane, imm := p.imm } }.microRun p) fun r =>
          let u := ((r.sh? i).getD Shift.zero).lane
          .next ({ s with free := r.free }.modSh i fun x => { x with lane := { u with last := some s.dcc } })

/-! ## The engines (R26) -/

/-- Whether a job stands at the head of its queue: that of its core for an address engine, that of its crew for the link engine. -/
def State.headsQueue (s : State) (j : Job) : Bool :=
  let same (e : Job) : Bool := e.eng == j.eng && (if j.eng = 3 then e.core / 8 == j.core / 8 else e.core == j.core) && decide (e.state < 4)
  decide (1 ≤ j.eng) && decide (j.eng ≤ 3) && (s.jobs.find? same).map (·.id) == some j.id

/-- The next step of a job of an address engine or of the link engine: its start, a micro-step of its routine, or a step of a link word. Where the engines of
its context stand still, a step that has begun is ended, and the link engine goes on (R427). -/
def State.engineStep (s : State) (j : Job) : Out :=
  match s.sh? j.sh with
  | none => .next s
  | some x =>
    if !s.headsQueue j ∨ (j.eng ≠ 3 ∧ s.enginesStand x.place.ctx ∧ j.count = 0 ∧ !s.jobAway j.id) ∨ j.unit.last = some s.dcc then .next s
    else if j.state = 2 ∧ j.unit.v then s.microStep j.sh (j.eng + 1)
    else if j.eng = 3 then .next ((s.modJob j.id fun e => { e with unit := { e.unit with last := some s.dcc } }).linkStep j x)
    else if j.state = 1 ∧ s.jobOrdered j then .next (s.startJob j x)
    else .next s

end Sys2Proof.Machine
end

