-- ==== Sys2Proof/Machine/Cycle.lean ====
section
/-!
DEFINITION. One cycle of a core: the shift that counts it (R29, R151), the boundary of a bundle (R366), its issue (R46, R59), and the end of the cycle
(R30, R256).
-/
namespace Sys2Proof.Machine

/-! ## The words of a bundle -/

/-- An operation of a bundle: the index and raw bits of its word, and the instruction. -/
structure Op where
  word : Nat
  raw : Word
  instr : Instr

/-- The operations of a bundle whose guards are true, in order (R49). -/
def trueOps (x : Shift) (f : Fetched) : List Op :=
  (f.words.zip (upto 0 f.words.length)).flatMap fun p =>
    if x.guardOf p.1.1 then p.1.1.ops.map fun i => { word := p.2, raw := p.1.2, instr := i } else []

/-- One operation run: its checks first, or its effect alone where the bundle's checks have passed. -/
def runOp (checked : Bool) (s : State) (o : Op) : Out :=
  exec o.instr { s with cur := { s.cur with word := o.word, raw := o.raw, checked := checked, verdict := 0 } }

/-- Operations run one after another. -/
def runOps (checked : Bool) : State → List Op → Out
  | s, [] => .next s
  | s, o :: os => andThen (runOp checked s o) fun t => runOps checked t os

/-- What the checks of a bundle's words find: those that hold it, or the state of the first trap (check 7 of Table 3.11). -/
inductive Judged where
  | hold (os : List Op)
  | trap (s : State)
  | stop (o : Out)

/-- The delayed fault that a word meets (R285, R364): of a register that it reads, or any at an LFENCE, HALT, SAFEPT or YIELD. -/
def Shift.delayedAt (x : Shift) (i : Instr) : Option Delayed :=
  let any : Bool := match i with
    | .lfence _ | .halt | .safept _ | .yield _ => true
    | _ => false
  x.pend.delayed.find? fun d => any || (d.reg != 0 && (readsOf i).contains (.s d.reg))

/-- A word's checks run: its delayed fault before its own. -/
def tryOp (s : State) (o : Op) : Out :=
  match s.x.delayedAt o.instr with
  | some d =>
    match s.trapWait s.me with
    | some t => .next { t with cur := { t.cur with verdict := 1 } }
    | none => andThen (execDelayedFaultDelivery s.me d.reg { s with cur := { s.cur with word := o.word } }) fun t =>
        .next { t with cur := { t.cur with verdict := 2 } }
  | none => runOp false s o

/-- The words that hold a bundle tried once more, for what their waiting leaves behind. -/
def tryOps : State → List Op → Out
  | s, [] => .next s
  | s, o :: os => andThen (tryOp s o) fun t => tryOps t os

/-- The checks of every word, all in the bundle's issue cycle. -/
def judge (s : State) : List Op → Judged
  | [] => .hold []
  | o :: os =>
    match tryOp s o with
    | .next t =>
      if t.cur.verdict = 2 then .trap t
      else match judge s os with
        | .hold hs => if t.cur.verdict = 1 then .hold (o :: hs) else .hold hs
        | j => j
    | r => .stop r

/-- Whether shift i has stopped in the present cycle, at the point P (R36, R151). -/
def State.stoppedAt (s : State) (i : Nat) : Bool := ((s.sh? i).map fun x => x.tim.stopped == some s.dcc).getD false

/-- The end of a bundle's issue: the PC and the stall cycles owed (R29). -/
def State.endBundle (s : State) (i : Nat) : State :=
  let c := s.cur
  s.modSh i fun x =>
    { x with
      regs := { x.regs with pc := c.taken.getD c.npc },
      tim := { x.tim with owed := if c.taken.isSome then max c.stall 2 else c.stall } }

/-- The bank of a core that a bundle uses marked as used in this cycle (R324). -/
def State.usedBank (s : State) (i : Nat) (x : Shift) (t : Word) : State :=
  match s.bankOf (i / 8) x.place.ctx t 2 with
  | none => s
  | some k => s.modBank (i / 8) k fun b => { b with used := s.dcc }

/-- The waits and the safe point of a shift are over once a bundle issues. -/
def Shift.moveOn (x : Shift) : Shift :=
  { x with
    pend := { x.pend with fence := 0, routine := false },
    tim := { x.tim with seq := x.tim.seq + 1, waitFrom := none, timedOut := false, safe := none, yields := false, waitLoad := none } }

/-- Whether a word may end its shift, or take it off its core. -/
def mayEnd (i : Instr) : Bool :=
  match i with
  | .halt | .tret _ _ | .safept _ | .yield _ => true
  | _ => false

/-- The landings that a word which ran last has added, put at the place of its word: `before` landings stood there before the words behind it, `all`
before it ran (R31, R45). -/
def Shift.putBack (x : Shift) (before all : Nat) : Shift :=
  { x with landings := x.landings.take before ++ x.landings.drop all ++ (x.landings.take all).drop before }

/-- The landings of a shift. -/
def State.landCount (s : State) (i : Nat) : Nat := ((s.sh? i).map (·.landings.length)).getD 0

/-- The words of a bundle that has passed its checks, in the order of addresses; one that may end its shift, or take it off its core, acts behind the
others, and its result lands as its place says (R31, R45, R46). -/
def State.runBundle (s : State) (i : Nat) (os : List Op) : Out :=
  match os.findIdx? fun o => mayEnd o.instr with
  | none => runOps true s os
  | some k =>
    andThen (runOps true s (os.take k)) fun t =>
    andThen (runOps true t (os.drop (k + 1))) fun u =>
    match os[k]? with
    | none => .next u
    | some o => andThen (runOp true u o) fun v => .next (v.modSh i fun x => x.putBack (t.landCount i) (u.landCount i))

/-- The fault of a HALT whose own bundle claims a slot, or opens a bundle or a view, so that what is held would outlive the shift (R213, R237; log 65). -/
def State.heldAfter (s : State) (i : Nat) (os : List Op) : Option FaultInfo :=
  match os.find? fun o => o.instr == .halt with
  | none => none
  | some o =>
    match runOps true s (os.filter fun p => !mayEnd p.instr) with
    | .next u => if ((u.sh? i).map (·.holdsAny)).getD false then some { heldFault with word := o.word } else none
    | _ => none

/-- A bundle that passed its checks issues: every word with a true guard takes effect. A shadow read is counted first, so that an RDSR of CHK in that
bundle reads its own count (log 67). A WAITEV still sees that its wait has timed out. -/
def State.issueBundle (s : State) (i : Nat) (x : Shift) (os : List Op) (shadow : Bool) : Out :=
  let s := (x.tagsOf (os.map (·.instr))).foldl (fun (s : State) (t : Word) => s.usedBank i x t) s
  let s := (s.modSh i fun x => (if shadow then x.countShadow else x).moveOn).dropWaiter i codeWait
  andThen (s.runBundle i os) fun t => .next (t.endBundle i)

/-! ## The boundary of a bundle -/

/-- A bundle that waits for an image that is not READY (check 5 of Table 3.11; R324): a load is asked for; a load that it waited for and that failed is the
unbound-opcode fault (R326). -/
def State.awaitImage (s : State) (i : Nat) (x : Shift) (o : Op) (t : Word) : Out :=
  let c := i / 8
  let loading := (s.bankOf c x.place.ctx t 1).isSome
  let set (w : Option (Word × Bool)) : State := s.modSh i fun x => { x with tim := { x.tim with waitLoad := w } }
  if x.tim.waitLoad = some (t, true) ∧ !loading ∧ (s.bankOf c x.place.ctx t 3).isSome then .next ((set none).trap i { code := 0x03, word := o.word })
  else .next (set (some (t, loading)))

/-- The first operation of a bundle whose image is not READY, with its tag. -/
def State.missingImage (s : State) (i : Nat) (x : Shift) (os : List Op) : Option (Op × Word) :=
  os.findSome? fun o => ((x.tagsOf [o.instr]).find? fun t => (s.bankOf (i / 8) x.place.ctx t 2).isNone).map fun t => (o, t)

/-- A bundle whose words are judged (checks 6 and 7 of Table 3.11): issued, held, or trapped. -/
def State.judgeBundle (s : State) (i : Nat) (x : Shift) (f : Fetched) (os : List Op) : Out :=
  let shadow := x.shadowRead f
  let stall (s : State) : Out := .next (s.trap i { code := 0x07, word := shadow.getD 0 })
  let en := x.sp.chk.getLsbD 0 && shadow.isSome
  match judge s os with
  | .stop o => o
  | .trap t => if en then stall s else .next t
  | .hold (h :: hs) => tryOps s (h :: hs)
  | .hold [] =>
    if en then stall s
    else match s.heldAfter i os with
      | some f => .next (s.trap i f)
      | none => s.issueBundle i x os shadow.isSome

/-- A line of code of another package asked for (R335), unless it is on its way: its bundle is held. -/
def State.fetchLine (s : State) (i : Nat) (x : Shift) (va : Nat) : State :=
  match s.translate (tlbUnit x.place.core fetchUnit) x.place.ctx va false true with
  | .error _ => s
  | .ok e =>
    match e.fab with
    | none => s
    | some (pkg, h) => (s.askLine i x codeWait 7 e pkg h va).noteRoute i h

/-- The banks that the running word of a tenant routine enables: the word that the lane sequencer executes next (R313, R329). -/
def State.runningBanks (s : State) (i : Nat) (x : Shift) : BitVec 32 :=
  match (s.asUnit i 1).microFetch with
  | .word p => p.banken
  | _ => x.lane.banken

/-- Whether the tenant routine on the lane sequencer holds a bundle: the routine that meets an access of it holds it until the routine ends (R313). -/
def State.routineHeld (s : State) (i : Nat) (x : Shift) (f : Fetched) : Bool :=
  x.lane.v && x.lane.ten && (x.pend.routine || f.words.any fun d => x.guardOf d.1 && d.1.ops.any (x.routineHolds (s.runningBanks i x)))

/-- A bundle at its boundary (case 5 of R366): issued, held, or trapped. -/
def State.bundle (s : State) (i : Nat) : Out :=
  match s.sh? i with
  | none => .next s
  | some x =>
    match s.fetchUse x with
    | none => .next s
    | some s =>
    match s.fetchBundle x with
    | .error f => .next (if f.code = notArrived then s.fetchLine i x f.faddr.toNat else s.trap i f)
    | .ok f =>
      let cur := { Cur.zero with sh := some i, at_ := x.regs.pc, npc := x.regs.pc + 8 * f.words.length, stall := f.stall }
      let s := { s with cur := cur }
      let os := trueOps x f
      match s.missingImage i x os with
      | some (o, t) => s.awaitImage i x o t
      | none =>
        if s.routineHeld i x f then .next (s.modSh i fun x => { x with pend := { x.pend with routine := true } })
        else if s.heldBefore i x f then .next s
        else s.judgeBundle i x f os

/-- The first fault pending at a boundary taken (R366). -/
def State.takePending (s : State) (i : Nat) (f : FaultInfo) : Out := if f.code = 0x0F then execSafePointOverrun i s else execTrapDelivery i f s

/-- The record at the head of a shift's queue whose image is not READY, with its tag: the next bundle waits behind it (R40, R316). -/
def State.contWaits (s : State) (i : Nat) (x : Shift) : Option (Op × Word) :=
  match x.conts with
  | [] => none
  | c :: _ => if (s.bankOf (i / 8) x.place.ctx c.tag 2).isSome then none else some ({ word := 0, raw := 0, instr := c.instr }, c.tag)

/-- The dispatch of the continuation record that a boundary finds at the head of the queue, and what follows it (R40). -/
def State.afterCont (s : State) (i : Nat) (x : Shift) (k : State → Out) : Out :=
  if !x.conts.isEmpty && !x.lane.v && x.tim.laneBusy == 0 then
    match s.contWaits i x with
    | some (o, t) => s.awaitImage i x o t
    | none => andThen (execContinuationDispatch i s) k
  else k s

/-- The bundle of a boundary, after the end of a WAITEV's wait (R267) and the dispatch of a continuation record (R40). -/
def State.boundaryBundle (s : State) (i : Nat) (x : Shift) : Out :=
  let late := match x.tim.waitFrom with
    | some d => d != 0 && decide (d ≤ s.dcc)
    | none => false
  andThen (if late then execWaitevTimeout i s else .next s) fun s => s.afterCont i x fun s => s.bundle i

/-- The cycles of the turn of a shift's slot: a handler runs in the turn of its shift (R252, R368). -/
def State.turnUsed (s : State) (i : Nat) : Nat := ((s.sh? (baseOf i)).map (·.tim.turnUsed)).getD 0

/-- The slot to which a shift that stands at a safe point gives its turn: it has yielded, its pre-emption is asked for, or its turn is over (R252,
R257). -/
def State.turnTo (s : State) (i : Nat) (x : Shift) : Option Nat :=
  if x.tim.safe.isSome && (x.tim.yields || s.preemptAsked i || decide (s.quantum ≤ s.turnUsed i)) then s.nextReady (i / 8) (some (i % 4)) else none

/-- A boundary's fault or bundle, where the shift goes on: one that waits at a SAFEPT for results of the SAFEPT's own bundle is held (R37), and one whose
HALT or TRET waits looks again, after the records of its continuation queue (R40, R263). -/
def State.boundaryWork (s : State) (i : Nat) : Out :=
  match s.sh? i with
  | none => .next s
  | some x =>
    match s.pendingFaults i x with
    | f :: _ => s.takePending i f
    | [] =>
      if x.tim.safeWait.isSome then .next s
      else match x.tim.halting with
        | some w => s.afterCont i x fun s => .next (s.resumeEnd w)
        | none => s.boundaryBundle i x

/-- A boundary at which no switch was taken: a safe point that stood there is over, and with it the pre-emption asked for (R257). -/
def State.passSafe (s : State) (i : Nat) (x : Shift) : State :=
  if x.tim.safe.isNone then s
  else ((if s.preemptAsked i then s.met i else s).modSh i fun x => { x with tim := { x.tim with safe := none, yields := false } }).prefetch (i / 8)

/-- A bundle boundary of shift i, after what a safe point leaves to be decided there: a switch, a pre-emption, a pending fault, or the bundle (R252,
R257, R366). -/
def State.boundaryAt (s : State) (i : Nat) (x : Shift) : Out :=
  match s.leaves i x with
  | some m => .next (s.withdraw i x m)
  | none =>
    match s.turnTo i x with
    | some k => execShiftSwitch (i / 8) k s
    | none =>
      if s.preemptDue i x then andThen (execFullStatePreemption i s) fun t => if t.issuer (i / 8) = some i then (t.passSafe i x).boundaryWork i else .next t
      else (s.passSafe i x).boundaryWork i

/-- A bundle boundary of shift i: a SAFEPT that has waited for the results of its own bundle completes once they have landed (R37, R256); a
handler issues once its frame has been performed (R368). -/
def State.boundary (s : State) (i : Nat) : Out :=
  match s.sh? i with
  | none => .next s
  | some x =>
    if 4 ≤ i % 8 && s.frameAway (baseOf i) then .next s
    else match x.tim.safeWait with
    | none => s.boundaryAt i x
    | some (idx, y) =>
      if x.landings.isEmpty then (s.modSh i fun x => x.atSafe idx y).boundaryAt i (x.atSafe idx y) else s.boundaryAt i x

/-! ## A counted cycle -/

/-- The first counted cycle of a shift sets SB (R248); one after a stop at P moves SB and matrix time by the gap (R151). -/
def State.resume (s : State) (i : Nat) : State :=
  match s.sh? i with
  | none => s
  | some x =>
    match x.tim.stopped with
    | some p =>
      let g := s.dcc - p
      s.modSh i fun x =>
        { x with sp := { x.sp with sb := x.sp.sb + w64 g }, mx := x.mx.later g, tim := { x.tim with stopped := none, started := true } }
    | none =>
      if x.tim.started then s else s.modSh i fun x => { x with sp := { x.sp with sb := w64 s.dcc }, tim := { x.tim with started := true } }

/-- What completes on the matrix unit in this cycle, one operation at a time. -/
def completeAll (i : Nat) : Nat → State → Out
  | 0, s => .next s
  | n + 1, s => andThen (execMatrixOpComplete i s) (completeAll i n)

/-- The matrix operations of a shift that complete in a cycle: before its landings, so that a write issued later is kept (R149, R168). -/
def State.mxEnds (s : State) (i : Nat) : Out :=
  match s.sh? i with
  | none => .next s
  | some x => completeAll i x.mx.active.length s

/-- The work of a shift's weight stream and matrix queue in a counted cycle. -/
def State.unitWork (s : State) (i : Nat) : Out :=
  match s.sh? i with
  | none => .next s
  | some x =>
    andThen (if x.mx.active.isEmpty then .next s else execWbldSlotValid i s) fun s =>
    if x.mx.queue.isEmpty then .next s else execMatrixOpIssue i s

/-- The step of a shift's lane sequencer in a cycle that it still counts: a routine steps in the cycle in which it starts (R171), and what its last step
does is seen from the next cycle on (R154). -/
def State.laneStep (s : State) (core i : Nat) : Out :=
  match s.sh? i with
  | none => .next s
  | some x => if !x.lane.v || s.issuer core != some i then .next s else if x.lane.ten then s.microStep i 1 else s.baseStep i x

/-- The results that land in this cycle (R30). -/
def State.landings (s : State) (i : Nat) : Out :=
  match s.sh? i with
  | none => .next s
  | some x => if x.landings.isEmpty then .next s else execLand i s

/-- A stall cycle, or the boundary (R29). DESIGN CHOICE (log 83): a trap, a pre-emption or a stop waits for the boundary, at which no stall cycle is owed. -/
def State.stallOrIssue (s : State) (i : Nat) : Out :=
  match s.sh? i with
  | none => .next s
  | some x =>
    if x.tim.owed ≠ 0 then .next (s.modSh i fun x => { x with tim := { x.tim with owed := x.tim.owed - 1 } })
    else s.boundary i

/-- The end of a counted cycle of shift i, where it still issues (R29, R30, R34, R252, R256). -/
def State.tick (s : State) (core i : Nat) : State :=
  if s.issuer core = some i then
    (s.modSh i fun x => { x.tickLandings with tim := { x.tim with spc := x.tim.spc + 1, laneBusy := x.tim.laneBusy - 1 } }).modSh (baseOf i) fun x =>
      { x with tim := { x.tim with turnUsed := x.tim.turnUsed + 1 } }
  else s

/-- The boundary of a cycle, with the word being executed of shift i. -/
def State.issueStep (s : State) (i : Nat) : Out := { s with cur := { Cur.zero with sh := some i } }.stallOrIssue i

/-- The matrix unit's work and the boundary of a cycle; where the shift stops at that boundary, the cycle is not one that it counts, so the matrix unit
has not advanced in it (R151). -/
def State.workStep (s : State) (i : Nat) : Out :=
  match andThen (s.unitWork i) fun t => t.issueStep i with
  | .next t => if t.stoppedAt i then s.issueStep i else .next t
  | o => o

/-- A cycle of a core on which shift i issues. -/
def State.coreCycle (s : State) (core i : Nat) : Out :=
  let s := { s.resume i with cur := { Cur.zero with sh := some i } }
  andThen (s.mxEnds i) fun s =>
  andThen (s.landings i) fun s =>
  andThen (s.workStep i) fun s =>
  andThen (s.laneStep core i) fun s => .next (s.tick core i)

end Sys2Proof.Machine
end

