-- ==== Sys2Proof/Machine/Run.lean ====
section
/-!
DEFINITION. What moves next (log 1), and the state in which one instruction stands where the next step fetches it (log 2).
-/
namespace Sys2Proof.Machine

/-! ## A cycle -/

/-- The next core from `turn` on whose shift issues. -/
def State.nextCore (s : State) : Option (Nat × Nat) :=
  s.cores.findSome? fun e => if s.turn ≤ e.1 then (s.issuer e.1).map fun i => (e.1, i) else none

/-- One command of the fallback scrubber of each stack where it runs and may issue one (R377; one in a cycle, log 1). -/
def scrubAll : List Nat → State → Out
  | [], s => .next s
  | n :: ns, s => andThen (if (s.stack n).scrubs then execScrubCommand n s else .next s) (scrubAll ns)

/-- The end of a cycle: the rings that rebalance are sampled (R249), the scrubbers work, and the counter advances (R11). -/
def State.endCycle (s : State) : Out :=
  andThen (scrubAll (upto 0 16) s.sampleRings) fun s => .next { s with dcc := s.dcc + 1, turn := 0, cur := Cur.zero }

/-- The cycle of the next core, or the end of the cycle (R11, log 1). -/
def State.cycleStep (s : State) : Out :=
  match s.nextCore with
  | none => s.endCycle
  | some (c, i) => { s with turn := c + 1 }.coreCycle c i

/-! ## What is due -/

/-- A message on its way at work. -/
def msgStep (k : Nat) (s : State) : Out :=
  match s.msgs[k]? with
  | none => .next s
  | some m => match m with
    | .req r =>
      match r.fetch, r.at_, r.op with
      | some f, _, _ => if f.fwd then execForwardFetch k s else execBackwardFetch k s
      | none, .glob _ _, .bst _ => execHomeLineBst k s
      | _, _, _ => execHomeRequest k s
    | .own _ _ _ _ _ => execHomeRequest k s
    | .arrive _ _ _ _ _ | .arriveH _ _ _ => execInterlockArrival k s
    | .token _ _ _ _ => execTokenWrite k s
    | .event _ _ _ _ => execEventLatchSet k s
    | .seal _ _ _ _ _ => execHomeLineSeal k s
    | .discard _ _ _ => execHomeLineDiscard k s
    | .sealAck _ _ _ _ => execSealAck k s
    | .settle _ _ _ => execSettleNotice k s

/-- Something of the part that may be due. -/
abbrev Try := State → Out

/-- Messages and side entries of lines. -/
def State.tryMemory (s : State) : List Try :=
  (upto 0 s.msgs.length).map msgStep ++
  (s.lines.filter fun l => l.2.side.isSome).flatMap fun l => [execPendingResolution l.1, execRetentionEnd l.1]

/-- The copy engines, the scan units and the engines that run routines. -/
def State.tryJobs (s : State) : List Try :=
  s.jobs.flatMap fun j =>
    if j.eng ≠ 0 then [fun s => s.engineStep j]
    else match j.instr with
      | .mscan _ _ _ _ _ _ =>
        let ch := match j.todo.head?, s.sh? j.sh with
          | some l, some x => s.scanUnitOf j x l
          | _, _ => 0
        [execCopyJobStart j.id, execScanUnitRead j.id ch, execScanWaitLimit j.id ch]
      | _ => [execCopyJobStart j.id, execCopyPiece j.id]

/-- The fabric: packets, late operations, and a commit of the map. -/
def State.tryFabric (s : State) : List Try :=
  (upto 0 s.fab.pkts.length).map (fun k => execPacketForward k none) ++ s.fab.ops.map (fun o => execFabricTimeout o.id) ++
  (if s.fab.tbusy then [execTmapCommitDone] else []) ++ (upto 0 s.fab.uals.length).map fun k => fun s => .next ((s.ualStep k).getD s)

/-- The adits: a switch, a window that closes, lanes that turn. -/
def State.tryAdits (s : State) : List Try :=
  (upto 0 36).flatMap fun n =>
    let a := s.adit n
    if a.st ≤ 1 ∧ !a.closing ∧ !a.turn then []
    else [fun s => .next ((s.aditStep n).getD s), execAditDrainEnd n, execAditDrainLimit n, execAdwinCloseDone n, execLaneTurnDone n]

/-- The image that a paused routine of a unit waits for, unless its load has failed. -/
def State.unitImage (s : State) (core : Nat) (ctx : Nat) (u : MicroUnit) : List Try :=
  if u.v ∧ u.ten ∧ !u.halt ∧ (s.bankOf core ctx u.tag 3).isNone then [execTenantImageLoad core ctx u.tag] else []

/-- The loads of tenant images. -/
def State.tryLoads (s : State) : List Try :=
  s.cores.flatMap (fun c => (upto 0 2).map fun k => execTenantLoadComplete c.1 k) ++
  s.shifts.flatMap (fun e =>
    if s.issuer (e.1 / 8) ≠ some e.1 then []
    else (match e.2.tim.waitLoad with
      | some (t, false) => [execTenantImageLoad (e.1 / 8) e.2.place.ctx t]
      | _ => []) ++ s.unitImage (e.1 / 8) e.2.place.ctx e.2.lane) ++
  s.jobs.flatMap fun j => match s.sh? j.sh with
    | some x => s.unitImage j.core x.place.ctx j.unit
    | none => []

/-- The dispatcher, and cores on which no shift issues. -/
def State.tryDispatch (s : State) : List Try :=
  s.tables.flatMap (fun t => (upto 0 t.2.nodes.length).flatMap fun n =>
    [execNodeCheck t.1 n, execCondEvaluate t.1 n, execNodeComplete t.1 n, execRebalanceWindowEnd t.1 n]) ++
  (if s.decisionDue then [execDispatchDecision] else []) ++ s.switchedOut.map (fun i s => .next (s.vacate i)) ++
  s.cores.filterMap fun c => if c.2.issuing.isSome then none else (s.nextReady c.1 none).map fun k => execShiftSwitch c.1 k

/-- The hewers and the queues, in the order in which they are served (R391). -/
def State.tryQueues (s : State) : List Try :=
  let live := s.queues.filter fun q => q.2.st != 0
  (sortBy s.queueFirst live).map (fun (q : Nat × HQueue) => execPacketParse q.1 true) ++
  (live.flatMap fun (q : Nat × HQueue) =>
    (q.2.pkts.flatMap fun p => [execPacketStart q.1 p.idx, execLaunch q.1 p.idx, execCmo q.1 p.idx]) ++
    [execCompletionWrite q.1, execQueueDrainEnd q.1]) ++
  s.queues.map fun (q : Nat × HQueue) => execInterruptTimer q.1

/-- Invalidations, collapses, resets of devices, attestation, key sweeps, freezes and thaws. -/
def State.tryTenancy (s : State) : List Try :=
  s.funcs.flatMap (fun f => [execInvalidationComplete f.1, execAttestDone f.1, fun s => .next ((s.vfResetStep f.1).getD s)]) ++
  (upto 0 s.collapses.length).flatMap (fun k => (((s.collapses[k]?).map (·.dies)).getD []).map fun d => execCollapseAck k d) ++
  (s.keys.slots.filter fun k => k.2.st == 2).flatMap (fun k =>
    match s.lines.find? fun l => l.2.bears k.1 with
    | some l => [execKeySweepLine k.1 l.1]
    | none => [execKeySweepEnd k.1]) ++
  s.ctxs.flatMap fun c => if c.2.frzState = 1 then [execFreezeImageWrite c.1] else if c.2.frzState = 3 then [execThawComplete c.1] else []

/-- The firmware and the scrubbers' quarters. -/
def State.tryManagement (s : State) : List Try :=
  [execFirmwareBoot, execFirmwareStartTimeout, execFwVerifyDone] ++
  (upto 0 16).filterMap fun n => if (s.stack n).scrubs then some (execScrubQuarterEnd n) else none

/-- Whether the overman is at work: the part has power, and base, boot ROM and overman have had their turn and are not left off (R16, R382, Table 20.6). -/
def State.overman (s : State) : Bool := s.mg.powered && decide (3 ≤ s.mg.powerStep) && !s.mg.off.contains 0 && !s.mg.off.contains 2

/-- Whether the part is at work: its power-up is over (R16, R382). -/
def State.works (s : State) : Bool := s.overman && decide (101 ≤ s.mg.powerStep)

/-- Whether the dispatcher is at work, which the deputy pair runs (R382). -/
def State.deputies (s : State) : Bool := s.works && !s.mg.off.contains 3

/-- Whether the host port is at work (R382). -/
def State.hostPort (s : State) : Bool := s.works && !s.mg.off.contains 64

/-- Everything of the part that may be due, in the order in which it is looked at (log 1), of the units that are at work (R382, log 94). -/
def State.tries (s : State) : List Try :=
  if !s.works then []
  else s.tryMemory ++ s.tryJobs ++ s.tryFabric ++ s.tryAdits ++ s.tryLoads ++ (if s.deputies then s.tryDispatch else []) ++
    (if s.hostPort then s.tryQueues else []) ++ s.tryTenancy ++ s.tryManagement

/-- Whether an event may happen to the part as its power stands (R16, R382, R383): those of power-up and cold reset always, those of the overman from its own
turn on, and each other one while the units that it needs are at work (log 94). -/
def State.allows (s : State) (i : Instr) : Bool :=
  match i with
  | .powerOn | .powerStepLimit | .coldReset => true
  | .firmwareBoot => s.overman && !s.mg.off.contains 1
  | .firmwareStartTimeout | .thermalLimit _ | .thermalPlacementLimit _ _ | .warmReset => s.overman
  | .nodeCheck _ _ | .condEvaluate _ _ | .dispatchDecision | .rebalanceWindowEnd _ _ | .nodeComplete _ _ | .launch _ _ | .deputyMismatch => s.deputies
  | .registerWrite _ _ _ _ | .registerRead _ _ _ | .hostMemoryAccess _ _ _ _ | .packetParse _ _ | .completionWrite _ | .interruptTimer _ |
    .qcfgEnable _ _ _ | .qcfgDisable _ _ _ | .qtailWrite _ _ _ | .qcheadWrite _ _ _ => s.hostPort
  | _ => s.works

/-- The first of a list that changes anything. -/
def firstChange (s : State) : List Try → Option Out
  | [] => none
  | f :: fs =>
    match f s with
    | .next t => if t = s then firstChange s fs else some (.next t)
    | o => some o

/-- What is due of the part's own events, none where nothing of it changes anything. -/
def State.due (s : State) : Option Out := firstChange s s.tries

/-! ## A step -/

/-- What moves: the first move of the agenda, without effect where the part's power does not allow it; else what is due; else the next core's cycle or the end
of the cycle. -/
def State.move (s : State) : Out :=
  match s.agenda with
  | .act i :: rest => if s.allows i then exec i { s with agenda := rest, cur := Cur.zero } else .next { s with agenda := rest }
  | .cycle :: rest => if s.mg.powered then { s with agenda := rest }.cycleStep else .next { s with agenda := rest }
  | .cache line drop :: rest =>
    let t := { s with agenda := rest }
    .next (if !s.works then t else if drop then t.cacheBack true line else t.cacheTake line)
  | .msix fn vec addr data masked :: rest => .next ({ s with agenda := rest }.setMsix fn vec addr data masked)
  | .upset pa bad :: rest => .next (if s.works then { s with agenda := rest }.cellError pa bad else { s with agenda := rest })
  | [] =>
    match s.due with
    | some o => o
    | none => if s.mg.powered then s.cycleStep else .fault .powerOff

/-- One step: a move, after which waiters on a value look at it (R193). -/
def State.oneStep (s : State) : Out := andThen s.move fun t => .next t.wakeGe

/-! ## Placing one instruction (log 2) -/

/-- Where the tables of the placed context and its code stand. -/
def placedMem (m : Mem) (w : Nat) : Mem :=
  let tbl (next : Nat) : Nat := 2 ^ 63 + 2 ^ 60 + 2 ^ 57 + next
  ((((m.put 0x100000 (leBytes 8 (2 ^ 63))).put 0x100008 (leBytes 8 0x101000)).put 0x101000 (leBytes 8 (tbl 0x102000))).put 0x102000
    (leBytes 8 (tbl 0x103000))).put 0x103000 (leBytes 8 (tbl 0 + 2 ^ 61)) |>.put 0x2000 (leBytes 8 w)

/-- The shift that runs the placed instruction: slot 0 of core 0, context 1, EV3, code from 0x2000 of an image at address 0, its generators seeded with 0
as those of every shift that starts (R248). -/
def placedShift : Shift :=
  { Shift.zero with
    regs := { Regs.zero with pc := 0x2000 },
    sp := { Spec.zero with gens := seedAll 0 },
    img := { Image.zero with start := 0x2000, lim := 0x2020, live := [(0, 0, 0)] },
    place := { Place.zero with ctx := 1, banks := 1, mx := true } }

/-- The state whose next step is a cycle of core 0, which fetches the word. -/
def State.placeWord (s : State) (w : Nat) : State :=
  let s := s.modCtx 1 fun c => { c with rt := 0x8000_0000_0010_0000 }
  let s := { s with agenda := [.cycle], turn := 0, glob := placedMem s.glob w, shifts := NMap.set (NMap.del s.shifts 4) 0 placedShift, tlb := [] }
  s.modCore 0 fun c => { c with issuing := some 0, order := [0] }

end Sys2Proof.Machine
end

