-- ==== Sys2Proof/Machine/Step.lean ====
section
/-!
DEFINITION. The step of the machine, and the placing of one instruction where the next step fetches it.
-/
namespace Sys2Proof.Machine

/-- One step: the first move of the agenda where there is one (log 1); else an event of the part that is due; else one micro-step of an
engine; else the next core's cycle, or the end of the cycle. -/
def step (s : State) : Host.Outcome State Fault Refusal := s.oneStep

/-- The instruction with bits w placed where the next step fetches it (log 2). -/
def State.withFetchWord (s : State) (nbits w : Nat) : State := s.placeWord (w % 2 ^ nbits)

end Sys2Proof.Machine
end

