-- ==== Sys2Proof/Safety.lean ====
section
/-!
DEFINITION. What a safe run is: a step gives a next state, and memory keeps its canonical form.
-/
namespace Sys2Proof.Safety
open Sys2Proof.Machine

/-- A step gives a next state. -/
def Advances (s : State) : Prop := ∃ t, step s = .next t

/-- Every memory of the state is in canonical form. -/
def Memories (s : State) : Prop := s.glob.wf ∧ s.pad.wf ∧ s.lane.wf ∧ s.crew.wf ∧ s.chip.wf ∧ s.host.wf

/-- Keys rise: the canonical form of a map. -/
def Rises {α : Type} (m : NMap α) : Prop := m.Pairwise fun p q => p.1 < q.1

end Sys2Proof.Safety
end

