-- ==== Sys2Proof/WellFormed.lean ====
section
/-!
DEFINITION. Well-formed instructions: the limits on operands that the types of Syntax.lean do not hold (chapter 3, R51, R191; Tables 10.1,
11.2, 14.6; the entries of chapters 6 to 8, 13 and 19). An instruction word decodes to well-formed instructions only.
-/
namespace Sys2Proof

/-- The limits that a word's operands keep, in EV3. -/
def Instr.wf : Instr → Bool
  | .cmp _ gd _ _ | .cmpi _ gd _ _ | .fcmp _ gd _ _ => gd.val != 0
  | .gand gd _ _ | .gor gd _ _ | .gnot gd _ => gd.val != 0
  | .fcvt f _ _ _ _ => f != .f32
  | .wrsr r _ => r.writable
  | .vcvt dst src _ _ => dst != src && dst != .s64 && dst != .z64 && src != .s64 && src != .z64
  | .part vd _ _ => vd.val != 63
  | .partn n1 _ _ => n1 != 0
  | .tcfg af bf _ _ => (cellRate af bf).isSome
  | .mopa t _ _ va vb _ => t != .f32 || (va.val != 63 && vb.val != 63)
  | .wbld p _ _ _ _ => (match p with | none => true | some f => f.weight)
  | .crd _ _ vd _ _ | .cwr _ _ vd _ _ => vd.val != 63
  | .cst f _ _ _ _ => f.storable
  | .ld sz sx _ m l => !(sx && sz == .d) && (m.sp == .lane || l.val == 0)
  | .st _ _ m l => m.sp == .lane || l.val == 0
  | .lda sz sx _ _ m => !(sx && sz == .d) && notLane m.sp
  | .sta _ _ _ m => notLane m.sp
  | .xld _ _ _ sd m => sd.val != 0 && notLane m.sp
  | .xst md _ _ sd m => sd.val != 0 && md != .index && notLane m.sp
  | .cpy src sd m _ _ => sd.val != 0 && notLane m.sp && notLane src
  | .cpy2d src sd m _ sp => sd.val != 0 && notLane m.sp && notLane src && sp.val != 0 && sp.val != 63
  | .atom op dw _ _ m _ => notLane m.sp && !(op == .fadd && dw)
  | .cas _ _ _ m _ => notLane m.sp
  | .waitge _ _ _ _ m _ => notLane m.sp
  | .lockl _ m | .unlockl _ m | .pref _ m => onlyGlob m.sp
  | .rinit _ _ m _ => ringSpace m.sp
  | .barinit _ _ _ m _ | .bararr _ _ m | .barwait _ _ m _ => notLane m.sp
  | .mscan _ _ sd m _ _ => sd.val != 0 && onlyGlob m.sp
  | .bopen _ m _ => onlyGlob m.sp
  | .bst _ _ m => onlyGlob m.sp
  | .rtld _ m => notLane m.sp
  | .rldq _ _ sd m => sd.val != 0 && onlyGlob m.sp
  | .rst _ _ _ m => onlyGlob m.sp
  | .ratom op dw _ m _ _ => onlyGlob m.sp && !(op == .fadd && dw)
  | .rstn sd m _ => sd.val != 0 && notLane m.sp
  | .recvadd _ _ _ _ m _ => onlyPad m.sp
  | .rsend _ sd m _ => sd.val != 0 && notLane m.sp
  | .coll _ sd m _ => sd.val != 0 && notLane m.sp
  | .br i | .call i | .loop _ i | .bri _ i => rel8 i
  | .jmp a i | .calli a i => a.val != 0 || rel8 i
  | .waitev _ _ k => k != 0
  | _ => true

/-- Instructions that one word of a bundle carries. -/
def Instr.isWord (i : Instr) : Bool := (encode i).isSome

end Sys2Proof
end

