-- ==== Sys2Proof/Certificates/Slice0/Obligations.lean ====
section
/-!
DEFINITION. The statements about the machine. A statement that answers `exec i s = .next t` says where the instruction completes; the tables
above a statement write out what the rules of the manual give, from the operands and the state alone.
-/
namespace Sys2Proof.Claims
open Sys2Proof.Machine

/-! ## What the rules give for words of fixed latency -/

/-- A scalar source as an unsigned number. -/
def un (s : State) (n : Sys2Proof.SNum) : Int := ((s.rs n).toNat : Int)

/-- A scalar source as a signed number. -/
def sg (s : State) (n : Sys2Proof.SNum) : Int := (s.rs n).toInt

/-- SignExtend(x, w) of the low w bits of a number. -/
def signed (w x : Nat) : Int := if x % 2 ^ w < 2 ^ (w - 1) then ((x % 2 ^ w : Nat) : Int) else ((x % 2 ^ w : Nat) : Int) - 2 ^ w

/-- Table 6.1: the destination, the exact result and the latency of a two-source integer instruction. -/
def twoSource (s : State) : Instr → Option (Sys2Proof.SNum × Int × Nat)
  | .add d a b => some (d, un s a + un s b, 1)
  | .sub d a b => some (d, un s a - un s b, 1)
  | .mul d a b => some (d, un s a * un s b, 3)
  | .mulh d a b => some (d, sg s a * sg s b / 2 ^ 64, 3)
  | .mulhz d a b => some (d, un s a * un s b / 2 ^ 64, 3)
  | .and d a b => some (d, ((s.rs a).toNat &&& (s.rs b).toNat : Nat), 1)
  | .or d a b => some (d, ((s.rs a).toNat ||| (s.rs b).toNat : Nat), 1)
  | .xor d a b => some (d, ((s.rs a).toNat ^^^ (s.rs b).toNat : Nat), 1)
  | .andn d a b => some (d, ((s.rs a).toNat &&& (2 ^ 64 - 1 - (s.rs b).toNat) : Nat), 1)
  | .shl d a b => some (d, un s a * 2 ^ ((s.rs b).toNat % 64), 1)
  | .shr d a b => some (d, un s a / 2 ^ ((s.rs b).toNat % 64), 1)
  | .sra d a b => some (d, sg s a / 2 ^ ((s.rs b).toNat % 64), 1)
  | .rotl d a b => some (d, un s a * 2 ^ ((s.rs b).toNat % 64) + un s a / 2 ^ (64 - (s.rs b).toNat % 64), 1)
  | .min d a b => some (d, min (sg s a) (sg s b), 1)
  | .max d a b => some (d, max (sg s a) (sg s b), 1)
  | .minz d a b => some (d, min (un s a) (un s b), 1)
  | .maxz d a b => some (d, max (un s a) (un s b), 1)
  | _ => none

/-- R105: the destination and the result of a division, and DZ for a zero divisor. -/
def division (s : State) : Instr → Option (Sys2Proof.SNum × Int × Flags)
  | .div d a b => some (d, if sg s b = 0 then -1 else (sg s a).tdiv (sg s b), if sg s b = 0 then 2 else 0)
  | .divz d a b => some (d, if un s b = 0 then -1 else un s a / un s b, if un s b = 0 then 2 else 0)
  | .rem d a b => some (d, if sg s b = 0 then sg s a else (sg s a).tmod (sg s b), if sg s b = 0 then 2 else 0)
  | .remz d a b => some (d, if un s b = 0 then un s a else un s a % un s b, if un s b = 0 then 2 else 0)
  | _ => none

/-- Table 6.1 and R105: the opcode and the three registers of a two-source integer instruction or division. -/
def integerOpcode : Instr → Option (Nat × Sys2Proof.SNum × Sys2Proof.SNum × Sys2Proof.SNum)
  | .add d a b => some (0x01, d, a, b)
  | .sub d a b => some (0x02, d, a, b)
  | .mul d a b => some (0x03, d, a, b)
  | .mulh d a b => some (0x04, d, a, b)
  | .mulhz d a b => some (0x05, d, a, b)
  | .div d a b => some (0x06, d, a, b)
  | .divz d a b => some (0x07, d, a, b)
  | .rem d a b => some (0x08, d, a, b)
  | .remz d a b => some (0x09, d, a, b)
  | .and d a b => some (0x0A, d, a, b)
  | .or d a b => some (0x0B, d, a, b)
  | .xor d a b => some (0x0C, d, a, b)
  | .andn d a b => some (0x0D, d, a, b)
  | .shl d a b => some (0x0E, d, a, b)
  | .shr d a b => some (0x0F, d, a, b)
  | .sra d a b => some (0x10, d, a, b)
  | .rotl d a b => some (0x11, d, a, b)
  | .min d a b => some (0x18, d, a, b)
  | .max d a b => some (0x19, d, a, b)
  | .minz d a b => some (0x1A, d, a, b)
  | .maxz d a b => some (0x1B, d, a, b)
  | _ => none

/-- Tables 6.2 and 6.3 and R107: the destination and the exact result of the other integer instructions; each has k = 1. -/
def oneSource (s : State) : Instr → Option (Sys2Proof.SNum × Int)
  | .shli d a n => some (d, un s a * 2 ^ n.toNat)
  | .shri d a n => some (d, un s a / 2 ^ n.toNat)
  | .srai d a n => some (d, sg s a / 2 ^ n.toNat)
  | .sext d a w => some (d, signed (w.toNat + 1) (s.rs a).toNat)
  | .zext d a w => some (d, un s a % 2 ^ (w.toNat + 1))
  | .bfx d a b => some (d, un s a / 2 ^ ((s.rs b).toNat % 64) % 2 ^ ((s.rs b).toNat / 256 % 64 + 1))
  | .sel d a b => some (d, if s.rs d = 0 then un s b else un s a)
  | .addi d a i => some (d, un s a + i.toInt)
  | .andi d a i => some (d, ((s.rs a).toNat &&& (i.toInt % 2 ^ 64).toNat : Nat))
  | .ori d a i => some (d, ((s.rs a).toNat ||| (i.toInt % 2 ^ 64).toNat : Nat))
  | .xori d a i => some (d, ((s.rs a).toNat ^^^ (i.toInt % 2 ^ 64).toNat : Nat))
  | .movi d i => some (d, i.toInt)
  | .movhi d u => some (d, (u.toNat * 2 ^ 32 + (s.rs d).toNat % 2 ^ 32 : Nat))
  | _ => none

/-- Table 6.4. -/
def condition (c : Cond) (a b : Word) : Prop :=
  match c with
  | .eq => a = b
  | .ne => a ≠ b
  | .lt => a.toInt < b.toInt
  | .ge => b.toInt ≤ a.toInt
  | .ltu => a.toNat < b.toNat
  | .geu => b.toNat ≤ a.toNat
  | .any => a.toNat &&& b.toNat ≠ 0
  | .nany => a.toNat &&& b.toNat = 0

/-- R109 to R111: the guard that an integer compare or a guard instruction writes, and when it is true. -/
def guardWord (s : State) : Instr → Option (GNum × Prop)
  | .cmp c d a b => some (d, condition c (s.rs a) (s.rs b))
  | .cmpi c d a i => some (d, condition c (s.rs a) (BitVec.ofInt 64 i.toInt))
  | .gand d a b => some (d, s.x.rg a = true ∧ s.x.rg b = true)
  | .gor d a b => some (d, s.x.rg a = true ∨ s.x.rg b = true)
  | .gnot d a => some (d, s.x.rg a = false)
  | _ => none

/-- Table 6.6: the destination, the latency and the exact value, with its flags, of a scalar floating-point instruction that rounds. -/
def floatWord (s : State) : Instr → Option (Sys2Proof.SNum × Nat × FV × Flags)
  | .fadd d a b => some (d, 4, fvAdd (rmOf s.x.sp.stat) (s.fs a) (s.fs b))
  | .fsub d a b => some (d, 4, fvAdd (rmOf s.x.sp.stat) (s.fs a) (s.fs b).flip)
  | .fmul d a b => some (d, 4, fvMul (s.fs a) (s.fs b))
  | .ffma d a b => some (d, 4, fvFma (rmOf s.x.sp.stat) (s.fs a) (s.fs b) (s.fs d))
  | .fdiv d a b => some (d, 12, fvDiv (s.fs a) (s.fs b))
  | .fsqrt d a => some (d, 14, fvSqrt (s.fs a))
  | _ => none

/-- The rational number of a finite value. -/
def Rational (x : Ex) : Rat := (if x.neg then -1 else 1) * ((x.n : Rat) / (x.d : Rat)) * (2 : Rat) ^ x.e

/-- The value of an F32 code bit by bit (Table 5.2): its sign, exponent field and fraction. -/
def f32Fields (w : Word) : Nat × Nat × Nat := (w.toNat / 2 ^ 31 % 2, w.toNat / 2 ^ 23 % 256, w.toNat % 2 ^ 23)

/-- Whether a code of a format of e exponent and m fraction bits is a NaN, and whether a signalling one (Table 5.2, R85). -/
def fpNaN (e m c : Nat) : Bool := decide (c / 2 ^ m % 2 ^ e = 2 ^ e - 1 ∧ c % 2 ^ m ≠ 0)

def fpSignals (e m c : Nat) : Bool := fpNaN e m c && decide (c % 2 ^ m < 2 ^ (m - 1))

/-- R87: a code as an operand: under FTZ a subnormal is the zero of its sign. -/
def fpRead (ftz : Bool) (e m c : Nat) : Nat := if ftz ∧ c / 2 ^ m % 2 ^ e = 0 then c / 2 ^ (e + m) * 2 ^ (e + m) else c

/-- The order of the codes that are no NaN, in which −0 is just below +0 (R113). -/
def fpKey (e m c : Nat) : Int := if c < 2 ^ (e + m) then c else 2 ^ (e + m) - 1 - (c : Int)

/-- R113 and R132: the code and the flags of a minimum, or of a maximum, of two codes of a format. -/
def fpSelect (isMax ftz : Bool) (e m a b : Nat) : Nat × Flags :=
  let x := fpRead ftz e m a
  let y := fpRead ftz e m b
  (if fpNaN e m a ∧ fpNaN e m b then (2 ^ e - 1) * 2 ^ m + 2 ^ (m - 1) else if fpNaN e m a then y else if fpNaN e m b then x
    else if isMax then (if fpKey e m x ≤ fpKey e m y then y else x) else if fpKey e m x ≤ fpKey e m y then x else y,
   if fpSignals e m a || fpSignals e m b then 1 else 0)

/-- Table 6.8: the bit of FCLASS for a code. -/
def classBit (w : Word) : Nat :=
  let (g, e, f) := f32Fields w
  if e = 255 then (if f = 0 then (if g = 1 then 0 else 7) else if f < 2 ^ 22 then 8 else 9)
  else if e = 0 then (if f = 0 then (if g = 1 then 3 else 4) else if g = 1 then 2 else 5)
  else if g = 1 then 1 else 6

/-- Table 6.10: the destination and the value, modulo 2^72, of an address instruction that writes an address register. -/
def addressWord (s : State) : Instr → Option (ANum × Int)
  | .adda d a b => some (d, (s.ra a).toNat + sg s b)
  | .addai d a i => some (d, (s.ra a).toNat + i.toInt)
  | .lea d a b => some (d, (s.rs b).toNat % 256 * 2 ^ 64 + (s.rs a).toNat)
  | .movsa d a => some (d, (s.rs a).toNat)
  | .anda d a b => some (d, (s.ra a).toNat / 2 ^ 64 * 2 ^ 64 + ((s.ra a).toNat % 2 ^ 64 &&& (s.rs b).toNat : Nat))
  | _ => none

/-- Table 6.10, R117 and R119: the destination and the value of the words that read addresses and special registers into a scalar register. -/
def readWord (s : State) : Instr → Option (Sys2Proof.SNum × Int)
  | .movas hi d a => some (d, if hi then (s.ra a).toNat / 2 ^ 64 else (s.ra a).toNat % 2 ^ 64)
  | .cmpa d a b => some (d, if (s.ra a).toNat < (s.ra b).toNat then -1 else if (s.ra a).toNat = (s.ra b).toNat then 0 else 1)
  | .rddcc d => some (d, s.dcc)
  | .rdsr d .vl => some (d, s.x.sp.vl)
  | .rdsr d .stat => some (d, s.x.sp.stat.toNat)
  | .rdsr d .tcb => some (d, s.x.sp.tcb.toNat)
  | .rdsr d .sb => some (d, s.x.sp.sb.toNat)
  | .rdsr d .stkb => some (d, s.x.sp.stkb.toNat)
  | .rdsr d .stkl => some (d, s.x.sp.stkl.toNat)
  | .rdsr d .rnd => some (d, s.x.sp.seed.toNat)
  | .rdsr d .chk => some (d, s.x.sp.chk.toNat)
  | _ => none

end Sys2Proof.Claims

open Sys2Proof Sys2Proof.Machine Sys2Proof.Claims

/-- R104: a two-source integer instruction does Land(s[SRD], Wrap(result, 64), k) with the exact result of Table 6.1, and sets no flag; nothing else
of the state changes. R105: DIV, DIVZ, REM and REMZ land after 20 cycles; a zero divisor gives all ones, or the dividend, with DZ, and no division
traps. Their words hold the opcode of their table and their three registers. -/
def Obligations.IntegersAndDivisionsLandWrappedResults : Prop :=
  (
  ∀ (i : Instr) (s : State) (d : Sys2Proof.SNum) (v : Int) (k : Nat), twoSource s i = some (d, v, k) →
    Sys2Proof.Machine.exec i s = .next (s.land k 0 (.s d (BitVec.ofInt 64 v)))) ∧
  (
  ∀ (i : Instr) (s : State) (d : Sys2Proof.SNum) (v : Int) (f : Flags), division s i = some (d, v, f) →
    Sys2Proof.Machine.exec i s = .next (s.land 20 f (.s d (BitVec.ofInt 64 v)))) ∧
  ∀ (i : Instr) (c : Nat) (d a b : Sys2Proof.SNum), integerOpcode i = some (c, d, a, b) →
    encode i = some (BitVec.ofNat 64 (2 ^ 63 + c * 2 ^ 50 + d.val * 2 ^ 44 + a.val * 2 ^ 38 + b.val * 2 ^ 32))

/-- R106 to R108: shifts by a constant, extensions, bit fields, selection and the L-class integer instructions; BFI by its mask, and NOP. R106, Table
6.2: CLZ, CTZ and POPC count leading zeros, trailing zeros (64 for 0) and set bits. -/
def Obligations.SingleSourceIntegersAndBitCountsLand : Prop :=
  (
  (∀ (i : Instr) (s : State) (d : Sys2Proof.SNum) (v : Int), oneSource s i = some (d, v) →
    Sys2Proof.Machine.exec i s = .next (s.land 1 0 (.s d (BitVec.ofInt 64 v)))) ∧
  (∀ (s : State) (d a b : Sys2Proof.SNum), ∃ w : Word, Sys2Proof.Machine.exec (.bfi d a b) s = .next (s.land 1 0 (.s d w)) ∧
    ∀ j, j < 64 → w.getLsbD j =
      (let p := (s.rs b).toNat % 64
       let n := (s.rs b).toNat / 256 % 64 + 1
       if p ≤ j ∧ j < p + n then (s.rs a).getLsbD (j - p) else (s.rs d).getLsbD j)) ∧
  ∀ s : State, Sys2Proof.Machine.exec .nop s = .next s) ∧
  (
  ∀ (s : State) (d a : Sys2Proof.SNum),
    (∃ n : Nat, Sys2Proof.Machine.exec (.clz d a) s = .next (s.land 1 0 (.s d (BitVec.ofNat 64 n))) ∧
      n ≤ 64 ∧ (s.rs a).toNat < 2 ^ (64 - n) ∧ (n < 64 → 2 ^ (63 - n) ≤ (s.rs a).toNat)) ∧
    (∃ n : Nat, Sys2Proof.Machine.exec (.ctz d a) s = .next (s.land 1 0 (.s d (BitVec.ofNat 64 n))) ∧
      n ≤ 64 ∧ 2 ^ n ∣ (s.rs a).toNat ∧ (n < 64 → (s.rs a).getLsbD n = true) ∧ (n = 64 → s.rs a = 0)) ∧
    Sys2Proof.Machine.exec (.popc d a) s =
      .next (s.land 1 0 (.s d (BitVec.ofNat 64 ((List.range 64).filter fun j => (s.rs a).getLsbD j).length))))

/-- R109 to R111: CMP, CMPI, GAND, GOR and GNOT land their guard with k = 1 and no flag. -/
def Obligations.ComparesAndGuardsLandTheirGuard : Prop :=
  ∀ (i : Instr) (s : State) (d : GNum) (p : Prop), guardWord s i = some (d, p) →
    ∃ b : Bool, (b = true ↔ p) ∧ Sys2Proof.Machine.exec i s = .next (s.land 1 0 (.g d b))

/-- R112: FADD, FSUB, FMUL, FFMA, FDIV and FSQRT round their exact result once to F32 under STAT.RM, with one draw of the scalar generator under SR
(R94), and land the zero-extended code with the flags of the operation and of its rounding. -/
def Obligations.ScalarFloatsRoundOnceAndLand : Prop :=
  ∀ (i : Instr) (s : State) (d : Sys2Proof.SNum) (k : Nat) (v : FV) (f : Flags), floatWord s i = some (d, k, v, f) →
    let draw := s.x.drawIf (rmOf s.x.sp.stat) scalarGen
    let c := roundTo .f32 (rmOf s.x.sp.stat) (ftzOf s.x.sp.stat) draw.1 v
    Sys2Proof.Machine.exec i s = .next ((s.modX fun x => (x.drawIf (rmOf s.x.sp.stat) scalarGen).2).land k (f ||| c.2) (.s d (BitVec.ofNat 64 c.1)))

/-- R112 and R86: the value that is rounded is exact: a sum, product or quotient of finite values is their rational sum, product or quotient. -/
def Obligations.FloatArithmeticIsExactBeforeRounding : Prop :=
  ∀ (rm : RMode) (x y : Ex), 0 < x.n → 0 < x.d → 0 < y.n → 0 < y.d →
    (∃ z, fvMul (.fin x) (.fin y) = (.fin z, 0) ∧ Rational z = Rational x * Rational y) ∧
    (∃ z, fvDiv (.fin x) (.fin y) = (.fin z, 0) ∧ Rational z = Rational x / Rational y) ∧
    (Rational x + Rational y ≠ 0 → ∃ z, fvAdd rm (.fin x) (.fin y) = (.fin z, 0) ∧ Rational z = Rational x + Rational y) ∧
    (Rational x + Rational y = 0 → fvAdd rm (.fin x) (.fin y) = (.zero (decide (rm = .rd)), 0))

/-- R113: FMIN and FMAX land, unrounded, the lesser or the greater operand, −0 below +0, each operand as FTZ reads it; beside one NaN the other operand, and
for two NaNs the canonical NaN; a signalling NaN sets NV, and no other flag is set. R114 and R116: FCMP lands its guard, and FCLASS lands the one bit of Table
6.8; R115: FCVT lands the converted code. -/
def Obligations.FloatSelectionsComparesAndClassesComplete : Prop :=
  (∀ (isMax : Bool) (s : State) (d a b : Sys2Proof.SNum),
    let x := (s.rs a).toNat % 2 ^ 32
    let y := (s.rs b).toNat % 2 ^ 32
    Sys2Proof.Machine.exec (if isMax then .fmax d a b else .fmin d a b) s =
      .next (s.land 4 (fpSelect isMax (ftzOf s.x.sp.stat) 8 23 x y).2 (.s d (BitVec.ofNat 64 (fpSelect isMax (ftzOf s.x.sp.stat) 8 23 x y).1)))) ∧
  (∀ (c : FCond) (s : State) (d : GNum) (a b : Sys2Proof.SNum),
    Sys2Proof.Machine.exec (.fcmp c d a b) s = .next (s.land 1 (fcondHolds c (s.fs a) (s.fs b)).2 (.g d (fcondHolds c (s.fs a) (s.fs b)).1))) ∧
  (∀ (s : State) (d a : Sys2Proof.SNum),
    Sys2Proof.Machine.exec (.fclass d a) s = .next (s.land 4 0 (.s d (BitVec.ofNat 64 (2 ^ classBit (s.rs a)))))) ∧
  ∀ (fmt : Fmt) (toF32 rz : Bool) (s : State) (d a : Sys2Proof.SNum), ∃ (c : Nat) (f : Flags) (x : Shift),
    Sys2Proof.Machine.exec (.fcvt fmt toF32 rz d a) s =
      .next ((s.modX fun _ => x).land 4 f (.s d (extendCode (if toF32 then .f32 else fmt) c))) ∧
    (c, f) = convert (if toF32 then .f32 else fmt) (if toF32 then fmt else .f32) (if rz then .rz else rmOf s.x.sp.stat) (ftzOf s.x.sp.stat)
      (s.x.drawIf (if rz then .rz else rmOf s.x.sp.stat) scalarGen).1 ((s.rs a).toNat % 2 ^ (if toF32 then fmt else .f32).width) ∧
    ((if rz then .rz else rmOf s.x.sp.stat) ≠ .sr → x = s.x)

/-- R120, R117 and R119: the address instructions wrap modulo 2^72; MOVAS, CMPA, RDSR and RDDCC land what they read; SUBA saturates to 64 bits with
SAT. R117, R118 and R4: a WRSR of an accepted value lands it in its register with k = 1; one of another value changes no register of any shift and
counts a register-access error. -/
def Obligations.AddressAndSpecialRegisterWordsLand : Prop :=
  (
  (∀ (i : Instr) (s : State) (d : ANum) (v : Int), addressWord s i = some (d, v) →
    Sys2Proof.Machine.exec i s = .next (s.land 1 0 (.a d (BitVec.ofInt 72 v)))) ∧
  (∀ (i : Instr) (s : State) (d : Sys2Proof.SNum) (v : Int), readWord s i = some (d, v) →
    Sys2Proof.Machine.exec i s = .next (s.land 1 0 (.s d (BitVec.ofInt 64 v)))) ∧
  ∀ (s : State) (d : Sys2Proof.SNum) (a b : ANum),
    let v : Int := (s.ra a).toNat - (s.ra b).toNat
    Sys2Proof.Machine.exec (.suba d a b) s = .next (s.land 1 (if -2 ^ 63 ≤ v ∧ v < 2 ^ 63 then 0 else 32)
      (.s d (BitVec.ofInt 64 (max (-2 ^ 63) (min (2 ^ 63 - 1) v)))))) ∧
  (
  ∀ (r : SpecReg) (a : Sys2Proof.SNum) (s : State),
    let v := (s.rs a).toNat
    let accepted := match r with
      | .vl => v ≤ 64
      | .stat => v < 2 ^ 16 ∧ v / 2 ^ 6 % 2 ^ 6 = 0 ∧ v / 2 ^ 13 % 8 ≤ 4
      | .stkb | .stkl => v % 16 = 0
      | .chk => v / 4 % 2 ^ 30 = 0
      | .rnd | .tcb | .sb => True
    (accepted → Sys2Proof.Machine.exec (.wrsr r a) s = .next (s.land 1 0 (.special r (s.rs a)))) ∧
    (¬accepted → ∃ t, Sys2Proof.Machine.exec (.wrsr r a) s = .next t ∧ t.shifts = s.shifts ∧ t.mg.regerr = min (s.mg.regerr + 1) (2 ^ 32 - 1)))

namespace Sys2Proof.Claims
open Sys2Proof.Machine

/-! ## What the rules give for the vector half -/

/-- Element j of width w of lane i of a register, as an unsigned number. -/
def el (v : VReg) (w i j : Nat) : Nat := v.toNat / 2 ^ (32 * i + w * j) % 2 ^ w

/-- The width of an element suffix (Table 7.3). -/
def width : ElemW → Nat
  | .w => 32 | .h => 16 | .b => 8

/-- Table 7.2 and R128: the width, the destination, the sources and the exact result on two elements of an integer instruction that wraps. -/
def vectorInt : Instr → Option (Nat × VNum × VNum × VNum × (Nat → Nat → Int))
  | .vadd t d a b => some (width t, d, a, b, fun x y => (x : Int) + y)
  | .vsub t d a b => some (width t, d, a, b, fun x y => (x : Int) - y)
  | .vmul t d a b => some (width t, d, a, b, fun x y => (x : Int) * y)
  | .vmulh t d a b => some (width t, d, a, b, fun x y => signed (width t) x * signed (width t) y / 2 ^ width t)
  | .vshl t d a b => some (width t, d, a, b, fun x y => (x : Int) * 2 ^ (y % width t))
  | .vshr t d a b => some (width t, d, a, b, fun x y => (x : Int) / 2 ^ (y % width t))
  | .vsra t d a b => some (width t, d, a, b, fun x y => signed (width t) x / 2 ^ (y % width t))
  | .vmin .z32 d a b => some (32, d, a, b, fun x y => min (x : Int) y)
  | .vmax .z32 d a b => some (32, d, a, b, fun x y => max (x : Int) y)
  | .vmin .s32 d a b => some (32, d, a, b, fun x y => min (signed 32 x) (signed 32 y))
  | .vmax .s32 d a b => some (32, d, a, b, fun x y => max (signed 32 x) (signed 32 y))
  | .vmin .s16 d a b => some (16, d, a, b, fun x y => min (signed 16 x) (signed 16 y))
  | .vmax .s16 d a b => some (16, d, a, b, fun x y => max (signed 16 x) (signed 16 y))
  | .vmin .s8 d a b => some (8, d, a, b, fun x y => min (signed 8 x) (signed 8 y))
  | .vmax .s8 d a b => some (8, d, a, b, fun x y => max (signed 8 x) (signed 8 y))
  | .vabs t d a => some (width t, d, a, a, fun x _ => max (signed (width t) x) (-signed (width t) x))
  | .vneg t d a => some (width t, d, a, a, fun x _ => -signed (width t) x)
  | _ => none

/-- Table 7.3: the width of a saturating type, its least and its largest value. -/
def satRange : SatTy → Nat × Int × Int
  | .s32 => (32, -2 ^ 31, 2 ^ 31 - 1)
  | .s16 => (16, -2 ^ 15, 2 ^ 15 - 1)
  | .s8 => (8, -2 ^ 7, 2 ^ 7 - 1)
  | .z8 => (8, 0, 2 ^ 8 - 1)

/-- An element read as a saturating type. -/
def satRead (t : SatTy) (x : Nat) : Int := if t = .z8 then (x : Int) else signed (satRange t).1 x

/-- Tables 7.2, 7.7 and 7.8, R129 and R130: the latency, the destination and the value of lane i of a word that moves or selects whole lanes. -/
def vectorLanes (s : State) : Instr → Option (Nat × VNum × (Nat → Nat))
  | .vand d a b => some (2, d, fun i => el (s.rv a) 32 i 0 &&& el (s.rv b) 32 i 0)
  | .vor d a b => some (2, d, fun i => el (s.rv a) 32 i 0 ||| el (s.rv b) 32 i 0)
  | .vxor d a b => some (2, d, fun i => el (s.rv a) 32 i 0 ^^^ el (s.rv b) 32 i 0)
  | .vsel d a b => some (2, d, fun i =>
      (el (s.rv a) 32 i 0 &&& el (s.rv d) 32 i 0) ||| (el (s.rv b) 32 i 0 &&& (2 ^ 32 - 1 - el (s.rv d) 32 i 0)))
  | .vcmp .eq d a b => some (2, d, fun i => if el (s.rv a) 32 i 0 = el (s.rv b) 32 i 0 then 2 ^ 32 - 1 else 0)
  | .vcmp .lt d a b => some (2, d, fun i => if signed 32 (el (s.rv a) 32 i 0) < signed 32 (el (s.rv b) 32 i 0) then 2 ^ 32 - 1 else 0)
  | .vcmp .ltu d a b => some (2, d, fun i => if el (s.rv a) 32 i 0 < el (s.rv b) 32 i 0 then 2 ^ 32 - 1 else 0)
  | .vbcast .w d b => some (2, d, fun _ => (s.rs b).toNat % 2 ^ 32)
  | .vbcast .h d b => some (2, d, fun _ => (s.rs b).toNat % 2 ^ 16 * (2 ^ 16 + 1))
  | .vbcast .b d b => some (2, d, fun _ => (s.rs b).toNat % 2 ^ 8 * (2 ^ 24 + 2 ^ 16 + 2 ^ 8 + 1))
  | .viota d b => some (2, d, fun i => ((s.rs b).toNat + i) % 2 ^ 32)
  | .vperm d a b => some (3, d, fun i => el (s.rv a) 32 (el (s.rv b) 32 i 0 % 64) 0)
  | .vrot d a b => some (3, d, fun i => el (s.rv a) 32 ((i + (s.rs b).toNat) % 64) 0)
  | .vslide false d a b => some (3, d, fun i => if i + (s.rs b).toNat < s.vl then el (s.rv a) 32 (i + (s.rs b).toNat) 0 else 0)
  | .vslide true d a b => some (3, d, fun i => if (s.rs b).toNat ≤ i then el (s.rv a) 32 (i - (s.rs b).toNat) 0 else 0)
  | _ => none

/-- Tables 7.4 and 7.5: the latency, the destination, the format, the sources and the exact value on elements a, b and the old d of a vector
floating-point instruction that rounds. -/
def vectorFloat (s : State) : Instr → Option (Nat × VNum × Fmt × VNum × VNum × (FV → FV → FV → FV × Flags))
  | .vfadd t d a b => some (4, d, vfmt t, a, b, fun x y _ => fvAdd (rmOf s.stat) x y)
  | .vfsub t d a b => some (4, d, vfmt t, a, b, fun x y _ => fvAdd (rmOf s.stat) x y.flip)
  | .vfmul t d a b => some (4, d, vfmt t, a, b, fun x y _ => fvMul x y)
  | .vfma t d a b => some (4, d, vfmt t, a, b, fun x y z => fvFma (rmOf s.stat) x y z)
  | .vfms t d a b => some (4, d, vfmt t, a, b, fun x y z => fvFma (rmOf s.stat) x y z.flip)
  | .vfnma t d a b => some (4, d, vfmt t, a, b, fun x y z => fvFma (rmOf s.stat) x.flip y z)
  | .vfdiv d a b => some (16, d, .f32, a, b, fun x y _ => fvDiv x y)
  | .vrcp d a => some (8, d, .f32, a, a, fun x _ _ => fvDiv (.fin { neg := false, n := 1, d := 1, e := 0 }) x)
  | .vrsq d a => some (8, d, .f32, a, a, fun x _ _ => fvRsq x)
  | .vexp2 d a => some (8, d, .f32, a, a, fun x _ _ => fvExp2 x)
  | .vlog2 d a => some (8, d, .f32, a, a, fun x _ _ => fvLog2 x)
  | _ => none

/-- R93: the state of generator g of a shift after n draws. -/
def genAfter (x : Shift) (g n : Nat) : BitVec 32 := (List.range n).foldl (fun y _ => genStep y) ((x.sp.gens[g]?).getD 0)

/-- R94: draw n, from 0 on, of generator g by the word that issues; none unless STAT.RM is SR. -/
def drawOf (s : State) (g n : Nat) : Nat := if rmOf s.stat = .sr then (genAfter s.x g (n + 1)).toNat else 0

/-- The widths of the exponent and the fraction of a vector format (Table 5.1). -/
def expFrac : VFmt → Nat × Nat
  | .f32 => (8, 23) | .f16 => (5, 10) | .bf16 => (8, 7)

/-- R132: VFMIN or VFMAX of two elements. -/
def vectorSelect (s : State) (isMax : Bool) (t : VFmt) (a b : Nat) : Nat × Flags :=
  fpSelect isMax (ftzOf s.stat && t == .f32) (expFrac t).1 (expFrac t).2 a b

/-- R135 and R136: a conversion with draw q: clamped with SAT between integer formats, else rounded once under STAT.RM (R91, R92). -/
def converted (s : State) (dst src : Fmt) (q c : Nat) : Nat × Flags :=
  if dst.isInt && src.isInt then
    let v : Int := if src.isS then signed src.width c else ((c % 2 ^ src.width : Nat) : Int)
    let r := intRange dst
    ((max r.1 (min r.2 v) % 2 ^ dst.width).toNat, if r.1 ≤ v ∧ v ≤ r.2 then 0 else 32)
  else convert dst src (rmOf s.stat) (ftzOf s.stat) q c

/-- The draws of a lane's conversions to n elements (R94, R135). -/
def conversionDraws (dst src : Fmt) (n : Nat) : Nat := if dst.isInt && src.isInt then 0 else n

/-- Words of the vector half that convert, choose or compare floating elements (R129, R132, R135 to R137): their latency, destination, element width, the
draws of a lane under SR, and the code and flags of element j of lane n with its draw. -/
def vectorElement (s : State) : Instr → Option (Nat × VNum × Nat × Nat × (Nat → Nat → Nat → Nat × Flags))
  | .vfmin t d a b => some (4, d, (vfmt t).width, 0, fun n j _ =>
      vectorSelect s false t (el (s.rv a) (vfmt t).width n j) (el (s.rv b) (vfmt t).width n j))
  | .vfmax t d a b => some (4, d, (vfmt t).width, 0, fun n j _ =>
      vectorSelect s true t (el (s.rv a) (vfmt t).width n j) (el (s.rv b) (vfmt t).width n j))
  | .vcvt dst src d a => some (4, d, 32, conversionDraws dst src 1, fun n _ q =>
      let c := converted s dst src q (el (s.rv a) 32 n 0 % 2 ^ src.width)
      (if dst.isS then (signed dst.width c.1 % 2 ^ 32).toNat else c.1, c.2))
  | .vnarrow t d a b =>
    let src := (narrowFmts t).1
    let dst := (narrowFmts t).2
    some (4, d, dst.width, conversionDraws dst src (32 / dst.width), fun n j q =>
      converted s dst src q (if j < 16 / dst.width then el (s.rv a) src.width n j else el (s.rv b) src.width n (j - 16 / dst.width)))
  | .vwiden .s16 hi d a => some (4, d, 32, 0, fun n _ _ => ((signed 16 (el (s.rv a) 16 n (if hi then 1 else 0)) % 2 ^ 32).toNat, 0))
  | .vwiden .s8 hi d a => some (4, d, 16, 0, fun n j _ => ((signed 8 (el (s.rv a) 8 n ((if hi then 2 else 0) + j)) % 2 ^ 16).toNat, 0))
  | .vwiden .bf16 hi d a => some (4, d, 32, 0, fun n _ _ => convert .f32 .bf16 .rne (ftzOf s.stat) 0 (el (s.rv a) 16 n (if hi then 1 else 0)))
  | .vwiden .f16 hi d a => some (4, d, 32, 0, fun n _ _ => convert .f32 .f16 .rne (ftzOf s.stat) 0 (el (s.rv a) 16 n (if hi then 1 else 0)))
  | .vcmp .flt d a b => some (2, d, 32, 0, fun n _ _ =>
      let x := fpRead (ftzOf s.stat) 8 23 (el (s.rv a) 32 n 0)
      let y := fpRead (ftzOf s.stat) 8 23 (el (s.rv b) 32 n 0)
      let nan := fpNaN 8 23 x || fpNaN 8 23 y
      (if !nan && decide (fpKey 8 23 x < fpKey 8 23 y) && !(x % 2 ^ 31 == 0 && y % 2 ^ 31 == 0) then 2 ^ 32 - 1 else 0, if nan then 1 else 0))
  | _ => none

/-- Table 7.9: Combine of two F32 codes in a floating reduction, with draw q. -/
def combined (s : State) (op : RedOp) (q x y : Nat) : Nat × Flags :=
  if op = .fadd then
    let v := fvAdd (rmOf s.stat) (decodeFtz (ftzOf s.stat) .f32 x) (decodeFtz (ftzOf s.stat) .f32 y)
    let c := roundTo .f32 (rmOf s.stat) (ftzOf s.stat) q v.1
    (c.1 % 2 ^ 32, v.2 ||| c.2)
  else fpSelect (op == .fmax) (ftzOf s.stat) 8 23 x y

/-- Table 7.9: the identities of the floating reductions. -/
def floatIdentity : RedOp → Option Nat
  | .fadd => some 0
  | .fmin => some 0x7F800000
  | .fmax => some 0xFF800000
  | _ => none

/-- R141: node (lev, j) of the tree over the active lanes of a register. -/
def treeNode (s : State) (op : RedOp) (a : VNum) : Nat → Nat → Option Nat
  | 0, j => if j < s.vl then some (el (s.rv a) 32 j 0) else none
  | lev + 1, j =>
    match treeNode s op a lev (2 * j), treeNode s op a lev (2 * j + 1) with
    | some x, some y => some (combined s op (drawOf s (2 ^ (lev + 1) * j) lev) x y).1
    | some x, none => some x
    | none, y => y

/-- R142: lane n of a floating scan. -/
def scanAt (s : State) (op : RedOp) (ex : Bool) (e : Nat) (a : VNum) : Nat → Nat
  | 0 => if ex then e else el (s.rv a) 32 0 0
  | n + 1 =>
    if ex ∧ n = 0 then el (s.rv a) 32 0 0
    else (combined s op (drawOf s (n + 1) 0) (scanAt s op ex e a n) (el (s.rv a) 32 (if ex then n else n + 1) 0)).1

/-- Table 7.9: an integer reduction and its identity. -/
def reduction : RedOp → Option ((Lane → Lane → Lane) × Lane)
  | .add => some (fun a b => a + b, 0)
  | .min => some (fun a b => if a.toInt ≤ b.toInt then a else b, 0x7FFFFFFF)
  | .max => some (fun a b => if a.toInt ≤ b.toInt then b else a, 0x80000000)
  | .minz => some (fun a b => if a.toNat ≤ b.toNat then a else b, 0xFFFFFFFF)
  | .maxz => some (fun a b => if a.toNat ≤ b.toNat then b else a, 0)
  | .and => some (fun a b => a &&& b, 0xFFFFFFFF)
  | .or => some (fun a b => a ||| b, 0)
  | .xor => some (fun a b => a ^^^ b, 0)
  | _ => none

end Sys2Proof.Claims

/-- R126 and R128: the integer instructions that wrap land, with k = 2 and no flag, in every element of every active lane the exact result of Table
7.2 (VABS and VNEG: of R128) modulo 2^w; VL bounds the lanes that are written (R122). R126 and R127: VADDS and VSUBS land the sum or difference
clamped to its type, and set SAT exactly where an element of an active lane was clamped. -/
def Obligations.VectorIntegersWorkElementByElement : Prop :=
  (
  ∀ (i : Instr) (s : State) (w : Nat) (d a b : VNum) (f : Nat → Nat → Int), vectorInt i = some (w, d, a, b, f) →
    ∃ r : VReg, Sys2Proof.Machine.exec i s = .next (s.land 2 0 (.v d 0 s.vl r)) ∧
      ∀ n j, n < s.vl → n < 64 → j < 32 / w → ((el r w n j : Nat) : Int) = f (el (s.rv a) w n j) (el (s.rv b) w n j) % 2 ^ w) ∧
  (
  ∀ (t : SatTy) (sub : Bool) (d a b : VNum) (s : State), s.vl ≤ 64 →
    let exact (n j : Nat) : Int :=
      if sub then satRead t (el (s.rv a) (satRange t).1 n j) - satRead t (el (s.rv b) (satRange t).1 n j)
      else satRead t (el (s.rv a) (satRange t).1 n j) + satRead t (el (s.rv b) (satRange t).1 n j)
    ∃ (r : VReg) (fl : Flags) (y : Shift), y = s.x ∧
      Sys2Proof.Machine.exec (if sub then .vsubs t d a b else .vadds t d a b) s = .next ((s.modX fun _ => y).land 2 fl (.v d 0 s.vl r)) ∧
      (∀ n j, n < s.vl → j < 32 / (satRange t).1 →
        satRead t (el r (satRange t).1 n j) = max (satRange t).2.1 (min (satRange t).2.2 (exact n j))) ∧
      ((∃ n j, n < s.vl ∧ j < 32 / (satRange t).1 ∧ ¬((satRange t).2.1 ≤ exact n j ∧ exact n j ≤ (satRange t).2.2)) → fl = 32) ∧
      ((∀ n j, n < s.vl → j < 32 / (satRange t).1 → (satRange t).2.1 ≤ exact n j ∧ exact n j ≤ (satRange t).2.2) → fl = 0))

/-- R126, R129, R130, R138 and R139: the words that move or select lanes land, in active lane i, what their table gives, with no flag. VCMP with an
integer condition is among them. R138: VSETVL sets VL and its register to min(sb, 64), VEXTR reads one lane and VINS writes one lane, whatever VL
holds; R143: PART lands the indices of the active lanes that are nonzero, then of those that are zero, and their count. -/
def Obligations.LaneMovesAndSelectionsLandTheirLanes : Prop :=
  (
  ∀ (i : Instr) (s : State) (k : Nat) (d : VNum) (f : Nat → Nat), vectorLanes s i = some (k, d, f) →
    ∃ (r : VReg) (y : Shift), y = s.x ∧ Sys2Proof.Machine.exec i s = .next ((s.modX fun _ => y).land k 0 (.v d 0 s.vl r)) ∧
      ∀ n, n < s.vl → n < 64 → el r 32 n 0 = f n) ∧
  (
  (∀ (d b : Sys2Proof.SNum) (s : State), Sys2Proof.Machine.exec (.vsetvl d b) s =
    .next (s.land 2 0 (.vsetvl d (BitVec.ofNat 64 (min (s.rs b).toNat 64))))) ∧
  (∀ (sx : Bool) (d : Sys2Proof.SNum) (a : VNum) (n : BitVec 6) (s : State), Sys2Proof.Machine.exec (.vextr sx d a n) s =
    .next (s.land 3 0 (.s d (BitVec.ofInt 64 (if sx then signed 32 (el (s.rv a) 32 n.toNat 0) else el (s.rv a) 32 n.toNat 0))))) ∧
  (∀ (d : VNum) (b : Sys2Proof.SNum) (n : BitVec 6) (s : State), ∃ r : VReg, el r 32 n.toNat 0 = (s.rs b).toNat % 2 ^ 32 ∧
    Sys2Proof.Machine.exec (.vins d b n) s = .next (s.land 2 0 (.v d n.toNat 1 r))) ∧
  ∀ (d a : VNum) (c : Sys2Proof.SNum) (s : State), s.vl ≤ 64 →
    let yes := (List.range s.vl).filter fun n => el (s.rv a) 32 n 0 ≠ 0
    let no := (List.range s.vl).filter fun n => el (s.rv a) 32 n 0 = 0
    ∃ t f : VReg, (∀ n, n < 64 → el t 32 n 0 = yes.getD n 0 ∧ el f 32 n 0 = no.getD n 0) ∧
      Sys2Proof.Machine.exec (.part d a c) s =
        .next ((s.startBase 0x010 6 (.part d a c) (s.rv a) 0).land 12 0 (.part d t f c (BitVec.ofNat 64 yes.length))))

/-- R131, R133, R134 and R125: each element of each active lane is the exact value of Tables 7.4 and 7.5 rounded once to its own format under STAT.RM, with
the draw of its lane's generator under SR, one for each element in increasing order (R94), and the flags of all of them are ORed; the draws change the
generators and nothing else of the shift. VFDIV also starts its base routine at word 0x000 of the lane sequencer, which it occupies for 8 cycles (R124, R302).
The model's choice (log 7): for an irrational VEXP2 or VLOG2 the value that is rounded is a fixed-point one, which stands for the exact value of R134. -/
def Obligations.VectorFloatsRoundEachElementOnce : Prop :=
  ∀ (i : Instr) (s : State) (k : Nat) (d : VNum) (fmt : Fmt) (a b : VNum) (op : FV → FV → FV → FV × Flags),
    vectorFloat s i = some (k, d, fmt, a, b, op) →
    let exact (n j : Nat) : FV × Flags :=
      op (decodeFtz (ftzOf s.stat) fmt (el (s.rv a) fmt.width n j)) (decodeFtz (ftzOf s.stat) fmt (el (s.rv b) fmt.width n j))
        (decodeFtz (ftzOf s.stat) fmt (el (s.rv d) fmt.width n j))
    let rounded (n j : Nat) : Nat × Flags := roundTo fmt (rmOf s.stat) (ftzOf s.stat) (drawOf s n j) (exact n j).1
    ∃ (r : VReg) (fl : Flags) (y : Shift),
      y = { s.x with sp := { s.x.sp with gens := y.sp.gens }, tim := { s.x.tim with laneBusy := y.tim.laneBusy }, lane := y.lane } ∧
      (k ≠ 16 → y.tim.laneBusy = s.x.tim.laneBusy ∧ y.lane = s.x.lane) ∧
      (k = 16 → ∀ j z, s.cur.sh = some j → s.sh? j = some z → y.tim.laneBusy = 8 ∧ y.lane.v = true ∧ y.lane.mpc = 0 ∧ y.lane.ten = false) ∧
      Sys2Proof.Machine.exec i s = .next ((s.modX fun _ => y).land k fl (.v d 0 s.vl r)) ∧
      (s.vl ≤ 64 →
        (∀ n j, n < s.vl → j < 32 / fmt.width → el r fmt.width n j = (rounded n j).1 % 2 ^ fmt.width) ∧
        (∀ b, fl.getLsbD b = true ↔ ∃ n j, n < s.vl ∧ j < 32 / fmt.width ∧ ((exact n j).2 ||| (rounded n j).2).getLsbD b = true) ∧
        ∀ n, n < 66 → y.sp.gens[n]? = some (genAfter s.x n (if rmOf s.stat = .sr ∧ n < s.vl then 32 / fmt.width else 0)))

/-- R132, R135 to R137 and R129: VFMIN, VFMAX, VCVT, VNARROW, VWIDEN and VCMP.flt land the code of each element of each active lane at their latency, OR their
flags, and change nothing else but the generators that a rounding under SR draws from. R141 and R142: an integer VRED lands the combination of the active
lanes (the identity where VL is 0) in lane 0 and zero in every other lane; a floating VRED lands that of the fixed tree, each node with its flags and its
draw; an integer VSCAN lands in each active lane the combination of the lanes up to it, or below it with `.ex`, and a floating one likewise, from left to
right, with its flags and draws. -/
def Obligations.ReductionsAndConversionsCombineActiveLanes : Prop :=
  (
  ∀ (i : Instr) (s : State) (k : Nat) (d : VNum) (w dr : Nat) (f : Nat → Nat → Nat → Nat × Flags), vectorElement s i = some (k, d, w, dr, f) →
    ∃ (r : VReg) (fl : Flags) (y : Shift), y = { s.x with sp := { s.x.sp with gens := y.sp.gens } } ∧
      Sys2Proof.Machine.exec i s = .next ((s.modX fun _ => y).land k fl (.v d 0 s.vl r)) ∧
      (s.vl ≤ 64 →
        (∀ n j, n < s.vl → j < 32 / w → el r w n j = (f n j (drawOf s n j)).1 % 2 ^ w) ∧
        (∀ b, fl.getLsbD b = true ↔ ∃ n j, n < s.vl ∧ j < 32 / w ∧ (f n j (drawOf s n j)).2.getLsbD b = true) ∧
        ∀ n, n < 66 → y.sp.gens[n]? = some (genAfter s.x n (if rmOf s.stat = .sr ∧ n < s.vl then dr else 0)))) ∧
  (
  (∀ (op : RedOp) (d a : VNum) (s : State), ∃ (r : VReg) (fl : Flags) (y : Shift),
      y = { s.x with sp := { s.x.sp with gens := y.sp.gens } } ∧
      Sys2Proof.Machine.exec (.vred op d a) s = .next ((s.modX fun _ => y).land 6 fl (.v d 0 64 r)) ∧ r.toNat < 2 ^ 32 ∧
      (∀ f e, reduction op = some (f, e) → s.vl ≤ 64 → fl = 0 ∧ y = s.x ∧
        r.toNat = ((List.range s.vl).foldl (fun acc n => f acc (laneGet (s.rv a) n)) e).toNat) ∧
      ∀ e, floatIdentity op = some e → s.vl ≤ 64 →
        r.toNat = (treeNode s op a 6 0).getD e ∧
        (∀ b, fl.getLsbD b = true ↔ ∃ lev j x z, lev < 6 ∧ j < 2 ^ (5 - lev) ∧ treeNode s op a lev (2 * j) = some x ∧
          treeNode s op a lev (2 * j + 1) = some z ∧ (combined s op (drawOf s (2 ^ (lev + 1) * j) lev) x z).2.getLsbD b = true) ∧
        ∀ n, n < 66 → y.sp.gens[n]? = some (genAfter s.x n (if rmOf s.stat = .sr ∧ op = .fadd then
          ((List.range 6).filter fun lev => decide (2 ^ (lev + 1) ∣ n ∧ n + 2 ^ lev < s.vl)).length else 0))) ∧
  (∀ (op : RedOp) (ex : Bool) (d a : VNum) (s : State) (f : Lane → Lane → Lane) (e : Lane), reduction op = some (f, e) →
    ∃ r : VReg, Sys2Proof.Machine.exec (.vscan op ex d a) s = .next ((s.modX fun _ => s.x).land 8 0 (.v d 0 s.vl r)) ∧
      ∀ n, n < s.vl → n < 64 →
        laneGet r n = (List.range (if ex then n else n + 1)).foldl (fun acc m => f acc (laneGet (s.rv a) m)) e) ∧
  ∀ (op : RedOp) (ex : Bool) (d a : VNum) (s : State) (e : Nat), floatIdentity op = some e →
    ∃ (r : VReg) (fl : Flags) (y : Shift), y = { s.x with sp := { s.x.sp with gens := y.sp.gens } } ∧
      Sys2Proof.Machine.exec (.vscan op ex d a) s = .next ((s.modX fun _ => y).land 8 fl (.v d 0 s.vl r)) ∧
      (s.vl ≤ 64 →
        (∀ n, n < s.vl → el r 32 n 0 = scanAt s op ex e a n) ∧
        (∀ b, fl.getLsbD b = true ↔ ∃ n, n + 1 < s.vl ∧ ¬(ex = true ∧ n = 0) ∧
          (combined s op (drawOf s (n + 1) 0) (scanAt s op ex e a n) (el (s.rv a) 32 (if ex then n else n + 1) 0)).2.getLsbD b = true) ∧
        ∀ n, n < 66 → y.sp.gens[n]? = some (genAfter s.x n
          (if rmOf s.stat = .sr ∧ op = .fadd ∧ n < s.vl ∧ (if ex then 2 else 1) ≤ n then 1 else 0))))

namespace Sys2Proof.Claims
open Sys2Proof.Machine

/-! ## Landings -/

/-- The bytes of PAD that a landing writes, as (offset in the core's PAD, bytes) (R144, R149). -/
def padWrites : LandTo → List (Nat × List Byte)
  | .pad b data => [(b, data)]
  | .padElems _ els => els
  | .partn b _ counts idx => partnWrites b counts idx
  | _ => []

/-- The bytes of LANE that a landing writes, as (lane, offset, bytes). -/
def laneWrites : LandTo → List (Nat × Nat × List Byte)
  | .lane _ els => els
  | _ => []

/-- What a scalar register reads as after a landing (R51, R138, R143). -/
def scalarAfter (x : Shift) (d : LandTo) (n : Sys2Proof.SNum) : Word :=
  if n = 0 then 0
  else match d with
    | .s r w => if n = r then w else x.rs n
    | .part _ _ _ r w => if n = r then w else x.rs n
    | .vsetvl r w => if n = r then w else x.rs n
    | _ => x.rs n

/-- What lane j of a vector register holds after a landing (R122, R143, R169). -/
def laneAfter (x : Shift) (d : LandTo) (n : VNum) (j : Nat) : Lane :=
  match d with
  | .v r first count w => if n = r ∧ first ≤ j ∧ j < first + count then laneGet w j else laneGet (x.rv n) j
  | .part r t f _ _ => if n = r + 1 then laneGet f j else if n = r then laneGet t j else laneGet (x.rv n) j
  | .crd r lo hi _ => if n = r + 1 then laneGet hi j else if n = r then laneGet lo j else laneGet (x.rv n) j
  | _ => laneGet (x.rv n) j

/-! ## Words of fixed latency that touch neither PAD nor LANE -/

/-- The words whose whole effect is a landing, and draws under SR (chapters 6 and 7), but for WRSR. -/
def fixedWord : Instr → Bool
  | .nop | .add _ _ _ | .sub _ _ _ | .mul _ _ _ | .mulh _ _ _ | .mulhz _ _ _ | .div _ _ _ | .divz _ _ _ | .rem _ _ _ | .remz _ _ _
  | .and _ _ _ | .or _ _ _ | .xor _ _ _ | .andn _ _ _ | .shl _ _ _ | .shr _ _ _ | .sra _ _ _ | .rotl _ _ _ | .min _ _ _ | .max _ _ _
  | .minz _ _ _ | .maxz _ _ _ | .shli _ _ _ | .shri _ _ _ | .srai _ _ _ | .clz _ _ | .ctz _ _ | .popc _ _ | .sext _ _ _ | .zext _ _ _
  | .bfx _ _ _ | .bfi _ _ _ | .sel _ _ _ | .cmp _ _ _ _ | .fadd _ _ _ | .fsub _ _ _ | .fmul _ _ _ | .ffma _ _ _ | .fdiv _ _ _ | .fsqrt _ _
  | .fmin _ _ _ | .fmax _ _ _ | .fcmp _ _ _ _ | .fcvt _ _ _ _ _ | .fclass _ _ | .gand _ _ _ | .gor _ _ _ | .gnot _ _ | .rddcc _
  | .adda _ _ _ | .lea _ _ _ | .suba _ _ _ | .movas _ _ _ | .movsa _ _ | .cmpa _ _ _ | .anda _ _ _
  | .addi _ _ _ | .andi _ _ _ | .ori _ _ _ | .xori _ _ _ | .cmpi _ _ _ _ | .movi _ _ | .movhi _ _ | .addai _ _ _ | .rdsr _ _
  | .vadd _ _ _ _ | .vsub _ _ _ _ | .vmul _ _ _ _ | .vmulh _ _ _ _ | .vadds _ _ _ _ | .vsubs _ _ _ _ | .vmin _ _ _ _ | .vmax _ _ _ _
  | .vabs _ _ _ | .vneg _ _ _ | .vand _ _ _ | .vor _ _ _ | .vxor _ _ _ | .vshl _ _ _ _ | .vshr _ _ _ _ | .vsra _ _ _ _ | .vcmp _ _ _ _
  | .vsel _ _ _ | .vfadd _ _ _ _ | .vfsub _ _ _ _ | .vfmul _ _ _ _ | .vfma _ _ _ _ | .vfms _ _ _ _ | .vfnma _ _ _ _ | .vfmin _ _ _ _
  | .vfmax _ _ _ _ | .vfdiv _ _ _ | .vrcp _ _ | .vrsq _ _ | .vexp2 _ _ | .vlog2 _ _ | .vcvt _ _ _ _ | .vnarrow _ _ _ _ | .vwiden _ _ _ _
  | .vbcast _ _ _ | .viota _ _ | .vsetvl _ _ | .vextr _ _ _ _ | .vins _ _ _ | .vperm _ _ _ | .vrot _ _ _ | .vslide _ _ _ _ | .vred _ _ _
  | .vscan _ _ _ _ | .part _ _ _ => true
  | _ => false

/-! ## Accesses to PAD and LANE -/

/-- The conditions of Table 9.7 under which the executing shift's access of kind k to n bytes of PAD from ea on passes its checks, and of R187. -/
def PadFree (s : State) (k : Acc) (ea n : Nat) : Prop :=
  ea + n ≤ 2 ^ 20 ∧ s.acquirePending s.me = false ∧ s.jobClash s.me s.x k .pad ea n = false ∧
  ∀ b, ea ≤ b → b < ea + n →
    ownsBank s.x.place.banks b = true ∧ inSaveArea s.x.place.banks b = false ∧ s.inRingHeader .pad s.myCore b = false ∧
    ((s.inRingSlots .pad s.myCore b = false ∧ ∃ m ∈ s.x.modesAt .pad b, k.permitted m = true) ∨
      (s.inRingSlots .pad s.myCore b = true ∧ s.x.holdsSlotAt .pad b = true))

/-- The bytes of an access lie in one lane's slice of LANE (R148, R174), and R187 does not hold it. -/
def LaneFree (s : State) (ea n : Nat) : Prop := ea + n ≤ 2 ^ 12 ∧ s.acquirePending s.me = false

/-- The bytes of PAD of the executing shift's core. -/
def padBytes (s : State) (ea n : Nat) : List Byte := (List.range n).map fun j => s.pad.get (s.myCore * 2 ^ 20 + (ea + j))

/-- The bytes of a lane's slice of LANE of the executing shift's core. -/
def laneBytes (s : State) (lane ea n : Nat) : List Byte := (List.range n).map fun j => s.lane.get ((s.myCore * 64 + lane) * 4096 + (ea + j))

/-- The little-endian number of bytes (R2). -/
def number : List Byte → Nat
  | [] => 0
  | b :: bs => b.toNat + 256 * number bs

/-- The bytes of a number, least significant first (R2). -/
def bytesOf (n x : Nat) : List Byte := (List.range n).map fun j => BitVec.ofNat 8 (x / 256 ^ j)

/-- The size of an access in bytes (R191). -/
def bytes : Size → Nat
  | .b => 1 | .h => 2 | .w => 4 | .d => 8

/-- The value of a load: zero-extended, or sign-extended (R198). -/
def loaded (sx : Bool) (bs : List Byte) : Word :=
  if sx then BitVec.ofInt 64 (signed (8 * bs.length) (number bs)) else BitVec.ofNat 64 (number bs)

end Sys2Proof.Claims

/-- R30, R51, R96, R122 and R138: where one result of a shift is due, LAND writes it to the registers that it names, ORs its flags into STAT, releases
it, and leaves every other register and every other shift as they were. A WRSR to STAT keeps the flags that reached STAT earlier in its cycle. -/
def Obligations.LandingsWriteTheRegistersTheyName : Prop :=
  ∀ (s : State) (i : Nat) (x : Shift) (l : Landing), s.sh? i = some x → (x.landings.filter fun m => m.left == 0) = [l] →
    ∃ t y, Sys2Proof.Machine.exec (.land i) s = .next t ∧ t.sh? i = some y ∧ (∀ j, j ≠ i → t.sh? j = s.sh? j) ∧
      y.landings = x.landings.filter (fun m => m.left != 0) ∧
      (∀ n, y.rs n = scalarAfter x l.dst n) ∧
      (∀ n, y.ra n = match l.dst with | .a r w => if n = r then w else x.ra n | _ => x.ra n) ∧
      (∀ n, y.rg n = if n = 0 then true else match l.dst with | .g r b => if n = r then b else x.rg n | _ => x.rg n) ∧
      (∀ n j, j < 64 → laneGet (y.rv n) j = laneAfter x l.dst n j) ∧
      y.sp.stat = (match l.dst with | .special .stat w => w ||| (x.flagsNow s.dcc).setWidth 64 | _ => x.sp.stat) ||| l.flags.setWidth 64 ∧
      y.sp.vl = (match l.dst with | .special .vl w => w.toNat | .vsetvl _ w => w.toNat | _ => x.sp.vl) ∧
      y.sp.tcb = (match l.dst with | .special .tcb w => w | _ => x.sp.tcb) ∧
      y.sp.sb = (match l.dst with | .special .sb w => w | _ => x.sp.sb) ∧
      y.sp.stkb = (match l.dst with | .special .stkb w => w | _ => x.sp.stkb) ∧
      y.sp.stkl = (match l.dst with | .special .stkl w => w | _ => x.sp.stkl) ∧
      y.sp.seed = (match l.dst with | .special .rnd w => w | _ => x.sp.seed) ∧
      y.sp.chk = (match l.dst with | .special .chk w => w | _ => x.sp.chk) ∧
      y.regs.pc = x.regs.pc ∧ y.rings = x.rings ∧ y.handles = x.handles ∧ y.place = x.place ∧ y.mx.tiles = x.mx.tiles

/-- R31 and R96: results that land in one cycle land one after another, a WRSR to STAT first and the others in issue order, so that flags of the cycle
survive it. -/
def Obligations.LandingsOfOneCycleTakeStatFirst : Prop :=
  ∀ (s : State) (i : Nat) (x : Shift) (w : Word), s.sh? i = some x →
    (∀ l ∈ x.landings, l.left = 0 → (∃ r v, l.dst = .s r v) ∨ (l.dst = .special .stat w ∧ l.flags = 0)) →
    ∃ t y, Sys2Proof.Machine.exec (.land i) s = .next t ∧ t.sh? i = some y ∧
      y.sp.stat = ((x.landings.filter fun l => l.left == 0).foldl (fun f l => f ||| l.flags.setWidth 64)
        (if (x.landings.filter fun l => l.left == 0).any (fun l => l.dst == .special .stat w) then w ||| (x.flagsNow s.dcc).setWidth 64
          else x.sp.stat)) ∧
      ∀ n, y.rs n = (x.landings.filter fun l => l.left == 0).foldl (fun v l => scalarAfter (x.setS n v) l.dst n) (x.rs n)

/-- R149 and R46: a landing changes the bytes of PAD and LANE that it names and no others; no other memory changes, and memories stay canonical. -/
def Obligations.LandingsChangeOnlyTheirBytes : Prop :=
  ∀ (s : State) (i : Nat) (x : Shift) (l : Landing), Safety.Memories s → s.sh? i = some x → (x.landings.filter fun m => m.left == 0) = [l] →
    ∃ t, Sys2Proof.Machine.exec (.land i) s = .next t ∧ t = { s with shifts := t.shifts, pad := t.pad, lane := t.lane } ∧ Safety.Memories t ∧
      (∀ a, (∀ e ∈ padWrites l.dst, ¬(i / 8 * 2 ^ 20 + e.1 ≤ a ∧ a < i / 8 * 2 ^ 20 + e.1 + e.2.length)) → t.pad.get a = s.pad.get a) ∧
      (∀ a, (∀ e ∈ laneWrites l.dst, ¬((i / 8 * 64 + e.1) * 4096 + e.2.1 ≤ a ∧ a < (i / 8 * 64 + e.1) * 4096 + e.2.1 + e.2.2.length)) →
        t.lane.get a = s.lane.get a) ∧
      (∀ b data, l.dst = .pad b data → ∀ j, j < data.length → t.pad.get (i / 8 * 2 ^ 20 + (b + j)) = data.getD j 0) ∧
      ∀ e o k data, l.dst = .lane e [(k, o, data)] → ∀ j, j < data.length → t.lane.get ((i / 8 * 64 + k) * 4096 + (o + j)) = data.getD j 0

/-- R103, R46 and R49: a word of chapter 6 or 7 that touches neither PAD nor LANE changes nothing in the cycle in which it issues but the landings of its
shift (one more at most, behind the others), the generators that SR draws from and, for VFDIV and PART, the lane sequencer on which their base routine
starts (R124): no register, no flag, no byte of any memory, no other shift. -/
def Obligations.FixedLatencyWordsChangeNothingAtIssue : Prop :=
  ∀ (i : Instr) (s : State), fixedWord i = true →
    ∃ t, Sys2Proof.Machine.exec i s = .next t ∧ t = { s with shifts := t.shifts } ∧ (∀ j, s.cur.sh ≠ some j → t.sh? j = s.sh? j) ∧
      ∀ x, s.cur.sh.bind s.sh? = some x → ∃ y ls, s.cur.sh.bind t.sh? = some y ∧ ls.length ≤ 1 ∧
        y = { x with landings := x.landings ++ ls, sp := { x.sp with gens := y.sp.gens }, tim := { x.tim with laneBusy := y.tim.laneBusy }, lane := y.lane } ∧
        ((∀ d a b, i ≠ .vfdiv d a b) → (∀ d a b, i ≠ .part d a b) → y.tim.laneBusy = x.tim.laneBusy ∧ y.lane = x.lane)

/-- R198: LD and ST of LANE (k = 3) and of PAD (k = 6) complete at issue wherever their bytes are aligned and pass the checks of Table 9.7, and no
request of the shift to their sector is pending (R189); the load lands the little-endian bytes as they stand, extended. -/
def Obligations.LocalLoadsAndStoresComplete : Prop :=
  ∀ (s : State) (sz : Size) (sx : Bool) (r : Sys2Proof.SNum) (m : MemX) (lane : Fin 64) (ea : Nat), s.x.eaX m = ea → ea % bytes sz = 0 →
    s.sectorPending s.me (localSector s.myCore m.sp lane.val ea) = false →
    (m.sp = .pad → PadFree s .read ea (bytes sz) →
      Sys2Proof.Machine.exec (.ld sz sx r m lane) s = .next (s.land 6 0 (.s r (loaded sx (padBytes s ea (bytes sz)))))) ∧
    (m.sp = .pad → PadFree s .write ea (bytes sz) →
      Sys2Proof.Machine.exec (.st sz r m lane) s = .next (s.land 6 0 (.pad ea (bytesOf (bytes sz) (s.rs r).toNat)))) ∧
    (m.sp = .lane → LaneFree s ea (bytes sz) →
      Sys2Proof.Machine.exec (.ld sz sx r m lane) s = .next (s.land 3 0 (.s r (loaded sx (laneBytes s lane ea (bytes sz))))) ∧
      Sys2Proof.Machine.exec (.st sz r m lane) s =
        .next (s.land 3 0 (.lane (some lane.val) [(lane.val, ea, bytesOf (bytes sz) (s.rs r).toNat)])))

/-- R146 to R148: VLD, VST, VGATH and VSCAT of PAD (k = 6) and VLDL and VSTL of LANE (k = 3) complete where every element of an active lane is aligned and
passes the checks of Table 9.7, and no request of the shift to its sectors is pending (R189); each active lane takes or gives its own element. -/
def Obligations.VectorAccessesComplete : Prop :=
  ∀ (s : State) (v a : VNum) (b : Sys2Proof.SNum) (off : BitVec 6) (z : ElemW), 0 < s.vl → s.vl ≤ 64 →
    (let base := (s.rs b).toNat + 256 * off.toNat
     base % 4 = 0 → s.bytesPending .pad 0 base (4 * s.vl) = false →
      (PadFree s .read base (4 * s.vl) → ∃ r : VReg, Sys2Proof.Machine.exec (.vld v b off) s = .next (s.land 6 0 (.v v 0 s.vl r)) ∧
        ∀ n, n < s.vl → el r 32 n 0 = number (padBytes s (base + 4 * n) 4)) ∧
      (PadFree s .write base (4 * s.vl) →
        Sys2Proof.Machine.exec (.vst v b off) s = .next (s.land 6 0 (.pad base (bytesOf (4 * s.vl) (s.rv v).toNat))))) ∧
    (let at_ (n : Nat) : Nat := (s.rs b).toNat + el (s.rv a) 32 n 0 * (width z / 8)
     (∀ n, n < s.vl → at_ n % (width z / 8) = 0 ∧ s.bytesPending .pad n (at_ n) (width z / 8) = false) →
      ((∀ n, n < s.vl → PadFree s .read (at_ n) (width z / 8)) →
        ∃ r : VReg, Sys2Proof.Machine.exec (.vgath z v a b) s = .next (s.land 6 0 (.v v 0 s.vl r)) ∧
          ∀ n, n < s.vl → el r 32 n 0 = number (padBytes s (at_ n) (width z / 8))) ∧
      ((∀ n, n < s.vl → PadFree s .write (at_ n) (width z / 8)) →
        Sys2Proof.Machine.exec (.vscat z v a b) s = .next (s.land 6 0 (.padElems (width z / 8)
          ((List.range s.vl).map fun n => (at_ n, bytesOf (width z / 8) (el (s.rv v) 32 n 0))))))) ∧
    ((∀ n, n < s.vl → el (s.rv a) 32 n 0 % 4 = 0 ∧ LaneFree s (el (s.rv a) 32 n 0) 4 ∧ s.bytesPending .lane n (el (s.rv a) 32 n 0) 4 = false) →
      (∃ r : VReg, Sys2Proof.Machine.exec (.vldl v a) s = .next (s.land 3 0 (.v v 0 s.vl r)) ∧
        ∀ n, n < s.vl → el r 32 n 0 = number (laneBytes s n (el (s.rv a) 32 n 0) 4)) ∧
      Sys2Proof.Machine.exec (.vstl v a) s = .next (s.land 3 0 (.lane none
        ((List.range s.vl).map fun n => (n, el (s.rv a) 32 n 0, bytesOf 4 (el (s.rv v) 32 n 0))))))

/-- R144: PARTN of n arms lands at k = 16 + 2n the counts of its arms and, for each arm, the list of the lanes that fall into it, the lane of value u
into arm min(u, n - 1), where its bytes pass their checks and no request of the shift to them is pending (R189); its base routine starts at word
0x020 of the lane sequencer, which it occupies for 8 + n cycles, with temporaries that the manual leaves open (log 13). -/
def Obligations.PartnSortsLanesIntoArms : Prop :=
  ∀ (s : State) (n1 : BitVec 3) (a : VNum) (b : Sys2Proof.SNum), s.vl ≤ 64 → (s.rs b).toNat % 4 = 0 →
    let n := n1.toNat + 1
    PadFree s .write (s.rs b).toNat (32 + 256 * n) → s.bytesPending .pad 0 (s.rs b).toNat (32 + 256 * n) = false →
    let arm (j : Nat) : List Nat := (List.range s.vl).filter fun i => min (el (s.rv a) 32 i 0) (n - 1) = j
    Sys2Proof.Machine.exec (.partn n1 a b) s = .next ((s.startBase 0x020 (8 + n) (.partn n1 a b) (s.rv a) 0).openTemps.land (16 + 2 * n) 0
      (.partn (s.rs b).toNat n ((List.range n).map fun j => (arm j).length) ((List.range n).map arm)))

/-- Table 9.7 (R183): an access of a shift to PAD, CREW or CHIP passes, or takes the memory-model fault of the first check that fails.
A synchronising access meets the footprint of a job as the plain access of its direction does: the model's reading of R185 (log 30). -/
def Obligations.LocalChecksNameTheFirstFailure : Prop :=
  ∀ (s : State) (i : Nat) (x : Shift) (k : Acc) (sc : Scope) (sp : Space) (ea : Int) (n : Nat), sp = .pad ∨ sp = .crew ∨ sp = .chip → 0 < n →
    let c := x.place.core
    let fails (p : Int → Prop) : Prop := ∃ b : Int, ea ≤ b ∧ b < ea + n ∧ p b
    let inSlot (b : Int) : Prop := s.inRingSlots sp c b.toNat = true
    let c1 := ea < 0 ∨ (spLimit sp : Int) < ea + n
    let c2 := sp = .pad ∧ fails fun b => ownsBank x.place.banks b.toNat = false
    let c3 := fails fun b => (sp = .pad ∧ inSaveArea x.place.banks b.toNat = true) ∨ s.inRingHeader sp c b.toNat = true
    let c4 := fails fun b => ¬inSlot b ∧ x.modesAt sp b = []
    let c5 := fails fun b => ¬inSlot b ∧ ∀ m ∈ x.modesAt sp b, k.permitted m = false
    let c6 := k.sync = true ∧ fails fun b => ¬inSlot b ∧ 2 ∈ x.modesAt sp b ∧ scRank sc < s.requiredScope x.place.ctx sp c b false
    let c7 := fails fun b => inSlot b ∧ (k.sync = true ∨ x.holdsSlotAt sp b.toNat = false)
    let c8 := s.jobClash i x k sp ea n = true
    let r := s.checkAccess i x 0 0 k sc false false false sp ea n
    (c1 → r = .error (memFault 0 1 ea)) ∧ (¬c1 ∧ c2 → r = .error (memFault 0 2 ea)) ∧ (¬c1 ∧ ¬c2 ∧ c3 → r = .error (memFault 0 8 ea)) ∧
    (¬c1 ∧ ¬c2 ∧ ¬c3 ∧ c4 → r = .error (memFault 0 3 ea)) ∧ (¬c1 ∧ ¬c2 ∧ ¬c3 ∧ ¬c4 ∧ c5 → r = .error (memFault 0 4 ea)) ∧
    (¬c1 ∧ ¬c2 ∧ ¬c3 ∧ ¬c4 ∧ ¬c5 ∧ c6 → r = .error (memFault 0 5 ea)) ∧
    (¬c1 ∧ ¬c2 ∧ ¬c3 ∧ ¬c4 ∧ ¬c5 ∧ ¬c6 ∧ c7 → r = .error (memFault 0 6 ea)) ∧
    (¬c1 ∧ ¬c2 ∧ ¬c3 ∧ ¬c4 ∧ ¬c5 ∧ ¬c6 ∧ ¬c7 ∧ c8 → r = .error (memFault 0 7 ea)) ∧
    (¬c1 ∧ ¬c2 ∧ ¬c3 ∧ ¬c4 ∧ ¬c5 ∧ ¬c6 ∧ ¬c7 ∧ ¬c8 → r = .ok none)
namespace Sys2Proof.Claims
open Sys2Proof.Machine

/-! ## Accesses sent to their homes -/

/-- The access passes its checks at issue: aligned (R194), every check of Table 9.7, no AC, DT or log bit of its page that has to wait for a pending
version (R222, R338, R348), and no earlier acquire of its shift without its value (R187). -/
def Clear (s : State) (k : Acc) (sc : Scope) (sp : Space) (ea : Int) (n : Nat) : Prop :=
  ea % (n : Int) = 0 ∧ (∃ e, s.checkAccess s.me s.x 0 0 k sc false false false sp ea n = .ok e ∧ s.accessWaits e ea k.writes = false) ∧
    s.acquirePending s.me = false

/-- A read of GLOB finds its shift's table of observed bundles with room, or needs none (R234). -/
def TableRoom (s : State) (k : Acc) (sp : Space) (ea : Int) : Prop := sp = .glob → s.tableFull s.me (s.resolve k sp 0 ea).1 = false

/-- A fault at the bundle of the word being executed, which is not issued (R59); the bundle is held while the frame's lines hold a pending version or
stand in a page whose duplication ends (R222, R347, log 50). -/
def Trapped (s : State) (f : FaultInfo) : Out :=
  match s.trapWait s.me with
  | some t => .next { t with cur := { t.cur with verdict := 1 } }
  | none =>
    let t := s.takeTrap s.me { f with word := s.cur.word }
    .next { t with cur := { t.cur with verdict := 2 } }

/-- The shift of the word being executed, before and after. -/
def Changes (s t : State) (p : Shift → Shift → Prop) : Prop := ∀ x, s.cur.sh.bind s.sh? = some x → ∃ y, s.cur.sh.bind t.sh? = some y ∧ p x y

/-- Registers and special registers of the executing shift are as they were, and its destination, if any, awaits a result (R33); s0 never does. -/
def Awaiting (s t : State) (dst : Option Sys2Proof.SNum) : Prop :=
  t.cur = s.cur ∧ ∀ x, s.cur.sh.bind s.sh? = some x → ∃ y, s.cur.sh.bind t.sh? = some y ∧ y.regs = x.regs ∧ y.sp = x.sp ∧ y.landings = x.landings ∧
    ∀ n, y.awaits (.s n) = (x.awaits (.s n) || (dst == some n && n != 0))

/-- No byte of LANE, PAD, CREW, CHIP or host memory differs, and none of GLOB but where a GLOB operand sets AC, DT or a dirty-log bit (R338, R348). -/
def SameMemory (sp : Space) (s t : State) : Prop :=
  t.lane = s.lane ∧ t.pad = s.pad ∧ t.crew = s.crew ∧ t.chip = s.chip ∧ t.host = s.host ∧ (sp ≠ .glob → t.glob = s.glob)

/-- t is s with one request more on its way to the home of the access (R33, R175). -/
def Sent (s t : State) (k : Acc) (sp : Space) (ea : Int) (op : HomeOp) (acq rel : Bool) (dst : Option Sys2Proof.SNum) : Prop :=
  (∃ q, t.msgs = s.msgs ++ [.req q] ∧ q.sh = some s.me ∧ q.at_ = (s.resolve k sp 0 ea).1 ∧ q.op = op ∧ q.acq = acq ∧ q.rel = rel ∧
    q.dst = dst ∧ q.va = BitVec.ofInt 72 ea ∧ q.seq = s.x.tim.seq) ∧ Awaiting s t dst ∧ SameMemory sp s t

/-- A result of the issue unit on its way to a register (R33). -/
def Replied (s t : State) (sd : Sys2Proof.SNum) (w : Word) : Prop := t.msgs = s.msgs ++ [.arrive s.me (some sd) w 0 none] ∧ Awaiting s t (some sd)

/-- A new job at the end of the jobs, with a number of its own, queued at its engine, and its token register awaiting it (R186, R196). -/
def Queued (s t : State) (eng : Nat) (i : Instr) (sd : Sys2Proof.SNum) (reads writes : List Foot) : Prop :=
  ∃ j, t.jobs = s.jobs ++ [j] ∧ j.instr = i ∧ j.eng = eng ∧ j.sh = s.me ∧ j.tok = sd ∧ j.reads = reads ∧ j.writes = writes ∧ j.id = s.nextJob ∧
    j.state = 1 ∧ t.nextJob = s.nextJob + 1 ∧ t.msgs = s.msgs ∧ Awaiting s t (some sd) ∧ SameMemory .pad s t

/-- The home of a slot's state byte. -/
def slotHome (s : State) (q : QNum) : Home := spHome (s.ring q).sp s.myCore ((s.ring q).base + 0x40 + (s.ring q).hk)

end Sys2Proof.Claims

/-- R192, R198, R203, R216 and R217: LD and ST of CREW, CHIP and GLOB, LDA, STA, ATOM, CAS, BARINIT and BARARR send their one request to the home where
their access passes its checks, a read of GLOB at the kind and scope of its view (R235) and with room in the table of observed bundles (R234); nothing
of memory changes until the home performs it, but the AC, DT and dirty-log bits that the translation of a GLOB operand sets. -/
def Obligations.HomeAccessesSendTheirRequest : Prop :=
  ∀ (s : State) (m : MemX) (b : MemB) (r d : Sys2Proof.SNum) (sz : Size) (sx dw force : Bool) (sc : Scope) (op : AtomOp),
    let n := bytes sz
    let w := if dw then 8 else 4
    let kind := s.readKind m.sp
    (m.sp ≠ .lane ∧ m.sp ≠ .pad ∧ Clear s kind.1 kind.2 m.sp (s.x.eaX m) n → TableRoom s kind.1 m.sp (s.x.eaX m) → ∃ t, Sys2Proof.Machine.exec (.ld sz sx d m 0) s = .next t ∧
      Sent s t kind.1 m.sp (s.x.eaX m) (.read n sx) (kind.1 == .acq) false (some d)) ∧
    (m.sp ≠ .lane ∧ m.sp ≠ .pad ∧ Clear s .write .shift m.sp (s.x.eaX m) n → ∃ t, Sys2Proof.Machine.exec (.st sz r m 0) s = .next t ∧
      Sent s t .write m.sp (s.x.eaX m) (.write (bytesOf n (s.rs r).toNat)) false false none) ∧
    (Clear s .acq (s.ldaScope m.sp sc) m.sp (s.x.eaX m) n → TableRoom s .acq m.sp (s.x.eaX m) → ∃ t, Sys2Proof.Machine.exec (.lda sz sx sc d m) s = .next t ∧
      Sent s t .acq m.sp (s.x.eaX m) (.read n sx) true false (some d)) ∧
    (Clear s .rel sc m.sp (s.x.eaX m) n → ∃ t, Sys2Proof.Machine.exec (.sta sz sc r m) s = .next t ∧
      Sent s t .rel m.sp (s.x.eaX m) (.write (bytesOf n (s.rs r).toNat)) false true none) ∧
    (Clear s .rmw sc b.sp (s.x.eaB b) w → TableRoom s .rmw b.sp (s.x.eaB b) →
      (∃ t, Sys2Proof.Machine.exec (.atom op dw sc d b r) s = .next t ∧ Sent s t .rmw b.sp (s.x.eaB b) (.atom op dw (s.rs r)) true true (some d)) ∧
      ∃ t, Sys2Proof.Machine.exec (.cas dw sc d b r) s = .next t ∧ Sent s t .rmw b.sp (s.x.eaB b) (.cas dw (s.rs d) (s.rs r)) true true (some d)) ∧
    (Clear s .barRmw sc b.sp (s.x.eaB b) 32 → TableRoom s .barRmw b.sp (s.x.eaB b) →
      (∃ t, Sys2Proof.Machine.exec (.barinit force sc d b r) s = .next t ∧ Sent s t .barRmw b.sp (s.x.eaB b) (.barinit force (s.rs r)) true true (some d)) ∧
      ∃ t, Sys2Proof.Machine.exec (.bararr sc d b) s = .next t ∧ Sent s t .barRmw b.sp (s.x.eaB b) .bararr true true (some d))

/-- R194: a scalar access at an address that is no multiple of its size takes the alignment fault with that address, precisely, before any other check. -/
def Obligations.MisalignedAccessesTakeTheAlignmentFault : Prop :=
  ∀ (s : State) (m : MemX) (b : MemB) (r d : Sys2Proof.SNum) (sz : Size) (sx dw : Bool) (sc : Scope) (op : AtomOp) (lane : Fin 64),
    s.cur.checked = false →
    let trap (ea : Int) : Out := Trapped s { code := 0x0D, faddr := BitVec.ofInt 72 ea }
    (s.x.eaX m % (bytes sz : Int) ≠ 0 →
      Sys2Proof.Machine.exec (.ld sz sx d m lane) s = trap (s.x.eaX m) ∧ Sys2Proof.Machine.exec (.st sz r m lane) s = trap (s.x.eaX m) ∧
      Sys2Proof.Machine.exec (.lda sz sx sc d m) s = trap (s.x.eaX m) ∧ Sys2Proof.Machine.exec (.sta sz sc r m) s = trap (s.x.eaX m)) ∧
    (s.x.eaB b % (if dw then 8 else 4) ≠ 0 →
      Sys2Proof.Machine.exec (.atom op dw sc d b r) s = trap (s.x.eaB b) ∧ Sys2Proof.Machine.exec (.cas dw sc d b r) s = trap (s.x.eaB b))

/-- R205 and R218: WAITGE of a home of this package completes at issue where no request of its shift to the sector, no earlier release and no wait is
pending, no bundle need be asked about the line (R234), and the value that the shift reads there has reached the threshold; BARWAIT where the barrier is
not READY or its generation has moved on. Each returns what its rule gives. A poisoned line is left out. -/
def Obligations.WaitsThatAreOverComplete : Prop :=
  ∀ (s : State) (b : MemB) (d r : Sys2Proof.SNum) (dw signed_ : Bool) (sc : Scope),
    let h := (s.resolve .acq b.sp 0 (s.x.eaB b)).1
    (∀ p a k, h ≠ .fab p a k) → s.sectorPending s.me h.sector = false → s.syncPending s.me = false → s.seeQuiet s.me h = none → s.waiter? s.me 0 = none →
    (let n := if dw then 8 else 4
     let v := number (s.ownRead s.me h n).1
     Clear s .acq sc b.sp (s.x.eaB b) n → (s.ownRead s.me h n).2.1 = false →
     (if signed_ then signed (8 * n) (s.rs r).toNat ≤ signed (8 * n) v else (s.rs r).toNat % 2 ^ (8 * n) ≤ v) →
     ∃ t w f bad, Sys2Proof.Machine.exec (.waitge dw signed_ sc d b r) s = .next t ∧ t.msgs = s.msgs ++ [.arrive s.me (some d) w f bad] ∧
       Awaiting s t (some d) ∧ SameMemory b.sp s t ∧ w = BitVec.ofNat 64 v ∧ (b.sp ≠ .glob → bad = none)) ∧
    (Clear s .barAcq sc b.sp (s.x.eaB b) 32 → (s.ownRead s.me h 32).2.1 = false → (s.barWord h 3 ≠ 1 ∨ s.barWord h 2 ≠ (s.rs r).toNat % 2 ^ 32) →
     ∃ t w f bad, Sys2Proof.Machine.exec (.barwait sc d b r) s = .next t ∧ t.msgs = s.msgs ++ [.arrive s.me (some d) w f bad] ∧
       Awaiting s t (some d) ∧ SameMemory b.sp s t ∧ (b.sp ≠ .glob → bad = none) ∧
       w = BitVec.ofNat 64 (s.barWord h 2 * 2 ^ 32 + if s.barWord h 3 ≠ 1 then 4 else 0))

/-- R206 and Table 10.5: where the byte at ea passes its checks, LOCKL of a line that its context holds already answers 0 and changes no lock; else over
the quota it answers 6, and where the set of the line (its number modulo 256, log 31) would keep fewer than 2 of its 12 ways unlocked 8, and changes
no lock; else it locks the line and answers 0. UNLOCKL of a line that its context holds releases it and answers 0, and answers 7 where it is not held.
Neither changes a byte of LANE, PAD, CREW, CHIP or host memory. R208: PREF changes nothing. R204: FENCE.acq marks the shift so that its next bundle
waits for reads, FENCE.rel and FENCE.full so that it waits for every access; nothing else changes. The set of a line is the model's reading (log 31). -/
def Obligations.LineLocksFencesAndPrefetchesComplete : Prop :=
  (
  ∀ (s : State) (m : MemX) (d : Sys2Proof.SNum), m.sp = .glob → Clear s .acq .sys m.sp (s.x.eaX m) 1 →
    let key := (s.x.place.ctx, s.lineAt (s.x.eaX m))
    let locks := (s.core s.myCore).locks
    let held := (locks.filter fun l => l.1 == s.x.place.ctx).length
    let inSet := ((locks.map (·.2)).filter fun l => l % 256 == key.2 % 256).eraseDups
    (∃ t w, Sys2Proof.Machine.exec (.lockl d m) s = .next t ∧ Replied s t d w ∧ SameMemory .glob s t ∧
      (key ∈ locks → w = 0 ∧ (t.core s.myCore).locks = locks) ∧
      (key ∉ locks → s.x.place.lkq ≤ held → w = 6 ∧ t.cores = s.cores) ∧
      (key ∉ locks → held < s.x.place.lkq → key.2 ∉ inSet → 10 ≤ inSet.length → w = 8 ∧ t.cores = s.cores) ∧
      (key ∉ locks → held < s.x.place.lkq → (key.2 ∈ inSet ∨ inSet.length < 10) →
        w = 0 ∧ t.cores = (s.modCore s.myCore fun c => { c with locks := c.locks ++ [key] }).cores)) ∧
    ∃ t, Sys2Proof.Machine.exec (.unlockl d m) s = .next t ∧ SameMemory .glob s t ∧
      Replied s t d (if key ∈ (s.core s.myCore).locks then 0 else 7) ∧
      t.cores = if key ∈ (s.core s.myCore).locks then (s.modCore s.myCore fun c => { c with locks := c.locks.filter fun l => l ≠ key }).cores else s.cores) ∧
  (
  (∀ (l2 : Bool) (m : MemX) (s : State), Sys2Proof.Machine.exec (.pref l2 m) s = .next s) ∧
  ∀ (k : FenceKind) (sc : Scope) (s : State), ∃ t, Sys2Proof.Machine.exec (.fence k sc) s = .next t ∧ t = { s with shifts := t.shifts } ∧
    ∀ x, s.cur.sh.bind s.sh? = some x → ∃ y, s.cur.sh.bind t.sh? = some y ∧
      y = { x with pend := { x.pend with fence := if k = .acq then max 1 x.pend.fence else 2 } })

/-- R211: RINIT of an aligned object answers BADGEOM (5) with no effect where its geometry is refused; where its checks pass and the shift has no
earlier access it answers BUSY (1) with no effect on a ring in use, and else answers 0, writes the 128 bytes of the header (the number of slots less
one, the size, the masks, and zeros: every slot EMPTY) and names the ring in its register, which holds no slot. R193 and R212: RCLAIM and RWAIT of a
ring that names their stage complete where no slot is held, the next slot is open, no other waiter of the ring stands before them, and no acquire,
release or slot operation of the shift on the ring is on its way: the slot becomes CLAIMED or TAKEN, the pointer moves on, the register holds the slot,
and its address is returned. R212: RPUB of a claimed slot and RREL of a slot awaited send one release to the home of the slot's state byte and give the
slot up at once; without the slot, or on a register that names no ring, they take the memory-model fault HELD. -/
def Obligations.RingWordsAnswerAndTakeTheirSlots : Prop :=
  (
  ∀ (s : State) (d g : Sys2Proof.SNum) (q : QNum) (b : MemB), s.x.eaB b % 128 = 0 →
    let bad := s.x.badGeom q b (s.rs g)
    let busy := s.ringBusy (s.x.newRing q b) s.myCore
    (bad = true → ∃ t, Sys2Proof.Machine.exec (.rinit d q b g) s = .next t ∧ Replied s t d 5 ∧ SameMemory .pad s t ∧ t.rings = s.rings) ∧
    (bad = false → (∃ e, s.checkAccess s.me s.x 0 0 .rmw (ringScope b.sp) true false false b.sp (s.x.eaB b) (ringSize (s.rs g)) = .ok e) →
      s.accessPending s.me = false → s.x.localDue s.x.tim.seq = false →
      ∃ t, Sys2Proof.Machine.exec (.rinit d q b g) s = .next t ∧ Replied s t d (if busy then 1 else 0) ∧
        (busy = true → SameMemory .pad s t ∧ t.rings = s.rings) ∧
        (busy = false → Safety.Memories s → b.sp = .pad ∨ b.sp = .crew ∨ b.sp = .chip → let r := s.x.newRing q b
          ∀ j, j < 128 → t.ringByte r s.myCore j =
            if j = 0 then (s.rs g).toNat % 64 else if j = 1 then (s.rs g).toNat / 2 ^ 8 % 32 else if j = 2 then r.prod.toNat + 16 * r.cons.toNat else 0) ∧
        (busy = false → ∀ x, s.cur.sh.bind s.sh? = some x → ∃ y, s.cur.sh.bind t.sh? = some y ∧ y.rings[q].v = true ∧
          (y.rings[q].base : Int) = s.x.eaB b ∧ y.rings[q].hc = false ∧ y.rings[q].hw = false))) ∧
  (
  ∀ (s : State) (d : Sys2Proof.SNum) (q : QNum) (claim : Bool), Safety.Memories s →
    let r := s.ring q
    let k := s.nextSlot r s.myCore claim
    r.sp = .pad ∨ r.sp = .crew ∨ r.sp = .chip →
    r.v = true → (if claim then r.prod else r.cons).getLsbD s.x.place.stage = true → r.hc = false → r.hw = false →
    s.acquirePending s.me = false → s.syncPending s.me = false → s.ringPending s.me r s.myCore = false →
    s.ringByte r s.myCore (0x40 + k) % 4 = (if claim then 0 else 2) → (∀ w ∈ s.waiters, w.why ≠ r.why s.myCore claim) →
    ∃ t, Sys2Proof.Machine.exec (if claim then .rclaim d q else .rwait d q) s = .next t ∧
      Replied s t d (BitVec.ofNat 64 (r.base + 0x80 + k * 2 ^ s.ringByte r s.myCore 1)) ∧
      t.ringByte r s.myCore (0x40 + k) = (if claim then 1 else 3) ∧
      t.ringByte r s.myCore (if claim then 4 else 5) = (k + 1) % (s.ringByte r s.myCore 0 % 64 + 1) ∧
      ∀ x, s.cur.sh.bind s.sh? = some x → ∃ y, s.cur.sh.bind t.sh? = some y ∧ y.rings[q].hk = k ∧ y.rings[q].hc = claim ∧ y.rings[q].hw = !claim) ∧
  (
  ∀ (s : State) (q : QNum),
    ((s.ring q).v = true → (s.ring q).hc = true → s.acquirePending s.me = false →
      ∃ t r, Sys2Proof.Machine.exec (.rpub q) s = .next t ∧ t.msgs = s.msgs ++ [.req r] ∧ r.op = .rpub ∧ r.at_ = slotHome s q ∧ r.rel = true ∧
        ∀ x, s.cur.sh.bind s.sh? = some x → ∃ y, s.cur.sh.bind t.sh? = some y ∧ y.rings[q].hc = false ∧ y.regs = x.regs) ∧
    ((s.ring q).v = true → (s.ring q).hw = true → s.acquirePending s.me = false →
      ∃ t r, Sys2Proof.Machine.exec (.rrel q) s = .next t ∧ t.msgs = s.msgs ++ [.req r] ∧ r.op = .rrel ∧ r.at_ = slotHome s q ∧ r.rel = true ∧
        ∀ x, s.cur.sh.bind s.sh? = some x → ∃ y, s.cur.sh.bind t.sh? = some y ∧ y.rings[q].hw = false ∧ y.regs = x.regs) ∧
    (s.cur.checked = false →
      ((s.ring q).v = false ∨ (s.ring q).hc = false → Sys2Proof.Machine.exec (.rpub q) s = Trapped s { code := 0x0B, cause := 6 }) ∧
      ((s.ring q).v = false ∨ (s.ring q).hw = false → Sys2Proof.Machine.exec (.rrel q) s = Trapped s { code := 0x0B, cause := 6 })))

/-- R199, R201, R202 and R220: XLD, XST, CPY, CPY2D and MSCAN queue one job, with the bytes that it will read and write, where those pass their checks, no acquire
is pending and the queue has room; a copy above 2^32 - 1 bytes or with overlapping rows, and a misaligned scan, give their status in the token at once. -/
def Obligations.EngineWordsQueueTheirJob : Prop :=
  ∀ (s : State) (d a b c : Sys2Proof.SNum) (q : QNum) (m : MemX) (mb : MemB) (aa : ANum) (e1 : Bool) (mode : XMode) (src : Space) (op : ScanOp) (fmt : ScanFmt),
    let room (eng : Nat) (reads writes : List Foot) : Prop :=
      s.jobFeet s.x reads writes = none ∧ s.acquirePending s.me = false ∧ s.engineFull eng = false
    let eng := if e1 then 2 else 1
    let feet := s.accessFeetOf mode q d m
    let shape := copyShape (.cpy src d mb aa a) (s.rs a) 0
    let shape2 := copyShape (.cpy2d src d mb aa a) (s.rs a) (s.rs (nextNum a))
    let from_ : Int := (s.ra aa).toNat
    let token (t : State) (st : Nat) : Prop := t.msgs = s.msgs ++ [.token s.me d (BitVec.ofNat 64 st) none] ∧ t.jobs = s.jobs ∧ Awaiting s t (some d)
    ((s.ring q).v = true → (s.ring q).prod.getLsbD s.x.place.stage = true → room eng feet [] →
      ∃ t, Sys2Proof.Machine.exec (.xld mode e1 q d m) s = .next t ∧ Queued s t eng (.xld mode e1 q d m) d feet []) ∧
    ((s.ring q).v = true → (s.ring q).cons.getLsbD s.x.place.stage = true → room eng [] feet →
      ∃ t, Sys2Proof.Machine.exec (.xst mode e1 q d m) s = .next t ∧ Queued s t eng (.xst mode e1 q d m) d [] feet) ∧
    (shape.refused src mb.sp from_ (s.x.eaB mb) = none → room 0 (shape.srcFoot src from_) (shape.dstFoot mb.sp (s.x.eaB mb)) →
      ∃ t, Sys2Proof.Machine.exec (.cpy src d mb aa a) s = .next t ∧
        Queued s t 0 (.cpy src d mb aa a) d (shape.srcFoot src from_) (shape.dstFoot mb.sp (s.x.eaB mb))) ∧
    (2 ^ 32 ≤ (s.rs a).toNat → ∃ t, Sys2Proof.Machine.exec (.cpy src d mb aa a) s = .next t ∧ token t 2) ∧
    (shape2.refused src mb.sp from_ (s.x.eaB mb) = none → room 0 (shape2.srcFoot src from_) (shape2.dstFoot mb.sp (s.x.eaB mb)) →
      ∃ t, Sys2Proof.Machine.exec (.cpy2d src d mb aa a) s = .next t ∧
        Queued s t 0 (.cpy2d src d mb aa a) d (shape2.srcFoot src from_) (shape2.dstFoot mb.sp (s.x.eaB mb))) ∧
    (∀ st, shape2.refused src mb.sp from_ (s.x.eaB mb) = some st → ∃ t, Sys2Proof.Machine.exec (.cpy2d src d mb aa a) s = .next t ∧ token t st) ∧
    (scanBad fmt (s.x.eaB mb) (s.rs c) = false →
      room 0 (scanFeet op fmt (s.x.eaB mb) (s.rs b) (s.rs c)).1 (scanFeet op fmt (s.x.eaB mb) (s.rs b) (s.rs c)).2 →
      ∃ t, Sys2Proof.Machine.exec (.mscan op fmt d mb b c) s = .next t ∧
        Queued s t 0 (.mscan op fmt d mb b c) d (scanFeet op fmt (s.x.eaB mb) (s.rs b) (s.rs c)).1 (scanFeet op fmt (s.x.eaB mb) (s.rs b) (s.rs c)).2) ∧
    (scanBad fmt (s.x.eaB mb) (s.rs c) = true → ∃ t, Sys2Proof.Machine.exec (.mscan op fmt d mb b c) s = .next t ∧ token t 5)

/-- R283, R286, R287, R289 and R291: RLDQ, RSTN, RSEND and COLL queue one job at the link engine where their operands keep their limits, their bytes and their route pass,
and no acquire is pending; RSEND of nothing gives the BADDESC token. When RSTN reads its target list, which bytes of each target have their route checked,
and the order of the checks are the model's reading (log 43). -/
def Obligations.LinkWordsQueueTheirJob : Prop :=
  ∀ (s : State) (h : HNum) (q : QNum) (d a : Sys2Proof.SNum) (m : MemX) (b : MemB) (k : BitVec 6), s.acquirePending s.me = false →
    (let n := (s.rs d).toNat % 2 ^ 24
     let reads := if n = 0 then [] else [runFoot .glob (s.x.eaX m) (n * s.slotSize q) 1 0]
     (s.ring q).v = true → (s.ring q).prod.getLsbD s.x.place.stage = true → s.x.eaX m % 8 = 0 → s.jobFeet s.x reads [] = none →
     s.routeAt (s.handle h) (s.x.eaX m) = none →
     ∃ t, Sys2Proof.Machine.exec (.rldq h q d m) s = .next t ∧ Queued s t 3 (.rldq h q d m) d reads []) ∧
    (let n := (s.rs d).toNat % 2 ^ 24
     let ts := s.rstnTargets (s.rs d) (s.rs a)
     let reads := [runFoot b.sp (s.x.eaB b) n 1 0, runFoot .pad ((s.rs a).toNat % 2 ^ 20 : Nat) (16 * ts.length) 1 0]
     let writes := ts.map fun t => runFoot .glob t.1 n 1 0
     s.rstnBad (s.rs d) (s.rs a) = false → s.padLate ((s.rs a).toNat % 2 ^ 20) 128 = false → s.jobFeet s.x reads writes = none →
     s.regionRoute b.sp (s.x.eaB b) = none →
     (∀ t ∈ ts, s.routeAt ((s.x.handles[t.2.1]?).getD Handle.zero) t.1 = none) →
     ∃ t, Sys2Proof.Machine.exec (.rstn d b a) s = .next t ∧ Queued s t 3 (.rstn d b a) d reads writes) ∧
    (let n := (s.rs a).toNat % 2 ^ 24
     let reads := [runFoot b.sp (s.x.eaB b) n 1 0]
     (n ≠ 0 → n % 4 = 0 → (s.rs a).toNat / 2 ^ 24 % 2 ^ 20 % 4 = 0 → s.jobFeet s.x reads [] = none → s.regionRoute b.sp (s.x.eaB b) = none →
       s.routeCheck (s.handle h) (s.myCore / 64) = none →
       ∃ t, Sys2Proof.Machine.exec (.rsend h d b a) s = .next t ∧ Queued s t 3 (.rsend h d b a) d reads []) ∧
     (n = 0 → ∃ t, Sys2Proof.Machine.exec (.rsend h d b a) s = .next t ∧ t.msgs = s.msgs ++ [.token s.me d 5 none] ∧ t.jobs = s.jobs)) ∧
    (let n := (s.rs a).toNat % 2 ^ 32
     let feet := if n = 0 then [] else [runFoot b.sp (s.x.eaB b) n 1 0]
     (s.collEntry k).isSome = true → s.jobFeet s.x feet feet = none → s.regionRoute b.sp (s.x.eaB b) = none →
     ∃ t, Sys2Proof.Machine.exec (.coll k d b a) s = .next t ∧ Queued s t 3 (.coll k d b a) d feet feet)

/-- R288: RECVADD of a well-formed descriptor on a free port, whose window and counter pass their checks, arms it, with its window and its counter, and answers 0; on a port
in use it answers 1, with a bad descriptor 5, and neither arms anything. R278, R285 and R290: RST and RATOM inject one operation over their handle where the access and the
route pass; RTLD delivers the route entry to its handle; LFENCE answers the count and the cause of the posted writes that failed, clears them, and
holds the next bundle. -/
def Obligations.FabricAndReceiveWordsComplete : Prop :=
  (
  ∀ (s : State) (fmt : RecvFmt) (cnt : Bool) (p : Fin 16) (d g : Sys2Proof.SNum) (b : MemB),
    let w := (s.rs g).toNat
    let bad : Prop := w % 2 ^ 20 = 0 ∨ w / 2 ^ 20 % 2 ^ 24 = 0 ∨ s.x.eaB b % 4 ≠ 0 ∨ (cnt = true ∧ w / 2 ^ 44 % 8 ≠ 0)
    (bad → ∃ t, Sys2Proof.Machine.exec (.recvadd fmt cnt p d b g) s = .next t ∧ Replied s t d 5 ∧ t.cores = s.cores ∧ t.jobs = s.jobs) ∧
    (¬bad → (s.port? s.myCore p.val).isSome = true →
      ∃ t, Sys2Proof.Machine.exec (.recvadd fmt cnt p d b g) s = .next t ∧ Replied s t d 1 ∧ t.cores = s.cores ∧ t.jobs = s.jobs) ∧
    (¬bad → s.port? s.myCore p.val = none → s.acquirePending s.me = false → s.jobFeet s.x [] [runFoot .pad (s.x.eaB b) (w % 2 ^ 20) 1 0] = none →
      (cnt = true → s.counterMode (w / 2 ^ 44) = false ∧
        ∃ e, s.checkAccess s.me s.x 0 0 .rmw .shift false false false .pad ((w / 2 ^ 44 : Nat) : Int) 8 = .ok e) →
      ∃ t j o, Sys2Proof.Machine.exec (.recvadd fmt cnt p d b g) s = .next t ∧ Replied s t d 0 ∧ t.jobs = s.jobs ++ [j] ∧ j.state = 2 ∧
        t.port? s.myCore p.val = some o ∧ o.armed = true ∧ o.job = j.id ∧ o.sh = s.me ∧ (o.window : Int) = max 0 (s.x.eaB b) ∧ o.wlen = w % 2 ^ 20 ∧
        o.elen = w / 2 ^ 20 % 2 ^ 24 ∧ o.cnt = w / 2 ^ 44 ∧ o.received = 0)) ∧
  (
  ∀ (s : State) (h : HNum) (d r : Sys2Proof.SNum) (sz : Size) (dw : Bool) (op : AtomOp) (m : MemX) (b : MemB), s.acquirePending s.me = false →
    (∀ a, s.x.eaX m % (bytes sz : Int) = 0 → s.fabCheck s.me s.x 0 0 .write (s.handle h) (s.x.eaX m) (bytes sz) = .ok a →
      s.sectorPending s.me (Home.fab a.pkg a.pa 0).sector = false → s.sectorPending s.me (Home.glob a.pa 0).sector = false →
      s.useWaits a.tlb (s.x.eaX m).toNat true = false →
      ∃ t o, Sys2Proof.Machine.exec (.rst sz r h m) s = .next t ∧ t.fab.ops = s.fab.ops ++ [o] ∧ o.sh = some s.me ∧ o.kind = 0 ∧
        o.act = .write a.pa (bytesOf (bytes sz) (s.rs r).toNat)) ∧
    (∀ a, s.x.eaB b % (if dw then 8 else 4) = 0 → s.fabCheck s.me s.x 0 0 .rmw (s.handle h) (s.x.eaB b) (if dw then 8 else 4) = .ok a →
      s.sectorPending s.me (Home.fab a.pkg a.pa 0).sector = false → s.sectorPending s.me (Home.glob a.pa 0).sector = false →
      s.useWaits a.tlb (s.x.eaB b).toNat true = false →
      ∃ t q, Sys2Proof.Machine.exec (.ratom op dw d b r h) s = .next t ∧ t.msgs = s.msgs ++ [.req q] ∧ q.sh = some s.me ∧ q.at_ = .fab a.pkg a.pa a.key ∧
        q.via = a.hops ∧ q.op = .atom op dw (s.rs r) ∧ q.acq = true ∧ q.rel = true ∧ q.dst = some d ∧ t.fab.ops = s.fab.ops) ∧
    (s.rtldCheck m = .go → ∃ t v, Sys2Proof.Machine.exec (.rtld h m) s = .next t ∧ t.msgs.getLast? = some (.arriveH s.me h v) ∧ v.v = true ∧
      v.gen = s.fab.tgen % 2 ^ 32 ∧ (s.waiter? s.me 0 = none → t.msgs = s.msgs ++ [.arriveH s.me h v])) ∧
    (s.fabricOut s.me = false → ∃ t, Sys2Proof.Machine.exec (.lfence d) s = .next t ∧
      Replied s t d (match s.x.pend.posted with | none => 0 | some (n, c) => BitVec.ofNat 64 (c * 2 ^ 16 + n * 2 ^ 8 + 6)) ∧
      ∀ x, s.cur.sh.bind s.sh? = some x → ∃ y, s.cur.sh.bind t.sh? = some y ∧ y.pend.posted = none ∧ y.pend.fence = 2))

/-- R358: ADPIN and ADUNPIN, once no earlier access of the shift is pending and the adapter table answers, land their status after one cycle, and an
ADPIN that pins also the address of the adapter. R234 to R237: VIEWB opens an explicit view at its scope, VIEWE closes it and returns its line count
and its code. R230: BABORT outside a bundle answers NOTOPEN (0x0E, Table 11.3), with NAME and VERSION 0, which the spec leaves open (the model's reading,
log 38); inside one it sends a discard to the home of each member, makes the anchor ABORTED where it still holds the version OPEN, here or by one
message to its package (log 71), closes the bundle and answers 0. -/
def Obligations.AdapterPinsViewsAndAbortsLandTheirStatus : Prop :=
  (
  ∀ (s : State) (chk : Bool) (d n : Sys2Proof.SNum) (aw : ANum) (t : State) (w : Word) (a : Option Addr), s.accessPending s.me = false →
    (s.pinAnswer (.adpin chk d aw n) (if chk then 1 else 0) ((s.rs n).toNat % 2 ^ 16) = .done t w a →
      Sys2Proof.Machine.exec (.adpin chk d aw n) s =
        .next (match a with | some v => (t.land 1 0 (.s d w)).land 1 0 (.a aw v) | none => t.land 1 0 (.s d w))) ∧
    (s.pinAnswer (.adunpin d n) 2 ((s.rs n).toNat % 2 ^ 16) = .done t w none →
      Sys2Proof.Machine.exec (.adunpin d n) s = .next (t.land 1 0 (.s d w)))) ∧
  (
  ∀ (s : State) (sc : Scope) (d : Sys2Proof.SNum),
    (s.x.view.v = false → ∃ t, Sys2Proof.Machine.exec (.viewb sc) s = .next t ∧ t = { s with shifts := t.shifts } ∧
      ∀ x, s.cur.sh.bind s.sh? = some x → ∃ y, s.cur.sh.bind t.sh? = some y ∧ y = { x with view := y.view } ∧ y.view.v = true ∧ y.view.scope = sc ∧
        y.view.lines = [] ∧ y.view.expired = false ∧ y.view.overflow = false) ∧
    (s.acquirePending s.me = false → ∃ t, Sys2Proof.Machine.exec (.viewe d) s = .next t ∧
      Replied s t d (if s.x.view.v then
        BitVec.ofNat 64 (s.x.view.lines.length % 2 ^ 32 * 2 ^ 32 + if s.x.view.expired then 0x0B else if s.x.view.overflow then 0x0C else 0) else 0x0E) ∧
      ∀ x, s.cur.sh.bind s.sh? = some x → ∃ y, s.cur.sh.bind t.sh? = some y ∧ y.view.v = false) ∧
    (s.acquirePending s.me = false → ∃ t, Sys2Proof.Machine.exec (.babort d) s = .next t ∧
      (s.x.bundle.v = false → Replied s t d 0x0E) ∧
      (s.x.bundle.v = true → let b := s.x.bundle
        let line := localLine b.manifest
        let d0 := s.manifest line
        t.msgs = s.msgs ++ (b.members.map fun m => Msg.discard m b.name b.version) ++ [.arrive s.me (some d) (bunStatus b.name b.version 0) 0 none] ∧
        (linePkg b.manifest = s.mg.idpkg → Safety.Memories s → manState d0 = 1 → manName d0 = b.name → manVersion d0 = b.version →
          manState (t.manifest line) = 4 ∧ manName (t.manifest line) = b.name ∧ manVersion (t.manifest line) = b.version) ∧
        (linePkg b.manifest = s.mg.idpkg → ¬(manState d0 = 1 ∧ manName d0 = b.name ∧ manVersion d0 = b.version) → t.glob = s.glob) ∧
        (linePkg b.manifest ≠ s.mg.idpkg → t.glob = s.glob ∧ ∃ o, t.fab.ops = s.fab.ops ++ [o] ∧ o.pkg = linePkg b.manifest ∧
          o.act = .bun (bunTo 3 b.manifest b.name b.version)) ∧
        ∀ x, s.cur.sh.bind s.sh? = some x → ∃ y, s.cur.sh.bind t.sh? = some y ∧ y.bundle.v = false)))

/-- R229: BSEAL outside a bundle answers 0x0E; inside one, at a scope wide enough and once its bundle stores and earlier accesses are performed, it closes
the bundle: one that overflowed with 0x0D and a discard to each member; one whose anchor in this package still holds its version OPEN with 0, a seal
to each member, and the anchor COMMITTED, or SETTLED where there is no member; else with 0x0A and a discard to each member. R228: BST in a bundle
sends its bytes once to the home of their line, with the name, version and anchor of the bundle and the index of the line among the members, of which
the line is one from then on; the sixteenth line makes the bundle overflow and sends nothing; outside a bundle BST takes HELD. R227: BOPEN of an
aligned anchor in this package, of which no other waits and which is not COMMITTED under its name, answers BADNAME (0x0F), BUSY (1) or BQUOTA (9) with
no bundle open, or opens the next version: the shift holds an empty bundle, and the anchor, where writes reach it, is OPEN under its name and version.
What goes to anchors and members of other packages is the model's choice (log 71); so are NAME and VERSION 0 of a BSEAL outside a bundle, and the NAME
and VERSION of the manifest in the status of a BOPEN that is refused (log 38). -/
def Obligations.BundleWordsComplete : Prop :=
  (
  ∀ (s : State) (sc : Scope) (d : Sys2Proof.SNum),
    let b := s.x.bundle
    let line := localLine b.manifest
    let opened := manState (s.manifest line) = 1 ∧ manName (s.manifest line) = b.name ∧ manVersion (s.manifest line) = b.version
    let discards := b.members.map fun m => Msg.discard m b.name b.version
    let closed (t : State) (ms : List Msg) (code : Nat) : Prop :=
      t.msgs = s.msgs ++ ms ++ [.arrive s.me (some d) (bunStatus b.name b.version code) 0 none] ∧ Changes s t fun x y => y.bundle.v = false ∧ y.regs = x.regs
    (b.v = false → Sys2Proof.Machine.exec (.bseal sc d) s = .next (s.reply d (bunStatus 0 0 0x0E))) ∧
    (b.v = true → s.farAnchor = none → s.sealScope s.x ≤ scRank sc → s.bstPending s.me = false → s.accessPending s.me = false →
      s.x.localDue s.x.tim.seq = false →
      (b.full = true → ∃ t, Sys2Proof.Machine.exec (.bseal sc d) s = .next t ∧ closed t discards 0x0D) ∧
      (b.full = false → linePkg b.manifest = s.mg.idpkg →
        (opened → Safety.Memories s → ∃ t, Sys2Proof.Machine.exec (.bseal sc d) s = .next t ∧
          closed t (b.members.map fun m => .seal m b.name b.version b.members.length b.manifest) 0 ∧
          manState (t.manifest line) = if b.members = [] then 3 else 2) ∧
        (¬opened → ∃ t, Sys2Proof.Machine.exec (.bseal sc d) s = .next t ∧ closed t discards 0x0A ∧ t.glob = s.glob)))) ∧
  (
  ∀ (s : State) (sz : Size) (r : Sys2Proof.SNum) (m : MemX),
    let b := s.x.bundle
    let ea := s.x.eaX m
    let h := (s.resolve .rel m.sp 0 ea).1
    let fl := s.lineNum h
    ea % (bytes sz : Int) = 0 →
    (b.v = true → b.members.length ≤ 15 → (∃ e, s.checkAccess s.me s.x 0 0 .rel .sys false false true m.sp ea (bytes sz) = .ok e) →
      (fl ∈ b.members ∨ b.members.length < 15 → ∃ t q a, Sys2Proof.Machine.exec (.bst sz r m) s = .next t ∧ t.msgs.getLast? = some (.req q) ∧
        ((∀ e, s.checkAccess s.me s.x 0 0 .rel .sys false false true m.sp ea (bytes sz) = .ok e → s.accessWaits e ea true = false) →
          t.msgs = s.msgs ++ [.req q]) ∧
        q.sh = some s.me ∧ q.at_ = h ∧ q.dst = none ∧ q.op = .bst a ∧ a.kind = 1 ∧ a.name = b.name ∧ a.version = b.version ∧ a.anchor = b.manifest ∧
        a.data = bytesOf (bytes sz) (s.rs r).toNat ∧ (∀ pa key, h = .glob pa key → a.off = pa % 128) ∧ SameMemory .glob s t ∧
        Changes s t fun x y => y.regs = x.regs ∧ y.bundle.members[a.index]? = some fl) ∧
      (fl ∉ b.members → b.members.length = 15 → ∃ t, Sys2Proof.Machine.exec (.bst sz r m) s = .next t ∧ (∀ q, Msg.req q ∈ t.msgs → Msg.req q ∈ s.msgs) ∧
        Changes s t fun x y => y.regs = x.regs ∧ y.bundle = { x.bundle with full := true })) ∧
    (b.v = false → s.cur.checked = false →
      Sys2Proof.Machine.exec (.bst sz r m) s = Trapped s { code := 0x0B, cause := 6, faddr := BitVec.ofInt 72 ea })) ∧
  (
  ∀ (s : State) (d r : Sys2Proof.SNum) (b : MemB) (pa key : Nat),
    let ea := s.x.eaB b
    let u := (s.resolve .rmw b.sp 0 ea).2
    let m := number (u.homeRead (.glob pa key) 8).1
    let name := (s.rs r).toNat % 2 ^ 20
    let version := (manVersion m + 1) % 4096
    let refused := if manState m ≠ 0 ∧ manName m ≠ name then some 0x0F else if manState m = 1 then some 1
      else if 256 ≤ s.openCount s.x.place.ctx then some 9 else none
    s.farAnchor = none → ea % 128 = 0 → s.x.bundle.v = false →
    (∃ e, s.checkAccess s.me s.x 0 0 .rmw .sys false false true b.sp ea 128 = .ok e ∧ s.accessWaits e ea true = false) →
    s.accessPending s.me = false → s.x.localDue s.x.tim.seq = false → (s.resolve .rmw b.sp 0 ea).1 = .glob pa key →
    (∀ w ∈ s.waiters, w.why ≠ .anchor (s.lineNum (.glob pa key))) → openWaits (number (s.homeRead (.glob pa key) 8).1) name = false →
    (u.homeRead (.glob pa key) 8).2.1 = false →
    ∃ t, Sys2Proof.Machine.exec (.bopen d b r) s = .next t ∧
      (∀ c, refused = some c → Replied s t d (bunStatus (manName m) (manVersion m) c) ∧ Changes s t fun _ y => y.bundle.v = false) ∧
      (refused = none → Replied s t d (bunStatus name version 0) ∧
        (Changes s t fun _ y => y.bundle.v = true ∧ y.bundle.name = name ∧ y.bundle.version = version ∧
          y.bundle.manifest = s.lineNum (.glob pa key) ∧ y.bundle.members = [] ∧ y.bundle.full = false) ∧
        (Safety.Memories s → pa % 128 = 0 → u.retiredAt pa = false → u.windowShut pa = false → u.keyLive key = true →
          manState (t.manifest (pa / 128)) = 1 ∧ manName (t.manifest (pa / 128)) = name ∧ manVersion (t.manifest (pa / 128)) = version)))

/-- R150, R152 and R155: a queued matrix word of a shift that holds its matrix unit, which has not halted, enters the queue where there is room, with
its operand registers latched and its target cycle, and counts on the open group of its barrier; no register of the shift changes; an MMA, ALD or CST enters
once no acquire and no request to its PAD bytes is on its way (R187, R189). R155 to R157 and R153: MBWAIT lands the barrier's status and its flags once the barrier is not armed and no MBARM of it is queued, SETSB sets SB to a cycle or to DCC
plus an offset; without the matrix unit both take the foreign-resource fault (R20). -/
def Obligations.MatrixWordsEnterTheirQueueOrComplete : Prop :=
  (
  ∀ (s : State) (i : Instr) (stamp : BitVec 20) (a b c : Word) (aa : Addr) (x : Shift), s.cur.sh.bind s.sh? = some x →
    (match i with
      | .tcfg _ _ _ st | .mopa _ _ _ _ _ st | .wbsel _ _ st | .cclr _ _ st | .mbarm _ st => st = stamp ∧ a = 0 ∧ b = 0 ∧ c = 0 ∧ aa = 0
      | .mma _ _ _ p q r st | .mmaz _ _ _ p q r st => st = stamp ∧ a = s.rs p ∧ b = s.rs q ∧ c = s.rs r ∧ aa = 0
      | .ald _ _ p st | .crd _ _ _ p st | .cwr _ _ _ p st | .cst _ _ _ p st => st = stamp ∧ a = s.rs p ∧ b = 0 ∧ c = 0 ∧ aa = 0
      | .wbld _ _ p q st => st = stamp ∧ a = s.rs q ∧ b = 0 ∧ c = 0 ∧ aa = s.ra p
      | _ => False) →
    x.place.mx = true → x.mxHalted = false → x.mx.queue.length < 16 → s.padBusy x.tim.seq (padBytesOf i a c) = false →
    ∃ t y o, Sys2Proof.Machine.exec i s = .next t ∧ s.cur.sh.bind t.sh? = some y ∧ t = { s with shifts := t.shifts } ∧
      y.mx.queue = x.mx.queue ++ [o] ∧ o.instr = i ∧ o.sa = a ∧ o.sb = b ∧ o.sc = c ∧ o.aa = aa ∧ o.entry = s.dcc + 1 ∧ o.stat = x.sp.stat ∧
      o.target = (if stamp = 0xFFFFF then none else some ((x.sp.sb.toNat + stamp.toNat) % 2 ^ 64)) ∧ y.regs = x.regs ∧ y.sp = x.sp ∧
      ∀ mb, mbOf i = some mb → y.mx.bars[mb].opn.count = x.mx.bars[mb].opn.count + 1) ∧
  (
  ∀ (s : State) (d a : Sys2Proof.SNum) (mb : BNum) (abs : Bool),
    (s.x.place.mx = true → s.x.mx.bars[mb].armed = false → (∀ o ∈ s.x.mx.queue, ∀ st, o.instr ≠ .mbarm mb st) →
      Sys2Proof.Machine.exec (.mbwait d mb) s = .next (s.land 1 s.x.mx.bars[mb].lastFlags (.s d s.x.mx.bars[mb].status))) ∧
    (s.x.place.mx = true → Sys2Proof.Machine.exec (.setsb abs a) s =
      .next (s.land 1 0 (.special .sb (if abs then s.rs a else BitVec.ofNat 64 (s.dcc + (s.rs a).toNat))))) ∧
    (s.x.place.mx = false → s.cur.checked = false → Sys2Proof.Machine.exec (.mbwait d mb) s = Trapped s { code := 0x0A } ∧
      Sys2Proof.Machine.exec (.setsb abs a) s = Trapped s { code := 0x0A }))

/-- R313 to R315 and R57: a tenant word whose image is READY starts its routine on the free lane sequencer (V), enters the matrix queue (M), or queues a job of its engine (X), with the
registers that it names interlocked; an unbound opcode takes fault 0x03. -/
def Obligations.TenantWordsStartTheirRoutine : Prop :=
  ∀ (s : State) (b : Binding) (ws : NMap (BitVec 128)) (x : Shift), s.cur.sh.bind s.sh? = some x →
    (∀ opc vt vd va vb, s.tenantWords x s.myCore (.tenantV opc vt vd va vb) = some (b, some ws) → x.lane.v = false →
      ∃ t y, Sys2Proof.Machine.exec (.tenantV opc vt vd va vb) s = .next t ∧ t = { s with shifts := t.shifts } ∧ s.cur.sh.bind t.sh? = some y ∧
        y.lane.instr = .tenantV opc vt vd va vb ∧ y.lane.mpc = b.entry ∧ y.regs = x.regs ∧
        y.awaits (.v vd) = true ∧ y.awaits (.v va) = true ∧ y.awaits (.v vb) = true) ∧
    (∀ opc ct mb fa fb fc mmod st, s.tenantWords x s.myCore (.tenantM opc ct mb fa fb fc mmod st) = some (b, some ws) → x.place.mx = true → x.mxHalted = false →
      x.mx.queue.length < 16 →
      ∃ t y o, Sys2Proof.Machine.exec (.tenantM opc ct mb fa fb fc mmod st) s = .next t ∧ s.cur.sh.bind t.sh? = some y ∧ y.mx.queue = x.mx.queue ++ [o] ∧
        o.instr = .tenantM opc ct mb fa fb fc mmod st ∧ o.regs = [s.rv fa, s.rv fb, s.rv fc] ∧ y.regs = x.regs ∧
        y.awaits (.v fa) = true ∧ y.awaits (.v fb) = true ∧ y.awaits (.v fc) = true) ∧
    (∀ opc xm sd sc m, s.tenantWords x s.myCore (.tenantX opc xm sd sc m) = some (b, some ws) → s.acquirePending s.me = false →
      s.engineFull (if b.rclass = 3 then 2 else 1) = false →
      ∃ t y j, Sys2Proof.Machine.exec (.tenantX opc xm sd sc m) s = .next t ∧ s.cur.sh.bind t.sh? = some y ∧ t.jobs = s.jobs ++ [j] ∧
        j.instr = .tenantX opc xm sd sc m ∧ j.eng = (if b.rclass = 3 then 2 else 1) ∧ j.tok = sd ∧ j.unit.v = false ∧ y.regs = x.regs ∧ y.awaits (.a m.xa) = true) ∧
    ∀ opc vt vd va vb, s.tenantWords x s.myCore (.tenantV opc vt vd va vb) = none → s.cur.checked = false →
      Sys2Proof.Machine.exec (.tenantV opc vt vd va vb) s = Trapped s { code := 0x03 }
namespace Sys2Proof.Claims
open Sys2Proof.Machine

/-! ## Control and progress -/

/-- R260: a target that the bundle may transfer to. -/
def InProgram (s : State) (t : Int) : Prop := t % 8 = 0 ∧ (s.x.img.start : Int) ≤ t ∧ t + 8 ≤ (s.x.img.lim : Int)

/-- A transfer taken to a target. -/
def To (s : State) (t : Int) : State := { s with cur := { s.cur with taken := some t.toNat } }

/-- R260: the target of BR, BRI and JMP. -/
def target (s : State) : Instr → Option Int
  | .br imm => some (s.cur.at_ + imm.toInt)
  | .bri sx imm => some (s.cur.at_ + imm.toInt + 8 * sg s sx)
  | .jmp sa imm => some (un s sa + imm.toInt)
  | _ => none

/-- The state with a shift in its place. -/
def Placed (s : State) (i : Nat) (x : Shift) : State := { s with shifts := NMap.set s.shifts i x }

/-- The shifts that a SIGEV reaches (R266): those of the issuer's context on the cores of its crew that the register names. -/
def reached (s : State) (w : Word) : List Nat :=
  ((s.shifts.filter fun p => decide (p.1 / 64 = s.myCore / 8 ∧ p.1 % 8 < 4 ∧ p.2.place.ctx = s.x.place.ctx ∧
    (w.getLsbD 3 = true ∨ p.1 / 8 % 8 = w.toNat % 8)))).map (·.1)

end Sys2Proof.Claims

/-- R260: BR, BRI and JMP whose target lies in the program take it, and change nothing else; a target that is no multiple of 8 or lies outside the
program takes the run-off fault at the bundle. R261, R262 and R39: CALL and CALLI land a31 less 16 and write the return address with a zero dword
above it; RET reads its target where no pending write of the shift overlaps it, and lands a31 plus 16; LOOP lands its count less one and transfers
unless that is 0. A misaligned stack pointer, or one outside the stack, takes the stack fault. That CALL checks the stack before its target, and that RET
waits for pending writes of its return address, are the model's reading (log 32). -/
def Obligations.ControlTransfersGoToTheirTarget : Prop :=
  (
  ∀ (i : Instr) (s : State) (t : Int), target s i = some t →
    (InProgram s t → Sys2Proof.Machine.exec i s = .next (To s t)) ∧
    (¬InProgram s t → s.cur.checked = false → Sys2Proof.Machine.exec i s = Trapped s { code := 0x04 })) ∧
  (
  ∀ (s : State) (r : Sys2Proof.SNum) (imm : BitVec 32), let p := (s.ra 31).toNat
    (∀ (i : Instr) (t : Int), i = .call imm ∧ t = s.cur.at_ + imm.toInt ∨ i = .calli r imm ∧ t = un s r + imm.toInt →
      (p % 16 = 0 → s.x.sp.stkb.toNat + 16 ≤ p → PadFree s .write (p - 16) 16 → s.sectorPending s.me (localSector s.myCore .pad 0 ((p - 16 : Nat) : Int)) = false → InProgram s t →
        Sys2Proof.Machine.exec i s = .next (To ((s.land 1 0 (.a 31 (BitVec.ofNat 72 (p - 16)))).land 6 0
          (.pad (p - 16) (bytesOf 8 s.cur.npc ++ List.replicate 8 0))) t)) ∧
      (p % 16 ≠ 0 ∨ p < s.x.sp.stkb.toNat + 16 → s.cur.checked = false → Sys2Proof.Machine.exec i s = Trapped s { code := 0x06 })) ∧
    (let t := number (padBytes s p 8)
     p % 16 = 0 → p + 16 ≤ s.x.sp.stkl.toNat → PadFree s .read p 8 → s.sectorPending s.me (localSector s.myCore .pad 0 (p : Int)) = false →
      (∀ l ∈ s.x.landings, ∀ e ∈ padWrites l.dst, p + 8 ≤ e.1 ∨ e.1 + e.2.length ≤ p) → InProgram s t →
      Sys2Proof.Machine.exec .ret s = .next (To (s.land 1 0 (.a 31 (BitVec.ofNat 72 (p + 16)))) t)) ∧
    (p % 16 ≠ 0 ∨ s.x.sp.stkl.toNat < p + 16 → s.cur.checked = false → Sys2Proof.Machine.exec .ret s = Trapped s { code := 0x06 }) ∧
    (InProgram s (s.cur.at_ + imm.toInt) → Sys2Proof.Machine.exec (.loop r imm) s = .next
      (let t := s.land 1 0 (.s r (s.rs r - 1))
       if s.rs r = 1 then t else To t (s.cur.at_ + imm.toInt))))

/-- R263, R264 and R268: HALT of a shift of a node that has not failed, with nothing held and everything drained, ends the shift; SAFEPT and YIELD with nothing held and
nothing in flight set SPC to 0 at their safe point, and with results of their own bundle in flight wait for them, SPC counting on (R256); CONT completes once the tenant routines and continuations are done; a HALT, SAFEPT or YIELD with a slot, a bundle or a view held takes HELD. -/
def Obligations.ProgressWordsCompleteWhereNothingIsHeld : Prop :=
  ∀ (s : State) (idx : BitVec 32) (yields : Bool),
    let point := if yields then Instr.yield idx else Instr.safept idx
    let held := (∃ q ∈ s.x.rings.toList, q.hc = true ∨ q.hw = true) ∨ s.x.bundle.v = true ∨ s.x.view.v = true
    let units := s.x.conts = [] ∧ s.x.lane.v = false ∧ s.x.tim.laneBusy = 0
    (¬held → s.x.place.serves = none → units → s.x.mx.queue = [] → s.x.mx.active = [] → (∀ j ∈ s.jobs, j.sh ≠ s.me) →
      (∀ n, s.node? s.x.place.table s.x.place.node = some n → n.state ≠ 5) → (s.cur.sh.bind s.sh?).isSome = true →
      ∃ t, Sys2Proof.Machine.exec .halt s = .next t ∧ t.shifts = NMap.del s.shifts s.me ∧ t.jobs = s.jobs ∧ t.glob = s.glob ∧ t.host = s.host ∧ t.cur = s.cur) ∧
    (¬held → s.x.landings = [] → ∃ t, Sys2Proof.Machine.exec point s = .next t ∧ t = { s with shifts := t.shifts } ∧ Changes s t fun x y =>
        y = { x with tim := { x.tim with spc := 0, safe := some idx.toNat, yields := yields, safeWait := none } }) ∧
    (¬held → s.x.landings ≠ [] → s.cur.checked = true → ∃ t, Sys2Proof.Machine.exec point s = .next t ∧ t = { s with shifts := t.shifts } ∧ Changes s t fun x y =>
        y = { x with tim := { x.tim with safeWait := some (idx.toNat, yields) } }) ∧
    (held → s.cur.checked = false → Sys2Proof.Machine.exec .halt s = Trapped s { code := 0x0B, cause := 6 } ∧
      Sys2Proof.Machine.exec point s = Trapped s { code := 0x0B, cause := 6 }) ∧
    (units → (∀ o ∈ s.x.mx.queue ++ s.x.mx.active, ∀ a b c d e f g h, o.instr ≠ .tenantM a b c d e f g h) →
      (∀ j ∈ s.jobs, j.sh = s.me → ∀ a b c d e, j.instr ≠ .tenantX a b c d e) → Sys2Proof.Machine.exec .cont s = .next s)

/-- R265 to R267: WAITEV that finds an event of its mask lands the bits and clears them, and after its timeout lands 0; SIGEV posts its event to each shift that its register names
and answers their number; an event whose issuer's accesses are performed sets its bit; a wait with a timeout that has passed is marked so. -/
def Obligations.EventsReachTheirLatch : Prop :=
  ∀ (s : State) (d r : Sys2Proof.SNum) (mask : BitVec 16) (e : BitVec 4) (k i seq src : Nat) (bits : BitVec 16) (x : Shift),
    (mask ≠ 0 → s.x.evl &&& mask ≠ 0 ∨ s.x.tim.timedOut = true → ∃ t, Sys2Proof.Machine.exec (.waitev d r mask) s = .next t ∧ t = { s with shifts := t.shifts } ∧
      Changes s t fun x y => y.evl = x.evl &&& ~~~mask ∧ y.regs = x.regs ∧
        ∃ l, y.landings = x.landings ++ [l] ∧ l.left = 1 ∧ l.flags = 0 ∧ l.dst = .s d (BitVec.ofNat 64 (x.evl &&& mask).toNat)) ∧
    (mask = 0 → s.cur.checked = false → Sys2Proof.Machine.exec (.waitev d r mask) s = Trapped s { code := 0x01 }) ∧
    (∃ t, Sys2Proof.Machine.exec (.sigev d r e) s = .next t ∧ Awaiting s t (some d) ∧ SameMemory .glob s t ∧
      t.msgs = s.msgs ++ (reached s (s.rs r)).map (fun i => .event s.me s.x.tim.seq i (1 <<< e.toNat)) ++
        [.arrive s.me (some d) (BitVec.ofNat 64 (if (reached s (s.rs r)).length = 0 then 0x10 else (reached s (s.rs r)).length * 2 ^ 32)) 0 none]) ∧
    (s.msgs[k]? = some (.event src seq i bits) → s.performedUpTo src seq = true → s.sh? i = some x →
      ∃ t y, Sys2Proof.Machine.exec (.eventLatchSet k) s = .next t ∧ t.msgs = s.msgs.take k ++ s.msgs.drop (k + 1) ∧ t.sh? i = some y ∧ y.evl = x.evl ||| bits ∧ y.regs = x.regs) ∧
    (s.sh? i = some x → x.tim.waitFrom = some seq → seq ≠ 0 → seq ≤ s.dcc →
      ∃ t y, Sys2Proof.Machine.exec (.waitevTimeout i) s = .next t ∧ t.sh? i = some y ∧ y = { x with tim := { x.tim with timedOut := true } })

/-- R269 and R366: TRAP leaves a program trap to the next boundary; BRK takes the breakpoint at its bundle; where no line of its frame waits (R222, R347),
a boundary delivers the first fault that is pending and keeps the others, the overrun of a safe point returns the count to 0, and a register whose
result failed delivers its fault at the bundle that meets it; where one waits, the boundary waits. That a trap waits for its frame is the model's
reading (log 50). -/
def Obligations.TrapsAreDeliveredAtABoundary : Prop :=
  ∀ (s : State) (n : BitVec 16) (i : Nat) (x : Shift) (f : FaultInfo) (rest : List FaultInfo) (r : Sys2Proof.SNum) (d : Delayed),
    (∃ t, Sys2Proof.Machine.exec (.trap n) s = .next t ∧ t = { s with shifts := t.shifts } ∧
      Changes s t fun x y => y = { x with pend := { x.pend with trap := some n.toNat } }) ∧
    (s.cur.checked = false → Sys2Proof.Machine.exec (.brk n) s = Trapped s { code := 0x12, num := n.toNat }) ∧
    (∀ t, s.trapWait i = some t →
      (s.sh? i = some x → s.pendingFaults i x = f :: rest → Sys2Proof.Machine.exec (.trapDelivery i f) s = .next t) ∧
      (s.sh? i = some x → x.img.spbound ≤ x.tim.spc → Sys2Proof.Machine.exec (.safePointOverrun i) s = .next t)) ∧
    (s.sh? i = some x → s.trapWait i = none →
      (s.pendingFaults i x = f :: rest → Sys2Proof.Machine.exec (.trapDelivery i f) s = .next
        ((Placed s i { x with pend := { x.pend with faults := rest, trap := if f.code = 0x11 then none else x.pend.trap } }).takeTrap i f)) ∧
      (x.img.spbound ≤ x.tim.spc → Sys2Proof.Machine.exec (.safePointOverrun i) s = .next
        ((Placed s i { x with pend := { x.pend with faults := [] }, tim := { x.tim with spc := 0 } }).takeTrap i { code := 0x0F })) ∧
      (x.pend.delayed.find? (fun e => e.reg == r) = some d → Sys2Proof.Machine.exec (.delayedFaultDelivery i r) s = .next
        ((Placed s i { x with pend := { x.pend with delayed := x.pend.delayed.filter fun e => e.reg != r } }).takeTrap i
          { d.info with word := s.cur.word })))

/-- R366 to R370: taking a fault of a shift whose context has a handler writes the frame, which the header of the handler is read after, and starts the handler that R368 gives in the
place beside it, with the code in s1 and the frame's address in a1; the shift stops with its registers as they are. Without a handler it is a system fault. R374 and R375: `tret.end` ends
the handler's shift with 0x0F; `tret.resume`, once the accesses of its handler are performed and every line of its frame is here, of a frame that fails a
check answers the offset of its first bad dword and BADFRAME (0x20), and of a good frame ends the handler and, where no unit of the shift is at work,
gives its shift back the registers of the frame. That the first bad dword is the one of the lowest offset is the model's reading (log 20). -/
def Obligations.TrapsEnterAndLeaveTheirHandler : Prop :=
  ∀ (s : State) (i : Nat) (x : Shift) (f : FaultInfo) (d : Sys2Proof.SNum), s.sh? i = some x →
    (let c := s.ctx x.place.ctx
     let frame : Addr := BitVec.ofNat 72 (c.tvfrm.toNat / 2 ^ 16 % 2 ^ 48 * 2 ^ 16 + c.tvctl.toNat / 2 ^ 8 % 2 ^ 8 * 2 ^ 64)
     let p := s.pendShown i x
     let bytes := frameBytes x f (s.jobs.filter fun j => j.sh == i && decide (j.state < 4)) s.dcc p.1 p.2 s.dcc s.free
     (4 ≤ i % 8 ∨ c.tvctl.getLsbD 63 = false → s.takeTrap i f = s.systemFault i f) ∧
     ∀ s' h, i % 8 < 4 → c.tvctl.getLsbD 63 = true → s.framePut i x frame.toNat bytes = .ok s' → s'.handlerFor i x f.code frame = some h →
       (s.takeTrap i f).glob = (s'.sawHeader x.place.ctx h.img.base).glob ∧
       (∃ y, (s.takeTrap i f).sh? i = some y ∧ y.regs = x.regs ∧ y.sp = x.sp ∧ y.tim.stopped = some s.dcc) ∧
       (s.takeTrap i f).sh? (i + 4) = some h ∧ h.rs 1 = BitVec.ofNat 64 f.code ∧ h.ra 1 = frame ∧ h.place.serves = some i) ∧
    (s.cur.sh = some i → x.place.serves ≠ none → (∀ j ∈ s.jobs, j.sh ≠ i) →
      Sys2Proof.Machine.exec (.tret true d) s = .next (s.endShift i 0x0F) ∧
      ∀ y bs, s.sh? (baseOf i) = some y → s.accessPending i = false → s.frameRead i y x.place.frame.toNat = .ok bs →
        (∀ off, badFrame y bs (s.unitsShown (baseOf i) y) = some off →
          Sys2Proof.Machine.exec (.tret false d) s = .next ((s.dropWaiter i frameWait).land 1 0 (.s d (BitVec.ofNat 64 (off * 2 ^ 32 + 0x20))))) ∧
        (badFrame y bs (s.unitsShown (baseOf i) y) = none → ∃ t, Sys2Proof.Machine.exec (.tret false d) s = .next t ∧
          (4 ≤ i % 8 → y.lane.v = false → (∀ j ∈ s.jobs, j.sh ≠ baseOf i) → ∃ z, NMap.get? t.shifts (baseOf i) = some z ∧
            z.regs = (y.fromFrame bs y.tim.shownS.toNat y.tim.shownV.toNat).regs)))
namespace Sys2Proof.Claims
open Sys2Proof.Machine

/-! ## Micro-routines -/

/-- Lane i of a source of a step, as a number. -/
def src (s : State) (imm : BitVec 12) (a : Sel) (i : Nat) : Nat := el (s.sel imm a) 32 i 0

/-- A source of a step of an engine: its 72-bit value as an unsigned number, and as a signed one. -/
def wide (s : State) (imm : BitVec 12) (a : Sel) : Nat := (s.sel imm a).toNat % 2 ^ 72

/-- The sum of lanes below n of a source, modulo 2^32. -/
def total (s : State) (a : Sel) (n : Nat) : Nat := ((List.range n).map (src s s.cur.imm a)).sum % 2 ^ 32

/-- The highest active lane that goes to lane k, 0 where none does. -/
def packed (s : State) (goes : Nat → Nat → Prop) [∀ i k, Decidable (goes i k)] (k : Nat) : Nat :=
  (((List.range s.before.vl).filter fun i => decide (goes i k)).getLast?).getD 0

/-- Table 16.5: the destination, the number of lanes and the value of each lane of a lane operation of its own. -/
def laneStep (s : State) : Instr → Option (Sel × Nat × (Nat → Nat))
  | .microMov d a imm => some (d, s.before.vl, src s imm a)
  | .lidx d => some (d, s.before.vl, fun i => i)
  | .pnz d a => some (d, s.before.vl, fun i => if src s s.cur.imm a i = 0 then 0 else 1)
  | .pscan d a => some (d, s.before.vl, fun i => total s a i)
  | .pcomp d a b => some (d, 64, packed s fun i k => src s s.cur.imm a i = 1 ∧ src s s.cur.imm b i = k)
  | .pcompf d a b => some (d, 64, packed s fun i k => src s s.cur.imm a i = 0 ∧ src s s.cur.imm b i + k = i)
  | .ptot d a => some (d, s.before.vl, fun _ => total s a s.before.vl)
  | .pclamp d a imm => some (d, s.before.vl, fun i => min (src s imm a i) imm.toNat)
  | .pcnt d a imm => some (d, s.before.vl, fun i => if src s imm a i = imm.toNat then 1 else 0)
  | _ => none

/-- Table 16.5: the destination and the exact result of an engine operation on 72-bit values. -/
def engineStep (s : State) : Instr → Option (Sel × Int)
  | .microEngineAlu fop d a b imm =>
    let x := wide s imm a
    let y := wide s imm b
    match fop.toNat with
    | 0x01 => some (d, x + y) | 0x02 => some (d, x - y) | 0x03 => some (d, x * y)
    | 0x07 => some (d, min (signed 72 x) (signed 72 y)) | 0x08 => some (d, max (signed 72 x) (signed 72 y))
    | 0x0B => some (d, (x &&& y : Nat)) | 0x0C => some (d, (x ||| y : Nat)) | 0x0D => some (d, (x ^^^ y : Nat))
    | 0x0E => some (d, x * 2 ^ (y % 128)) | 0x0F => some (d, x / 2 ^ (y % 128)) | 0x10 => some (d, signed 72 x / 2 ^ (y % 128))
    | _ => none
  | .zxf d a imm => some (d, wide s imm a % 2 ^ imm.toNat)
  | .tok d a imm => some (d, (wide s imm a % 2 ^ 32 * 2 ^ 32 + imm.toNat % 2 ^ 8 : Nat))
  | _ => none

/-- The unit that steps is the lane sequencer of a resident shift. -/
def OnLane (s : State) (x : Shift) : Prop := s.cur.unit = 1 ∧ s.cur.sh.bind s.sh? = some x

/-- The unit that steps is the engine of a job. -/
def OnEngine (s : State) (j : Job) : Prop := s.cur.unit ≠ 1 ∧ ∃ k, s.cur.job = some k ∧ s.job? k = some j

/-- The unit that steps stands somewhere. -/
def Stands (s : State) : Prop := (∃ x, OnLane s x) ∨ ∃ j, OnEngine s j

/-- t is s but for the record of the unit that steps, which is u; no register of its shift changes. -/
def Becomes (s t : State) (u : MicroUnit) : Prop :=
  t.unit = u ∧ t = { s with shifts := t.shifts, jobs := t.jobs } ∧
    ∀ x, s.cur.sh.bind s.sh? = some x → ∃ y, s.cur.sh.bind t.sh? = some y ∧ y = { x with lane := y.lane }

/-- Keys rise: the rows of tiles in their canonical form. -/
def RowsRise (x : Shift) : Prop := x.mx.tiles.Pairwise fun p q => p.1 < q.1

/-- Lane i of a temporary before the step. -/
def temp (s : State) (k : Fin 16) (i : Nat) : Nat := el s.before.m[k] 32 i 0

/-- The access of n bytes at the address in a temporary of an engine. -/
def unitAcc (s : State) (write : Bool) (sp : Space) (k : Fin 16) (n : Nat) (data : List Byte) : MAcc :=
  { write := write, sp := sp, ea := ((s.before.m[k].toNat % 2 ^ 72 : Nat) : Int), n := n, data := data, lane := none, via := none }

end Sys2Proof.Claims

/-- R306 and Table 16.5: the operations of the lane sequencer and of the engines write their value to their destination; an operation with the number
of a vector instruction acts as that instruction; a temporary of the lane sequencer takes the lanes written and keeps the others, one of an engine the
value modulo 2^72. PCOMP keeps the higher of two lanes that go to one place: the model's reading (log 47). R331: DIVPRE of finite operands a = ±2^ea × fa
and b = 2^eb × fb with fa and fb in [1, 2) leaves m1 = fa × 2^23 where fa ≥ fb and fa × 2^24 else, m2 = fb × 2^24 and m3 = 0, and in m0 the sign and e;
the places of the sign (bit 31), of the special mark (bit 30, set where an operand is not finite) and of e (bits 9 to 0, with 512 added) are the model's
layout (log 21). DIVQ keeps 32 (m3 m2 + m1) = m3' m2 + m1' with m1' < m2, in every active lane whose values have room; DIVFIN rounds the quotient (m3 m2 + m1)
/ m2 times 2^(e - 29) once. -/
def Obligations.MicroOperationsAndDivisionStepsComplete : Prop :=
  (
  (∀ (s : State) (i : Instr) (d : Sel) (n : Nat) (f : Nat → Nat), laneStep s i = some (d, n, f) → s.before.vl ≤ 64 → s.onLane = true →
    ∃ v : VReg, Sys2Proof.Machine.exec i s = .next (s.putSel d v n) ∧ ∀ k, k < n → el v 32 k 0 = f k) ∧
  (∀ (s : State) (i : Instr) (d : Sel) (r : Int), engineStep s i = some (d, r) →
    Sys2Proof.Machine.exec i s = .next (s.putSel d (BitVec.ofNat 2048 (r % 2 ^ 72).toNat) 1)) ∧
  (∀ (s : State) (d a : Sel) (imm : BitVec 12), Sys2Proof.Machine.exec (.microMov d a imm) s = .next (s.putSel d (s.sel imm a) s.before.vl)) ∧
  (∀ (s : State) (fop : BitVec 8) (ft : BitVec 2) (d a b : Sel) (imm : BitVec 12) (i : Instr), vectorOp fop ft d a b imm = some i →
    let r := vectorResult i s.before.stat (s.sel imm a) (s.sel imm b) (s.sel imm d) s.x s.before.vl
    Sys2Proof.Machine.exec (.microVectorFop fop ft d a b imm) s = .next (((s.modX fun _ => r.1.2.2).putSel d r.1.1 r.2).raise r.1.2.1)) ∧
  ∀ (s : State) (k : Fin 16) (v : VReg) (n : Nat), Stands s → ∃ u, Becomes s (s.putSel (.m k) v n) u ∧
    (∀ l, l ≠ k → u.m[l] = s.unit.m[l]) ∧
    (s.onLane = true → ∀ j, j < 64 → el u.m[k] 32 j 0 = if j < n then el v 32 j 0 else el s.unit.m[k] 32 j 0) ∧
    (s.onLane = false → u.m[k].toNat = v.toNat % 2 ^ 72)) ∧
  (
  (∀ (s : State) (x : Shift) (a b : Sel), OnLane s x → ∃ t u, Sys2Proof.Machine.exec (.divpre (.m 0) a b) s = .next t ∧ s.cur.sh.bind t.sh? = some u ∧
    ∀ i, i < 64 → i < s.before.vl →
      let m (k : Fin 16) : Nat := el u.lane.m[k] 32 i 0
      let va := decodeFtz (ftzOf s.before.stat) .f32 (src s s.cur.imm a i)
      let vb := decodeFtz (ftzOf s.before.stat) .f32 (src s s.cur.imm b i)
      ((∀ p, va ≠ .fin p) ∨ (∀ q, vb ≠ .fin q) → m 0 / 2 ^ 30 % 2 = 1) ∧
      ∀ p q, ∀ ka kb : Nat, va = .fin p → vb = .fin q → 2 ^ ka ≤ p.n → p.n < 2 ^ (ka + 1) → 2 ^ kb ≤ q.n → q.n < 2 ^ (kb + 1) →
        let fa := p.n * 2 ^ (23 - ka)
        let fb := q.n * 2 ^ (23 - kb)
        m 1 = (if fb ≤ fa then fa else 2 * fa) ∧ m 2 = 2 * fb ∧ m 3 = 0 ∧ m 0 / 2 ^ 30 % 2 = 0 ∧ (m 0 / 2 ^ 31 % 2 = 1 ↔ p.neg ≠ q.neg) ∧
        ((m 0 % 2 ^ 10 : Nat) : Int) - 512 = (p.e + ka) - (q.e + kb) - (if fb ≤ fa then 0 else 1)) ∧
  (∀ (s : State) (x : Shift), OnLane s x → ∃ t u, Sys2Proof.Machine.exec .divq s = .next t ∧ s.cur.sh.bind t.sh? = some u ∧
    ∀ i, i < 64 → i < s.before.vl → temp s 2 i ≠ 0 → temp s 1 i < temp s 2 i → 32 * temp s 3 i + 32 < 2 ^ 32 →
      el u.lane.m[(1 : Fin 16)] 32 i 0 < temp s 2 i ∧
      el u.lane.m[(3 : Fin 16)] 32 i 0 * temp s 2 i + el u.lane.m[(1 : Fin 16)] 32 i 0 = 32 * (temp s 3 i * temp s 2 i + temp s 1 i)) ∧
  ∀ (s : State) (x : Shift) (k : Fin 16) (a : Sel), OnLane s x → rmOf s.before.stat ≠ .sr →
    ∃ t u, Sys2Proof.Machine.exec (.divfin (.m k) a) s = .next t ∧ s.cur.sh.bind t.sh? = some u ∧
      ∀ i, i < 64 → i < s.before.vl → let w := src s s.cur.imm a i
        w / 2 ^ 30 % 2 = 0 → temp s 2 i ≠ 0 → temp s 3 i * temp s 2 i + temp s 1 i ≠ 0 →
        el u.lane.m[k] 32 i 0 = (roundTo .f32 (rmOf s.before.stat) (ftzOf s.before.stat) 0 (.fin
          { neg := decide (w / 2 ^ 31 % 2 = 1), n := temp s 3 i * temp s 2 i + temp s 1 i, d := temp s 2 i, e := (w % 2 ^ 10 : Nat) - 512 - 29 })).1)

/-- R307 and Table 16.6: the address generators of the lane sequencer move one word of PAD or of its slice of LANE for each active lane. Those of an
engine read and write a dword of PAD or of their space (the top 8 bits of a temporary that reads a dword are open: the model's choice, log 12), move a
slot that the unit holds from or to their space, send the 256 bytes that they read, each piece of them one write into the fabric over the named handle,
and add 64 F32 values, each rounded once under the FTZ of the job; a unit takes a ring's next slot, whose state becomes CLAIMED or TAKEN while the pointer
moves on, and gives it on with its state FULL (pub) or EMPTY (rel), in PAD, CREW and CHIP. -/
def Obligations.AddressGeneratorsMoveTheirWords : Prop :=
  (
  ∀ (s : State) (x : Shift) (a d : Fin 16), OnLane s x → s.before.vl ≤ 64 →
    let lanes := List.range s.before.vl
    let reads (i : Instr) (bs : Nat → List Byte) : Prop := ∃ t u, Sys2Proof.Machine.exec i s = .next t ∧ Becomes s t u ∧
      ∀ j, j < 64 → el u.m[d] 32 j 0 = if j < s.before.vl then number (bs j) else el s.unit.m[d] 32 j 0
    reads (.padrd a d) (fun j => padBytes s (temp s a j) 4) ∧ reads (.lanerd a d) (fun j => laneBytes s j (temp s a j) 4) ∧
    Sys2Proof.Machine.exec (.padwr a d) s = .next
      { s with pad := lanes.foldl (fun m j => m.put (s.myCore * 2 ^ 20 + temp s a j) (bytesOf 4 (temp s d j))) s.pad } ∧
    Sys2Proof.Machine.exec (.lanewr a d) s = .next
      { s with lane := lanes.foldl (fun m j => m.put ((s.myCore * 64 + j) * 4096 + temp s a j) (bytesOf 4 (temp s d j))) s.lane }) ∧
  (
  ∀ (s : State) (j : Job) (a d : Fin 16) (imm : BitVec 12), OnEngine s j →
    let q := s.ring (s.unitRing imm)
    let reads (i : Instr) (sp : Space) : Prop :=
      let r := s.readAcc (unitAcc s false sp a 8 [])
      ∃ w : VReg, Sys2Proof.Machine.exec i s = .next { (r.2.putSel (.m d) w 1) with free := s.free + 1 } ∧ w.toNat % 2 ^ 64 = number r.1 % 2 ^ 64
    reads (.padrd a d) .pad ∧ reads (.sprd a d) s.unitSpace ∧
    Sys2Proof.Machine.exec (.padwr a d) s = .next (s.writeAcc (unitAcc s true .pad a 8 (bytesOf 8 s.before.m[d].toNat))) ∧
    Sys2Proof.Machine.exec (.spwr a d) s = .next (s.writeAcc (unitAcc s true s.unitSpace a 8 (bytesOf 8 s.before.m[d].toNat))) ∧
    (∀ n, s.slotRing (s.before.m[d].toNat % 2 ^ 72) = some n → let r := s.readAcc (unitAcc s false s.unitSpace a (s.slotBytes n) [])
      Sys2Proof.Machine.exec (.xfer a d imm) s = .next (r.2.putSpace (s.ring n).sp (spDom (s.ring n).sp s.myCore) (s.before.m[d].toNat % 2 ^ 72) r.1)) ∧
    (∀ n, s.slotRing (s.before.m[a].toNat % 2 ^ 72) = some n →
      Sys2Proof.Machine.exec (.xferb a d imm) s = .next (s.writeAcc (unitAcc s true s.unitSpace d (s.slotBytes n) (s.slotData n (s.before.m[a].toNat % 2 ^ 72))))) ∧
    (let r := unitAcc s false s.unitSpace a 256 []
     let w := { unitAcc s true .glob d 256 (s.readAcc r).1 with via := some (imm.toNat % 8) }
     Sys2Proof.Machine.exec (.send a d imm) s = .next (s.readAcc r).2 ∧ s.accsOf (.send a d imm) = [r, w] ∧
     ((s.readAcc r).1.length = 256 → w.pieces.flatMap (·.data) = (s.readAcc r).1) ∧
     ∀ b ∈ w.pieces, ∀ pkg pa key hops v, s.pieceAway b = .ok (some (pkg, pa, key, hops)) → s.usePiece b = some v →
       ∃ o, (s.injectPiece b (pkg, pa, key, hops)).fab.ops = s.fab.ops ++ [o] ∧ o.job = some j.id ∧ o.pkg = pkg ∧ o.key = key ∧ o.hops = hops ∧
         o.act = .write pa b.data) ∧
    (let y := s.readAcc (unitAcc s false s.unitSpace a 256 [])
     let z := y.2.readAcc (unitAcc s false .pad d 256 [])
     let ftz := ftzOf s.before.stat
     let word (bs : List Byte) (k : Nat) : FV := decodeFtz ftz .f32 (number ((bs.drop (4 * k)).take 4))
     let sums := (List.range 64).flatMap fun k => bytesOf 4 (roundTo .f32 .rne ftz 0 (fvAdd .rne (word z.1 k) (word y.1 k)).1).1
     ∃ fl, Sys2Proof.Machine.exec (.radd a d) s = .next ((z.2.writeAcc (unitAcc s true .pad d 256 sums)).raise fl)) ∧
    (∀ claim : Bool, let k := s.nextSlot q s.myCore claim
      ∃ t, Sys2Proof.Machine.exec (if claim then .claim d imm else .wait d imm) s = .next t ∧
        t.unit.held = ((s.unitRing imm).val, k, claim) :: s.unit.held ∧ t.unit.m[d].toNat = s.slotAt q s.myCore k % 2 ^ 72 ∧
        (Safety.Memories s → q.sp = .pad ∨ q.sp = .crew ∨ q.sp = .chip → t.ringByte q s.myCore (0x40 + k) = (if claim then 1 else 3) ∧
          t.ringByte q s.myCore (if claim then 4 else 5) = (k + 1) % (s.ringByte q s.myCore 0 % 64 + 1))) ∧
    ∀ (pub : Bool) (k : Nat) (c : Bool), s.unit.held.find? (fun h => h.1 == (s.unitRing imm).val) = some ((s.unitRing imm).val, k, c) →
      let at_ := q.base + 0x40 + k
      let st : List Byte := [if pub then 2 else 0]
      ∃ t, Sys2Proof.Machine.exec (if pub then .pub imm else .rel imm) s = .next t ∧ (∀ h ∈ t.unit.held, h.1 ≠ (s.unitRing imm).val) ∧
        (q.sp = .pad ∨ q.sp = .crew ∨ q.sp = .chip → t.pad = (if q.sp = .pad then s.pad.put (s.myCore * 2 ^ 20 + at_) st else s.pad) ∧
          t.crew = (if q.sp = .crew then s.crew.put (s.myCore / 8 * 2 ^ 21 + at_) st else s.crew) ∧
          t.chip = (if q.sp = .chip then s.chip.put (s.myCore / 64 * 2 ^ 26 + at_) st else s.chip)))

/-- Table 16.7: AFEED, BFEED and BSLOT set the inputs of the tile; OUTER adds the product of each pair of elements to its element, rounded once; CROW, CROWHI, CWROW and CWROWHI move half a row, and TCLR
clears the tile. The elements that BSLOT leaves open are free values, 128 of them for each BSLOT: the model's choice (log 12). -/
def Obligations.TilePortsWorkOnTheirTile : Prop :=
  ∀ (s : State) (x : Shift) (a : Sel), OnLane s x →
    let ct := s.tile.val
    let row := temp s 12 0 % 128
    let tile (x : Shift) (i n : Nat) : Nat := (NMap.getD x.mx.tiles (ct * 128 + i) 0).toNat / 2 ^ (32 * n) % 2 ^ 32
    Sys2Proof.Machine.exec (.afeed a) s = .next (s.modUnit fun u => { u with ain := s.sel s.cur.imm a }) ∧
    Sys2Proof.Machine.exec (.bfeed a) s = .next (s.modUnit fun u => { u with bin := s.sel s.cur.imm a, bsl := none }) ∧
    (let w := x.mx.wslot x.wbh (temp s 14 0 % 8192)
     Sys2Proof.Machine.exec .bslot s = .next
      { (s.modUnit fun u => { u with bsl := some (if w.state = 0 then some w.body else none, x.bfmt, s.free) }) with free := s.free + 128 }) ∧
    (∃ v : VReg, Sys2Proof.Machine.exec (.crow a) s = .next (s.putSel a v 64) ∧ ∀ n, n < 64 → el v 32 n 0 = tile x row n) ∧
    (∃ v : VReg, Sys2Proof.Machine.exec (.crowhi a) s = .next (s.putSel a v 64) ∧ ∀ n, n < 64 → el v 32 n 0 = tile x row (64 + n)) ∧
    (∃ t y, Sys2Proof.Machine.exec (.cwrow a) s = .next t ∧ s.cur.sh.bind t.sh? = some y ∧ y.regs = x.regs ∧ (RowsRise x →
      ∀ n, n < 128 → tile y row n = if n < 64 then el (s.sel s.cur.imm a) 32 n 0 else tile x row n)) ∧
    (∃ t y, Sys2Proof.Machine.exec (.cwrowhi a) s = .next t ∧ s.cur.sh.bind t.sh? = some y ∧ y.regs = x.regs ∧ (RowsRise x →
      ∀ n, n < 128 → tile y row n = if 64 ≤ n then el (s.sel s.cur.imm a) 32 (n - 64) 0 else tile x row n)) ∧
    (∃ t y, Sys2Proof.Machine.exec .outer s = .next t ∧ s.cur.sh.bind t.sh? = some y ∧ y.regs = x.regs ∧ y.sp = x.sp ∧ y.lane.m = x.lane.m ∧ (RowsRise x →
      ∀ i n, i < 128 → n < 128 → tile y i n = (roundTo .f32 .rne (ftzOf x.lane.stat) 0
        (fvFma .rne (decodeFV .bf16 (el x.lane.ain 16 0 i)) (x.lane.bElem n) (decodeFtz (ftzOf x.lane.stat) .f32 (tile x i n))).1).1)) ∧
    ∃ t y, Sys2Proof.Machine.exec .tclr s = .next t ∧ s.cur.sh.bind t.sh? = some y ∧ y.regs = x.regs ∧ ∀ i n, i < 128 → tile y i n = 0

/-- R308, R309, R313, R316 and R317, Table 16.8: a word goes to the next word, to its target where its temporary is, or is not, zero in every active lane, or to its target; LOOP counts m15 down and goes to its target unless it is 0; END
frees the lane sequencer of a V routine, ORs its flags into STAT and releases its registers; CONT also leaves a record; a routine at its step bound halts with fault 0x09. -/
def Obligations.MicroSequencingSetsTheNextWord : Prop :=
  ∀ (s : State) (c : Fin 16) (tgt : BitVec 12), Stands s →
    let some_ := if s.onLane then ∃ i, i < s.unit.vl ∧ el s.unit.m[c] 32 i 0 ≠ 0 else s.unit.m[c].toNat % 2 ^ 72 ≠ 0
    let on (i : Instr) (mpc : Nat) : Prop := ∃ t, Sys2Proof.Machine.exec i s = .next t ∧ Becomes s t { s.unit with mpc := mpc }
    (s.unit.vl ≤ 64 →
      on .microNext (s.before.mpc + 1) ∧ on (.microJmp tgt) tgt.toNat ∧ (some_ → on (.brt c tgt) tgt.toNat ∧ on (.brf c tgt) (s.before.mpc + 1)) ∧
      (¬some_ → on (.brt c tgt) (s.before.mpc + 1) ∧ on (.brf c tgt) tgt.toNat)) ∧
    (∀ j, OnEngine s j → s.unit.m[(15 : Fin 16)].toNat < 2 ^ 72 → s.unit.m[(15 : Fin 16)] ≠ 0 → ∃ t, Sys2Proof.Machine.exec (.microLoop tgt) s = .next t ∧
      t.unit.m[(15 : Fin 16)].toNat = s.unit.m[(15 : Fin 16)].toNat - 1 ∧ t.unit.mpc = if s.unit.m[(15 : Fin 16)].toNat = 1 then s.before.mpc + 1 else tgt.toNat) ∧
    (s.onLane = true → ∃ t, Sys2Proof.Machine.exec (.microLoop tgt) s = .next t ∧ (s.before = s.unit → s.unit.vl ≤ 64 →
      (∀ j, j < s.unit.vl → el t.unit.m[(15 : Fin 16)] 32 j 0 = (el s.unit.m[(15 : Fin 16)] 32 j 0 + (2 ^ 32 - 1)) % 2 ^ 32) ∧
      t.unit.mpc = if ∀ j, j < s.unit.vl → el s.unit.m[(15 : Fin 16)] 32 j 0 = 1 then s.unit.mpc + 1 else tgt.toNat)) ∧
    (∀ x opc vt d a b, OnLane s x → x.lane.instr = .tenantV opc vt d a b →
      (∃ t y, Sys2Proof.Machine.exec .microEnd s = .next t ∧ s.cur.sh.bind t.sh? = some y ∧ y.lane = MicroUnit.zero ∧ y.regs = x.regs ∧
        y.sp.stat = x.sp.stat ||| x.lane.flags.setWidth 64 ∧ y.awaits (.v d) = false ∧ y.awaits (.v a) = false ∧ y.awaits (.v b) = false) ∧
      (∃ t y k, Sys2Proof.Machine.exec (.microCont tgt) s = .next t ∧ s.cur.sh.bind t.sh? = some y ∧ y.lane = MicroUnit.zero ∧ y.conts = x.conts ++ [k] ∧
        k.tgt = tgt.toNat ∧ k.m = x.lane.m ∧ k.instr = x.lane.instr) ∧
      ∀ i, s.cur.sh = some i → x.lane.v = true → x.lane.halt = false → x.lane.ten = true → x.lane.bound ≤ x.lane.steps →
        ∃ t y, Sys2Proof.Machine.exec (.stepBoundFault i 1) s = .next t ∧ t.sh? i = some y ∧ y.lane.halt = true ∧ y.lane.code = 9 ∧ y.lane.mpc = x.lane.mpc ∧ y.regs = x.regs)
namespace Sys2Proof.Claims
open Sys2Proof.Machine

/-! ## What moves on its own -/

/-- The messages without message k. -/
def without {α : Type} (l : List α) (k : Nat) : List α := l.take k ++ l.drop (k + 1)

/-- Table 10.4: the new value of an integer atomic on n bits, from the old value and the operand. -/
def atomic (op : AtomOp) (n old b : Nat) : Option Int :=
  match op with
  | .add => some (old + b)
  | .and => some (old &&& b : Nat)
  | .or => some (old ||| b : Nat)
  | .xor => some (old ^^^ b : Nat)
  | .min => some (min (signed n old) (signed n b))
  | .max => some (max (signed n old) (signed n b))
  | .minz => some (min old b : Nat)
  | .maxz => some (max old b : Nat)
  | .swap => some b
  | .fadd => none

/-- n bytes at a home, as they stand. -/
def homeBytes (s : State) (h : Home) (n : Nat) : List Byte :=
  (List.range n).map fun j => match h with
    | .lane c l o => s.lane.get ((c * 64 + l) * 4096 + o + j)
    | .pad c o => s.pad.get (c * 2 ^ 20 + o + j)
    | .crew c o => s.crew.get (c * 2 ^ 21 + o + j)
    | .chip d o => s.chip.get (d * 2 ^ 26 + o + j)
    | .glob pa _ => s.glob.get (s.globAt pa + j)
    | .fab _ _ _ => 0

/-- The memories of t are those of s with bytes written at a home, and no other byte differs. -/
def HomeHolds (s t : State) (h : Home) (bs : List Byte) : Prop :=
  t.lane = (match h with | .lane c l o => s.lane.put ((c * 64 + l) * 4096 + o) bs | _ => s.lane) ∧
  t.pad = (match h with | .pad c o => s.pad.put (c * 2 ^ 20 + o) bs | _ => s.pad) ∧
  t.crew = (match h with | .crew c o => s.crew.put (c * 2 ^ 21 + o) bs | _ => s.crew) ∧
  t.chip = (match h with | .chip d o => s.chip.put (d * 2 ^ 26 + o) bs | _ => s.chip) ∧
  t.glob = (match h with | .glob pa _ => s.glob.put (s.globAt pa) bs | _ => s.glob) ∧ t.host = s.host

/-- A home of this package with nothing in the way of a request: no wait for a barrier of its sector; in GLOB its page is not retired, its window open, its key
live and the key of the line, the line not poisoned, with no version of a bundle beside it, no pennant, and no collapse of its page under way. -/
def Plain (s : State) (h : Home) : Prop :=
  s.barWaited h = false ∧ match h with
    | .glob pa key => s.retiredAt pa = false ∧ s.windowShut pa = false ∧ s.keyLive key = true ∧ s.collapsing pa = false ∧
        (s.line (pa / 128)).tag = key ∧ (s.line (pa / 128)).poison = 0 ∧ (s.line (pa / 128)).side = none ∧ (s.line (pa / 128)).pennant = none
    | .fab _ _ _ => False
    | _ => True

/-- R221: the order of the elements of a scan by value, in which −0 and +0 are equal. -/
def scanKey (f : ScanFmt) (e : Nat) : Int :=
  match f with
  | .f32 => if e < 2 ^ 31 then e else 2 ^ 31 - (e : Int)
  | .bf16 => if e < 2 ^ 15 then e else 2 ^ 15 - (e : Int)
  | .s32 => signed 32 e
  | .z32 => e

/-- Whether an element of a scan is a NaN. -/
def scanNaN (f : ScanFmt) (e : Nat) : Bool :=
  match f with
  | .f32 => fpNaN 8 23 e
  | .bf16 => fpNaN 8 7 e
  | _ => false

/-- R221: element a, with its index, ranks before element b: by value, descending for `.topk` and ascending for `.botk`, then by lower index. -/
def Ranks (op : ScanOp) (f : ScanFmt) (a b : Word × Nat) : Prop :=
  (if op = .botk then scanKey f a.1.toNat < scanKey f b.1.toNat else scanKey f b.1.toNat < scanKey f a.1.toNat) ∨
    scanKey f a.1.toNat = scanKey f b.1.toNat ∧ a.2 < b.2

/-- t is s after message k, with an answer to its shift on its way. -/
def Answered (s t : State) (k i : Nat) (d : Sys2Proof.SNum) (w : Word) (fl : Flags) : Prop := t.msgs = without s.msgs k ++ [.arrive i (some d) w fl none]

end Sys2Proof.Claims

/-- R33, R38, R40, R196 and R252: a result that arrives is written, with its flags, and its register is no longer awaited; a token is written and its job
is gone; a handle is written; a continuation record starts on the free lane sequencer; a core without an issuing shift, or whose issuing shift stands
at a safe point, gives a ready shift its turn; and a pre-emption keeps every register of the shift that it stops. The order of arrivals is the model's
(log 1). -/
def Obligations.ArrivalsAndSwitchesTakeEffect : Prop :=
  ∀ (s : State) (k i slot core : Nat) (x : Shift) (d : Sys2Proof.SNum) (w : Word) (fl : Flags) (f : FaultInfo) (h : HNum) (v : Handle) (job : Option Nat),
    (s.sh? i = some x →
      (s.msgs[k]? = some (.arrive i (some d) w fl none) → ∃ t y, Sys2Proof.Machine.exec (.interlockArrival k) s = .next t ∧ t.msgs = without s.msgs k ∧
        t.sh? i = some y ∧ (∀ n, y.rs n = if n = 0 then 0 else if n = d then w else x.rs n) ∧ y.awaits (.s d) = false ∧
        y.sp.stat = x.sp.stat ||| fl.setWidth 64 ∧ y.regs.v = x.regs.v ∧ y.regs.a = x.regs.a) ∧
      (s.msgs[k]? = some (.arrive i (some d) w fl (some f)) → ∃ t y, Sys2Proof.Machine.exec (.interlockArrival k) s = .next t ∧ t.sh? i = some y ∧
        y.regs = x.regs ∧ y.awaits (.s d) = false ∧ y.pend.delayed = x.pend.delayed ++ [{ reg := d, info := f }]) ∧
      (s.msgs[k]? = some (.arriveH i h v) → ∃ t y, Sys2Proof.Machine.exec (.interlockArrival k) s = .next t ∧ t.sh? i = some y ∧
        y.handles = x.handles.set h v ∧ y.awaits (.h h) = false ∧ y.regs = x.regs) ∧
      (s.msgs[k]? = some (.token i d w job) → ∃ t y, Sys2Proof.Machine.exec (.tokenWrite k) s = .next t ∧ t.msgs = without s.msgs k ∧ t.sh? i = some y ∧
        (∀ j ∈ t.jobs, some j.id ≠ job) ∧ y.rs d = (if d = 0 then 0 else w) ∧ y.awaits (.s d) = false ∧ y.sp.stat = x.sp.stat) ∧
      (∀ c rest u, x.conts = c :: rest → x.lane.v = false → x.tim.laneBusy = 0 → s.contUnit x (i / 8) c = some u →
        ∃ t y, Sys2Proof.Machine.exec (.continuationDispatch i) s = .next t ∧ t.sh? i = some y ∧ y.conts = rest ∧ y.lane = u ∧ y.regs = x.regs)) ∧
    (slot < 4 → s.slotReady core slot = true → s.issuer core = none → (s.core core).issuing ≠ some slot →
      ∃ t, Sys2Proof.Machine.exec (.shiftSwitch core slot) s = .next t ∧ (t.core core).issuing = some slot ∧ t.msgs = s.msgs ∧ t.pad = s.pad ∧ t.glob = s.glob) ∧
    (∀ idx, slot < 4 → s.slotReady core slot = true → s.issuer core = some i → s.sh? i = some x → x.tim.safe = some idx → (s.core core).issuing ≠ some slot →
      ∃ t, Sys2Proof.Machine.exec (.shiftSwitch core slot) s = .next t ∧ (t.core core).issuing = some slot ∧ t.pad = s.pad ∧ t.glob = s.glob) ∧
    (s.sh? i = some x → s.issuer (i / 8) = some i → s.preemptDue i x = true → i % 4 ≠ slot → s.nextReady (i / 8) (some (i % 4)) = some slot →
      ∃ t y, Sys2Proof.Machine.exec (.fullStatePreemption i) s = .next t ∧ (t.core (i / 8)).issuing = some slot ∧ t.pad = s.pad ∧ t.glob = s.glob ∧ t.jobs = s.jobs ∧
        t.sh? i = some y ∧ y.regs = x.regs ∧ y.sp = x.sp)

/-- R153, R154, R163, R323 and R324: the head of a matrix queue issues in its cycle where it is ready and passes its checks, and halts the unit where it misses its cycle; an operation whose cycle has come ends;
the weight stream puts the bytes of a slot that has arrived; an image load takes a bank, and its end makes the bank READY, or FAILED where the image fails its checks. -/
def Obligations.MatrixAndLoaderEventsTakeEffect : Prop :=
  ∀ (s : State) (i core bank : Nat) (x : Shift) (o : MOp) (rest : List MOp) (ctx : Nat) (tag : Word) (b : Bank),
    (s.sh? i = some x → x.mx.queue = o :: rest → (∀ af bf mb st, o.instr ≠ .tcfg af bf mb st) → (∀ mb st, o.instr ≠ .mbarm mb st) → o.entry ≤ s.dcc → x.mx.lastIssue < s.dcc →
      let u := { s with cur := { Cur.zero with sh := some i } }
      (o.target = none ∨ o.target = some s.dcc → u.mxReady o = true → u.mxFault o = none →
        ∃ t y, Sys2Proof.Machine.exec (.matrixOpIssue i) s = .next t ∧ t.sh? i = some y ∧ y.mx.queue = rest ∧ y.mx.lastIssue = s.dcc ∧ y.regs = x.regs) ∧
      ∀ n, o.target = some n → n < s.dcc →
        ∃ t y, Sys2Proof.Machine.exec (.matrixOpIssue i) s = .next t ∧ t.sh? i = some y ∧ y.mxHalted = true ∧ y.mx.haltCode = 8 ∧ y.regs = x.regs ∧
          ∀ p ∈ y.mx.queue, (∃ af bf mb st, p.instr = .tcfg af bf mb st) ∨ ∃ mb st, p.instr = .mbarm mb st) ∧
    (s.sh? i = some x → s.mxDue x = some o →
      ∃ t y, Sys2Proof.Machine.exec (.matrixOpComplete i) s = .next t ∧ t.sh? i = some y ∧ (∀ p ∈ y.mx.active, p.rank ≠ o.rank) ∧ y.regs = x.regs ∧ y.mx.queue = x.mx.queue ∧
        t.pad = if o.bytes = [] then s.pad else s.pad.put (x.place.core * 2 ^ 20 + o.sa.toNat % 2 ^ 20) o.bytes) ∧
    (∀ plain mb a d st, s.sh? i = some x → x.mx.stream = some o → o.instr = .wbld plain mb a d st →
      let u := { s with cur := { Cur.zero with sh := some i } }
      let n := match plain with | none => 64 | some f => slotElems f * f.width / 8
      o.code = 0 → (∀ p ∈ s.fab.ops, ¬(p.kind = 5 ∧ p.sh = some i)) → u.slotReading x o o.half (o.sa.toNat % 2 ^ 13 + o.slot) = false → u.streamOrdered i x o = true → o.issued ≠ some s.dcc →
      n ≤ o.bytes.length →
      ∃ t, Sys2Proof.Machine.exec (.wbldSlotValid i) s = .next t ∧ t.sh? i = some (x.wbldPut o plain (o.sa.toNat % 2 ^ 13 + o.slot) o.bytes) ∧ t.glob = s.glob) ∧
    (s.imageOwner core ctx tag = some x → s.loadBank core none = some bank → bank < 2 → s.bankHas core ctx tag = false →
      ∃ t z, Sys2Proof.Machine.exec (.tenantImageLoad core ctx tag) s = .next t ∧ (t.core core).banks[bank]? = some z ∧ z.state = 1 ∧ z.ctx = ctx ∧ z.tag = tag) ∧
    ((s.core core).banks[bank]? = some b → b.state = 1 →
      (∀ m, s.tenantAt b.ctx b.image.toNat = .ok m → m.tag = b.tag →
        ∃ t z, Sys2Proof.Machine.exec (.tenantLoadComplete core bank) s = .next t ∧ (t.core core).banks[bank]? = some z ∧ z.state = 2 ∧ z.words = m.words) ∧
      (∀ c, s.tenantAt b.ctx b.image.toNat = .error c →
        ∃ t z, Sys2Proof.Machine.exec (.tenantLoadComplete core bank) s = .next t ∧ (t.core core).banks[bank]? = some z ∧ z.state = 3 ∧
          (t.core core).ldCode = c ∧ (t.core core).ldCtx = b.ctx))

/-- R26, R201, R202, R220, R221, R311 and Table 16.2: a copy job that nothing earlier holds starts at the entry of its routine; it executes the two words before
its loop, and then moves one piece in each step: one that has bytes in hand, or whose source can be read, and whose write need not wait writes them; one
that has moved all its bytes posts its token with its count. A scan executes three words before its loop, and then takes one line in each step, as its
scan unit reads it below the threshold of its channel, or because its wait limit has passed: `.cntge` counts the elements at or above the threshold, and
`.topk` and `.botk` keep the K first of the elements ranked so far and count the NaN elements; the output of K entries and the token follow the last line. -/
def Obligations.CopiesAndScansMoveOn : Prop :=
  ∀ (s : State) (k ch : Nat) (j : Job) (x : Shift), s.job? k = some j →
    (s.copyMayStart j = true → ∃ t, Sys2Proof.Machine.exec (.copyJobStart k) s = .next t ∧ t = { s with jobs := t.jobs } ∧
      t.job? k = some { j with state := 2, began := s.dcc, unit := { j.unit with
        mpc := (match j.instr with | .mscan _ _ _ _ _ _ => 0x1C0 | _ => 0x180), steps := 0 } }) ∧
    (s.sh? j.sh = some x → s.copyReady j = true →
      let moved (t : State) (n : Nat) : State :=
        (t.modJob j.id fun e => { e with done := e.done + n, buf := none, unit := { e.unit with steps := e.unit.steps + 1 } }).stepped k
      (j.unit.steps < 2 → ∃ t e, Sys2Proof.Machine.exec (.copyPiece k) s = .next t ∧ t = { s with jobs := t.jobs } ∧ t.job? k = some e ∧
        e.unit.steps = j.unit.steps + 1 ∧ e.unit.mpc = j.unit.mpc + 1 ∧ e.done = j.done ∧ e.buf = j.buf) ∧
      (2 ≤ j.unit.steps → (copyShape j.instr j.opi j.opx).total ≤ j.done → ∃ t, Sys2Proof.Machine.exec (.copyPiece k) s = .next t ∧
        t.msgs = s.msgs ++ [.token j.sh j.tok (BitVec.ofNat 64 (j.done % 2 ^ 32 * 2 ^ 32)) (some k)]) ∧
      (2 ≤ j.unit.steps → j.done < (copyShape j.instr j.opi j.opx).total →
        (∀ bs t, j.buf = some bs → s.engineWrite1 j x 3 false j.copyEnds.2.2.1 j.nextPiece.2.1 bs = .done t →
          Sys2Proof.Machine.exec (.copyPiece k) s = .next (moved t bs.length)) ∧
        ∀ bs t u, j.buf = none → s.engineRead j x 3 false j.copyEnds.1 j.nextPiece.1 j.nextPiece.2.2 = .data bs t →
          t.engineWrite1 j x 3 false j.copyEnds.2.2.1 j.nextPiece.2.1 bs = .done u →
          Sys2Proof.Machine.exec (.copyPiece k) s = .next (moved u bs.length))) ∧
    ∀ op fmt d m a b (i : Instr), s.sh? j.sh = some x → j.instr = .mscan op fmt d m a b → s.copySteps j = true → i = .scanUnitRead k ch ∨ i = .scanWaitLimit k ch →
      let w := scanWidth fmt
      let best := j.opi.toNat / 2 ^ 32 % 64 + 1
      (j.unit.steps < 3 → ∃ t e, Sys2Proof.Machine.exec i s = .next t ∧ t = { s with jobs := t.jobs } ∧ t.job? k = some e ∧
        e.unit.steps = j.unit.steps + 1 ∧ e.todo = j.todo ∧ e.count = j.count ∧ e.best = j.best) ∧
      (3 ≤ j.unit.steps → j.todo = [] →
        (op = .cntge → ∃ t, Sys2Proof.Machine.exec i s = .next t ∧
          t.msgs = s.msgs ++ [.token j.sh j.tok (BitVec.ofNat 64 (j.count % 2 ^ 32 * 2 ^ 32)) (some k)] ∧ t.pad = s.pad) ∧
        (op ≠ .cntge →
          let at_ := j.opx.toNat % 2 ^ 20
          let out := (List.range best).flatMap fun n => match j.best[n]? with
            | some e => bytesOf 4 e.1.toNat ++ bytesOf 4 e.2
            | none => bytesOf 4 0 ++ bytesOf 4 0xFFFF_FFFF
          ∀ t', scanWrites j x s (sectors (at_ : Nat) (8 * best)) out 0 = (t', none) → ∃ t, Sys2Proof.Machine.exec i s = .next t ∧
            t.msgs = s.msgs ++ [.token j.sh j.tok (BitVec.ofNat 64 (j.count % 2 ^ 32 * 2 ^ 32)) (some k)] ∧
            t.pad = s.pad.put (x.place.core * 2 ^ 20 + at_) out)) ∧
      ∀ l bs, 3 ≤ j.unit.steps → (i = .scanUnitRead k ch → 512 ≤ ch ∨ (Config.occupancy s.dcc ch).toNat < s.mg.scanThresh) →
        (i = .scanWaitLimit k ch → s.scanWaited k ch = true) → j.buf = some bs → j.todo.find? (fun l => s.scanUnitOf j x l == ch) = some l →
        let els : List (Word × Nat) := (List.range (bs.length / w)).map fun n =>
          (BitVec.ofNat 64 (number ((bs.drop (w * n)).take w)), (max (l * 128) j.ea.toNat - j.ea.toNat) / w + n)
        let good := els.filter fun e => !scanNaN fmt e.1.toNat
        let thr := j.opx.toNat / 2 ^ 32 % 2 ^ (8 * w)
        ∃ t e, Sys2Proof.Machine.exec i s = .next t ∧ t.job? k = some e ∧ e.todo = (j.todo.filter fun m => m != l) ∧ e.buf = none ∧ t.msgs = s.msgs ∧
          e.unit.steps = j.unit.steps + 1 ∧
          (op = .cntge → e.best = j.best ∧
            e.count = j.count + (if scanNaN fmt thr then 0 else (good.filter fun p => decide (scanKey fmt thr ≤ scanKey fmt p.1.toNat)).length)) ∧
          (op ≠ .cntge → j.best.length ≤ best → j.best.Pairwise (Ranks op fmt) → (∀ p ∈ j.best, p.1.toNat < 2 ^ (8 * w) ∧ scanNaN fmt p.1.toNat = false) →
            (∀ p ∈ j.best, ∀ q ∈ els, p.2 ≠ q.2) →
            e.count = j.count + (els.length - good.length) ∧ e.best.Pairwise (Ranks op fmt) ∧ e.best.length = min best (j.best ++ good).length ∧
            (∀ p ∈ e.best, p ∈ j.best ++ good) ∧ ∀ p ∈ j.best ++ good, p ∉ e.best → ∀ q ∈ e.best, Ranks op fmt q p)

/-- R175, R203 and R215 to R217: a request whose turn has come is performed whole at its home, in LANE, PAD, CREW, CHIP or GLOB, where no wait for a barrier
meets it and nothing of a bundle, a key, poison, a retired page or a shut window does: a read answers the bytes as they stand, a write replaces them and
answers nothing, an atomic answers the old value and writes the new one of Table 10.4, a CAS answers the old value and writes the new one where the old
one is expected, BARINIT answers the generation and sets the barrier up, and BARARR answers the generation and counts an arrival, or completes the
barrier and moves the generation on. No other byte of any memory changes. A write of the part that waits for its line is performed when that is free
(R222). A write to GLOB under a device cache is the model's choice (log 60). -/
def Obligations.RequestsArePerformedWholeAtTheirHome : Prop :=
  (∀ (s : State) (k i : Nat) (x : Shift) (r : Req), Safety.Memories s → s.msgs[k]? = some (.req r) → s.reqReady k r = true → r.collapse = none →
    r.fetch = none → r.sh = some i → s.sh? i = some x → Plain s r.at_ →
    let h := r.at_
    let old (n : Nat) : Nat := number (homeBytes s h n)
    let word (m : Nat) : Nat := number (((homeBytes s h.sectorBase 32).drop (4 * m)).take 4)
    (∀ bs, r.op = .write bs → r.dst = none → ∃ t, Sys2Proof.Machine.exec (.homeRequest k) s = .next t ∧ HomeHolds s t h bs ∧ t.msgs = without s.msgs k) ∧
    ∀ d, r.dst = some d →
    (∀ n sx, 0 < n → r.op = .read n sx → ∃ t, Sys2Proof.Machine.exec (.homeRequest k) s = .next t ∧ HomeHolds s t h [] ∧
      Answered s t k i d (loaded sx (homeBytes s h n)) 0) ∧
    (∀ op dw b v, r.op = .atom op dw b → let n := if dw then 8 else 4
      atomic op (8 * n) (old n) (b.toNat % 2 ^ (8 * n)) = some v →
      ∃ t, Sys2Proof.Machine.exec (.homeRequest k) s = .next t ∧ HomeHolds s t h (bytesOf n (v % 2 ^ (8 * n)).toNat) ∧
        Answered s t k i d (BitVec.ofNat 64 (old n)) 0) ∧
    (∀ b, r.op = .atom .fadd false b → ∃ t fl, Sys2Proof.Machine.exec (.homeRequest k) s = .next t ∧ Answered s t k i d (BitVec.ofNat 64 (old 4)) fl ∧
      HomeHolds s t h (bytesOf 4 (roundTo .f32 .rne false 0 (fvAdd .rne (decodeFV .f32 (old 4)) (decodeFV .f32 (b.toNat % 2 ^ 32))).1).1)) ∧
    (∀ dw e b, r.op = .cas dw e b → let n := if dw then 8 else 4
      ∃ t, Sys2Proof.Machine.exec (.homeRequest k) s = .next t ∧
        HomeHolds s t h (bytesOf n (if old n = e.toNat % 2 ^ (8 * n) then b.toNat % 2 ^ (8 * n) else old n)) ∧ Answered s t k i d (BitVec.ofNat 64 (old n)) 0) ∧
    (∀ force c, r.op = .barinit force c → ∃ t, Sys2Proof.Machine.exec (.homeRequest k) s = .next t ∧ Answered s t k i d (BitVec.ofNat 64 (word 2 * 2 ^ 32)) 0 ∧
      (h.sectorBase = h → HomeHolds s t h (bytesOf 4 c.toNat ++ bytesOf 4 0 ++ bytesOf 4 (word 2) ++
        bytesOf 4 (if c.toNat % 2 ^ 32 = 0 then 0 else 1) ++ List.replicate 16 0))) ∧
    (r.op = .bararr → ∃ t, Sys2Proof.Machine.exec (.homeRequest k) s = .next t ∧
      Answered s t k i d (BitVec.ofNat 64 (word 2 * 2 ^ 32 + if word 3 = 1 then 0 else 4)) 0 ∧
      (word 3 ≠ 1 → HomeHolds s t h []) ∧ (h.sectorBase = h → word 3 = 1 →
        (word 1 + 1 = word 0 → HomeHolds s t h (bytesOf 4 (word 0) ++ bytesOf 4 0 ++ bytesOf 4 (word 2 + 1))) ∧
        ((word 1 + 1) % 2 ^ 32 ≠ word 0 → HomeHolds s t h (bytesOf 4 (word 0) ++ bytesOf 4 (word 1 + 1)))))) ∧
  ∀ (s : State) (k pa key : Nat) (bs : List Byte), Safety.Memories s → s.msgs[k]? = some (.own pa (some key) .put bs none) → Plain s (.glob pa key) →
    ownAhead (s.msgs.take k) pa = false → bitsAhead (s.msgs.take k) = false →
    ∃ t, Sys2Proof.Machine.exec (.homeRequest k) s = .next t ∧ HomeHolds s t (.glob pa key) bs ∧ t.msgs = without s.msgs k

/-- R228 to R233 and R236, at a line of this package: a bundle store whose turn has come, at a line with no side entry, opens a pending version beside the line, with the bytes that it stores; a seal makes the pending version current, keeps the
old one and sets the pennant, where the line's memory takes writes, and is acknowledged to the anchor, as are a forward fetch and a resolution that make it
current (Table 11.4); a discard drops the pending version; a backward fetch answers with the retained version, or marks the view expired where there is none; a forward fetch makes the pending version that it names current; the
acknowledgement of the last member settles the anchor and tells the members, and one before it is noted; a notice starts the retention; a version that waits 1,048,576 cycles is resolved at its anchor in this package (committed: current; given up: dropped; still open: aborted and dropped), and a
retained one is freed 65,536 cycles after it settled. That a pending version keeps poison of its own, and what becomes
of a bundle store to a line that takes no writes, are the model's reading (log 38); that messages between packages come without a route of their own is its choice (log 71). -/
def Obligations.BundleLinesKeepTheirVersions : Prop :=
  ∀ (s : State) (k i fl line name version anchor pa key n count : Nat) (x : Shift) (e : Side) (r : Req) (b : BunAct) (f : Fetch) (dst : Sys2Proof.SNum) (sx : Bool),
    Safety.Memories s → Safety.Rises s.lines → linePkg fl = s.mg.idpkg → localLine fl = line → s.sh? i = some x →
    let place := s.globAt (line * 128)
    let takes : Prop := s.retiredAt (line * 128) = false ∧ s.windowShut (line * 128) = false
    (s.msgs[k]? = some (.req r) → r.at_ = .glob pa key → pa / 128 = line →
      (r.op = .bst b → s.reqReady k r = true → bitsAhead (s.msgs.take k) = false → r.collapse = none → s.collapses = [] → b.off + b.data.length ≤ 128 → s.drops (line * 128) key = false →
        (s.line line).side = none → s.sideUsed line < 2048 →
        ∃ t v, Sys2Proof.Machine.exec (.homeLineBst k) s = .next t ∧ t.msgs = without s.msgs k ∧ t.glob = s.glob ∧ (t.line line).side = some v ∧ v.pending = true ∧ v.name = b.name ∧
          v.version = b.version ∧ v.anchor = b.anchor ∧ (v.data.drop b.off).take b.data.length = b.data ∧ (t.line line).pennant = (s.line line).pennant) ∧
      (r.op = .read n sx → r.sh = some i → r.dst = some dst → r.fetch = some f →
        (f.fwd = false →
          (s.retainedFor line f.name f.version = some e → e.key = key → s.keyLive key = true → e.poison = 0 → 0 < n → pa % 128 + n ≤ e.data.length →
            ∃ t, Sys2Proof.Machine.exec (.backwardFetch k) s = .next t ∧ Answered s t k i dst (loaded sx ((e.data.drop (pa % 128)).take n)) 0 ∧ t.glob = s.glob) ∧
          (s.retainedFor line f.name f.version = none → x.view.v = true →
            ∃ t y, Sys2Proof.Machine.exec (.backwardFetch k) s = .next t ∧ t.sh? i = some y ∧ y.view.expired = true ∧ t.glob = s.glob)) ∧
        (f.fwd = true → takes → (s.line line).side = some e → e.pending = true → e.name = f.name → e.version = f.version →
          ∃ t m, Sys2Proof.Machine.exec (.forwardFetch k) s = .next t ∧ t.glob = s.glob.put place e.data ∧
            t.msgs = without s.msgs k ++ (if linePkg e.anchor = s.mg.idpkg then [.sealAck e.anchor e.name e.version fl] else []) ++ [m]))) ∧
    (s.msgs[k]? = some (.seal fl name version count anchor) → takes → (s.line line).side = some e → e.pending = true → e.name = name → e.version = version →
      ∃ t v, Sys2Proof.Machine.exec (.homeLineSeal k) s = .next t ∧ t.glob = s.glob.put place e.data ∧ (t.line line).side = some v ∧ v.pending = false ∧ v.data = s.glob.bytes place 128 ∧
        (t.line line).pennant = some { name := name, version := version, index := e.index, count := count, anchor := e.anchor } ∧
        t.msgs = without s.msgs k ++ (if linePkg anchor = s.mg.idpkg then [.sealAck anchor name version fl] else [])) ∧
    (s.msgs[k]? = some (.discard fl name version) → s.discardReady k = true → (s.line line).side = some e → e.pending = true → e.name = name → e.version = version →
      ∃ t, Sys2Proof.Machine.exec (.homeLineDiscard k) s = .next t ∧ t.glob = s.glob ∧ (t.line line).side = none) ∧
    (s.msgs[k]? = some (.sealAck fl name version n) →
      manName (s.manifest line) = name → manVersion (s.manifest line) = version → manState (s.manifest line) = 2 →
      ((∀ m ∈ s.membersOf line, m = n ∨ (fl, m) ∈ s.acks) →
        ∃ t, Sys2Proof.Machine.exec (.sealAck k) s = .next t ∧ manState (t.manifest line) = 3 ∧ t.msgs = without s.msgs k ++ (t.membersOf line).map fun m => .settle m name version) ∧
      ∀ m ∈ s.membersOf line, m ≠ n → (fl, m) ∉ s.acks →
        ∃ t, Sys2Proof.Machine.exec (.sealAck k) s = .next t ∧ t.glob = s.glob ∧ t.msgs = without s.msgs k ∧ (fl, n) ∈ t.acks ∧ ∀ p ∈ s.acks, p ∈ t.acks) ∧
    (s.msgs[k]? = some (.settle fl name version) → (s.line line).side = some e → e.pending = false → e.name = name → e.version = version → e.settled = none →
      ∃ t, Sys2Proof.Machine.exec (.settleNotice k) s = .next t ∧ (t.line line).side = some { e with settled := some s.dcc } ∧ t.glob = s.glob) ∧
    ((s.line line).side = some e → e.pending = true → e.since + 1048576 ≤ s.dcc → linePkg e.anchor = s.mg.idpkg →
      let d := s.manifest (localLine e.anchor)
      let same := manName d = e.name ∧ manVersion d = e.version
      (same ∧ (manState d = 2 ∨ manState d = 3) → takes → ∃ t, Sys2Proof.Machine.exec (.pendingResolution line) s = .next t ∧ t.glob = s.glob.put place e.data ∧
        t.msgs = s.msgs ++ [.sealAck e.anchor e.name e.version fl]) ∧
      (¬same ∨ manState d ≠ 1 ∧ manState d ≠ 2 ∧ manState d ≠ 3 → ∃ t, Sys2Proof.Machine.exec (.pendingResolution line) s = .next t ∧ t.glob = s.glob ∧ (t.line line).side = none) ∧
      (same ∧ manState d = 1 → ∃ t, Sys2Proof.Machine.exec (.pendingResolution line) s = .next t ∧ manState (t.manifest (localLine e.anchor)) = 4 ∧ (t.line line).side = none)) ∧
    ((s.line line).side = some e → e.pending = false → ∀ c, e.settled = some c → c + 65536 ≤ s.dcc →
      ∃ t, Sys2Proof.Machine.exec (.retentionEnd line) s = .next t ∧ t.glob = s.glob ∧ (t.line line).side = none ∧ t.msgs = s.msgs)
namespace Sys2Proof.Claims
open Sys2Proof.Machine

/-! ## Fabric and adits -/

/-- A register-access error (R4, R17): counted, logged, and nothing else. -/
def Refused (s t : State) : Prop :=
  t = { s with mg := t.mg } ∧ t.mg.regerr = min (s.mg.regerr + 1) (2 ^ 32 - 1) ∧ t.mg = { s.mg with regerr := t.mg.regerr, box := t.mg.box, boxHead := t.mg.boxHead }

/-- Adit n changes to a, and nothing else of the fabric does. -/
def AditBecomes (s t : State) (n : Fin 36) (a : Adit) : Prop := t = { s with fab := { s.fab with adits := s.fab.adits.set n a } }

/-- Adit n. -/
def aditNow (s : State) (n : Fin 36) : Adit := s.fab.adits[n]

end Sys2Proof.Claims

/-- R271 to R280 and R289: a packet that its port takes is added to the window and counted, the last one takes its job, and one that does not fit or is of
another context changes nothing; a commit of the topology map that is asked for is busy until it is done, and then gives the snapshot a new generation
or the error; a die link that comes up or goes down shows in the live links; a packet goes one hop further over a live die link, and one comes in over
an adit that carries traffic, or that stops or drains; a failure notice comes in over the adit by which its request left, retraces the dies that the
request crossed, and delivers its route fault at the operation; and an operation that is not answered in 2^24 cycles delivers cause TIMEOUT. Remote
packages stand outside the model (log 11), messages about bundles between packages are the model's (log 71), and so is a hop to the die's own link (log 74). -/
def Obligations.FabricEventsTakeEffect : Prop :=
  ∀ (s : State) (k : Nat) (p : Packet) (rx : RxPacket) (q : Port) (o : FabOp) (cause i n : Nat) (d : Sys2Proof.SNum) (up : Bool) (die : Fin 4) (exit : Nat) (inp : InPacket),
    (s.port? rx.core rx.port = none ∨ (∀ m, m < 36 → s.lemOpen m = false) → Sys2Proof.Machine.exec (.receivePacket rx) s = .next s) ∧
    (s.port? rx.core rx.port = some q → n < 36 → s.lemOpen n = true → let n := rx.data.length
      let after := recvBytes q.fmt (((s.sh? q.sh).map fun x => ftzOf x.sp.stat).getD false) (s.pad.bytes (padKey rx.core (q.window + rx.off)) n) rx.data
      (q.ctx ≠ rx.ctx ∨ q.wlen < rx.off + n ∨ q.elen < q.received + n → Sys2Proof.Machine.exec (.receivePacket rx) s = .next s) ∧
      (q.ctx = rx.ctx → rx.off + n ≤ q.wlen → q.cnten = false →
        (q.received + n < q.elen → ∃ t z, Sys2Proof.Machine.exec (.receivePacket rx) s = .next t ∧ t.port? rx.core rx.port = some z ∧ z.received = q.received + n ∧
          t.pad = s.pad.put (padKey rx.core (q.window + rx.off)) after.1 ∧ t.glob = s.glob ∧ t.shifts = s.shifts) ∧
        (q.received + n = q.elen → ∃ t, Sys2Proof.Machine.exec (.receivePacket rx) s = .next t ∧ t.port? rx.core rx.port = none ∧
          t.pad = s.pad.put (padKey rx.core (q.window + rx.off)) after.1 ∧ t.jobs = s.jobs.filter (fun j => j.id != q.job) ∧ t.glob = s.glob))) ∧
    (s.fab.tbusy = false → Sys2Proof.Machine.exec (.tmapcmtGo 64 1) s = .next { s with fab := { s.fab with tbusy := true, terr := false } }) ∧
    (s.fab.tbusy = true →
      (s.readMap = none → Sys2Proof.Machine.exec .tmapCommitDone s = .next { s with fab := { s.fab with tbusy := false, terr := true } }) ∧
      ∀ l, s.readMap = some l → ∃ t, Sys2Proof.Machine.exec .tmapCommitDone s = .next t ∧ t.fab.tbusy = false ∧ t.fab.tgen = (s.fab.tgen + 1) % 2 ^ 64 ∧
        t.fab.snapshot = l.map fun e => if e.pkg = s.mg.idpkg ∧ e.srcsw = false then { e with up := s.liveUp e.die e.exit } else e) ∧
    (9 ≤ exit → exit < 13 → (∀ z : Fin 4, 28 + z.val ∉ s.mg.off) → ∃ t, Sys2Proof.Machine.exec (.linkStateChange die.val exit up) s = .next t ∧ t.liveUp die.val exit = up ∧
      t.fab.tgen = (if s.liveUp die.val exit = up then s.fab.tgen else (s.fab.tgen + 1) % 2 ^ 64) ∧ t.shifts = s.shifts) ∧
    (∀ h rest, s.fab.pkts[k]? = some p → p.resp = false → s.pktBefore k p = false → p.hops = h :: rest → 9 ≤ h.toNat / 16 → h.toNat / 16 ≤ 12 → s.liveUp p.die (h.toNat / 16) = true →
      ∃ t, Sys2Proof.Machine.exec (.packetForward k none) s = .next t ∧ t.fab.pkts[k]? = some { p with die := h.toNat / 16 - 9, hops := rest, path := p.die :: p.path, fresh := false } ∧
        t.fab.pkts.length = s.fab.pkts.length) ∧
    ((∀ a b c e, inp.act ≠ .resp a b c e) → inp.adit < 36 →
      (s.lemOpen inp.adit = true →
        ∃ t z, Sys2Proof.Machine.exec (.packetForward k (some inp)) s = .next t ∧ t.fab.pkts = s.fab.pkts ++ [z] ∧ z.act = inp.act ∧ z.hops = inp.hops ∧ z.key = inp.key ∧
          z.die = inp.adit / 9 ∧ z.src = some inp.adit ∧ z.resp = false) ∧
      (s.lemOpen inp.adit = false → Sys2Proof.Machine.exec (.packetForward k (some inp)) s = .next s)) ∧
    (s.fab.pkts[k]? = some p → p.resp = true → p.path = [] → p.src = none → p.op = some o.id → p.note = some cause → cause < 16 → s.op? o.id = some o → o.kind = 1 → o.sh = some i →
      o.dst = some d → ∃ t, Sys2Proof.Machine.exec (.packetForward k none) s = .next t ∧ (∀ a ∈ t.fab.ops, a.id ≠ o.id) ∧ t.fab.pkts.length + 1 = s.fab.pkts.length ∧
        t.msgs = s.msgs ++ [.arrive i (some d) 0 0 (some { o.info with code := 0x0E, cause := cause })]) ∧
    (s.op? k = some o → o.kind = 1 → o.sh = some i → o.dst = some d →
      (o.adit = some n → s.lemOpen n = true → ∃ t z, Sys2Proof.Machine.exec (.failureNotice k cause) s = .next t ∧ t.fab.pkts = s.fab.pkts ++ [z] ∧ z.op = some k ∧ z.resp = true ∧
        z.note = some cause ∧ z.die = n / 9 ∧ z.path = o.path ∧ t.fab.ops = s.fab.ops ∧ t.msgs = s.msgs) ∧
      (o.adit = none → Sys2Proof.Machine.exec (.failureNotice k cause) s = .next s) ∧
      (o.since + 2 ^ 24 ≤ s.dcc → o.late = none → ∃ t, Sys2Proof.Machine.exec (.fabricTimeout k) s = .next t ∧ (∀ a ∈ t.fab.ops, a.id ≠ k) ∧
        t.msgs = s.msgs ++ [.arrive i (some d) 0 0 (some { o.info with code := 0x0E, cause := 9 })]) ∧
      (s.dcc < o.since + 2 ^ 24 → Sys2Proof.Machine.exec (.fabricTimeout k) s = .next s))

/-- R279, R281, R282 and R292 to R299: a lane out of service leaves GOOD; a write of LEMLN at either end is taken, and lanes begin to turn where the two
ends agree, and only there; the end of the turn makes them the lanes in use; a write of ADCTL sets the drain limit and the personality, and its GO stops the adit; a
drained adit goes on to its fence, and where no write that it took in is open to training, by itself or at its limit; a trained adit is UP in its
personality with the ports or the width that its lanes allow, and one that fails is down with its error; a window goes OFF and closes once nothing is
out over it; a peer's read is answered with the bytes, kept while it must wait, or refused where the adit is not UP in UAL; and the register writes of
another function are refused. The report of the peer's LEMLN (log 75), the pairing of lanes (log 76), the key slot of a UALink peer (log 22) and that what a
peer or a device answers is an event (log 11) are the model's choices. -/
def Obligations.AditEventsTakeEffect : Prop :=
  ∀ (s : State) (n : Fin 36) (lane : Fin 8) (v : Word) (devGib pa : Nat),
    let a := aditNow s n
    (a.good.getLsbD lane.val = true → ∃ t, Sys2Proof.Machine.exec (.laneOutOfService n.val lane.val) s = .next t ∧ (aditNow t n).good.getLsbD lane.val = false ∧ (aditNow t n).st = a.st) ∧
    (a.good.getLsbD lane.val = false → Sys2Proof.Machine.exec (.laneOutOfService n.val lane.val) s = .next s) ∧
    (let dir := v.extractLsb' 0 8
     let both := a.good &&& a.peerGood
     v.toNat < 2 ^ 25 → a.st = 1 → a.cur = 3 → a.good &&& dir ≠ 0 → a.good &&& ~~~dir ≠ 0 →
      ∃ t, Sys2Proof.Machine.exec (.lemlnWrite 64 n.val v) s = .next t ∧
        AditBecomes s t n { a with dir := dir, turn := dir != a.lcur && (dir &&& both) == (~~~a.peerDir &&& both) }) ∧
    (∃ t, Sys2Proof.Machine.exec (.lemlnWrite 65 n.val v) s = .next t ∧ (aditNow t n).peerDir = v.extractLsb' 0 8 ∧ (aditNow t n).peerGood = v.extractLsb' 16 8 ∧ (aditNow t n).dir = a.dir) ∧
    (let agree : Prop := let both := a.good &&& a.peerGood; a.st = 1 ∧ a.cur = 3 ∧ a.dir ≠ a.lcur ∧ a.dir &&& both = ~~~a.peerDir &&& both
     (a.turn = true → agree → ∃ t, Sys2Proof.Machine.exec (.laneTurnDone n.val) s = .next t ∧ (aditNow t n).lcur = a.dir ∧ (aditNow t n).turn = false ∧ (aditNow t n).st = a.st) ∧
      (a.turn = false ∨ ¬agree → Sys2Proof.Machine.exec (.laneTurnDone n.val) s = .next s)) ∧
    (let lg := v.toNat / 256 % 32
     let pers := v.toNat / 2 % 4
     v.toNat < 2 ^ 13 → v.toNat / 8 % 32 = 0 → 10 ≤ lg → lg ≤ 24 →
      (v.toNat % 2 = 0 → ∃ t, Sys2Proof.Machine.exec (.adctlGo 64 n.val v) s = .next t ∧ AditBecomes s t n { a with drainlg := lg, pers := pers }) ∧
      (v.toNat % 2 = 1 → a.st ≤ 1 → (pers = 3 → s.mg.idpkg ≠ 0xFFF) → (a.st = 1 → a.cur = 0 → a.winEn = true → pers = 0) → a.turn = false →
        ∃ t, Sys2Proof.Machine.exec (.adctlGo 64 n.val v) s = .next t ∧ (aditNow t n).st = 3 ∧ (aditNow t n).drainFrom = s.dcc ∧ (aditNow t n).drainlg = lg ∧ (aditNow t n).pers = pers)) ∧
    (let fenced : Bool := !(s.fab.pkts.any fun p => p.writeOf n.val)
     a.st = 3 →
      (s.aditBusy n.val = false → ∃ t, Sys2Proof.Machine.exec (.aditDrainEnd n.val) s = .next t ∧ AditBecomes s t n { a with st := if fenced then 5 else 4 }) ∧
      (s.aditBusy n.val = true → Sys2Proof.Machine.exec (.aditDrainEnd n.val) s = .next s) ∧
      (a.drainFrom + 2 ^ a.drainlg ≤ s.dcc → ∃ t, Sys2Proof.Machine.exec (.aditDrainLimit n.val) s = .next t ∧
        (aditNow t n).st = if t.fab.pkts.any (fun p => p.writeOf n.val) then 4 else 5) ∧
      (s.dcc < a.drainFrom + 2 ^ a.drainlg → Sys2Proof.Machine.exec (.aditDrainLimit n.val) s = .next s)) ∧
    (a.st = 5 →
      (∃ t, Sys2Proof.Machine.exec (.aditTrainDone n.val false devGib) s = .next t ∧ AditBecomes s t n { a with err := 3, st := 0 }) ∧
      (a.trains = false ∨ 65 + n.val ∈ s.mg.off → ∃ t, Sys2Proof.Machine.exec (.aditTrainDone n.val true devGib) s = .next t ∧ AditBecomes s t n { a with err := 3, st := 0 }) ∧
      (65 + n.val ∉ s.mg.off → a.trains = true → a.pers = 0 → ∃ t, Sys2Proof.Machine.exec (.aditTrainDone n.val true 0) s = .next t ∧ AditBecomes s t n { a with err := 4, st := 0 }) ∧
      (65 + n.val ∉ s.mg.off → a.trains = true → a.pers = 0 → devGib ≠ 0 →
        (s.windowFits n.val devGib = false → ∃ t, Sys2Proof.Machine.exec (.aditTrainDone n.val true devGib) s = .next t ∧ AditBecomes s t n { a with err := 5, st := 0 }) ∧
        (s.windowFits n.val devGib = true → ∃ t, Sys2Proof.Machine.exec (.aditTrainDone n.val true devGib) s = .next t ∧ (aditNow t n).st = 1 ∧ (aditNow t n).cur = 0 ∧ (aditNow t n).err = 0 ∧
          (aditNow t n).winEn = true ∧ (aditNow t n).width = a.memWidth)) ∧
      (65 + n.val ∉ s.mg.off → a.trains = true → a.pers ≠ 0 → ∃ t, Sys2Proof.Machine.exec (.aditTrainDone n.val true devGib) s = .next t ∧ (aditNow t n).st = 1 ∧ (aditNow t n).cur = a.pers ∧ (aditNow t n).err = 0 ∧
        (aditNow t n).ports = if a.pers = 1 ∨ a.pers = 2 then a.pairs else 0)) ∧
    (v.toNat = 2 ^ 62 + a.winBase * 2 ^ 30 + a.winSize → a.winBase < 2 ^ 22 → a.winSize < 2 ^ 16 → a.winEn = true → a.closing = false →
      ∃ t, Sys2Proof.Machine.exec (.adwinOff 64 n.val v) s = .next t ∧ AditBecomes s t n { a with closing := true, offFrom := s.dcc }) ∧
    (a.closing = true →
      ((∀ m ∈ s.msgs, m.overAdit s n.val a.offFrom = false) → ∃ t, Sys2Proof.Machine.exec (.adwinCloseDone n.val) s = .next t ∧ AditBecomes s t n { a with closing := false, winEn := false }) ∧
      (a.offFrom + 2 ^ a.drainlg ≤ s.dcc → ∃ t, Sys2Proof.Machine.exec (.adwinCloseDone n.val) s = .next t ∧ (aditNow t n).closing = false ∧ (aditNow t n).winEn = false) ∧
      (s.dcc < a.offFrom + 2 ^ a.drainlg → (∃ m ∈ s.msgs, m.overAdit s n.val a.offFrom = true) → Sys2Proof.Machine.exec (.adwinCloseDone n.val) s = .next s)) ∧
    (a.st = 1 → a.cur = 1 →
      (s.ualWaits s.fab.uals n.val (.read pa 32) = true → Sys2Proof.Machine.exec (.ualRequest n.val (.read pa 32)) s = .next { s with fab := { s.fab with uals := s.fab.uals ++ [(n.val, .read pa 32)] } }) ∧
      (s.ualWaits s.fab.uals n.val (.read pa 32) = false → pa % 32 = 0 → s.ualThere pa 32 = true → (s.homeRead (.glob pa ualKey) 32).2.1 = false →
        Sys2Proof.Machine.exec (.ualRequest n.val (.read pa 32)) s = .next { s with replies := s.replies ++ [0 :: (s.homeRead (.glob pa ualKey) 32).1] })) ∧
    (a.st ≠ 1 ∨ a.cur ≠ 1 → Sys2Proof.Machine.exec (.ualRequest n.val (.read pa 32)) s = .next { s with replies := s.replies ++ [[1]] }) ∧
    ∀ fn, fn ≠ 64 → (fn ≠ 65 → ∃ t, Sys2Proof.Machine.exec (.lemlnWrite fn n.val v) s = .next t ∧ Refused s t) ∧ (∃ t, Sys2Proof.Machine.exec (.adctlGo fn n.val v) s = .next t ∧ Refused s t) ∧
      (∃ t, Sys2Proof.Machine.exec (.adwinOff fn n.val v) s = .next t ∧ Refused s t) ∧ ∃ t, Sys2Proof.Machine.exec (.tmapcmtGo fn v) s = .next t ∧ Refused s t

/-- R337 and R343 to R347: a walk caches its translation, adding no other, and one that would fault has no effect; a GO of an invalidation at the physical
function's port is open until no access that it must wait for is under way, and then no translation that it covers is cached and the count of the port
goes up; each die's acknowledgement of a duplicated page is struck from its record, and the last one ends the record with every cached translation of
that leaf. KIND 0 covers the translations of the context whose first-stage page holds the address, KIND 1 those of its region, KIND 2 those of the context,
KINDs 3 and 4 those of the context with a second stage, and KIND 5 all; of the cached entries above the leaves, those of the context that serve them: how
far a kind reaches beyond the page, region or context that it names is the model's choice (log 53), and which entry a full TLB gives up too (log 72). -/
def Obligations.TranslationEventsTakeEffect : Prop :=
  ∀ (s : State) (unit ctx k die a c : Nat) (va : Addr) (kind : AccKind) (v : Word) (e : Tlb) (f : WalkFault) (r : Collapse),
    (s.walk unit ctx va.toNat (kind == .write) (kind == .fetch) = .ok e → ∃ t, Sys2Proof.Machine.exec (.pageWalk unit ctx va kind) s = .next t ∧ t = { s with tlb := t.tlb, uppers := t.uppers } ∧ e ∈ t.tlb ∧
      ∀ x ∈ t.tlb, x ≠ e → x ∈ s.tlb) ∧
    (s.walk unit ctx va.toNat (kind == .write) (kind == .fetch) = .error f → Sys2Proof.Machine.exec (.pageWalk unit ctx va kind) s = .next s) ∧
    (∀ i : Instr, (i, k) ∈ [(.tlbiPage 64 64 v, 0), (.tlbiRegion 64 64 v, 1), (.tlbiContext 64 64 v, 2), (.tlbiS2Page 64 64 v, 3), (.tlbiS2Context 64 64 v, 4), (.tlbiAll 64 64 v, 5)] →
      c < 4096 → v.toNat = c * 2 ^ 20 + k * 256 + 1 →
      ((s.func 64).topen = none → ∃ t, Sys2Proof.Machine.exec i s = .next t ∧ (t.func 64).topen = some (k, c, (s.func 64).tlbia.toNat) ∧ t.tlb = s.tlb ∧ t.mg = s.mg) ∧
      ((s.func 64).topen ≠ none → ∃ t, Sys2Proof.Machine.exec i s = .next t ∧ Refused s t)) ∧
    ((s.func unit).topen = some (k, c, a) → s.usesOpen k c = true → Sys2Proof.Machine.exec (.invalidationComplete unit) s = .next s) ∧
    (Safety.Rises s.funcs → (s.func unit).topen = some (k, c, a) → k ≤ 5 → s.usesOpen k c = false →
      ∃ t, Sys2Proof.Machine.exec (.invalidationComplete unit) s = .next t ∧ (t.func unit).topen = none ∧ (t.func unit).tdone = (s.func unit).tdone + 1 ∧ t.glob = s.glob ∧
        (∀ x : Tlb, x ∈ t.tlb ↔ x ∈ s.tlb ∧ ¬(k = 5 ∨ x.ctx = c ∧ (k = 2 ∨ k = 1 ∧ x.va / 2 ^ 57 = a / 2 ^ 45 % 2 ^ 15 ∨ k = 0 ∧ x.va / x.firstSize = a * 4096 / x.firstSize ∨
          (k = 3 ∨ k = 4) ∧ ∃ p ∈ x.path, p.stage = 2))) ∧
        ∀ u : Upper, let n := levelSize (u.level + 1)
          u ∈ t.uppers ↔ u ∈ s.uppers ∧ ¬(k = 5 ∨ u.ctx = c ∧ (2 ≤ k ∨ u.stage = 1 ∧ (k = 1 ∨ k = 0 ∧ u.base = a * 4096 % 2 ^ 57 / n * n)))) ∧
    (s.collapses[k]? = some r → r.dies.contains die = true → s.replicaRead r die = false →
      ((r.dies.filter fun d => d != die) ≠ [] → ∃ t, Sys2Proof.Machine.exec (.collapseAck k die) s = .next t ∧ t.collapses[k]? = some { r with dies := r.dies.filter fun d => d != die } ∧ t.glob = s.glob) ∧
      ((r.dies.filter fun d => d != die) = [] → (∀ d < 4, s.replicaRead r d = false) → s.pendLine (r.leaf / 128) = false → Sys2Proof.Machine.ownAhead s.msgs r.leaf = false →
        ∃ t, Sys2Proof.Machine.exec (.collapseAck k die) s = .next t ∧ (∀ x ∈ t.collapses, x.leaf ≠ r.leaf) ∧ ∀ x ∈ t.tlb, x.dupBy r.leaf = false))

/-- R342 and R350 to R360: dwords of key data collect, a load of a FREE slot with a whole pair makes it LIVE, a retirement makes it RETIRING, the sweep clears each line of the slot, and its end frees the slot; a virtual device is enabled and reset; an adapter is revoked, released and evicted;
and an attestation takes its nonce, its request, and its report. That the sweep clears side entries of the slot and pennants, that VFCTL with EN = 0 turns a
device OFF, and that ATTN keeps the last four dwords are the model's reading (log 55). -/
def Obligations.KeysAndTenantsTakeEffect : Prop :=
  ∀ (s : State) (id line vf ctx idx a : Nat) (v : Word) (r : Nat × Nat × List Word × Nat),
    (s.keys.seq.length < 9 → Sys2Proof.Machine.exec (.keydWrite 64 v) s = .next { s with keys := { s.keys with seq := s.keys.seq ++ [v] } }) ∧
    (id < 256 → v.toNat = id * 256 + 1 → s.keyState id = 0 → s.keys.seq.length = 8 → ∃ t, Sys2Proof.Machine.exec (.keyLoad 64 v) s = .next t ∧ t.keyState id = 1 ∧ t.keys.seq = [] ∧ t.mg = s.mg) ∧
    (0 < id → id < 256 → v.toNat = id * 256 + 2 → s.keyState id = 1 → ∃ t, Sys2Proof.Machine.exec (.keyRetire 64 v) s = .next t ∧ t.keyState id = 2 ∧ t.keys.seq = [] ∧ t.mg = s.mg) ∧
    (s.keyState id = 2 → (s.line line).tag = id → Safety.Rises s.lines → ∃ t, Sys2Proof.Machine.exec (.keySweepLine id line) s = .next t ∧ (t.line line).tag = 0 ∧ (t.line line).pennant = none ∧
      t.glob = s.glob.put (s.globAt (line * 128)) (List.replicate 128 0)) ∧
    (s.keyState id = 2 → (∀ l ∈ s.lines, l.2.bears id = false) → Safety.Rises s.keys.slots → ∃ t, Sys2Proof.Machine.exec (.keySweepEnd id) s = .next t ∧ t.keyState id = 0 ∧ t.glob = s.glob) ∧
    (vf < 64 → v.toNat = 1 → (s.func vf).vst = 0 → ∃ t, Sys2Proof.Machine.exec (.vfEnable 64 vf v) s = .next t ∧ (t.func vf).vst = 1 ∧ (t.func vf).en = true ∧ t.queues = s.queues) ∧
    (vf < 64 → v.toNat = 2 → (s.func vf).vst = 1 → ∃ t, Sys2Proof.Machine.exec (.vfReset vf vf v) s = .next t ∧ (t.func vf).vst = 2 ∧ ∀ q ∈ t.queues, q.2.fn = vf → q.2.st ≠ 1 ∧ q.2.st ≠ 2) ∧
    (ctx < 4096 → idx < 65536 → Safety.Rises s.ctxs → Safety.Rises (s.ctx ctx).pins →
      (v.toNat = 2 ^ 63 + idx → ∃ t, Sys2Proof.Machine.exec (.adrevRevoke 64 ctx v) s = .next t ∧ ((t.ctx ctx).pin idx).revoked = true ∧ ((t.ctx ctx).pin idx).count = ((s.ctx ctx).pin idx).count) ∧
      (v.toNat = 2 ^ 63 + 2 ^ 62 + idx → ∃ t, Sys2Proof.Machine.exec (.adrevClear 64 ctx v) s = .next t ∧ ((t.ctx ctx).pin idx).revoked = false)) ∧
    (Safety.Rises s.ctxs → Safety.Rises (s.ctx ctx).pins → ((s.ctx ctx).pin idx).count = 0 → ∃ t, Sys2Proof.Machine.exec (.adapterEviction ctx idx) s = .next t ∧ ((t.ctx ctx).pin idx).copy = none ∧ t.glob = s.glob) ∧
    (vf ≤ 64 → Safety.Rises s.funcs → ∃ t, Sys2Proof.Machine.exec (.attnWrite 64 vf v) s = .next t ∧ (t.func vf).nonce = (s.func vf).nonce.drop 1 ++ [v] ∧ t.mg = s.mg) ∧
    (a < 2 ^ 43 → v.toNat = a * 2 ^ 9 + 64 * 4 + 1 → (s.func 64).attReq = none → ∃ t k, Sys2Proof.Machine.exec (.attestGo 64 64 v) s = .next t ∧ (t.func 64).attReq = some (a * 512, 64, (s.func 64).nonce, k) ∧
      (t.func 64).attDone = false) ∧
    ((s.func vf).attReq = some r → (∀ f ∈ s.funcs, ∀ q, f.2.attReq = some q → r.2.2.2 ≤ q.2.2.2) → (∀ l ∈ s.lines, l.2.side = none) → s.collapses = [] →
      ∃ t, Sys2Proof.Machine.exec (.attestDone vf) s = .next t ∧ (t.func vf).attReq = none ∧ (t.func vf).attDone = true) ∧
    ∀ fn, fn ≠ 64 → ∀ i ∈ [Instr.keydWrite fn v, .keyLoad fn v, .keyRetire fn v, .adrevRevoke fn ctx v, .adrevClear fn ctx v, .idpkgWrite fn v, .memilWrite fn v, .fwctlGo fn v, .pgretGo fn v],
      ∃ t, Sys2Proof.Machine.exec i s = .next t ∧ Refused s t

/-- R4, R17, R376 to R387 and R402: a whole read of a register answers its value, and one that the window does not give answers zeros and is counted;
IDPKG, MEMIL and BBSEL take their fields; the host reads and writes device memory; the scrubbers count their lines and quarters; a page is retired;
and mismatches, watchdogs and thermal limits leave their marks. Over the PCIe path a read meets memory behind a line that a device cache holds, whose
model is the model's own (log 60). A scrub command waits for the occupancy of its channel, or at escalation 3 for one cycle in 64; the occupancy, and what
the command finds, are free values (log 24). -/
def Obligations.RegistersAndErrorsTakeEffect : Prop :=
  ∀ (s : State) (fn off width h pa page : Nat) (n : Fin 16) (die : Fin 4) (v : Word) (working above : Bool) (bs : List Byte),
    ((width = 8 ∧ off % 8 = 0 ∨ width = 4 ∧ off % 4 = 0) → s.windowReads fn off = true → s.register (off / 8 * 8) = some v →
      Sys2Proof.Machine.exec (.registerRead fn off width) s = .next { s with replies := s.replies ++ [(bytesOf 8 v.toNat).drop (off % 8) |>.take width] }) ∧
    (s.windowReads fn off = false → ∃ t, Sys2Proof.Machine.exec (.registerRead fn off width) s = .next { t with replies := s.replies ++ [List.replicate width 0] } ∧ Refused s t) ∧
    (v.toNat < 4096 → Sys2Proof.Machine.exec (.registerWrite 64 0x7508 8 v) s = .next { s with mg := { s.mg with bbsel := v.toNat } }) ∧
    (off % 8 ≠ 0 → off / 8 ≠ 0x5408 / 8 → ∃ t, Sys2Proof.Machine.exec (.registerWrite fn off 8 v) s = .next t ∧ Refused s t) ∧
    (v.toNat < 4096 → (∀ m, (aditNow s m).st ≠ 1 ∨ (aditNow s m).cur = 0) → Sys2Proof.Machine.exec (.idpkgWrite 64 v) s = .next { s with mg := { s.mg with idpkg := v.toNat } }) ∧
    (Safety.Memories s → v.toNat < 4096 → (∀ c ∈ s.ctxs, c.2.rt.getLsbD 63 = false) → ∃ t, Sys2Proof.Machine.exec (.memilWrite 64 v) s = .next t ∧ t.mg.dil = v.setWidth 12 ∧
      ∀ a, a < stackedEnd → t.glob.get a = if v.getLsbD (a / 2 ^ 36) = s.mg.dil.getLsbD (a / 2 ^ 36) then s.glob.get a else 0) ∧
    (pa % 128 + bs.length ≤ 128 → bs ≠ [] → (s.homeRead (.glob pa (s.hostKey 64)) bs.length).2.1 = false →
      (∃ t, Sys2Proof.Machine.exec (.hostMemoryAccess ⟨false, 64⟩ pa bs.length none) s = .next t ∧ t.replies = s.replies ++ [(s.homeRead (.glob pa (s.hostKey 64)) bs.length).1] ∧ t.glob = s.glob) ∧
      ∀ c, NMap.get? s.cache (pa / 128) = some c → (s.homeRead (.glob pa (s.hostKey 64)) bs.length).2.2 = false →
        ∃ t, Sys2Proof.Machine.exec (.hostMemoryAccess ⟨true, 64⟩ pa bs.length none) s = .next t ∧ t.replies = s.replies ++ [(c.home.drop (pa % 128)).take bs.length] ∧ t.glob = s.glob) ∧
    (pa % 128 + bs.length ≤ 128 → bs ≠ [] → s.pendAt (.glob pa (s.hostKey 64)) = false → Sys2Proof.Machine.ownAhead s.msgs pa = false → s.collapsing pa = false → s.keyLive (s.hostKey 64) = true → s.retiredAt pa = false → s.windowShut pa = false →
      (s.line (pa / 128)).tag = s.hostKey 64 → NMap.get? s.cache (pa / 128) = none → ∀ pcie : Bool,
        ∃ t, Sys2Proof.Machine.exec (.hostMemoryAccess ⟨pcie, 64⟩ pa bs.length (some bs)) s = .next t ∧ t.glob = s.glob.put (s.globAt pa) bs ∧ t.replies = s.replies) ∧
    ((s.stack n.val).scrubs = true → (s.stack n.val).scrubbed < stackLines →
      (s.scrubMay n.val (s.stackLine n.val (s.stack n.val).scrubbed) = true →
        ∃ t, Sys2Proof.Machine.exec (.scrubCommand n.val) s = .next t ∧ (t.stack n.val).scrubbed = (s.stack n.val).scrubbed + 1 ∧ t.glob = s.glob ∧ t.free = s.free + 1) ∧
      ((s.stack n.val).esc < 3 → (s.stack n.val).thresh = 0 → Sys2Proof.Machine.exec (.scrubCommand n.val) s = .next s) ∧
      ((s.stack n.val).esc = 3 → (s.scrubMay n.val (s.stackLine n.val (s.stack n.val).scrubbed) = true ↔ s.dcc % 64 = 0))) ∧
    (let x := s.stack n.val
     x.scrubs = true → x.passAt + (x.quarter + 1) * 2 ^ x.passlg / 4 ≤ s.dcc →
      ∃ t, Sys2Proof.Machine.exec (.scrubQuarterEnd n.val) s = .next t ∧ (t.stack n.val).quarter = if x.quarter = 3 then 0 else x.quarter + 1) ∧
    (∃ t, Sys2Proof.Machine.exec (.onDieScrubPathFailure n.val working) s = .next t ∧ (t.stack n.val).ecsok = working ∧ (t.stack n.val).ce = (s.stack n.val).ce ∧ t.glob = s.glob) ∧
    (page < 2 ^ 40 → v.toNat = page * 4096 + 2 ^ 52 → page * 4096 < stackedEnd → s.mg.retired.length < 1024 → page ∉ s.mg.retired →
      ∃ t, Sys2Proof.Machine.exec (.pgretGo 64 v) s = .next t ∧ t.mg.retired = s.mg.retired ++ [page] ∧ t.glob = s.glob) ∧
    (s.mg.mmTimes = [] → ∃ t, Sys2Proof.Machine.exec .deputyMismatch s = .next t ∧ t = { s with mg := t.mg } ∧ t.mg.mismatch = min (s.mg.mismatch + 1) (2 ^ 32 - 1) ∧ t.mg.mmTimes = [s.dcc]) ∧
    (h < 8 → ∃ t, Sys2Proof.Machine.exec (.hewerWatchdog h) s = .next t ∧ t = { s with mg := t.mg } ∧ ∀ j, t.mg.hewers.getLsbD j = (s.mg.hewers.getLsbD j && j != h)) ∧
    (∃ t, Sys2Proof.Machine.exec (.thermalPlacementLimit die.val above) s = .next t ∧ t = { s with mg := t.mg } ∧ ∀ j : Fin 4, t.mg.hot.getLsbD j.val = if j = die then above else s.mg.hot.getLsbD j.val) ∧
    ∃ t, Sys2Proof.Machine.exec (.thermalLimit die.val) s = .next t ∧ t = { s with mg := t.mg } ∧ t.mg.powered = false ∧ t.mg.flushed = true ∧
      (t.mg.box.getLast?.map fun e => (e.kind, e.unit)) = some (10, die.val)

/-- R11, R294, R382 and R384: a cold reset gives the state of reset but for the outside world and the stores of the overman; a warm reset clears shifts,
jobs, messages and tables, and with nothing in flight keeps DCC and the keys; power-up brings up one unit after another, and takes a core that fails its
self test out of service; and firmware is checked by its bytes, started, replaced, and given up. What memory and registers with no reset value of the
manual hold after a cold reset (logs 3 and 9), what a warm reset keeps, and that a wake is POWER_ON, are
the model's choices (log 10), the verdict on an image is a free function of its bytes (log 5), which cores fail their self test is a free value (log 12), and
the adits left off stay off (log 94). -/
def Obligations.ResetsAndFirmwareTakeEffect : Prop :=
  ∀ (s : State) (v : Word) (a : Nat),
    (∃ t, Sys2Proof.Machine.exec .coldReset s = .next t ∧ t = { State.reset with
        agenda := s.agenda, host := s.host, irqs := s.irqs, replies := s.replies, free := s.free, mg := t.mg, fab := { Fabric.zero with adits := t.fab.adits } } ∧
      (∀ n : Fin 36, aditNow t n = { Adit.zero with down := s.mg.off.contains (65 + n.val) }) ∧
      t.mg.retired = s.mg.retired ∧ t.mg.idpkg = State.reset.mg.idpkg ∧ t.mg.powered = s.mg.powered ∧ t.mg.powerStep = s.mg.powerStep ∧ t.mg.off = s.mg.off) ∧
    (∃ t, Sys2Proof.Machine.exec .warmReset s = .next t ∧ t.shifts = [] ∧ t.jobs = [] ∧ t.msgs = [] ∧ t.tables = [] ∧ t.mg.idpkg = State.reset.mg.idpkg ∧
      (s.msgs = [] → s.queues = [] → s.fab.ops = [] → s.fab.pkts = [] → s.fab.uals = [] → t.dcc = s.dcc ∧ t.keys.slots = s.keys.slots)) ∧
    (s.mg.powered = true → s.mg.powerStep < 101 →
      (s.mg.powerStep < 32 ∨ 64 ≤ s.mg.powerStep → Sys2Proof.Machine.exec .powerOn s = .next { s with mg := { s.mg with powerStep := s.mg.powerStep + 1 } }) ∧
      (∀ crew < 32, s.mg.powerStep = 32 + crew → ∃ t, Sys2Proof.Machine.exec .powerOn s = .next t ∧
        t = { s with free := s.free + 1, mg := { s.mg with powerStep := s.mg.powerStep + 1, coresvc := t.mg.coresvc } } ∧
        ∀ k, (t.mg.coresvc.getLsbD k = true → s.mg.coresvc.getLsbD k = true) ∧ (k / 8 ≠ crew → t.mg.coresvc.getLsbD k = s.mg.coresvc.getLsbD k)) ∧
      ∃ t, Sys2Proof.Machine.exec .powerStepLimit s = .next t ∧ t.mg.powerStep = s.mg.powerStep + 1 ∧ t.mg.off = s.mg.off ++ [s.mg.powerStep] ∧ t.glob = s.glob ∧ t.shifts = s.shifts) ∧
    (s.mg.powered = false → ∃ t, Sys2Proof.Machine.exec .powerOn s = .next t ∧ t.mg.powerStep = 0 ∧ t.mg.powered = true ∧ t.mg.off = [] ∧ t.shifts = [] ∧ t.dcc = 0) ∧
    (s.mg.fwState = 0 → ∃ t, Sys2Proof.Machine.exec .firmwareBoot s = .next t ∧ t = { s with mg := t.mg } ∧ (t.mg.fwState = 1 ∨ t.mg.fwState = 2 ∧ t.mg.version = 0 ∧ t.mg.build = 0)) ∧
    (s.mg.fwState = 0 → s.mg.fwSince + 2 ^ 32 ≤ s.dcc → Sys2Proof.Machine.exec .firmwareStartTimeout s = .next { s with mg := { s.mg with fwState := 2, version := 0, build := 0 } }) ∧
    (a < 2 ^ 40 → v.toNat = a * 4096 + 1 → s.mg.fwBusy = false → Sys2Proof.Machine.exec (.fwctlGo 64 v) s = .next { s with mg := { s.mg with fwAddr := a, fwBusy := true, fwErr := false } }) ∧
    (s.mg.fwBusy = true → ∃ t, Sys2Proof.Machine.exec .fwVerifyDone s = .next t ∧ t = { s with mg := t.mg } ∧ t.mg.fwBusy = false ∧
      let image := Config.firmwareAt (s.bytesFrom (s.mg.fwAddr * 4096))
      (Config.firmwareValid image = false → t.mg.fwErr = true ∧ t.mg.fwStored = s.mg.fwStored) ∧
      (Config.firmwareValid image = true → t.mg.fwStored = image ∧ (s.mg.fwState = 2 → t.mg.fwState = 1)))

/-- R388 to R400 and R299: a queue that may run is enabled and, disabled, drains; its tail and its completion head are written; its next packet is taken or puts it in error; packets start, and a cache operation walks its range; a completion is written where there is room, and the
interrupt timer sends its message to the address of its vector, where the function's table lists one (that table's form is the model's reading, log 96); a
device cache's line gives its dirty bytes back to its home, and is dropped where an INV or a LAUNCH invalidates it (which lines a device caches stands outside
the part: logs 16 and 60; completions and queues in the corners of their registers follow log 52, and what an adit's peer sends is an event: log 11); an adit transfer moves a piece between its buffer and a port that is up, and ends with its last byte, and over an adit that carries none it ends with status 3. -/
def Obligations.HostQueuesTakeEffect : Prop :=
  ∀ (s : State) (q idx st d : Nat) (v : Word) (readable : Bool) (p : Pkt) (t' : State) (f : FaultInfo) (c : Cpl) (rest : List Cpl) (data : List Byte) (bufs : List (Nat × Nat × Nat)),
    let Q := s.queue q
    q < 65536 → Safety.Rises s.queues →
    (Q.st = 0 → v.getLsbD 63 = true → v.toNat / 2 ^ 55 % 2 ^ 7 = 0 → v.toNat / 2 ^ 47 % 2 = 0 → v.toNat / 2 ^ 5 % 2 ^ 23 = 0 → s.queueMayRun Q v = true →
      ∃ t, Sys2Proof.Machine.exec (.qcfgEnable 64 q v) s = .next t ∧ (t.queue q).st = 1 ∧ (t.queue q).cfg = v ∧ (t.queue q).head = 0 ∧ (t.queue q).tail = 0 ∧ t.mg = s.mg) ∧
    (Q.st ≠ 0 → Q.cfg.getLsbD 63 = true → v = Q.cfg &&& 0x7FFFFFFFFFFFFFFF → v.toNat / 2 ^ 55 % 2 ^ 7 = 0 → v.toNat / 2 ^ 47 % 2 = 0 → v.toNat / 2 ^ 5 % 2 ^ 23 = 0 →
      ∃ t, Sys2Proof.Machine.exec (.qcfgDisable 64 q v) s = .next t ∧ (t.queue q).st = 3 ∧ (t.queue q).pkts = Q.pkts ∧ t.mg = s.mg) ∧
    (Q.st = 3 → Q.pkts = [] → Q.cpls = [] → ∃ t, Sys2Proof.Machine.exec (.queueDrainEnd q) s = .next t ∧ (t.queue q).st = 0 ∧ (t.queue q).cfg = Q.cfg) ∧
    (v.toNat < 2 ^ 32 → s.mg.fwState = 1 → Q.st = 1 → (v.setWidth 32 - Q.head).toNat ≤ Q.slots → (v.setWidth 32 - Q.tail).toNat ≤ Q.slots →
      ∃ t, Sys2Proof.Machine.exec (.qtailWrite 64 q v) s = .next t ∧ (t.queue q).tail = v.setWidth 32 ∧ (t.queue q).head = Q.head) ∧
    (∃ t, Sys2Proof.Machine.exec (.qcheadWrite 64 q v) s = .next t ∧ (t.queue q).chead = v.setWidth 32 ∧ (t.queue q).cwrite = Q.cwrite) ∧
    (s.parseTurn q = true →
      (s.checkPacket (!Q.cfg.getLsbD 62) (s.headPacket Q) readable = .ok bufs → ∃ t x, Sys2Proof.Machine.exec (.packetParse q readable) s = .next t ∧ (t.queue q).head = Q.head + 1 ∧
        (t.queue q).pkts = Q.pkts ++ [x] ∧ x.idx = Q.head.toNat ∧ x.bufs = bufs ∧ x.started = false) ∧
      (s.checkPacket (!Q.cfg.getLsbD 62) (s.headPacket Q) readable = .error (st, d) → ∃ t x, Sys2Proof.Machine.exec (.packetParse q readable) s = .next t ∧ (t.queue q).st = 2 ∧ (t.queue q).errst = st ∧
        (t.queue q).cpls = Q.cpls ++ [x] ∧ x.status = st ∧ x.detail = BitVec.ofNat 64 d ∧ (t.queue q).head = Q.head)) ∧
    (Q.pkts.find? (fun x => x.idx == idx) = some p →
      (s.startReady Q p = true → ∃ t, Sys2Proof.Machine.exec (.packetStart q idx) s = .next t ∧ (t.queue q).pkts = Q.pkts.map fun x => if x.idx = idx then { x with started := true } else x) ∧
      (p.hd % 256 = 2 → p.started = true → (s.ctx Q.ctx).frzState = 0 → let b := p.bufs.headD (0, 0, 0)
        (s.walkRange Q.ctx (b.2.1 / 4096 + 2) b.1 b.2.1 = .ok t' →
          Sys2Proof.Machine.exec (.cmo q idx) s = .next ((t'.cacheRange (((p.dw[2]?).getD 0).toNat / 256 % 4 == 2) Q.ctx (b.2.1 / 4096 + 2) b.1 b.2.1).finishPkt q idx 0 0)) ∧
        (s.walkRange Q.ctx (b.2.1 / 4096 + 2) b.1 b.2.1 = .error f → Sys2Proof.Machine.exec (.cmo q idx) s = .next (s.finishPkt q idx 2 (f.code * 256 + tokenCause f * 65536)))) ∧
      (p.hd % 256 = 3 → p.started = true → (s.ctx (Q.cfg.toNat / 2 ^ 28 % 4096)).frzState = 0 → (s.adit p.aditx.2.1).cur ≠ 1 → (s.adit p.aditx.2.1).cur ≠ 2 →
        Sys2Proof.Machine.exec (.aditx q idx data) s = .next (s.finishPkt q idx 3 (p.moved.getD 0))) ∧
      (let ctx := Q.cfg.toNat / 2 ^ 28 % 4096
       let f := p.aditx
       let done := p.moved.getD 0
       let va := f.1 + done
       let n := data.length
       p.hd % 256 = 3 → p.started = true → (s.ctx ctx).frzState = 0 → (s.adit f.2.1).cur = 1 ∨ (s.adit f.2.1).cur = 2 → (s.adit f.2.1).st = 1 →
        (s.adit f.2.1).ports.getLsbD p.aditPort = true → 0 < n → done + n ≤ f.2.2.2 → n ≤ 32 - va % 32 →
        let more (u : State) : State := if done + n = f.2.2.2 then u.finishPkt q idx 0 0 else
          u.modQueue q fun Q => { Q with pkts := Q.pkts.map fun x => if x.idx = idx then { x with moved := some (done + n) } else x }
        (f.2.2.1 = true → s.virtPend ctx va = false → s.virtPut partUnit ctx va data = .ok t' → Sys2Proof.Machine.exec (.aditx q idx data) s = .next (more t')) ∧
        (∀ bs, f.2.2.1 = false → s.virtBytes partUnit ctx va n false = .ok bs →
          Sys2Proof.Machine.exec (.aditx q idx data) s = .next (more { (s.touchVirt partUnit ctx va n false) with replies := s.replies ++ [bs] })))) ∧
    (Q.cpls = c :: rest → (Q.cwrite - Q.chead).toNat < Q.entries → s.strayWrites = false → NMap.get? (s.func Q.fn).msix (Q.int.toNat / 2 ^ 32 % 2 ^ 11) = none →
      ∃ t, Sys2Proof.Machine.exec (.completionWrite q) s = .next t ∧ (t.queue q).cpls = rest ∧ (t.queue q).cwrite = Q.cwrite + 1 ∧
        t.host = s.host.put (Q.cpl.toNat / 64 * 64 + 16 * (Q.cwrite.toNat % Q.entries)) (cplBytes c (Q.cwrite.toNat / Q.entries % 2 == 0))) ∧
    (∀ n, NMap.get? (s.func Q.fn).msix (Q.live.toNat / 2 ^ 32 % 2 ^ 11) = none → Q.oldest = some n → Q.live.getLsbD 63 = true → 0 < Q.counted → Q.live.toNat / 2 ^ 16 % 2 ^ 16 ≠ 0 → n + Q.live.toNat / 2 ^ 16 % 2 ^ 16 * 1024 ≤ s.dcc →
      ∃ t, Sys2Proof.Machine.exec (.interruptTimer q) s = .next t ∧ t.irqs = s.irqs ++ [(Q.fn, Q.live.toNat / 2 ^ 32 % 2 ^ 11)] ∧ (t.queue q).counted = 0 ∧ (t.queue q).oldest = none ∧ t.host = s.host) ∧
    (∀ n m, NMap.get? (s.func Q.fn).msix (Q.live.toNat / 2 ^ 32 % 2 ^ 11) = some m → Q.oldest = some n → Q.live.getLsbD 63 = true → 0 < Q.counted → Q.live.toNat / 2 ^ 16 % 2 ^ 16 ≠ 0 →
      n + Q.live.toNat / 2 ^ 16 % 2 ^ 16 * 1024 ≤ s.dcc → m.masked = false →
      ∃ t, Sys2Proof.Machine.exec (.interruptTimer q) s = .next t ∧ t.irqs = s.irqs ++ [(Q.fn, Q.live.toNat / 2 ^ 32 % 2 ^ 11)] ∧ t.host = s.host.put m.addr.toNat (bytesOf 4 m.data.toNat)) ∧
    ∀ (line : Nat) (c : Held), NMap.get? s.cache line = some c → Safety.Memories s → Safety.Rises s.cache →
      let home := s.globAt (line * 128)
      (∀ j, j < 128 → (s.cacheBack true line).glob.get (home + j) = if c.dirty.getLsbD j then s.glob.get (home + j) else (c.home[j]?).getD 0) ∧
        NMap.get? (s.cacheBack true line).cache line = none ∧ (s.cacheBack false line).glob = s.glob ∧
        ∃ b, NMap.get? (s.cacheBack false line).cache line = some b ∧ b.dirty = 0 ∧ ∀ j, j < 128 → (b.home[j]?).getD 0 = if c.dirty.getLsbD j then s.glob.get (home + j) else (c.home[j]?).getD 0

/-- R240 to R254 and R428 to R434: a launch that is ready brings its table in, or ends with the status of its first bad field; a node that passes its checks and clashes with none is checked, and one that fails them fails; a condition that is malformed or unreadable fails its node, and
one that is false goes on to its exits; a node whose shifts have ended is complete; the dispatcher places what it can; a window ends; and a context freezes, writes its image, and thaws.
Which bad node a launch reports, and how a node ends whose signal or condition word faults, are the model's reading (log 49). -/
def Obligations.GraphsAndFreezesTakeEffect : Prop :=
  ∀ (s : State) (q idx t n st d ctx k e : Nat) (v : Word) (p : Pkt) (T : GTable) (x y : Node) (bs : List Byte) (f : FaultInfo),
    ((s.queue q).pkts.find? (fun z => z.idx == idx) = some p → s.launchReady q p = true → let c := (s.queue q).cfg.toNat
      (s.readTable (c / 2 ^ 28 % 2 ^ 12) p.launchAddr q idx (c / 2 ^ 40 % 2 ^ 7) = .error (st, d) →
        Sys2Proof.Machine.exec (.launch q idx) s = .next ((s.sawTable (c / 2 ^ 28 % 2 ^ 12) p.launchAddr).finishPkt q idx st d)) ∧
      (s.readTable (c / 2 ^ 28 % 2 ^ 12) p.launchAddr q idx (c / 2 ^ 40 % 2 ^ 7) = .ok T → s.freeTable = some k → ∃ u : State, Sys2Proof.Machine.exec (.launch q idx) s = .next ((u.armTable k).launchFinish k) ∧
        u.table? k = some T ∧ u.shifts = s.shifts)) ∧
    (s.table? t = some T → s.node? t n = some x → (s.ctx T.ctx).frzState = 0 →
      (x.state = 2 → x.kind = 0 → x.checked = false → x.ready < s.dcc → s.earlierUnchecked (t, n, x) = false →
        (s.checkNode T x = .error e → Sys2Proof.Machine.exec (.nodeCheck t n) s = .next ((s.sawHeaders T x).nodeFail t n e)) ∧
        (s.checkNode T x = .ok y → s.earlierClash (t, n, y) T.ctx = [] → Sys2Proof.Machine.exec (.nodeCheck t n) s = .next ((s.sawHeaders T x).setNode t n fun _ => { y with checked := true })) ∧
        (∀ z zs, s.checkNode T x = .ok y → s.earlierClash (t, n, y) T.ctx = z :: zs → Sys2Proof.Machine.exec (.nodeCheck t n) s = .next ((s.sawHeaders T x).waitFor t n y (z :: zs)))) ∧
      (let lo := x.d 10 / 2 ^ 16 % 2 ^ 16
       let hi := x.d 10 / 2 ^ 32 % 2 ^ 16
       x.state = 2 → x.kind = 1 →
        (5 < x.d 10 % 8 ∨ hi < lo ∨ T.nodes.length ≤ hi → Sys2Proof.Machine.exec (.condEvaluate t n) s = .next (s.nodeFail t n 0x0B)) ∧
        (x.d 10 % 8 ≤ 5 → lo ≤ hi → hi < T.nodes.length →
          (s.virtBytes partUnit T.ctx x.condaddr 8 false = .error f → Sys2Proof.Machine.exec (.condEvaluate t n) s = .next (s.nodeFail t n 0x0F)) ∧
          (s.virtBytes partUnit T.ctx x.condaddr 8 false = .ok bs → condCode (x.d 10 % 8) (BitVec.ofNat 64 (number bs)) (BitVec.ofNat 64 (x.d 9)) = false →
            Sys2Proof.Machine.exec (.condEvaluate t n) s = .next (((s.touchVirt partUnit T.ctx x.condaddr 8 false).setNode t n fun x => { x with iter := 0 }).completeNode t n T
              { x with iter := 0 } (T.exits x))))) ∧
      (s.completeReady t n T x = true → Sys2Proof.Machine.exec (.nodeComplete t n) s = .next (s.completeNode t n T x (T.succs x))) ∧
      (s.windowOver T n x = true → ∃ u U, Sys2Proof.Machine.exec (.rebalanceWindowEnd t n) s = .next u ∧ u.table? t = some U ∧ NMap.get? U.windows n = some s.dcc ∧ (∀ a ∈ U.samples, a.node ≠ n) ∧
        u.shifts = s.shifts)) ∧
    (s.dispatchOrder = [] → s.switchedOut = [] → Sys2Proof.Machine.exec .dispatchDecision s = .next s) ∧
    (∀ r ps, s.switchedOut = [] → s.dispatchOrder = [r] → s.table? r.1 = some T → s.node? r.1 r.2.1 = some x → x.state = 2 → s.earlierClash (r.1, r.2.1, x) T.ctx = [] → s.plan T x = some ps →
      Sys2Proof.Machine.exec .dispatchDecision s = .next (s.placeNode r.1 r.2.1 T x ps)) ∧
    (ctx < 4096 →
      (v.getLsbD 0 = true → s.ctxfrzBad ctx v = false → ∃ u, Sys2Proof.Machine.exec (.freezeGo 64 ctx v) s = .next u ∧ (u.ctx ctx).frzState = 1 ∧ (u.ctx ctx).frzErr = 0 ∧ u.glob = s.glob) ∧
      ((s.ctx ctx).frzState = 1 → s.freezeQuiet ctx = true → s.frzTooBig ctx = false →
        let img := sealImage (s.imageBody ctx) (s.ctxQueues ctx).length (s.ctxShifts ctx).length
        s.frzUnwritable (s.frzBase ctx) img.length = false → s.frzWaits (s.frzBase ctx) img.length = false →
        ∃ u, Sys2Proof.Machine.exec (.freezeImageWrite ctx) s = .next u ∧ (u.ctx ctx).frzState = 2 ∧ (u.ctx ctx).frzErr = 0 ∧ ∀ a ∈ u.shifts, a.2.place.ctx ≠ ctx) ∧
      (v.getLsbD 1 = true → s.ctxfrzBad ctx v = false → Sys2Proof.Machine.exec (.thaw 64 ctx v) s = .next ((s.writeCtxfrz ctx v).thaw ctx)) ∧
      (Safety.Rises s.ctxs → (s.ctx ctx).frzState = 3 → ∃ u, Sys2Proof.Machine.exec (.thawComplete ctx) s = .next u ∧ (u.ctx ctx).frzState = 0 ∧ u.glob = s.glob))

/-- R262: LOOP counts its register down by one, wrapping, and transfers where the new count is not zero; a count of 0 wraps to all ones; LRD = 0 reads
zero, discards the result and always transfers; a taken transfer owes at least two stall cycles, so it takes at least three. -/
def Obligations.LoopsCountDownAndTransfer : Prop :=
  (∀ (d : Sys2Proof.SNum) (imm : BitVec 32) (s : State), s.cur.checked = true →
    let n : Word := BitVec.ofInt 64 ((s.rs d).toNat - 1)
    ∃ t, Sys2Proof.Machine.exec (.loop d imm) s = .next t ∧ t.shifts = (s.land 1 0 (.s d n)).shifts ∧
      t.cur.taken = (if n ≠ 0 then some ((s.cur.at_ : Int) + imm.toInt).toNat else s.cur.taken) ∧
      (s.rs d = 0 → n = BitVec.allOnes 64) ∧ (d = 0 → n ≠ 0)) ∧
  (∀ (x : Shift) (n : Word), (LandTo.toShift (.s 0 n) x).rs 0 = 0 ∧ LandTo.toShift (.s 0 n) x = x) ∧
  ∀ (s : State) (i a : Nat) (x y : Shift), s.sh? i = some x → s.cur.taken = some a → (s.endBundle i).sh? i = some y → y.regs.pc = a ∧ 2 ≤ y.tim.owed

/-- What stands at the boundary of shift k of core c, where nothing but its next bundle is to be done: no result lands, no matrix operation is under way, no
stall cycle is owed, no safe point, continuation, end, pre-emption or fault is pending, and a handler's frame has been performed (R366, R368). -/
def Sys2Proof.Claims.AtBoundary (s : State) (k : Nat) (x : Shift) : Prop :=
  s.sh? k = some x ∧ x.landings = [] ∧ x.mx.active = [] ∧ x.mx.queue = [] ∧ x.tim.owed = 0 ∧ x.tim.waitFrom = none ∧ x.tim.safe = none ∧ x.tim.safeWait = none ∧
    x.tim.halting = none ∧ x.conts = [] ∧ s.preemptDue k x = false ∧ s.pendingFaults k x = [] ∧ (4 ≤ k % 8 → s.frameAway (baseOf k) = false)

/-- R44 to R49, R366 and log 1: where the bytes at the PC decode to a word that ends its bundle, that carries one instruction and whose guard is true,
a step runs exactly that instruction: its checks first (a word that is held or trapped leaves what its check left), then its effect, after which the PC
moves to the next bundle or the target; then the lane sequencer has its step and the cycle ends. The translations that the fetch uses have been used first
(R338). A move of the agenda that is an event runs that event where the part's power allows it, and has no effect where it does not: what a part that is
not powered up does is the model's choice (log 94). -/
def Obligations.StepRunsTheDecodedWord : Prop :=
  (∀ (s t : State) (e : Instr) (rest : List Move), s.agenda = .act e :: rest →
    (s.allows e = true → Sys2Proof.Machine.exec e { s with agenda := rest, cur := Cur.zero } = .next t → Sys2Proof.Machine.step s = .next t.wakeGe) ∧
    (s.allows e = false → Sys2Proof.Machine.step s = .next (State.wakeGe { s with agenda := rest }))) ∧
  ∀ (s a b : State) (rest : List Move) (c k : Nat) (x : Shift) (w : Word) (bs : List Byte) (d : DWord) (i : Instr),
    s.mg.powered = true → (s.agenda = .cycle :: rest ∧ a = { s with agenda := rest }) ∨ (s.agenda = [] ∧ s.due = none ∧ a = s) →
    a.nextCore = some (c, k) →
    let r : State := { State.resume { a with turn := c + 1 } k with cur := { Cur.zero with sh := some k } }
    let after (t : State) : Host.Outcome State Fault Refusal := andThen (t.laneStep c k) fun u => .next (u.tick c k).wakeGe
    AtBoundary r k x → r.fetchUse x = some b →
    x.img.start ≤ x.regs.pc → x.regs.pc + 8 ≤ x.img.lim →
    b.codeBytes x (x.img.base.toNat + x.regs.pc) = .ok bs → w = BitVec.ofNat 64 (ofLE bs) →
    w.getLsbD 63 = true → decodeWord x.img.ev w = some d → d.ops = [i] → liveOk x i = true → tenantKey i = none → x.guardOf d = true →
    let h : State := { b with cur := { Cur.zero with sh := some k, at_ := x.regs.pc, npc := x.regs.pc + 8, stall := d.stall } }
    let e : State := { h with cur := { h.cur with raw := w } }
    let f : Fetched := { words := [(d, w)], stall := d.stall }
    h.routineHeld k x f = false → h.heldBefore k x f = false → x.shadowRead f = none → h.x.delayedAt i = none →
    ∀ t : State, Sys2Proof.Machine.exec i e = .next t →
      (t.cur.verdict = 1 ∨ t.cur.verdict = 2 → Sys2Proof.Machine.step s = after t) ∧
      (t.cur.verdict = 0 → ∀ u : State, Sys2Proof.Machine.exec i { (e.modSh k Shift.moveOn).dropWaiter k codeWait with cur := { e.cur with checked := true } } = .next u →
        Sys2Proof.Machine.step s = after (u.endBundle k))

/-- Words of every class written out from the encodings of chapters 3, 6, 7, 8, 10, 13, 14, 18 and 19 decode to the instructions that they stand for;
a word whose guard is g0 inverted, an unassigned opcode and a non-zero reserved field are refused (R48, R58, R4). -/
def Obligations.KnownWordsDecode : Prop :=
  decodeTableWord 64 0x8075_20C4_0000_0000 = some (.cmp .lt 2 3 4) ∧
  decodeTableWord 64 0xE014_1245_0000_0064 = some (.cmpi .geu 1 9 100) ∧
  decodeTableWord 64 0x8000_0000_2B29_4140 = some (.part 10 20 5) ∧
  decodeTableWord 64 0xC080_28C3_8000_0000 = some (.adpin false 5 6 7) ∧
  decodeTableWord 64 0xC012_2940_4200_000C = some (.atom .swap true .sys 5 { sp := .glob, xa := 10, disp := 0 } 0) ∧
  decodeTableWord 64 0xE058_9000_FFFF_FFF8 = some (.loop 9 0xFFFF_FFF8) ∧
  decodeTableWord 64 0xE080_0000_0000_0000 = some .halt ∧
  decodeTableWord 64 0xE08C_91C0_0000_0001 = some (.waitev 9 7 1) ∧
  decodeTableWord 64 0xE0A0_6001_0000_0000 = some (.tret true 6) ∧
  decodeTableWord 64 0x9000_0000_0000_0000 = none ∧ decodeTableWord 64 0x80E0_0000_0000_0000 = none ∧ decodeTableWord 64 0xE080_0000_0000_0001 = none

/-- The decoder gives back every well-formed instruction that one word carries, with every operand at every value that its field admits; no other
operands are admitted; and every word that decodes carries well-formed instructions only. -/
def Obligations.EncodeDecodeRoundTrip : Prop :=
  (∀ (i : Instr) (w : Word), encode i = some w → (decodeTableWord 64 w.toNat = some i ↔ i.wf = true)) ∧
  ∀ (w : Word) (d : DWord), decodeWord 3 w = some d → ∀ i ∈ d.ops, i.wf = true ∧ (encode i).isSome = true

/-- No WAITGE of this package waits past a value that passes (R205). -/
def Sys2Proof.Claims.NoneWaitsPast (s : State) : Prop :=
  ∀ w ∈ s.waiters, ∀ (h : Home) (d sg : Bool) (thr : Word), w.why = .ge h d sg thr → w.answer = none → (∀ r pa key, h ≠ .fab r pa key) →
    gePasses d sg (s.geValue w.sh h d) thr = false

/-- R205: a step that gives a next state leaves no WAITGE waiting past a value that passes. -/
def Obligations.StepLeavesNoWaiterPastItsValue : Prop :=
  ∀ s t : State, NoneWaitsPast s → Sys2Proof.Machine.step s = .next t → NoneWaitsPast t

/-- What cold reset leaves, as the register tables give it; and the two invariants of the model hold there. Fields whose reset value the spec does not
give (logs 3, 6 and 9) are not named; the memories' canonical form is the model's. -/
def Obligations.ResetHoldsTheSpecValues : Prop :=
  let r := State.reset
  r.dcc = 0 ∧ r.shifts = [] ∧ r.jobs = [] ∧ r.msgs = [] ∧ r.tlb = [] ∧ r.tables = [] ∧ r.irqs = [] ∧
  r.mg.idpkg = 0xFFF ∧ r.mg.version = 0 ∧ r.mg.build = 0 ∧ r.mg.regerr = 0 ∧ r.mg.drop = 0 ∧ r.mg.mismatch = 0 ∧ r.mg.hewers = 0xFF ∧
  r.mg.scanThresh = 0x80 ∧ r.mg.scanWaitlg = 0x10 ∧ r.mg.dil = 0 ∧ r.mg.fwState = 0 ∧
  (∀ d, d < 4 → r.mg.maxout[d]? = some 0x100 ∧ r.mg.ways[d]? = some 4) ∧
  (∀ n, n < 16 → (r.stack n).ce = 0 ∧ (r.stack n).ue = 0 ∧ (r.stack n).thresh = 0x40 ∧ (r.stack n).passlg = 0x24 ∧ (r.stack n).fben = true) ∧
  (∀ n, n < 36 → (r.adit n).st = 0 ∧ (r.adit n).winEn = false ∧ (r.adit n).drainlg = 0x18 ∧ (r.adit n).good = 0xFF ∧ (r.adit n).lcur = 0x0F ∧
    (r.adit n).dir = 0x0F) ∧
  (∀ c, (r.ctx c).own = 0x40 ∧ (r.ctx c).rt = 0 ∧ (r.ctx c).s2 = 0 ∧ (r.ctx c).dl = 0 ∧ (r.ctx c).tvctl = 0 ∧ (r.ctx c).adrev = 0 ∧ (r.ctx c).frzState = 0) ∧
  (∀ q, (r.queue q).st = 0 ∧ (r.queue q).cfg = 0x0040_0000_0000_0000 ∧ (r.queue q).int = 1 ∧ (r.queue q).head = 0 ∧ (r.queue q).tail = 0) ∧
  (∀ f, (r.func f).attctl = BitVec.ofNat 64 (4 * f) ∧ (r.func f).hkey = 0 ∧ (r.func f).vst = 0 ∧ (r.func f).tdone = 0) ∧
  Sys2Proof.Safety.Memories r ∧ NoneWaitsPast r

/-- R48: the guard of a word is the value of its guard register, inverted when GINV = 1, where g0 reads true; a word of GN = 0 with GINV = 1 decodes
under no encoding version. R270 and R52: the P word with both halves empty is NOP, under any guard that decodes and with any stall count, and NOP
changes no state. -/
def Obligations.GuardsSelectWordsAndNopChangesNothing : Prop :=
  (∀ (x : Shift) (d : DWord), x.guardOf d = ((if d.gn = 0 then true else x.regs.g[d.gn]) != d.ginv)) ∧
  (∀ (ev : Nat) (w : Word), w.toNat / 2 ^ 57 % 16 = 8 → decodeWord ev w = none) ∧
  (∀ (gn : GNum) (ginv : Bool) (n : Fin 16), (gn = 0 → ginv = false) →
    decodeWord 3 (BitVec.ofNat 64 (2 ^ 63 + (if ginv then 2 ^ 60 else 0) + gn.val * 2 ^ 57 + n.val)) =
      some { ginv := ginv, gn := gn, ops := [.nop], stall := n.val, vec := false }) ∧
  ∀ s : State, Sys2Proof.Machine.exec .nop s = .next s
end

