-- ==== Sys2Proof/Laws/Bytes.lean ====
section
/-!
SUPPORT. The lengths of the byte lists of the model, and the pieces of a range of memory.
-/
namespace Sys2Proof.Machine

theorem zeros_length (n : Nat) : (zeros n).length = n := by
  simp [zeros]
theorem padTo_length (n : Nat) (bs : List Byte) : (padTo n bs).length = n := by
  simp only [padTo, List.length_append, List.length_take, zeros_length]; omega
theorem leBytes_length (n k : Nat) : (leBytes n k).length = n := by
  induction n generalizing k with
  | zero => rfl
  | succ n ih => simp [leBytes, ih]
theorem upto_length (a n : Nat) : (upto a n).length = n := by
  induction n generalizing a with
  | zero => rfl
  | succ n ih => simp [upto, ih]
theorem flat_length {α : Type} (l : List α) (f : α → List Byte) (n : Nat) (h : ∀ a, (f a).length = n) : (l.flatMap f).length = n * l.length := by
  induction l with
  | nil => simp
  | cons a l ih => simp only [List.flatMap_cons, List.length_append, List.length_cons, ih, h]; rw [Nat.mul_add]; omega
theorem frame_length (x : Shift) (f : FaultInfo) (jobs : List Job) (dcc pendS pendV now free : Nat) : (frameBytes x f jobs dcc pendS pendV now free).length = 0x40000 := by
  simp only [frameBytes, List.length_append, padTo_length, dwords, jobPlaces, flat_length _ _ _ (leBytes_length _), flat_length _ vregBytes 256 (fun _ => leBytes_length _ _),
    flat_length _ (fun n => leBytes 16 (x.ra (Fin.ofNat 32 n)).toNat) 16 (fun _ => leBytes_length _ _), List.length_map, upto_length, Vector.length_toList]
  try omega
theorem bytes_drop (m : Mem) (a n k : Nat) : (m.bytes a n).drop k = m.bytes (a + k) (n - k) := by
  induction k generalizing a n with
  | zero => rfl
  | succ k ih => cases n with
    | zero => simp [Mem.bytes]
    | succ n => simp only [Mem.bytes, List.drop_succ_cons, ih]; congr 1 <;> omega
theorem bytes_take (m : Mem) (a n k : Nat) (h : k ≤ n) : (m.bytes a n).take k = m.bytes a k := by
  induction k generalizing a n with
  | zero => rfl
  | succ k ih => cases n with
    | zero => omega
    | succ n => simp only [Mem.bytes, List.take_succ_cons, ih _ _ (by omega : k ≤ n)]
theorem bytes_add (m : Mem) (a k n : Nat) : m.bytes a (k + n) = m.bytes a k ++ m.bytes (a + k) n := by
  induction k generalizing a with
  | zero => simp [Mem.bytes]
  | succ k ih => rw [show k + 1 + n = (k + n) + 1 by omega]; simp only [Mem.bytes, ih, List.cons_append]; congr 3; omega
theorem fdw_bytes (m : Mem) (a n off : Nat) (h : off + 8 ≤ n) : fdw (m.bytes a n) off = m.num (a + off) 8 := by
  simp only [fdw, bytes_drop]
  rw [bytes_take _ _ _ _ (by omega)]; rfl
theorem shaBlocks_length (n : Nat) (h : List (BitVec 32)) (bs : List Byte) : (shaBlocks n h bs).length ≤ h.length := by
  induction n generalizing h bs with
  | zero => exact Nat.le_refl _
  | succ n ih =>
    refine Nat.le_trans (ih _ _) ?_
    simp only [shaBlock, List.length_map, List.length_zip]; omega
theorem sha256_length (m : List Byte) : (sha256 m).length ≤ 32 := by
  have := shaBlocks_length ((shaPad m).length / 64) shaInit (shaPad m)
  simp only [sha256]
  rw [flat_length _ _ 4 (fun w => by simp [leBytes_length])]
  have e : shaInit.length = 8 := rfl
  omega

end Sys2Proof.Machine
end

