-- ==== Sys2Proof/Laws/Memory.lean ====
section
/-!
SUPPORT. Memories and maps: reading after writing, and that every memory operation keeps the canonical form.
-/
namespace Sys2Proof.Machine

/-! ## The canonical form -/

theorem Mem.above_cons (lo : Option Nat) (k : Nat) (b : Byte) (m : Mem) :
    Mem.above lo ((k, b) :: m) = true ↔ (∀ l, lo = some l → l < k) ∧ b ≠ unlisted ∧ Mem.above (some k) m = true := by
  cases lo <;> simp [Mem.above, and_assoc]

/-- A memory above a bound is above every lower bound. -/
theorem Mem.above_mono {a k : Nat} {m : Mem} (h : Mem.above (some k) m = true) (lt : a < k) : Mem.above (some a) m = true := by
  cases m with
  | nil => rfl
  | cons e m =>
    obtain ⟨j, b⟩ := e
    rw [Mem.above_cons] at h ⊢
    have := h.1 k rfl
    exact ⟨fun l hl => by cases hl; omega, h.2⟩

theorem Mem.above_none {lo : Option Nat} {m : Mem} (h : Mem.above lo m = true) : Mem.above none m = true := by
  cases m with
  | nil => rfl
  | cons e m => rw [Mem.above_cons] at h ⊢; exact ⟨fun _ hl => (nomatch hl), h.2⟩

/-- One byte written keeps the memory above a bound that the address is above. -/
theorem Mem.set_above (m : Mem) (a : Nat) (x : Byte) (lo : Option Nat) (hm : Mem.above lo m = true) (ha : ∀ l, lo = some l → l < a) :
    Mem.above lo (Mem.set m a x) = true := by
  induction m generalizing lo with
  | nil =>
    simp only [Mem.set]
    split
    · rfl
    · next h => exact (Mem.above_cons ..).2 ⟨ha, h, rfl⟩
  | cons e m ih =>
    obtain ⟨k, b⟩ := e
    obtain ⟨h1, h2, h3⟩ := (Mem.above_cons ..).1 hm
    simp only [Mem.set]
    split
    · next e =>
      subst e
      split
      · cases lo with
        | none => exact Mem.above_none h3
        | some l => exact Mem.above_mono h3 (ha l rfl)
      · next h => exact (Mem.above_cons ..).2 ⟨ha, h, h3⟩
    · next ne =>
      split
      · next lt =>
        split
        · exact hm
        · next h => exact (Mem.above_cons ..).2 ⟨ha, h, (Mem.above_cons ..).2 ⟨fun l hl => (Option.some.inj hl) ▸ lt, h2, h3⟩⟩
      · next nlt => exact (Mem.above_cons ..).2 ⟨h1, h2, ih _ h3 fun l hl => by cases hl; omega⟩

/-- Writing one byte keeps the canonical form. -/
theorem Mem.set_wf {m : Mem} (a : Nat) (x : Byte) (h : m.wf = true) : (Mem.set m a x).wf = true :=
  Mem.set_above m a x none h fun _ hl => nomatch hl

/-- Writing bytes keeps the canonical form. -/
theorem Mem.put_wf {m : Mem} (a : Nat) (bs : List Byte) (h : m.wf = true) : (Mem.put m a bs).wf = true := by
  induction bs generalizing m a with
  | nil => exact h
  | cons b bs ih => exact ih (a + 1) (Mem.set_wf a b h)

/-! ## Reading after writing -/

/-- An address below the bound of a memory reads as unlisted. -/
theorem Mem.get_above {m : Mem} {lo a : Nat} (h : Mem.above (some lo) m = true) (ha : a ≤ lo) : Mem.get m a = unlisted := by
  cases m with
  | nil => rfl
  | cons e m =>
    obtain ⟨k, b⟩ := e
    have := ((Mem.above_cons ..).1 h).1 lo rfl
    simp only [Mem.get]
    rw [if_neg (by omega), if_pos (by omega)]

theorem Mem.get_set_in (m : Mem) (lo : Option Nat) (a c : Nat) (x : Byte) (h : Mem.above lo m = true) :
    Mem.get (Mem.set m a x) c = if c = a then x else Mem.get m c := by
  induction m generalizing lo with
  | nil =>
    simp only [Mem.set]
    by_cases hx : x = unlisted
    · subst hx; simp [Mem.get]
    · simp only [if_neg hx, Mem.get]; grind
  | cons e m ih =>
    obtain ⟨k, b⟩ := e
    obtain ⟨h1, h2, h3⟩ := (Mem.above_cons ..).1 h
    have out : ∀ d, d ≤ k → Mem.get m d = unlisted := fun d hd => Mem.get_above h3 hd
    simp only [Mem.set]
    by_cases hx : x = unlisted
    · subst hx
      by_cases ha : a = k
      · subst ha
        simp only [Mem.get, if_true]
        by_cases hc : c = a
        · subst hc; simpa using out c (Nat.le_refl c)
        · by_cases hl : c < a
          · simpa [hc, hl] using out c (Nat.le_of_lt hl)
          · simp [hc, hl]
      · by_cases hl : a < k
        · simp only [if_neg ha, if_pos hl, if_true, Mem.get]
          grind
        · simp only [if_neg ha, if_neg hl, Mem.get, ih _ h3]
          grind
    · by_cases ha : a = k
      · subst ha; simp only [if_neg hx, if_true, Mem.get]; grind
      · by_cases hl : a < k
        · simp only [if_neg ha, if_pos hl, if_neg hx, Mem.get]
          grind
        · simp only [if_neg ha, if_neg hl, Mem.get, ih _ h3]
          grind

/-- Reading a canonical memory after one byte is written: that byte there, the old bytes elsewhere. -/
theorem Mem.get_set {m : Mem} (a c : Nat) (x : Byte) (h : m.wf = true) : Mem.get (Mem.set m a x) c = if c = a then x else Mem.get m c :=
  Mem.get_set_in m none a c x h

/-- Reading outside the bytes written gives what reading before gave. -/
theorem Mem.get_put_out {m : Mem} (a c : Nat) (bs : List Byte) (h : m.wf = true) (out : ¬(a ≤ c ∧ c < a + bs.length)) :
    Mem.get (Mem.put m a bs) c = Mem.get m c := by
  induction bs generalizing m a with
  | nil => rfl
  | cons b bs ih =>
    simp only [List.length_cons] at out
    rw [Mem.put, ih (a + 1) (Mem.set_wf a b h) (by omega), Mem.get_set a c b h, if_neg (by omega)]

/-- Reading one of the bytes written gives that byte. -/
theorem Mem.get_put_in {m : Mem} (a j : Nat) (bs : List Byte) (h : m.wf = true) (lt : j < bs.length) :
    Mem.get (Mem.put m a bs) (a + j) = bs.getD j 0 := by
  induction bs generalizing m a j with
  | nil => simp at lt
  | cons b bs ih =>
    cases j with
    | zero => rw [Mem.put, Mem.get_put_out _ _ _ (Mem.set_wf a b h) (by omega), Mem.get_set _ _ _ h, if_pos (by omega)]; rfl
    | succ j =>
      have := ih (m := Mem.set m a b) (a + 1) j (Mem.set_wf a b h) (by simpa using lt)
      rw [Mem.put, show a + (j + 1) = a + 1 + j by omega, this]; rfl

/-! ## Maps -/

/-- The value set is read at its key, whatever the map. -/
@[simp] theorem NMap.get?_set_same {α : Type} (m : NMap α) (a : Nat) (x : α) : NMap.get? (NMap.set m a x) a = some x := by
  induction m with
  | nil => simp [NMap.set, NMap.get?]
  | cons e m ih =>
    obtain ⟨k, v⟩ := e
    simp only [NMap.set]
    split
    · simp [NMap.get?, *]
    · split <;> simp [NMap.get?, *]

/-- The value set is read at no other key, whatever the map. -/
theorem NMap.get?_set_other {α : Type} (m : NMap α) {a b : Nat} (x : α) (ne : b ≠ a) : NMap.get? (NMap.set m a x) b = NMap.get? m b := by
  induction m with
  | nil => simp [NMap.set, NMap.get?, ne]
  | cons e m ih =>
    obtain ⟨k, v⟩ := e
    simp only [NMap.set]
    split
    · next h => subst h; simp [NMap.get?, ne]
    · split
      · simp only [NMap.get?, if_neg ne]; grind
      · simp only [NMap.get?, ih]

/-- A key below every key of a map has no value. -/
theorem NMap.get?_below {α : Type} {m : NMap α} {a : Nat} (h : ∀ p ∈ m, a < p.1) : NMap.get? m a = none := by
  cases m with
  | nil => rfl
  | cons e m =>
    obtain ⟨k, v⟩ := e
    have := h (k, v) (List.mem_cons_self ..)
    simp only [NMap.get?]; grind

/-- In a map whose keys rise, a deleted key has no value. -/
theorem NMap.get?_del_same {α : Type} {m : NMap α} (h : Safety.Rises m) (a : Nat) : NMap.get? (NMap.del m a) a = none := by
  induction m with
  | nil => rfl
  | cons e m ih =>
    obtain ⟨k, v⟩ := e
    obtain ⟨h1, h2⟩ := List.pairwise_cons.1 h
    simp only [NMap.del]
    split
    · next e => subst e; exact NMap.get?_below fun p hp => h1 p hp
    · next ne =>
      simp only [NMap.get?, if_neg ne]
      split
      · rfl
      · exact ih h2

/-- A value put at a key of a map whose keys rise is read there, the default where the key was left out. -/
theorem NMap.getD_put_same {α : Type} [DecidableEq α] {m : NMap α} (h : Safety.Rises m) (a : Nat) (d x : α) :
    NMap.getD (NMap.put m a d x) a d = x := by
  unfold NMap.put NMap.getD
  split
  · next e => rw [NMap.get?_del_same h, e]; rfl
  · rw [NMap.get?_set_same]; rfl

/-- A value other than the default is read where it was put, whatever the map. -/
theorem NMap.getD_put_new {α : Type} [DecidableEq α] (m : NMap α) (a : Nat) {d x : α} (ne : x ≠ d) : NMap.getD (NMap.put m a d x) a d = x := by
  unfold NMap.put NMap.getD
  rw [if_neg ne, NMap.get?_set_same]; rfl

end Sys2Proof.Machine
end

