-- ==== Sys2Proof/Laws/State.lean ====
section
/-!
SUPPORT. What each update of the state leaves alone: one lemma per field and update, so that no later proof unfolds a record update.
-/
namespace Sys2Proof.Machine

/-! ## modSh -/

@[simp] theorem State.modSh_dcc (s : State) (i : Nat) (f : Shift → Shift) : (s.modSh i f).dcc = s.dcc := by unfold State.modSh; split <;> rfl
@[simp] theorem State.modSh_agenda (s : State) (i : Nat) (f : Shift → Shift) : (s.modSh i f).agenda = s.agenda := by unfold State.modSh; split <;> rfl
@[simp] theorem State.modSh_turn (s : State) (i : Nat) (f : Shift → Shift) : (s.modSh i f).turn = s.turn := by unfold State.modSh; split <;> rfl
@[simp] theorem State.modSh_cur (s : State) (i : Nat) (f : Shift → Shift) : (s.modSh i f).cur = s.cur := by unfold State.modSh; split <;> rfl
@[simp] theorem State.modSh_free (s : State) (i : Nat) (f : Shift → Shift) : (s.modSh i f).free = s.free := by unfold State.modSh; split <;> rfl
@[simp] theorem State.modSh_glob (s : State) (i : Nat) (f : Shift → Shift) : (s.modSh i f).glob = s.glob := by unfold State.modSh; split <;> rfl
@[simp] theorem State.modSh_pad (s : State) (i : Nat) (f : Shift → Shift) : (s.modSh i f).pad = s.pad := by unfold State.modSh; split <;> rfl
@[simp] theorem State.modSh_lane (s : State) (i : Nat) (f : Shift → Shift) : (s.modSh i f).lane = s.lane := by unfold State.modSh; split <;> rfl
@[simp] theorem State.modSh_crew (s : State) (i : Nat) (f : Shift → Shift) : (s.modSh i f).crew = s.crew := by unfold State.modSh; split <;> rfl
@[simp] theorem State.modSh_chip (s : State) (i : Nat) (f : Shift → Shift) : (s.modSh i f).chip = s.chip := by unfold State.modSh; split <;> rfl
@[simp] theorem State.modSh_cache (s : State) (i : Nat) (f : Shift → Shift) : (s.modSh i f).cache = s.cache := by unfold State.modSh; split <;> rfl
@[simp] theorem State.modSh_host (s : State) (i : Nat) (f : Shift → Shift) : (s.modSh i f).host = s.host := by unfold State.modSh; split <;> rfl
@[simp] theorem State.modSh_lines (s : State) (i : Nat) (f : Shift → Shift) : (s.modSh i f).lines = s.lines := by unfold State.modSh; split <;> rfl
@[simp] theorem State.modSh_cores (s : State) (i : Nat) (f : Shift → Shift) : (s.modSh i f).cores = s.cores := by unfold State.modSh; split <;> rfl
@[simp] theorem State.modSh_links (s : State) (i : Nat) (f : Shift → Shift) : (s.modSh i f).links = s.links := by unfold State.modSh; split <;> rfl
@[simp] theorem State.modSh_jobs (s : State) (i : Nat) (f : Shift → Shift) : (s.modSh i f).jobs = s.jobs := by unfold State.modSh; split <;> rfl
@[simp] theorem State.modSh_nextJob (s : State) (i : Nat) (f : Shift → Shift) : (s.modSh i f).nextJob = s.nextJob := by unfold State.modSh; split <;> rfl
@[simp] theorem State.modSh_msgs (s : State) (i : Nat) (f : Shift → Shift) : (s.modSh i f).msgs = s.msgs := by unfold State.modSh; split <;> rfl
@[simp] theorem State.modSh_acks (s : State) (i : Nat) (f : Shift → Shift) : (s.modSh i f).acks = s.acks := by unfold State.modSh; split <;> rfl
@[simp] theorem State.modSh_waiters (s : State) (i : Nat) (f : Shift → Shift) : (s.modSh i f).waiters = s.waiters := by unfold State.modSh; split <;> rfl
@[simp] theorem State.modSh_tlb (s : State) (i : Nat) (f : Shift → Shift) : (s.modSh i f).tlb = s.tlb := by unfold State.modSh; split <;> rfl
@[simp] theorem State.modSh_uppers (s : State) (i : Nat) (f : Shift → Shift) : (s.modSh i f).uppers = s.uppers := by unfold State.modSh; split <;> rfl
@[simp] theorem State.modSh_collapses (s : State) (i : Nat) (f : Shift → Shift) : (s.modSh i f).collapses = s.collapses := by unfold State.modSh; split <;> rfl
@[simp] theorem State.modSh_ctxs (s : State) (i : Nat) (f : Shift → Shift) : (s.modSh i f).ctxs = s.ctxs := by unfold State.modSh; split <;> rfl
@[simp] theorem State.modSh_funcs (s : State) (i : Nat) (f : Shift → Shift) : (s.modSh i f).funcs = s.funcs := by unfold State.modSh; split <;> rfl
@[simp] theorem State.modSh_keys (s : State) (i : Nat) (f : Shift → Shift) : (s.modSh i f).keys = s.keys := by unfold State.modSh; split <;> rfl
@[simp] theorem State.modSh_queues (s : State) (i : Nat) (f : Shift → Shift) : (s.modSh i f).queues = s.queues := by unfold State.modSh; split <;> rfl
@[simp] theorem State.modSh_tables (s : State) (i : Nat) (f : Shift → Shift) : (s.modSh i f).tables = s.tables := by unfold State.modSh; split <;> rfl
@[simp] theorem State.modSh_rings (s : State) (i : Nat) (f : Shift → Shift) : (s.modSh i f).rings = s.rings := by unfold State.modSh; split <;> rfl
@[simp] theorem State.modSh_manifests (s : State) (i : Nat) (f : Shift → Shift) : (s.modSh i f).manifests = s.manifests := by unfold State.modSh; split <;> rfl
@[simp] theorem State.modSh_opens (s : State) (i : Nat) (f : Shift → Shift) : (s.modSh i f).opens = s.opens := by unfold State.modSh; split <;> rfl
@[simp] theorem State.modSh_fab (s : State) (i : Nat) (f : Shift → Shift) : (s.modSh i f).fab = s.fab := by unfold State.modSh; split <;> rfl
@[simp] theorem State.modSh_mg (s : State) (i : Nat) (f : Shift → Shift) : (s.modSh i f).mg = s.mg := by unfold State.modSh; split <;> rfl
@[simp] theorem State.modSh_irqs (s : State) (i : Nat) (f : Shift → Shift) : (s.modSh i f).irqs = s.irqs := by unfold State.modSh; split <;> rfl
@[simp] theorem State.modSh_replies (s : State) (i : Nat) (f : Shift → Shift) : (s.modSh i f).replies = s.replies := by unfold State.modSh; split <;> rfl

/-! ## modCore -/

@[simp] theorem State.modCore_dcc (s : State) (c : Nat) (f : Core → Core) : (s.modCore c f).dcc = s.dcc := rfl
@[simp] theorem State.modCore_agenda (s : State) (c : Nat) (f : Core → Core) : (s.modCore c f).agenda = s.agenda := rfl
@[simp] theorem State.modCore_turn (s : State) (c : Nat) (f : Core → Core) : (s.modCore c f).turn = s.turn := rfl
@[simp] theorem State.modCore_cur (s : State) (c : Nat) (f : Core → Core) : (s.modCore c f).cur = s.cur := rfl
@[simp] theorem State.modCore_free (s : State) (c : Nat) (f : Core → Core) : (s.modCore c f).free = s.free := rfl
@[simp] theorem State.modCore_glob (s : State) (c : Nat) (f : Core → Core) : (s.modCore c f).glob = s.glob := rfl
@[simp] theorem State.modCore_pad (s : State) (c : Nat) (f : Core → Core) : (s.modCore c f).pad = s.pad := rfl
@[simp] theorem State.modCore_lane (s : State) (c : Nat) (f : Core → Core) : (s.modCore c f).lane = s.lane := rfl
@[simp] theorem State.modCore_crew (s : State) (c : Nat) (f : Core → Core) : (s.modCore c f).crew = s.crew := rfl
@[simp] theorem State.modCore_chip (s : State) (c : Nat) (f : Core → Core) : (s.modCore c f).chip = s.chip := rfl
@[simp] theorem State.modCore_cache (s : State) (c : Nat) (f : Core → Core) : (s.modCore c f).cache = s.cache := rfl
@[simp] theorem State.modCore_host (s : State) (c : Nat) (f : Core → Core) : (s.modCore c f).host = s.host := rfl
@[simp] theorem State.modCore_lines (s : State) (c : Nat) (f : Core → Core) : (s.modCore c f).lines = s.lines := rfl
@[simp] theorem State.modCore_shifts (s : State) (c : Nat) (f : Core → Core) : (s.modCore c f).shifts = s.shifts := rfl
@[simp] theorem State.modCore_cores (s : State) (c : Nat) (f : Core → Core) : (s.modCore c f).cores = NMap.put s.cores c Core.zero (f (s.core c)) := rfl
@[simp] theorem State.modCore_links (s : State) (c : Nat) (f : Core → Core) : (s.modCore c f).links = s.links := rfl
@[simp] theorem State.modCore_jobs (s : State) (c : Nat) (f : Core → Core) : (s.modCore c f).jobs = s.jobs := rfl
@[simp] theorem State.modCore_nextJob (s : State) (c : Nat) (f : Core → Core) : (s.modCore c f).nextJob = s.nextJob := rfl
@[simp] theorem State.modCore_msgs (s : State) (c : Nat) (f : Core → Core) : (s.modCore c f).msgs = s.msgs := rfl
@[simp] theorem State.modCore_acks (s : State) (c : Nat) (f : Core → Core) : (s.modCore c f).acks = s.acks := rfl
@[simp] theorem State.modCore_waiters (s : State) (c : Nat) (f : Core → Core) : (s.modCore c f).waiters = s.waiters := rfl
@[simp] theorem State.modCore_tlb (s : State) (c : Nat) (f : Core → Core) : (s.modCore c f).tlb = s.tlb := rfl
@[simp] theorem State.modCore_uppers (s : State) (c : Nat) (f : Core → Core) : (s.modCore c f).uppers = s.uppers := rfl
@[simp] theorem State.modCore_collapses (s : State) (c : Nat) (f : Core → Core) : (s.modCore c f).collapses = s.collapses := rfl
@[simp] theorem State.modCore_ctxs (s : State) (c : Nat) (f : Core → Core) : (s.modCore c f).ctxs = s.ctxs := rfl
@[simp] theorem State.modCore_funcs (s : State) (c : Nat) (f : Core → Core) : (s.modCore c f).funcs = s.funcs := rfl
@[simp] theorem State.modCore_keys (s : State) (c : Nat) (f : Core → Core) : (s.modCore c f).keys = s.keys := rfl
@[simp] theorem State.modCore_queues (s : State) (c : Nat) (f : Core → Core) : (s.modCore c f).queues = s.queues := rfl
@[simp] theorem State.modCore_tables (s : State) (c : Nat) (f : Core → Core) : (s.modCore c f).tables = s.tables := rfl
@[simp] theorem State.modCore_rings (s : State) (c : Nat) (f : Core → Core) : (s.modCore c f).rings = s.rings := rfl
@[simp] theorem State.modCore_manifests (s : State) (c : Nat) (f : Core → Core) : (s.modCore c f).manifests = s.manifests := rfl
@[simp] theorem State.modCore_opens (s : State) (c : Nat) (f : Core → Core) : (s.modCore c f).opens = s.opens := rfl
@[simp] theorem State.modCore_fab (s : State) (c : Nat) (f : Core → Core) : (s.modCore c f).fab = s.fab := rfl
@[simp] theorem State.modCore_mg (s : State) (c : Nat) (f : Core → Core) : (s.modCore c f).mg = s.mg := rfl
@[simp] theorem State.modCore_irqs (s : State) (c : Nat) (f : Core → Core) : (s.modCore c f).irqs = s.irqs := rfl
@[simp] theorem State.modCore_replies (s : State) (c : Nat) (f : Core → Core) : (s.modCore c f).replies = s.replies := rfl

/-! ## modCtx -/

@[simp] theorem State.modCtx_dcc (s : State) (c : Nat) (f : Ctx → Ctx) : (s.modCtx c f).dcc = s.dcc := rfl
@[simp] theorem State.modCtx_agenda (s : State) (c : Nat) (f : Ctx → Ctx) : (s.modCtx c f).agenda = s.agenda := rfl
@[simp] theorem State.modCtx_turn (s : State) (c : Nat) (f : Ctx → Ctx) : (s.modCtx c f).turn = s.turn := rfl
@[simp] theorem State.modCtx_cur (s : State) (c : Nat) (f : Ctx → Ctx) : (s.modCtx c f).cur = s.cur := rfl
@[simp] theorem State.modCtx_free (s : State) (c : Nat) (f : Ctx → Ctx) : (s.modCtx c f).free = s.free := rfl
@[simp] theorem State.modCtx_glob (s : State) (c : Nat) (f : Ctx → Ctx) : (s.modCtx c f).glob = s.glob := rfl
@[simp] theorem State.modCtx_pad (s : State) (c : Nat) (f : Ctx → Ctx) : (s.modCtx c f).pad = s.pad := rfl
@[simp] theorem State.modCtx_lane (s : State) (c : Nat) (f : Ctx → Ctx) : (s.modCtx c f).lane = s.lane := rfl
@[simp] theorem State.modCtx_crew (s : State) (c : Nat) (f : Ctx → Ctx) : (s.modCtx c f).crew = s.crew := rfl
@[simp] theorem State.modCtx_chip (s : State) (c : Nat) (f : Ctx → Ctx) : (s.modCtx c f).chip = s.chip := rfl
@[simp] theorem State.modCtx_cache (s : State) (c : Nat) (f : Ctx → Ctx) : (s.modCtx c f).cache = s.cache := rfl
@[simp] theorem State.modCtx_host (s : State) (c : Nat) (f : Ctx → Ctx) : (s.modCtx c f).host = s.host := rfl
@[simp] theorem State.modCtx_lines (s : State) (c : Nat) (f : Ctx → Ctx) : (s.modCtx c f).lines = s.lines := rfl
@[simp] theorem State.modCtx_shifts (s : State) (c : Nat) (f : Ctx → Ctx) : (s.modCtx c f).shifts = s.shifts := rfl
@[simp] theorem State.modCtx_cores (s : State) (c : Nat) (f : Ctx → Ctx) : (s.modCtx c f).cores = s.cores := rfl
@[simp] theorem State.modCtx_links (s : State) (c : Nat) (f : Ctx → Ctx) : (s.modCtx c f).links = s.links := rfl
@[simp] theorem State.modCtx_jobs (s : State) (c : Nat) (f : Ctx → Ctx) : (s.modCtx c f).jobs = s.jobs := rfl
@[simp] theorem State.modCtx_nextJob (s : State) (c : Nat) (f : Ctx → Ctx) : (s.modCtx c f).nextJob = s.nextJob := rfl
@[simp] theorem State.modCtx_msgs (s : State) (c : Nat) (f : Ctx → Ctx) : (s.modCtx c f).msgs = s.msgs := rfl
@[simp] theorem State.modCtx_acks (s : State) (c : Nat) (f : Ctx → Ctx) : (s.modCtx c f).acks = s.acks := rfl
@[simp] theorem State.modCtx_waiters (s : State) (c : Nat) (f : Ctx → Ctx) : (s.modCtx c f).waiters = s.waiters := rfl
@[simp] theorem State.modCtx_tlb (s : State) (c : Nat) (f : Ctx → Ctx) : (s.modCtx c f).tlb = s.tlb := rfl
@[simp] theorem State.modCtx_uppers (s : State) (c : Nat) (f : Ctx → Ctx) : (s.modCtx c f).uppers = s.uppers := rfl
@[simp] theorem State.modCtx_collapses (s : State) (c : Nat) (f : Ctx → Ctx) : (s.modCtx c f).collapses = s.collapses := rfl
@[simp] theorem State.modCtx_ctxs (s : State) (c : Nat) (f : Ctx → Ctx) : (s.modCtx c f).ctxs = NMap.put s.ctxs c Ctx.zero (f (s.ctx c)) := rfl
@[simp] theorem State.modCtx_funcs (s : State) (c : Nat) (f : Ctx → Ctx) : (s.modCtx c f).funcs = s.funcs := rfl
@[simp] theorem State.modCtx_keys (s : State) (c : Nat) (f : Ctx → Ctx) : (s.modCtx c f).keys = s.keys := rfl
@[simp] theorem State.modCtx_queues (s : State) (c : Nat) (f : Ctx → Ctx) : (s.modCtx c f).queues = s.queues := rfl
@[simp] theorem State.modCtx_tables (s : State) (c : Nat) (f : Ctx → Ctx) : (s.modCtx c f).tables = s.tables := rfl
@[simp] theorem State.modCtx_rings (s : State) (c : Nat) (f : Ctx → Ctx) : (s.modCtx c f).rings = s.rings := rfl
@[simp] theorem State.modCtx_manifests (s : State) (c : Nat) (f : Ctx → Ctx) : (s.modCtx c f).manifests = s.manifests := rfl
@[simp] theorem State.modCtx_opens (s : State) (c : Nat) (f : Ctx → Ctx) : (s.modCtx c f).opens = s.opens := rfl
@[simp] theorem State.modCtx_fab (s : State) (c : Nat) (f : Ctx → Ctx) : (s.modCtx c f).fab = s.fab := rfl
@[simp] theorem State.modCtx_mg (s : State) (c : Nat) (f : Ctx → Ctx) : (s.modCtx c f).mg = s.mg := rfl
@[simp] theorem State.modCtx_irqs (s : State) (c : Nat) (f : Ctx → Ctx) : (s.modCtx c f).irqs = s.irqs := rfl
@[simp] theorem State.modCtx_replies (s : State) (c : Nat) (f : Ctx → Ctx) : (s.modCtx c f).replies = s.replies := rfl

/-! ## modFunc -/

@[simp] theorem State.modFunc_dcc (s : State) (n : Nat) (f : Func → Func) : (s.modFunc n f).dcc = s.dcc := rfl
@[simp] theorem State.modFunc_agenda (s : State) (n : Nat) (f : Func → Func) : (s.modFunc n f).agenda = s.agenda := rfl
@[simp] theorem State.modFunc_turn (s : State) (n : Nat) (f : Func → Func) : (s.modFunc n f).turn = s.turn := rfl
@[simp] theorem State.modFunc_cur (s : State) (n : Nat) (f : Func → Func) : (s.modFunc n f).cur = s.cur := rfl
@[simp] theorem State.modFunc_free (s : State) (n : Nat) (f : Func → Func) : (s.modFunc n f).free = s.free := rfl
@[simp] theorem State.modFunc_glob (s : State) (n : Nat) (f : Func → Func) : (s.modFunc n f).glob = s.glob := rfl
@[simp] theorem State.modFunc_pad (s : State) (n : Nat) (f : Func → Func) : (s.modFunc n f).pad = s.pad := rfl
@[simp] theorem State.modFunc_lane (s : State) (n : Nat) (f : Func → Func) : (s.modFunc n f).lane = s.lane := rfl
@[simp] theorem State.modFunc_crew (s : State) (n : Nat) (f : Func → Func) : (s.modFunc n f).crew = s.crew := rfl
@[simp] theorem State.modFunc_chip (s : State) (n : Nat) (f : Func → Func) : (s.modFunc n f).chip = s.chip := rfl
@[simp] theorem State.modFunc_cache (s : State) (n : Nat) (f : Func → Func) : (s.modFunc n f).cache = s.cache := rfl
@[simp] theorem State.modFunc_host (s : State) (n : Nat) (f : Func → Func) : (s.modFunc n f).host = s.host := rfl
@[simp] theorem State.modFunc_lines (s : State) (n : Nat) (f : Func → Func) : (s.modFunc n f).lines = s.lines := rfl
@[simp] theorem State.modFunc_shifts (s : State) (n : Nat) (f : Func → Func) : (s.modFunc n f).shifts = s.shifts := rfl
@[simp] theorem State.modFunc_cores (s : State) (n : Nat) (f : Func → Func) : (s.modFunc n f).cores = s.cores := rfl
@[simp] theorem State.modFunc_links (s : State) (n : Nat) (f : Func → Func) : (s.modFunc n f).links = s.links := rfl
@[simp] theorem State.modFunc_jobs (s : State) (n : Nat) (f : Func → Func) : (s.modFunc n f).jobs = s.jobs := rfl
@[simp] theorem State.modFunc_nextJob (s : State) (n : Nat) (f : Func → Func) : (s.modFunc n f).nextJob = s.nextJob := rfl
@[simp] theorem State.modFunc_msgs (s : State) (n : Nat) (f : Func → Func) : (s.modFunc n f).msgs = s.msgs := rfl
@[simp] theorem State.modFunc_acks (s : State) (n : Nat) (f : Func → Func) : (s.modFunc n f).acks = s.acks := rfl
@[simp] theorem State.modFunc_waiters (s : State) (n : Nat) (f : Func → Func) : (s.modFunc n f).waiters = s.waiters := rfl
@[simp] theorem State.modFunc_tlb (s : State) (n : Nat) (f : Func → Func) : (s.modFunc n f).tlb = s.tlb := rfl
@[simp] theorem State.modFunc_uppers (s : State) (n : Nat) (f : Func → Func) : (s.modFunc n f).uppers = s.uppers := rfl
@[simp] theorem State.modFunc_collapses (s : State) (n : Nat) (f : Func → Func) : (s.modFunc n f).collapses = s.collapses := rfl
@[simp] theorem State.modFunc_ctxs (s : State) (n : Nat) (f : Func → Func) : (s.modFunc n f).ctxs = s.ctxs := rfl
@[simp] theorem State.modFunc_funcs (s : State) (n : Nat) (f : Func → Func) : (s.modFunc n f).funcs = NMap.put s.funcs n (Func.zero n) (f (s.func n)) := rfl
@[simp] theorem State.modFunc_keys (s : State) (n : Nat) (f : Func → Func) : (s.modFunc n f).keys = s.keys := rfl
@[simp] theorem State.modFunc_queues (s : State) (n : Nat) (f : Func → Func) : (s.modFunc n f).queues = s.queues := rfl
@[simp] theorem State.modFunc_tables (s : State) (n : Nat) (f : Func → Func) : (s.modFunc n f).tables = s.tables := rfl
@[simp] theorem State.modFunc_rings (s : State) (n : Nat) (f : Func → Func) : (s.modFunc n f).rings = s.rings := rfl
@[simp] theorem State.modFunc_manifests (s : State) (n : Nat) (f : Func → Func) : (s.modFunc n f).manifests = s.manifests := rfl
@[simp] theorem State.modFunc_opens (s : State) (n : Nat) (f : Func → Func) : (s.modFunc n f).opens = s.opens := rfl
@[simp] theorem State.modFunc_fab (s : State) (n : Nat) (f : Func → Func) : (s.modFunc n f).fab = s.fab := rfl
@[simp] theorem State.modFunc_mg (s : State) (n : Nat) (f : Func → Func) : (s.modFunc n f).mg = s.mg := rfl
@[simp] theorem State.modFunc_irqs (s : State) (n : Nat) (f : Func → Func) : (s.modFunc n f).irqs = s.irqs := rfl
@[simp] theorem State.modFunc_replies (s : State) (n : Nat) (f : Func → Func) : (s.modFunc n f).replies = s.replies := rfl

/-! ## modQueue -/

@[simp] theorem State.modQueue_dcc (s : State) (q : Nat) (f : HQueue → HQueue) : (s.modQueue q f).dcc = s.dcc := rfl
@[simp] theorem State.modQueue_agenda (s : State) (q : Nat) (f : HQueue → HQueue) : (s.modQueue q f).agenda = s.agenda := rfl
@[simp] theorem State.modQueue_turn (s : State) (q : Nat) (f : HQueue → HQueue) : (s.modQueue q f).turn = s.turn := rfl
@[simp] theorem State.modQueue_cur (s : State) (q : Nat) (f : HQueue → HQueue) : (s.modQueue q f).cur = s.cur := rfl
@[simp] theorem State.modQueue_free (s : State) (q : Nat) (f : HQueue → HQueue) : (s.modQueue q f).free = s.free := rfl
@[simp] theorem State.modQueue_glob (s : State) (q : Nat) (f : HQueue → HQueue) : (s.modQueue q f).glob = s.glob := rfl
@[simp] theorem State.modQueue_pad (s : State) (q : Nat) (f : HQueue → HQueue) : (s.modQueue q f).pad = s.pad := rfl
@[simp] theorem State.modQueue_lane (s : State) (q : Nat) (f : HQueue → HQueue) : (s.modQueue q f).lane = s.lane := rfl
@[simp] theorem State.modQueue_crew (s : State) (q : Nat) (f : HQueue → HQueue) : (s.modQueue q f).crew = s.crew := rfl
@[simp] theorem State.modQueue_chip (s : State) (q : Nat) (f : HQueue → HQueue) : (s.modQueue q f).chip = s.chip := rfl
@[simp] theorem State.modQueue_cache (s : State) (q : Nat) (f : HQueue → HQueue) : (s.modQueue q f).cache = s.cache := rfl
@[simp] theorem State.modQueue_host (s : State) (q : Nat) (f : HQueue → HQueue) : (s.modQueue q f).host = s.host := rfl
@[simp] theorem State.modQueue_lines (s : State) (q : Nat) (f : HQueue → HQueue) : (s.modQueue q f).lines = s.lines := rfl
@[simp] theorem State.modQueue_shifts (s : State) (q : Nat) (f : HQueue → HQueue) : (s.modQueue q f).shifts = s.shifts := rfl
@[simp] theorem State.modQueue_cores (s : State) (q : Nat) (f : HQueue → HQueue) : (s.modQueue q f).cores = s.cores := rfl
@[simp] theorem State.modQueue_links (s : State) (q : Nat) (f : HQueue → HQueue) : (s.modQueue q f).links = s.links := rfl
@[simp] theorem State.modQueue_jobs (s : State) (q : Nat) (f : HQueue → HQueue) : (s.modQueue q f).jobs = s.jobs := rfl
@[simp] theorem State.modQueue_nextJob (s : State) (q : Nat) (f : HQueue → HQueue) : (s.modQueue q f).nextJob = s.nextJob := rfl
@[simp] theorem State.modQueue_msgs (s : State) (q : Nat) (f : HQueue → HQueue) : (s.modQueue q f).msgs = s.msgs := rfl
@[simp] theorem State.modQueue_acks (s : State) (q : Nat) (f : HQueue → HQueue) : (s.modQueue q f).acks = s.acks := rfl
@[simp] theorem State.modQueue_waiters (s : State) (q : Nat) (f : HQueue → HQueue) : (s.modQueue q f).waiters = s.waiters := rfl
@[simp] theorem State.modQueue_tlb (s : State) (q : Nat) (f : HQueue → HQueue) : (s.modQueue q f).tlb = s.tlb := rfl
@[simp] theorem State.modQueue_uppers (s : State) (q : Nat) (f : HQueue → HQueue) : (s.modQueue q f).uppers = s.uppers := rfl
@[simp] theorem State.modQueue_collapses (s : State) (q : Nat) (f : HQueue → HQueue) : (s.modQueue q f).collapses = s.collapses := rfl
@[simp] theorem State.modQueue_ctxs (s : State) (q : Nat) (f : HQueue → HQueue) : (s.modQueue q f).ctxs = s.ctxs := rfl
@[simp] theorem State.modQueue_funcs (s : State) (q : Nat) (f : HQueue → HQueue) : (s.modQueue q f).funcs = s.funcs := rfl
@[simp] theorem State.modQueue_keys (s : State) (q : Nat) (f : HQueue → HQueue) : (s.modQueue q f).keys = s.keys := rfl
@[simp] theorem State.modQueue_queues (s : State) (q : Nat) (f : HQueue → HQueue) : (s.modQueue q f).queues = NMap.put s.queues q HQueue.zero (f (s.queue q)) := rfl
@[simp] theorem State.modQueue_tables (s : State) (q : Nat) (f : HQueue → HQueue) : (s.modQueue q f).tables = s.tables := rfl
@[simp] theorem State.modQueue_rings (s : State) (q : Nat) (f : HQueue → HQueue) : (s.modQueue q f).rings = s.rings := rfl
@[simp] theorem State.modQueue_manifests (s : State) (q : Nat) (f : HQueue → HQueue) : (s.modQueue q f).manifests = s.manifests := rfl
@[simp] theorem State.modQueue_opens (s : State) (q : Nat) (f : HQueue → HQueue) : (s.modQueue q f).opens = s.opens := rfl
@[simp] theorem State.modQueue_fab (s : State) (q : Nat) (f : HQueue → HQueue) : (s.modQueue q f).fab = s.fab := rfl
@[simp] theorem State.modQueue_mg (s : State) (q : Nat) (f : HQueue → HQueue) : (s.modQueue q f).mg = s.mg := rfl
@[simp] theorem State.modQueue_irqs (s : State) (q : Nat) (f : HQueue → HQueue) : (s.modQueue q f).irqs = s.irqs := rfl
@[simp] theorem State.modQueue_replies (s : State) (q : Nat) (f : HQueue → HQueue) : (s.modQueue q f).replies = s.replies := rfl

/-! ## modLine -/

@[simp] theorem State.modLine_dcc (s : State) (n : Nat) (f : Line → Line) : (s.modLine n f).dcc = s.dcc := rfl
@[simp] theorem State.modLine_agenda (s : State) (n : Nat) (f : Line → Line) : (s.modLine n f).agenda = s.agenda := rfl
@[simp] theorem State.modLine_turn (s : State) (n : Nat) (f : Line → Line) : (s.modLine n f).turn = s.turn := rfl
@[simp] theorem State.modLine_cur (s : State) (n : Nat) (f : Line → Line) : (s.modLine n f).cur = s.cur := rfl
@[simp] theorem State.modLine_free (s : State) (n : Nat) (f : Line → Line) : (s.modLine n f).free = s.free := rfl
@[simp] theorem State.modLine_glob (s : State) (n : Nat) (f : Line → Line) : (s.modLine n f).glob = s.glob := rfl
@[simp] theorem State.modLine_pad (s : State) (n : Nat) (f : Line → Line) : (s.modLine n f).pad = s.pad := rfl
@[simp] theorem State.modLine_lane (s : State) (n : Nat) (f : Line → Line) : (s.modLine n f).lane = s.lane := rfl
@[simp] theorem State.modLine_crew (s : State) (n : Nat) (f : Line → Line) : (s.modLine n f).crew = s.crew := rfl
@[simp] theorem State.modLine_chip (s : State) (n : Nat) (f : Line → Line) : (s.modLine n f).chip = s.chip := rfl
@[simp] theorem State.modLine_cache (s : State) (n : Nat) (f : Line → Line) : (s.modLine n f).cache = s.cache := rfl
@[simp] theorem State.modLine_host (s : State) (n : Nat) (f : Line → Line) : (s.modLine n f).host = s.host := rfl
@[simp] theorem State.modLine_lines (s : State) (n : Nat) (f : Line → Line) : (s.modLine n f).lines = NMap.put s.lines (s.lineKey n) Line.zero (f (s.line n)) := rfl
@[simp] theorem State.modLine_shifts (s : State) (n : Nat) (f : Line → Line) : (s.modLine n f).shifts = s.shifts := rfl
@[simp] theorem State.modLine_cores (s : State) (n : Nat) (f : Line → Line) : (s.modLine n f).cores = s.cores := rfl
@[simp] theorem State.modLine_links (s : State) (n : Nat) (f : Line → Line) : (s.modLine n f).links = s.links := rfl
@[simp] theorem State.modLine_jobs (s : State) (n : Nat) (f : Line → Line) : (s.modLine n f).jobs = s.jobs := rfl
@[simp] theorem State.modLine_nextJob (s : State) (n : Nat) (f : Line → Line) : (s.modLine n f).nextJob = s.nextJob := rfl
@[simp] theorem State.modLine_msgs (s : State) (n : Nat) (f : Line → Line) : (s.modLine n f).msgs = s.msgs := rfl
@[simp] theorem State.modLine_acks (s : State) (n : Nat) (f : Line → Line) : (s.modLine n f).acks = s.acks := rfl
@[simp] theorem State.modLine_waiters (s : State) (n : Nat) (f : Line → Line) : (s.modLine n f).waiters = s.waiters := rfl
@[simp] theorem State.modLine_tlb (s : State) (n : Nat) (f : Line → Line) : (s.modLine n f).tlb = s.tlb := rfl
@[simp] theorem State.modLine_uppers (s : State) (n : Nat) (f : Line → Line) : (s.modLine n f).uppers = s.uppers := rfl
@[simp] theorem State.modLine_collapses (s : State) (n : Nat) (f : Line → Line) : (s.modLine n f).collapses = s.collapses := rfl
@[simp] theorem State.modLine_ctxs (s : State) (n : Nat) (f : Line → Line) : (s.modLine n f).ctxs = s.ctxs := rfl
@[simp] theorem State.modLine_funcs (s : State) (n : Nat) (f : Line → Line) : (s.modLine n f).funcs = s.funcs := rfl
@[simp] theorem State.modLine_keys (s : State) (n : Nat) (f : Line → Line) : (s.modLine n f).keys = s.keys := rfl
@[simp] theorem State.modLine_queues (s : State) (n : Nat) (f : Line → Line) : (s.modLine n f).queues = s.queues := rfl
@[simp] theorem State.modLine_tables (s : State) (n : Nat) (f : Line → Line) : (s.modLine n f).tables = s.tables := rfl
@[simp] theorem State.modLine_rings (s : State) (n : Nat) (f : Line → Line) : (s.modLine n f).rings = s.rings := rfl
@[simp] theorem State.modLine_manifests (s : State) (n : Nat) (f : Line → Line) : (s.modLine n f).manifests = s.manifests := rfl
@[simp] theorem State.modLine_opens (s : State) (n : Nat) (f : Line → Line) : (s.modLine n f).opens = s.opens := rfl
@[simp] theorem State.modLine_fab (s : State) (n : Nat) (f : Line → Line) : (s.modLine n f).fab = s.fab := rfl
@[simp] theorem State.modLine_mg (s : State) (n : Nat) (f : Line → Line) : (s.modLine n f).mg = s.mg := rfl
@[simp] theorem State.modLine_irqs (s : State) (n : Nat) (f : Line → Line) : (s.modLine n f).irqs = s.irqs := rfl
@[simp] theorem State.modLine_replies (s : State) (n : Nat) (f : Line → Line) : (s.modLine n f).replies = s.replies := rfl

/-! ## modMg -/

@[simp] theorem State.modMg_dcc (s : State) (f : Mgmt → Mgmt) : (s.modMg f).dcc = s.dcc := rfl
@[simp] theorem State.modMg_agenda (s : State) (f : Mgmt → Mgmt) : (s.modMg f).agenda = s.agenda := rfl
@[simp] theorem State.modMg_turn (s : State) (f : Mgmt → Mgmt) : (s.modMg f).turn = s.turn := rfl
@[simp] theorem State.modMg_cur (s : State) (f : Mgmt → Mgmt) : (s.modMg f).cur = s.cur := rfl
@[simp] theorem State.modMg_free (s : State) (f : Mgmt → Mgmt) : (s.modMg f).free = s.free := rfl
@[simp] theorem State.modMg_glob (s : State) (f : Mgmt → Mgmt) : (s.modMg f).glob = s.glob := rfl
@[simp] theorem State.modMg_pad (s : State) (f : Mgmt → Mgmt) : (s.modMg f).pad = s.pad := rfl
@[simp] theorem State.modMg_lane (s : State) (f : Mgmt → Mgmt) : (s.modMg f).lane = s.lane := rfl
@[simp] theorem State.modMg_crew (s : State) (f : Mgmt → Mgmt) : (s.modMg f).crew = s.crew := rfl
@[simp] theorem State.modMg_chip (s : State) (f : Mgmt → Mgmt) : (s.modMg f).chip = s.chip := rfl
@[simp] theorem State.modMg_cache (s : State) (f : Mgmt → Mgmt) : (s.modMg f).cache = s.cache := rfl
@[simp] theorem State.modMg_host (s : State) (f : Mgmt → Mgmt) : (s.modMg f).host = s.host := rfl
@[simp] theorem State.modMg_lines (s : State) (f : Mgmt → Mgmt) : (s.modMg f).lines = s.lines := rfl
@[simp] theorem State.modMg_shifts (s : State) (f : Mgmt → Mgmt) : (s.modMg f).shifts = s.shifts := rfl
@[simp] theorem State.modMg_cores (s : State) (f : Mgmt → Mgmt) : (s.modMg f).cores = s.cores := rfl
@[simp] theorem State.modMg_links (s : State) (f : Mgmt → Mgmt) : (s.modMg f).links = s.links := rfl
@[simp] theorem State.modMg_jobs (s : State) (f : Mgmt → Mgmt) : (s.modMg f).jobs = s.jobs := rfl
@[simp] theorem State.modMg_nextJob (s : State) (f : Mgmt → Mgmt) : (s.modMg f).nextJob = s.nextJob := rfl
@[simp] theorem State.modMg_msgs (s : State) (f : Mgmt → Mgmt) : (s.modMg f).msgs = s.msgs := rfl
@[simp] theorem State.modMg_acks (s : State) (f : Mgmt → Mgmt) : (s.modMg f).acks = s.acks := rfl
@[simp] theorem State.modMg_waiters (s : State) (f : Mgmt → Mgmt) : (s.modMg f).waiters = s.waiters := rfl
@[simp] theorem State.modMg_tlb (s : State) (f : Mgmt → Mgmt) : (s.modMg f).tlb = s.tlb := rfl
@[simp] theorem State.modMg_uppers (s : State) (f : Mgmt → Mgmt) : (s.modMg f).uppers = s.uppers := rfl
@[simp] theorem State.modMg_collapses (s : State) (f : Mgmt → Mgmt) : (s.modMg f).collapses = s.collapses := rfl
@[simp] theorem State.modMg_ctxs (s : State) (f : Mgmt → Mgmt) : (s.modMg f).ctxs = s.ctxs := rfl
@[simp] theorem State.modMg_funcs (s : State) (f : Mgmt → Mgmt) : (s.modMg f).funcs = s.funcs := rfl
@[simp] theorem State.modMg_keys (s : State) (f : Mgmt → Mgmt) : (s.modMg f).keys = s.keys := rfl
@[simp] theorem State.modMg_queues (s : State) (f : Mgmt → Mgmt) : (s.modMg f).queues = s.queues := rfl
@[simp] theorem State.modMg_tables (s : State) (f : Mgmt → Mgmt) : (s.modMg f).tables = s.tables := rfl
@[simp] theorem State.modMg_rings (s : State) (f : Mgmt → Mgmt) : (s.modMg f).rings = s.rings := rfl
@[simp] theorem State.modMg_manifests (s : State) (f : Mgmt → Mgmt) : (s.modMg f).manifests = s.manifests := rfl
@[simp] theorem State.modMg_opens (s : State) (f : Mgmt → Mgmt) : (s.modMg f).opens = s.opens := rfl
@[simp] theorem State.modMg_fab (s : State) (f : Mgmt → Mgmt) : (s.modMg f).fab = s.fab := rfl
@[simp] theorem State.modMg_mg (s : State) (f : Mgmt → Mgmt) : (s.modMg f).mg = f s.mg := rfl
@[simp] theorem State.modMg_irqs (s : State) (f : Mgmt → Mgmt) : (s.modMg f).irqs = s.irqs := rfl
@[simp] theorem State.modMg_replies (s : State) (f : Mgmt → Mgmt) : (s.modMg f).replies = s.replies := rfl

/-! ## modFab -/

@[simp] theorem State.modFab_dcc (s : State) (f : Fabric → Fabric) : (s.modFab f).dcc = s.dcc := rfl
@[simp] theorem State.modFab_agenda (s : State) (f : Fabric → Fabric) : (s.modFab f).agenda = s.agenda := rfl
@[simp] theorem State.modFab_turn (s : State) (f : Fabric → Fabric) : (s.modFab f).turn = s.turn := rfl
@[simp] theorem State.modFab_cur (s : State) (f : Fabric → Fabric) : (s.modFab f).cur = s.cur := rfl
@[simp] theorem State.modFab_free (s : State) (f : Fabric → Fabric) : (s.modFab f).free = s.free := rfl
@[simp] theorem State.modFab_glob (s : State) (f : Fabric → Fabric) : (s.modFab f).glob = s.glob := rfl
@[simp] theorem State.modFab_pad (s : State) (f : Fabric → Fabric) : (s.modFab f).pad = s.pad := rfl
@[simp] theorem State.modFab_lane (s : State) (f : Fabric → Fabric) : (s.modFab f).lane = s.lane := rfl
@[simp] theorem State.modFab_crew (s : State) (f : Fabric → Fabric) : (s.modFab f).crew = s.crew := rfl
@[simp] theorem State.modFab_chip (s : State) (f : Fabric → Fabric) : (s.modFab f).chip = s.chip := rfl
@[simp] theorem State.modFab_cache (s : State) (f : Fabric → Fabric) : (s.modFab f).cache = s.cache := rfl
@[simp] theorem State.modFab_host (s : State) (f : Fabric → Fabric) : (s.modFab f).host = s.host := rfl
@[simp] theorem State.modFab_lines (s : State) (f : Fabric → Fabric) : (s.modFab f).lines = s.lines := rfl
@[simp] theorem State.modFab_shifts (s : State) (f : Fabric → Fabric) : (s.modFab f).shifts = s.shifts := rfl
@[simp] theorem State.modFab_cores (s : State) (f : Fabric → Fabric) : (s.modFab f).cores = s.cores := rfl
@[simp] theorem State.modFab_links (s : State) (f : Fabric → Fabric) : (s.modFab f).links = s.links := rfl
@[simp] theorem State.modFab_jobs (s : State) (f : Fabric → Fabric) : (s.modFab f).jobs = s.jobs := rfl
@[simp] theorem State.modFab_nextJob (s : State) (f : Fabric → Fabric) : (s.modFab f).nextJob = s.nextJob := rfl
@[simp] theorem State.modFab_msgs (s : State) (f : Fabric → Fabric) : (s.modFab f).msgs = s.msgs := rfl
@[simp] theorem State.modFab_acks (s : State) (f : Fabric → Fabric) : (s.modFab f).acks = s.acks := rfl
@[simp] theorem State.modFab_waiters (s : State) (f : Fabric → Fabric) : (s.modFab f).waiters = s.waiters := rfl
@[simp] theorem State.modFab_tlb (s : State) (f : Fabric → Fabric) : (s.modFab f).tlb = s.tlb := rfl
@[simp] theorem State.modFab_uppers (s : State) (f : Fabric → Fabric) : (s.modFab f).uppers = s.uppers := rfl
@[simp] theorem State.modFab_collapses (s : State) (f : Fabric → Fabric) : (s.modFab f).collapses = s.collapses := rfl
@[simp] theorem State.modFab_ctxs (s : State) (f : Fabric → Fabric) : (s.modFab f).ctxs = s.ctxs := rfl
@[simp] theorem State.modFab_funcs (s : State) (f : Fabric → Fabric) : (s.modFab f).funcs = s.funcs := rfl
@[simp] theorem State.modFab_keys (s : State) (f : Fabric → Fabric) : (s.modFab f).keys = s.keys := rfl
@[simp] theorem State.modFab_queues (s : State) (f : Fabric → Fabric) : (s.modFab f).queues = s.queues := rfl
@[simp] theorem State.modFab_tables (s : State) (f : Fabric → Fabric) : (s.modFab f).tables = s.tables := rfl
@[simp] theorem State.modFab_rings (s : State) (f : Fabric → Fabric) : (s.modFab f).rings = s.rings := rfl
@[simp] theorem State.modFab_manifests (s : State) (f : Fabric → Fabric) : (s.modFab f).manifests = s.manifests := rfl
@[simp] theorem State.modFab_opens (s : State) (f : Fabric → Fabric) : (s.modFab f).opens = s.opens := rfl
@[simp] theorem State.modFab_fab (s : State) (f : Fabric → Fabric) : (s.modFab f).fab = f s.fab := rfl
@[simp] theorem State.modFab_mg (s : State) (f : Fabric → Fabric) : (s.modFab f).mg = s.mg := rfl
@[simp] theorem State.modFab_irqs (s : State) (f : Fabric → Fabric) : (s.modFab f).irqs = s.irqs := rfl
@[simp] theorem State.modFab_replies (s : State) (f : Fabric → Fabric) : (s.modFab f).replies = s.replies := rfl

/-! ## post -/

@[simp] theorem State.post_dcc (s : State) (m : Msg) : (s.post m).dcc = s.dcc := rfl
@[simp] theorem State.post_agenda (s : State) (m : Msg) : (s.post m).agenda = s.agenda := rfl
@[simp] theorem State.post_turn (s : State) (m : Msg) : (s.post m).turn = s.turn := rfl
@[simp] theorem State.post_cur (s : State) (m : Msg) : (s.post m).cur = s.cur := rfl
@[simp] theorem State.post_free (s : State) (m : Msg) : (s.post m).free = s.free := rfl
@[simp] theorem State.post_glob (s : State) (m : Msg) : (s.post m).glob = s.glob := rfl
@[simp] theorem State.post_pad (s : State) (m : Msg) : (s.post m).pad = s.pad := rfl
@[simp] theorem State.post_lane (s : State) (m : Msg) : (s.post m).lane = s.lane := rfl
@[simp] theorem State.post_crew (s : State) (m : Msg) : (s.post m).crew = s.crew := rfl
@[simp] theorem State.post_chip (s : State) (m : Msg) : (s.post m).chip = s.chip := rfl
@[simp] theorem State.post_cache (s : State) (m : Msg) : (s.post m).cache = s.cache := rfl
@[simp] theorem State.post_host (s : State) (m : Msg) : (s.post m).host = s.host := rfl
@[simp] theorem State.post_lines (s : State) (m : Msg) : (s.post m).lines = s.lines := rfl
@[simp] theorem State.post_shifts (s : State) (m : Msg) : (s.post m).shifts = s.shifts := rfl
@[simp] theorem State.post_cores (s : State) (m : Msg) : (s.post m).cores = s.cores := rfl
@[simp] theorem State.post_links (s : State) (m : Msg) : (s.post m).links = s.links := rfl
@[simp] theorem State.post_jobs (s : State) (m : Msg) : (s.post m).jobs = s.jobs := rfl
@[simp] theorem State.post_nextJob (s : State) (m : Msg) : (s.post m).nextJob = s.nextJob := rfl
@[simp] theorem State.post_msgs (s : State) (m : Msg) : (s.post m).msgs = s.msgs ++ [m] := rfl
@[simp] theorem State.post_acks (s : State) (m : Msg) : (s.post m).acks = s.acks := rfl
@[simp] theorem State.post_waiters (s : State) (m : Msg) : (s.post m).waiters = s.waiters := rfl
@[simp] theorem State.post_tlb (s : State) (m : Msg) : (s.post m).tlb = s.tlb := rfl
@[simp] theorem State.post_uppers (s : State) (m : Msg) : (s.post m).uppers = s.uppers := rfl
@[simp] theorem State.post_collapses (s : State) (m : Msg) : (s.post m).collapses = s.collapses := rfl
@[simp] theorem State.post_ctxs (s : State) (m : Msg) : (s.post m).ctxs = s.ctxs := rfl
@[simp] theorem State.post_funcs (s : State) (m : Msg) : (s.post m).funcs = s.funcs := rfl
@[simp] theorem State.post_keys (s : State) (m : Msg) : (s.post m).keys = s.keys := rfl
@[simp] theorem State.post_queues (s : State) (m : Msg) : (s.post m).queues = s.queues := rfl
@[simp] theorem State.post_tables (s : State) (m : Msg) : (s.post m).tables = s.tables := rfl
@[simp] theorem State.post_rings (s : State) (m : Msg) : (s.post m).rings = s.rings := rfl
@[simp] theorem State.post_manifests (s : State) (m : Msg) : (s.post m).manifests = s.manifests := rfl
@[simp] theorem State.post_opens (s : State) (m : Msg) : (s.post m).opens = s.opens := rfl
@[simp] theorem State.post_fab (s : State) (m : Msg) : (s.post m).fab = s.fab := rfl
@[simp] theorem State.post_mg (s : State) (m : Msg) : (s.post m).mg = s.mg := rfl
@[simp] theorem State.post_irqs (s : State) (m : Msg) : (s.post m).irqs = s.irqs := rfl
@[simp] theorem State.post_replies (s : State) (m : Msg) : (s.post m).replies = s.replies := rfl

/-! ## modJob -/

@[simp] theorem State.modJob_dcc (s : State) (j : Nat) (f : Job → Job) : (s.modJob j f).dcc = s.dcc := rfl
@[simp] theorem State.modJob_agenda (s : State) (j : Nat) (f : Job → Job) : (s.modJob j f).agenda = s.agenda := rfl
@[simp] theorem State.modJob_turn (s : State) (j : Nat) (f : Job → Job) : (s.modJob j f).turn = s.turn := rfl
@[simp] theorem State.modJob_cur (s : State) (j : Nat) (f : Job → Job) : (s.modJob j f).cur = s.cur := rfl
@[simp] theorem State.modJob_free (s : State) (j : Nat) (f : Job → Job) : (s.modJob j f).free = s.free := rfl
@[simp] theorem State.modJob_glob (s : State) (j : Nat) (f : Job → Job) : (s.modJob j f).glob = s.glob := rfl
@[simp] theorem State.modJob_pad (s : State) (j : Nat) (f : Job → Job) : (s.modJob j f).pad = s.pad := rfl
@[simp] theorem State.modJob_lane (s : State) (j : Nat) (f : Job → Job) : (s.modJob j f).lane = s.lane := rfl
@[simp] theorem State.modJob_crew (s : State) (j : Nat) (f : Job → Job) : (s.modJob j f).crew = s.crew := rfl
@[simp] theorem State.modJob_chip (s : State) (j : Nat) (f : Job → Job) : (s.modJob j f).chip = s.chip := rfl
@[simp] theorem State.modJob_cache (s : State) (j : Nat) (f : Job → Job) : (s.modJob j f).cache = s.cache := rfl
@[simp] theorem State.modJob_host (s : State) (j : Nat) (f : Job → Job) : (s.modJob j f).host = s.host := rfl
@[simp] theorem State.modJob_lines (s : State) (j : Nat) (f : Job → Job) : (s.modJob j f).lines = s.lines := rfl
@[simp] theorem State.modJob_shifts (s : State) (j : Nat) (f : Job → Job) : (s.modJob j f).shifts = s.shifts := rfl
@[simp] theorem State.modJob_cores (s : State) (j : Nat) (f : Job → Job) : (s.modJob j f).cores = s.cores := rfl
@[simp] theorem State.modJob_links (s : State) (j : Nat) (f : Job → Job) : (s.modJob j f).links = s.links := rfl
@[simp] theorem State.modJob_jobs (s : State) (j : Nat) (f : Job → Job) : (s.modJob j f).jobs = s.jobs.map fun x => if x.id = j then f x else x := rfl
@[simp] theorem State.modJob_nextJob (s : State) (j : Nat) (f : Job → Job) : (s.modJob j f).nextJob = s.nextJob := rfl
@[simp] theorem State.modJob_msgs (s : State) (j : Nat) (f : Job → Job) : (s.modJob j f).msgs = s.msgs := rfl
@[simp] theorem State.modJob_acks (s : State) (j : Nat) (f : Job → Job) : (s.modJob j f).acks = s.acks := rfl
@[simp] theorem State.modJob_waiters (s : State) (j : Nat) (f : Job → Job) : (s.modJob j f).waiters = s.waiters := rfl
@[simp] theorem State.modJob_tlb (s : State) (j : Nat) (f : Job → Job) : (s.modJob j f).tlb = s.tlb := rfl
@[simp] theorem State.modJob_uppers (s : State) (j : Nat) (f : Job → Job) : (s.modJob j f).uppers = s.uppers := rfl
@[simp] theorem State.modJob_collapses (s : State) (j : Nat) (f : Job → Job) : (s.modJob j f).collapses = s.collapses := rfl
@[simp] theorem State.modJob_ctxs (s : State) (j : Nat) (f : Job → Job) : (s.modJob j f).ctxs = s.ctxs := rfl
@[simp] theorem State.modJob_funcs (s : State) (j : Nat) (f : Job → Job) : (s.modJob j f).funcs = s.funcs := rfl
@[simp] theorem State.modJob_keys (s : State) (j : Nat) (f : Job → Job) : (s.modJob j f).keys = s.keys := rfl
@[simp] theorem State.modJob_queues (s : State) (j : Nat) (f : Job → Job) : (s.modJob j f).queues = s.queues := rfl
@[simp] theorem State.modJob_tables (s : State) (j : Nat) (f : Job → Job) : (s.modJob j f).tables = s.tables := rfl
@[simp] theorem State.modJob_rings (s : State) (j : Nat) (f : Job → Job) : (s.modJob j f).rings = s.rings := rfl
@[simp] theorem State.modJob_manifests (s : State) (j : Nat) (f : Job → Job) : (s.modJob j f).manifests = s.manifests := rfl
@[simp] theorem State.modJob_opens (s : State) (j : Nat) (f : Job → Job) : (s.modJob j f).opens = s.opens := rfl
@[simp] theorem State.modJob_fab (s : State) (j : Nat) (f : Job → Job) : (s.modJob j f).fab = s.fab := rfl
@[simp] theorem State.modJob_mg (s : State) (j : Nat) (f : Job → Job) : (s.modJob j f).mg = s.mg := rfl
@[simp] theorem State.modJob_irqs (s : State) (j : Nat) (f : Job → Job) : (s.modJob j f).irqs = s.irqs := rfl
@[simp] theorem State.modJob_replies (s : State) (j : Nat) (f : Job → Job) : (s.modJob j f).replies = s.replies := rfl

/-! ## modTable -/

@[simp] theorem State.modTable_dcc (s : State) (t : Nat) (f : GTable → GTable) : (s.modTable t f).dcc = s.dcc := by unfold State.modTable; split <;> rfl
@[simp] theorem State.modTable_agenda (s : State) (t : Nat) (f : GTable → GTable) : (s.modTable t f).agenda = s.agenda := by unfold State.modTable; split <;> rfl
@[simp] theorem State.modTable_turn (s : State) (t : Nat) (f : GTable → GTable) : (s.modTable t f).turn = s.turn := by unfold State.modTable; split <;> rfl
@[simp] theorem State.modTable_cur (s : State) (t : Nat) (f : GTable → GTable) : (s.modTable t f).cur = s.cur := by unfold State.modTable; split <;> rfl
@[simp] theorem State.modTable_free (s : State) (t : Nat) (f : GTable → GTable) : (s.modTable t f).free = s.free := by unfold State.modTable; split <;> rfl
@[simp] theorem State.modTable_glob (s : State) (t : Nat) (f : GTable → GTable) : (s.modTable t f).glob = s.glob := by unfold State.modTable; split <;> rfl
@[simp] theorem State.modTable_pad (s : State) (t : Nat) (f : GTable → GTable) : (s.modTable t f).pad = s.pad := by unfold State.modTable; split <;> rfl
@[simp] theorem State.modTable_lane (s : State) (t : Nat) (f : GTable → GTable) : (s.modTable t f).lane = s.lane := by unfold State.modTable; split <;> rfl
@[simp] theorem State.modTable_crew (s : State) (t : Nat) (f : GTable → GTable) : (s.modTable t f).crew = s.crew := by unfold State.modTable; split <;> rfl
@[simp] theorem State.modTable_chip (s : State) (t : Nat) (f : GTable → GTable) : (s.modTable t f).chip = s.chip := by unfold State.modTable; split <;> rfl
@[simp] theorem State.modTable_cache (s : State) (t : Nat) (f : GTable → GTable) : (s.modTable t f).cache = s.cache := by unfold State.modTable; split <;> rfl
@[simp] theorem State.modTable_host (s : State) (t : Nat) (f : GTable → GTable) : (s.modTable t f).host = s.host := by unfold State.modTable; split <;> rfl
@[simp] theorem State.modTable_lines (s : State) (t : Nat) (f : GTable → GTable) : (s.modTable t f).lines = s.lines := by unfold State.modTable; split <;> rfl
@[simp] theorem State.modTable_shifts (s : State) (t : Nat) (f : GTable → GTable) : (s.modTable t f).shifts = s.shifts := by unfold State.modTable; split <;> rfl
@[simp] theorem State.modTable_cores (s : State) (t : Nat) (f : GTable → GTable) : (s.modTable t f).cores = s.cores := by unfold State.modTable; split <;> rfl
@[simp] theorem State.modTable_links (s : State) (t : Nat) (f : GTable → GTable) : (s.modTable t f).links = s.links := by unfold State.modTable; split <;> rfl
@[simp] theorem State.modTable_jobs (s : State) (t : Nat) (f : GTable → GTable) : (s.modTable t f).jobs = s.jobs := by unfold State.modTable; split <;> rfl
@[simp] theorem State.modTable_nextJob (s : State) (t : Nat) (f : GTable → GTable) : (s.modTable t f).nextJob = s.nextJob := by unfold State.modTable; split <;> rfl
@[simp] theorem State.modTable_msgs (s : State) (t : Nat) (f : GTable → GTable) : (s.modTable t f).msgs = s.msgs := by unfold State.modTable; split <;> rfl
@[simp] theorem State.modTable_acks (s : State) (t : Nat) (f : GTable → GTable) : (s.modTable t f).acks = s.acks := by unfold State.modTable; split <;> rfl
@[simp] theorem State.modTable_waiters (s : State) (t : Nat) (f : GTable → GTable) : (s.modTable t f).waiters = s.waiters := by unfold State.modTable; split <;> rfl
@[simp] theorem State.modTable_tlb (s : State) (t : Nat) (f : GTable → GTable) : (s.modTable t f).tlb = s.tlb := by unfold State.modTable; split <;> rfl
@[simp] theorem State.modTable_uppers (s : State) (t : Nat) (f : GTable → GTable) : (s.modTable t f).uppers = s.uppers := by unfold State.modTable; split <;> rfl
@[simp] theorem State.modTable_collapses (s : State) (t : Nat) (f : GTable → GTable) : (s.modTable t f).collapses = s.collapses := by unfold State.modTable; split <;> rfl
@[simp] theorem State.modTable_ctxs (s : State) (t : Nat) (f : GTable → GTable) : (s.modTable t f).ctxs = s.ctxs := by unfold State.modTable; split <;> rfl
@[simp] theorem State.modTable_funcs (s : State) (t : Nat) (f : GTable → GTable) : (s.modTable t f).funcs = s.funcs := by unfold State.modTable; split <;> rfl
@[simp] theorem State.modTable_keys (s : State) (t : Nat) (f : GTable → GTable) : (s.modTable t f).keys = s.keys := by unfold State.modTable; split <;> rfl
@[simp] theorem State.modTable_queues (s : State) (t : Nat) (f : GTable → GTable) : (s.modTable t f).queues = s.queues := by unfold State.modTable; split <;> rfl
@[simp] theorem State.modTable_rings (s : State) (t : Nat) (f : GTable → GTable) : (s.modTable t f).rings = s.rings := by unfold State.modTable; split <;> rfl
@[simp] theorem State.modTable_manifests (s : State) (t : Nat) (f : GTable → GTable) : (s.modTable t f).manifests = s.manifests := by unfold State.modTable; split <;> rfl
@[simp] theorem State.modTable_opens (s : State) (t : Nat) (f : GTable → GTable) : (s.modTable t f).opens = s.opens := by unfold State.modTable; split <;> rfl
@[simp] theorem State.modTable_fab (s : State) (t : Nat) (f : GTable → GTable) : (s.modTable t f).fab = s.fab := by unfold State.modTable; split <;> rfl
@[simp] theorem State.modTable_mg (s : State) (t : Nat) (f : GTable → GTable) : (s.modTable t f).mg = s.mg := by unfold State.modTable; split <;> rfl
@[simp] theorem State.modTable_irqs (s : State) (t : Nat) (f : GTable → GTable) : (s.modTable t f).irqs = s.irqs := by unfold State.modTable; split <;> rfl
@[simp] theorem State.modTable_replies (s : State) (t : Nat) (f : GTable → GTable) : (s.modTable t f).replies = s.replies := by unfold State.modTable; split <;> rfl

/-! ## log -/

@[simp] theorem State.log_dcc (s : State) (k u c : Nat) (d : BitVec 128) : (s.log k u c d).dcc = s.dcc := rfl
@[simp] theorem State.log_agenda (s : State) (k u c : Nat) (d : BitVec 128) : (s.log k u c d).agenda = s.agenda := rfl
@[simp] theorem State.log_turn (s : State) (k u c : Nat) (d : BitVec 128) : (s.log k u c d).turn = s.turn := rfl
@[simp] theorem State.log_cur (s : State) (k u c : Nat) (d : BitVec 128) : (s.log k u c d).cur = s.cur := rfl
@[simp] theorem State.log_free (s : State) (k u c : Nat) (d : BitVec 128) : (s.log k u c d).free = s.free := rfl
@[simp] theorem State.log_glob (s : State) (k u c : Nat) (d : BitVec 128) : (s.log k u c d).glob = s.glob := rfl
@[simp] theorem State.log_pad (s : State) (k u c : Nat) (d : BitVec 128) : (s.log k u c d).pad = s.pad := rfl
@[simp] theorem State.log_lane (s : State) (k u c : Nat) (d : BitVec 128) : (s.log k u c d).lane = s.lane := rfl
@[simp] theorem State.log_crew (s : State) (k u c : Nat) (d : BitVec 128) : (s.log k u c d).crew = s.crew := rfl
@[simp] theorem State.log_chip (s : State) (k u c : Nat) (d : BitVec 128) : (s.log k u c d).chip = s.chip := rfl
@[simp] theorem State.log_cache (s : State) (k u c : Nat) (d : BitVec 128) : (s.log k u c d).cache = s.cache := rfl
@[simp] theorem State.log_host (s : State) (k u c : Nat) (d : BitVec 128) : (s.log k u c d).host = s.host := rfl
@[simp] theorem State.log_lines (s : State) (k u c : Nat) (d : BitVec 128) : (s.log k u c d).lines = s.lines := rfl
@[simp] theorem State.log_shifts (s : State) (k u c : Nat) (d : BitVec 128) : (s.log k u c d).shifts = s.shifts := rfl
@[simp] theorem State.log_cores (s : State) (k u c : Nat) (d : BitVec 128) : (s.log k u c d).cores = s.cores := rfl
@[simp] theorem State.log_links (s : State) (k u c : Nat) (d : BitVec 128) : (s.log k u c d).links = s.links := rfl
@[simp] theorem State.log_jobs (s : State) (k u c : Nat) (d : BitVec 128) : (s.log k u c d).jobs = s.jobs := rfl
@[simp] theorem State.log_nextJob (s : State) (k u c : Nat) (d : BitVec 128) : (s.log k u c d).nextJob = s.nextJob := rfl
@[simp] theorem State.log_msgs (s : State) (k u c : Nat) (d : BitVec 128) : (s.log k u c d).msgs = s.msgs := rfl
@[simp] theorem State.log_acks (s : State) (k u c : Nat) (d : BitVec 128) : (s.log k u c d).acks = s.acks := rfl
@[simp] theorem State.log_waiters (s : State) (k u c : Nat) (d : BitVec 128) : (s.log k u c d).waiters = s.waiters := rfl
@[simp] theorem State.log_tlb (s : State) (k u c : Nat) (d : BitVec 128) : (s.log k u c d).tlb = s.tlb := rfl
@[simp] theorem State.log_uppers (s : State) (k u c : Nat) (d : BitVec 128) : (s.log k u c d).uppers = s.uppers := rfl
@[simp] theorem State.log_collapses (s : State) (k u c : Nat) (d : BitVec 128) : (s.log k u c d).collapses = s.collapses := rfl
@[simp] theorem State.log_ctxs (s : State) (k u c : Nat) (d : BitVec 128) : (s.log k u c d).ctxs = s.ctxs := rfl
@[simp] theorem State.log_funcs (s : State) (k u c : Nat) (d : BitVec 128) : (s.log k u c d).funcs = s.funcs := rfl
@[simp] theorem State.log_keys (s : State) (k u c : Nat) (d : BitVec 128) : (s.log k u c d).keys = s.keys := rfl
@[simp] theorem State.log_queues (s : State) (k u c : Nat) (d : BitVec 128) : (s.log k u c d).queues = s.queues := rfl
@[simp] theorem State.log_tables (s : State) (k u c : Nat) (d : BitVec 128) : (s.log k u c d).tables = s.tables := rfl
@[simp] theorem State.log_rings (s : State) (k u c : Nat) (d : BitVec 128) : (s.log k u c d).rings = s.rings := rfl
@[simp] theorem State.log_manifests (s : State) (k u c : Nat) (d : BitVec 128) : (s.log k u c d).manifests = s.manifests := rfl
@[simp] theorem State.log_opens (s : State) (k u c : Nat) (d : BitVec 128) : (s.log k u c d).opens = s.opens := rfl
@[simp] theorem State.log_fab (s : State) (k u c : Nat) (d : BitVec 128) : (s.log k u c d).fab = s.fab := rfl
@[simp] theorem State.log_mg (s : State) (k u c : Nat) (d : BitVec 128) : (s.log k u c d).mg = s.mg.logged (Event.mk s.dcc k u c d) := rfl
@[simp] theorem State.log_irqs (s : State) (k u c : Nat) (d : BitVec 128) : (s.log k u c d).irqs = s.irqs := rfl
@[simp] theorem State.log_replies (s : State) (k u c : Nat) (d : BitVec 128) : (s.log k u c d).replies = s.replies := rfl

/-! ## regErr -/

@[simp] theorem State.regErr_dcc (s : State) : (s.regErr).dcc = s.dcc := by unfold State.regErr; simp
@[simp] theorem State.regErr_agenda (s : State) : (s.regErr).agenda = s.agenda := by unfold State.regErr; simp
@[simp] theorem State.regErr_turn (s : State) : (s.regErr).turn = s.turn := by unfold State.regErr; simp
@[simp] theorem State.regErr_cur (s : State) : (s.regErr).cur = s.cur := by unfold State.regErr; simp
@[simp] theorem State.regErr_free (s : State) : (s.regErr).free = s.free := by unfold State.regErr; simp
@[simp] theorem State.regErr_glob (s : State) : (s.regErr).glob = s.glob := by unfold State.regErr; simp
@[simp] theorem State.regErr_pad (s : State) : (s.regErr).pad = s.pad := by unfold State.regErr; simp
@[simp] theorem State.regErr_lane (s : State) : (s.regErr).lane = s.lane := by unfold State.regErr; simp
@[simp] theorem State.regErr_crew (s : State) : (s.regErr).crew = s.crew := by unfold State.regErr; simp
@[simp] theorem State.regErr_chip (s : State) : (s.regErr).chip = s.chip := by unfold State.regErr; simp
@[simp] theorem State.regErr_cache (s : State) : (s.regErr).cache = s.cache := by unfold State.regErr; simp
@[simp] theorem State.regErr_host (s : State) : (s.regErr).host = s.host := by unfold State.regErr; simp
@[simp] theorem State.regErr_lines (s : State) : (s.regErr).lines = s.lines := by unfold State.regErr; simp
@[simp] theorem State.regErr_shifts (s : State) : (s.regErr).shifts = s.shifts := by unfold State.regErr; simp
@[simp] theorem State.regErr_cores (s : State) : (s.regErr).cores = s.cores := by unfold State.regErr; simp
@[simp] theorem State.regErr_links (s : State) : (s.regErr).links = s.links := by unfold State.regErr; simp
@[simp] theorem State.regErr_jobs (s : State) : (s.regErr).jobs = s.jobs := by unfold State.regErr; simp
@[simp] theorem State.regErr_nextJob (s : State) : (s.regErr).nextJob = s.nextJob := by unfold State.regErr; simp
@[simp] theorem State.regErr_msgs (s : State) : (s.regErr).msgs = s.msgs := by unfold State.regErr; simp
@[simp] theorem State.regErr_acks (s : State) : (s.regErr).acks = s.acks := by unfold State.regErr; simp
@[simp] theorem State.regErr_waiters (s : State) : (s.regErr).waiters = s.waiters := by unfold State.regErr; simp
@[simp] theorem State.regErr_tlb (s : State) : (s.regErr).tlb = s.tlb := by unfold State.regErr; simp
@[simp] theorem State.regErr_uppers (s : State) : (s.regErr).uppers = s.uppers := by unfold State.regErr; simp
@[simp] theorem State.regErr_collapses (s : State) : (s.regErr).collapses = s.collapses := by unfold State.regErr; simp
@[simp] theorem State.regErr_ctxs (s : State) : (s.regErr).ctxs = s.ctxs := by unfold State.regErr; simp
@[simp] theorem State.regErr_funcs (s : State) : (s.regErr).funcs = s.funcs := by unfold State.regErr; simp
@[simp] theorem State.regErr_keys (s : State) : (s.regErr).keys = s.keys := by unfold State.regErr; simp
@[simp] theorem State.regErr_queues (s : State) : (s.regErr).queues = s.queues := by unfold State.regErr; simp
@[simp] theorem State.regErr_tables (s : State) : (s.regErr).tables = s.tables := by unfold State.regErr; simp
@[simp] theorem State.regErr_rings (s : State) : (s.regErr).rings = s.rings := by unfold State.regErr; simp
@[simp] theorem State.regErr_manifests (s : State) : (s.regErr).manifests = s.manifests := by unfold State.regErr; simp
@[simp] theorem State.regErr_opens (s : State) : (s.regErr).opens = s.opens := by unfold State.regErr; simp
@[simp] theorem State.regErr_fab (s : State) : (s.regErr).fab = s.fab := by unfold State.regErr; simp
@[simp] theorem State.regErr_irqs (s : State) : (s.regErr).irqs = s.irqs := by unfold State.regErr; simp
@[simp] theorem State.regErr_replies (s : State) : (s.regErr).replies = s.replies := by unfold State.regErr; simp

/-! ## putPad -/

@[simp] theorem State.putPad_dcc (s : State) (c o : Nat) (bs : List Byte) : (s.putPad c o bs).dcc = s.dcc := rfl
@[simp] theorem State.putPad_agenda (s : State) (c o : Nat) (bs : List Byte) : (s.putPad c o bs).agenda = s.agenda := rfl
@[simp] theorem State.putPad_turn (s : State) (c o : Nat) (bs : List Byte) : (s.putPad c o bs).turn = s.turn := rfl
@[simp] theorem State.putPad_cur (s : State) (c o : Nat) (bs : List Byte) : (s.putPad c o bs).cur = s.cur := rfl
@[simp] theorem State.putPad_free (s : State) (c o : Nat) (bs : List Byte) : (s.putPad c o bs).free = s.free := rfl
@[simp] theorem State.putPad_glob (s : State) (c o : Nat) (bs : List Byte) : (s.putPad c o bs).glob = s.glob := rfl
@[simp] theorem State.putPad_pad (s : State) (c o : Nat) (bs : List Byte) : (s.putPad c o bs).pad = s.pad.put (padKey c o) bs := rfl
@[simp] theorem State.putPad_lane (s : State) (c o : Nat) (bs : List Byte) : (s.putPad c o bs).lane = s.lane := rfl
@[simp] theorem State.putPad_crew (s : State) (c o : Nat) (bs : List Byte) : (s.putPad c o bs).crew = s.crew := rfl
@[simp] theorem State.putPad_chip (s : State) (c o : Nat) (bs : List Byte) : (s.putPad c o bs).chip = s.chip := rfl
@[simp] theorem State.putPad_cache (s : State) (c o : Nat) (bs : List Byte) : (s.putPad c o bs).cache = s.cache := rfl
@[simp] theorem State.putPad_host (s : State) (c o : Nat) (bs : List Byte) : (s.putPad c o bs).host = s.host := rfl
@[simp] theorem State.putPad_lines (s : State) (c o : Nat) (bs : List Byte) : (s.putPad c o bs).lines = s.lines := rfl
@[simp] theorem State.putPad_shifts (s : State) (c o : Nat) (bs : List Byte) : (s.putPad c o bs).shifts = s.shifts := rfl
@[simp] theorem State.putPad_cores (s : State) (c o : Nat) (bs : List Byte) : (s.putPad c o bs).cores = s.cores := rfl
@[simp] theorem State.putPad_links (s : State) (c o : Nat) (bs : List Byte) : (s.putPad c o bs).links = s.links := rfl
@[simp] theorem State.putPad_jobs (s : State) (c o : Nat) (bs : List Byte) : (s.putPad c o bs).jobs = s.jobs := rfl
@[simp] theorem State.putPad_nextJob (s : State) (c o : Nat) (bs : List Byte) : (s.putPad c o bs).nextJob = s.nextJob := rfl
@[simp] theorem State.putPad_msgs (s : State) (c o : Nat) (bs : List Byte) : (s.putPad c o bs).msgs = s.msgs := rfl
@[simp] theorem State.putPad_acks (s : State) (c o : Nat) (bs : List Byte) : (s.putPad c o bs).acks = s.acks := rfl
@[simp] theorem State.putPad_waiters (s : State) (c o : Nat) (bs : List Byte) : (s.putPad c o bs).waiters = s.waiters := rfl
@[simp] theorem State.putPad_tlb (s : State) (c o : Nat) (bs : List Byte) : (s.putPad c o bs).tlb = s.tlb := rfl
@[simp] theorem State.putPad_uppers (s : State) (c o : Nat) (bs : List Byte) : (s.putPad c o bs).uppers = s.uppers := rfl
@[simp] theorem State.putPad_collapses (s : State) (c o : Nat) (bs : List Byte) : (s.putPad c o bs).collapses = s.collapses := rfl
@[simp] theorem State.putPad_ctxs (s : State) (c o : Nat) (bs : List Byte) : (s.putPad c o bs).ctxs = s.ctxs := rfl
@[simp] theorem State.putPad_funcs (s : State) (c o : Nat) (bs : List Byte) : (s.putPad c o bs).funcs = s.funcs := rfl
@[simp] theorem State.putPad_keys (s : State) (c o : Nat) (bs : List Byte) : (s.putPad c o bs).keys = s.keys := rfl
@[simp] theorem State.putPad_queues (s : State) (c o : Nat) (bs : List Byte) : (s.putPad c o bs).queues = s.queues := rfl
@[simp] theorem State.putPad_tables (s : State) (c o : Nat) (bs : List Byte) : (s.putPad c o bs).tables = s.tables := rfl
@[simp] theorem State.putPad_rings (s : State) (c o : Nat) (bs : List Byte) : (s.putPad c o bs).rings = s.rings := rfl
@[simp] theorem State.putPad_manifests (s : State) (c o : Nat) (bs : List Byte) : (s.putPad c o bs).manifests = s.manifests := rfl
@[simp] theorem State.putPad_opens (s : State) (c o : Nat) (bs : List Byte) : (s.putPad c o bs).opens = s.opens := rfl
@[simp] theorem State.putPad_fab (s : State) (c o : Nat) (bs : List Byte) : (s.putPad c o bs).fab = s.fab := rfl
@[simp] theorem State.putPad_mg (s : State) (c o : Nat) (bs : List Byte) : (s.putPad c o bs).mg = s.mg := rfl
@[simp] theorem State.putPad_irqs (s : State) (c o : Nat) (bs : List Byte) : (s.putPad c o bs).irqs = s.irqs := rfl
@[simp] theorem State.putPad_replies (s : State) (c o : Nat) (bs : List Byte) : (s.putPad c o bs).replies = s.replies := rfl

/-! ## putLane -/

@[simp] theorem State.putLane_dcc (s : State) (c l o : Nat) (bs : List Byte) : (s.putLane c l o bs).dcc = s.dcc := rfl
@[simp] theorem State.putLane_agenda (s : State) (c l o : Nat) (bs : List Byte) : (s.putLane c l o bs).agenda = s.agenda := rfl
@[simp] theorem State.putLane_turn (s : State) (c l o : Nat) (bs : List Byte) : (s.putLane c l o bs).turn = s.turn := rfl
@[simp] theorem State.putLane_cur (s : State) (c l o : Nat) (bs : List Byte) : (s.putLane c l o bs).cur = s.cur := rfl
@[simp] theorem State.putLane_free (s : State) (c l o : Nat) (bs : List Byte) : (s.putLane c l o bs).free = s.free := rfl
@[simp] theorem State.putLane_glob (s : State) (c l o : Nat) (bs : List Byte) : (s.putLane c l o bs).glob = s.glob := rfl
@[simp] theorem State.putLane_pad (s : State) (c l o : Nat) (bs : List Byte) : (s.putLane c l o bs).pad = s.pad := rfl
@[simp] theorem State.putLane_lane (s : State) (c l o : Nat) (bs : List Byte) : (s.putLane c l o bs).lane = s.lane.put (laneKey c l o) bs := rfl
@[simp] theorem State.putLane_crew (s : State) (c l o : Nat) (bs : List Byte) : (s.putLane c l o bs).crew = s.crew := rfl
@[simp] theorem State.putLane_chip (s : State) (c l o : Nat) (bs : List Byte) : (s.putLane c l o bs).chip = s.chip := rfl
@[simp] theorem State.putLane_cache (s : State) (c l o : Nat) (bs : List Byte) : (s.putLane c l o bs).cache = s.cache := rfl
@[simp] theorem State.putLane_host (s : State) (c l o : Nat) (bs : List Byte) : (s.putLane c l o bs).host = s.host := rfl
@[simp] theorem State.putLane_lines (s : State) (c l o : Nat) (bs : List Byte) : (s.putLane c l o bs).lines = s.lines := rfl
@[simp] theorem State.putLane_shifts (s : State) (c l o : Nat) (bs : List Byte) : (s.putLane c l o bs).shifts = s.shifts := rfl
@[simp] theorem State.putLane_cores (s : State) (c l o : Nat) (bs : List Byte) : (s.putLane c l o bs).cores = s.cores := rfl
@[simp] theorem State.putLane_links (s : State) (c l o : Nat) (bs : List Byte) : (s.putLane c l o bs).links = s.links := rfl
@[simp] theorem State.putLane_jobs (s : State) (c l o : Nat) (bs : List Byte) : (s.putLane c l o bs).jobs = s.jobs := rfl
@[simp] theorem State.putLane_nextJob (s : State) (c l o : Nat) (bs : List Byte) : (s.putLane c l o bs).nextJob = s.nextJob := rfl
@[simp] theorem State.putLane_msgs (s : State) (c l o : Nat) (bs : List Byte) : (s.putLane c l o bs).msgs = s.msgs := rfl
@[simp] theorem State.putLane_acks (s : State) (c l o : Nat) (bs : List Byte) : (s.putLane c l o bs).acks = s.acks := rfl
@[simp] theorem State.putLane_waiters (s : State) (c l o : Nat) (bs : List Byte) : (s.putLane c l o bs).waiters = s.waiters := rfl
@[simp] theorem State.putLane_tlb (s : State) (c l o : Nat) (bs : List Byte) : (s.putLane c l o bs).tlb = s.tlb := rfl
@[simp] theorem State.putLane_uppers (s : State) (c l o : Nat) (bs : List Byte) : (s.putLane c l o bs).uppers = s.uppers := rfl
@[simp] theorem State.putLane_collapses (s : State) (c l o : Nat) (bs : List Byte) : (s.putLane c l o bs).collapses = s.collapses := rfl
@[simp] theorem State.putLane_ctxs (s : State) (c l o : Nat) (bs : List Byte) : (s.putLane c l o bs).ctxs = s.ctxs := rfl
@[simp] theorem State.putLane_funcs (s : State) (c l o : Nat) (bs : List Byte) : (s.putLane c l o bs).funcs = s.funcs := rfl
@[simp] theorem State.putLane_keys (s : State) (c l o : Nat) (bs : List Byte) : (s.putLane c l o bs).keys = s.keys := rfl
@[simp] theorem State.putLane_queues (s : State) (c l o : Nat) (bs : List Byte) : (s.putLane c l o bs).queues = s.queues := rfl
@[simp] theorem State.putLane_tables (s : State) (c l o : Nat) (bs : List Byte) : (s.putLane c l o bs).tables = s.tables := rfl
@[simp] theorem State.putLane_rings (s : State) (c l o : Nat) (bs : List Byte) : (s.putLane c l o bs).rings = s.rings := rfl
@[simp] theorem State.putLane_manifests (s : State) (c l o : Nat) (bs : List Byte) : (s.putLane c l o bs).manifests = s.manifests := rfl
@[simp] theorem State.putLane_opens (s : State) (c l o : Nat) (bs : List Byte) : (s.putLane c l o bs).opens = s.opens := rfl
@[simp] theorem State.putLane_fab (s : State) (c l o : Nat) (bs : List Byte) : (s.putLane c l o bs).fab = s.fab := rfl
@[simp] theorem State.putLane_mg (s : State) (c l o : Nat) (bs : List Byte) : (s.putLane c l o bs).mg = s.mg := rfl
@[simp] theorem State.putLane_irqs (s : State) (c l o : Nat) (bs : List Byte) : (s.putLane c l o bs).irqs = s.irqs := rfl
@[simp] theorem State.putLane_replies (s : State) (c l o : Nat) (bs : List Byte) : (s.putLane c l o bs).replies = s.replies := rfl

/-! ## modX -/

@[simp] theorem State.modX_dcc (s : State) (f : Shift → Shift) : (s.modX f).dcc = s.dcc := by unfold State.modX; split <;> simp
@[simp] theorem State.modX_agenda (s : State) (f : Shift → Shift) : (s.modX f).agenda = s.agenda := by unfold State.modX; split <;> simp
@[simp] theorem State.modX_turn (s : State) (f : Shift → Shift) : (s.modX f).turn = s.turn := by unfold State.modX; split <;> simp
@[simp] theorem State.modX_cur (s : State) (f : Shift → Shift) : (s.modX f).cur = s.cur := by unfold State.modX; split <;> simp
@[simp] theorem State.modX_free (s : State) (f : Shift → Shift) : (s.modX f).free = s.free := by unfold State.modX; split <;> simp
@[simp] theorem State.modX_glob (s : State) (f : Shift → Shift) : (s.modX f).glob = s.glob := by unfold State.modX; split <;> simp
@[simp] theorem State.modX_pad (s : State) (f : Shift → Shift) : (s.modX f).pad = s.pad := by unfold State.modX; split <;> simp
@[simp] theorem State.modX_lane (s : State) (f : Shift → Shift) : (s.modX f).lane = s.lane := by unfold State.modX; split <;> simp
@[simp] theorem State.modX_crew (s : State) (f : Shift → Shift) : (s.modX f).crew = s.crew := by unfold State.modX; split <;> simp
@[simp] theorem State.modX_chip (s : State) (f : Shift → Shift) : (s.modX f).chip = s.chip := by unfold State.modX; split <;> simp
@[simp] theorem State.modX_cache (s : State) (f : Shift → Shift) : (s.modX f).cache = s.cache := by unfold State.modX; split <;> simp
@[simp] theorem State.modX_host (s : State) (f : Shift → Shift) : (s.modX f).host = s.host := by unfold State.modX; split <;> simp
@[simp] theorem State.modX_lines (s : State) (f : Shift → Shift) : (s.modX f).lines = s.lines := by unfold State.modX; split <;> simp
@[simp] theorem State.modX_cores (s : State) (f : Shift → Shift) : (s.modX f).cores = s.cores := by unfold State.modX; split <;> simp
@[simp] theorem State.modX_links (s : State) (f : Shift → Shift) : (s.modX f).links = s.links := by unfold State.modX; split <;> simp
@[simp] theorem State.modX_jobs (s : State) (f : Shift → Shift) : (s.modX f).jobs = s.jobs := by unfold State.modX; split <;> simp
@[simp] theorem State.modX_nextJob (s : State) (f : Shift → Shift) : (s.modX f).nextJob = s.nextJob := by unfold State.modX; split <;> simp
@[simp] theorem State.modX_msgs (s : State) (f : Shift → Shift) : (s.modX f).msgs = s.msgs := by unfold State.modX; split <;> simp
@[simp] theorem State.modX_acks (s : State) (f : Shift → Shift) : (s.modX f).acks = s.acks := by unfold State.modX; split <;> simp
@[simp] theorem State.modX_waiters (s : State) (f : Shift → Shift) : (s.modX f).waiters = s.waiters := by unfold State.modX; split <;> simp
@[simp] theorem State.modX_tlb (s : State) (f : Shift → Shift) : (s.modX f).tlb = s.tlb := by unfold State.modX; split <;> simp
@[simp] theorem State.modX_uppers (s : State) (f : Shift → Shift) : (s.modX f).uppers = s.uppers := by unfold State.modX; split <;> simp
@[simp] theorem State.modX_collapses (s : State) (f : Shift → Shift) : (s.modX f).collapses = s.collapses := by unfold State.modX; split <;> simp
@[simp] theorem State.modX_ctxs (s : State) (f : Shift → Shift) : (s.modX f).ctxs = s.ctxs := by unfold State.modX; split <;> simp
@[simp] theorem State.modX_funcs (s : State) (f : Shift → Shift) : (s.modX f).funcs = s.funcs := by unfold State.modX; split <;> simp
@[simp] theorem State.modX_keys (s : State) (f : Shift → Shift) : (s.modX f).keys = s.keys := by unfold State.modX; split <;> simp
@[simp] theorem State.modX_queues (s : State) (f : Shift → Shift) : (s.modX f).queues = s.queues := by unfold State.modX; split <;> simp
@[simp] theorem State.modX_tables (s : State) (f : Shift → Shift) : (s.modX f).tables = s.tables := by unfold State.modX; split <;> simp
@[simp] theorem State.modX_rings (s : State) (f : Shift → Shift) : (s.modX f).rings = s.rings := by unfold State.modX; split <;> simp
@[simp] theorem State.modX_manifests (s : State) (f : Shift → Shift) : (s.modX f).manifests = s.manifests := by unfold State.modX; split <;> simp
@[simp] theorem State.modX_opens (s : State) (f : Shift → Shift) : (s.modX f).opens = s.opens := by unfold State.modX; split <;> simp
@[simp] theorem State.modX_fab (s : State) (f : Shift → Shift) : (s.modX f).fab = s.fab := by unfold State.modX; split <;> simp
@[simp] theorem State.modX_mg (s : State) (f : Shift → Shift) : (s.modX f).mg = s.mg := by unfold State.modX; split <;> simp
@[simp] theorem State.modX_irqs (s : State) (f : Shift → Shift) : (s.modX f).irqs = s.irqs := by unfold State.modX; split <;> simp
@[simp] theorem State.modX_replies (s : State) (f : Shift → Shift) : (s.modX f).replies = s.replies := by unfold State.modX; split <;> simp

/-! ## land -/

@[simp] theorem State.land_dcc (s : State) (k : Nat) (fl : Flags) (d : LandTo) : (s.land k fl d).dcc = s.dcc := by unfold State.land; simp
@[simp] theorem State.land_agenda (s : State) (k : Nat) (fl : Flags) (d : LandTo) : (s.land k fl d).agenda = s.agenda := by unfold State.land; simp
@[simp] theorem State.land_turn (s : State) (k : Nat) (fl : Flags) (d : LandTo) : (s.land k fl d).turn = s.turn := by unfold State.land; simp
@[simp] theorem State.land_cur (s : State) (k : Nat) (fl : Flags) (d : LandTo) : (s.land k fl d).cur = s.cur := by unfold State.land; simp
@[simp] theorem State.land_free (s : State) (k : Nat) (fl : Flags) (d : LandTo) : (s.land k fl d).free = s.free := by unfold State.land; simp
@[simp] theorem State.land_glob (s : State) (k : Nat) (fl : Flags) (d : LandTo) : (s.land k fl d).glob = s.glob := by unfold State.land; simp
@[simp] theorem State.land_pad (s : State) (k : Nat) (fl : Flags) (d : LandTo) : (s.land k fl d).pad = s.pad := by unfold State.land; simp
@[simp] theorem State.land_lane (s : State) (k : Nat) (fl : Flags) (d : LandTo) : (s.land k fl d).lane = s.lane := by unfold State.land; simp
@[simp] theorem State.land_crew (s : State) (k : Nat) (fl : Flags) (d : LandTo) : (s.land k fl d).crew = s.crew := by unfold State.land; simp
@[simp] theorem State.land_chip (s : State) (k : Nat) (fl : Flags) (d : LandTo) : (s.land k fl d).chip = s.chip := by unfold State.land; simp
@[simp] theorem State.land_cache (s : State) (k : Nat) (fl : Flags) (d : LandTo) : (s.land k fl d).cache = s.cache := by unfold State.land; simp
@[simp] theorem State.land_host (s : State) (k : Nat) (fl : Flags) (d : LandTo) : (s.land k fl d).host = s.host := by unfold State.land; simp
@[simp] theorem State.land_lines (s : State) (k : Nat) (fl : Flags) (d : LandTo) : (s.land k fl d).lines = s.lines := by unfold State.land; simp
@[simp] theorem State.land_cores (s : State) (k : Nat) (fl : Flags) (d : LandTo) : (s.land k fl d).cores = s.cores := by unfold State.land; simp
@[simp] theorem State.land_links (s : State) (k : Nat) (fl : Flags) (d : LandTo) : (s.land k fl d).links = s.links := by unfold State.land; simp
@[simp] theorem State.land_jobs (s : State) (k : Nat) (fl : Flags) (d : LandTo) : (s.land k fl d).jobs = s.jobs := by unfold State.land; simp
@[simp] theorem State.land_nextJob (s : State) (k : Nat) (fl : Flags) (d : LandTo) : (s.land k fl d).nextJob = s.nextJob := by unfold State.land; simp
@[simp] theorem State.land_msgs (s : State) (k : Nat) (fl : Flags) (d : LandTo) : (s.land k fl d).msgs = s.msgs := by unfold State.land; simp
@[simp] theorem State.land_acks (s : State) (k : Nat) (fl : Flags) (d : LandTo) : (s.land k fl d).acks = s.acks := by unfold State.land; simp
@[simp] theorem State.land_waiters (s : State) (k : Nat) (fl : Flags) (d : LandTo) : (s.land k fl d).waiters = s.waiters := by unfold State.land; simp
@[simp] theorem State.land_tlb (s : State) (k : Nat) (fl : Flags) (d : LandTo) : (s.land k fl d).tlb = s.tlb := by unfold State.land; simp
@[simp] theorem State.land_uppers (s : State) (k : Nat) (fl : Flags) (d : LandTo) : (s.land k fl d).uppers = s.uppers := by unfold State.land; simp
@[simp] theorem State.land_collapses (s : State) (k : Nat) (fl : Flags) (d : LandTo) : (s.land k fl d).collapses = s.collapses := by unfold State.land; simp
@[simp] theorem State.land_ctxs (s : State) (k : Nat) (fl : Flags) (d : LandTo) : (s.land k fl d).ctxs = s.ctxs := by unfold State.land; simp
@[simp] theorem State.land_funcs (s : State) (k : Nat) (fl : Flags) (d : LandTo) : (s.land k fl d).funcs = s.funcs := by unfold State.land; simp
@[simp] theorem State.land_keys (s : State) (k : Nat) (fl : Flags) (d : LandTo) : (s.land k fl d).keys = s.keys := by unfold State.land; simp
@[simp] theorem State.land_queues (s : State) (k : Nat) (fl : Flags) (d : LandTo) : (s.land k fl d).queues = s.queues := by unfold State.land; simp
@[simp] theorem State.land_tables (s : State) (k : Nat) (fl : Flags) (d : LandTo) : (s.land k fl d).tables = s.tables := by unfold State.land; simp
@[simp] theorem State.land_rings (s : State) (k : Nat) (fl : Flags) (d : LandTo) : (s.land k fl d).rings = s.rings := by unfold State.land; simp
@[simp] theorem State.land_manifests (s : State) (k : Nat) (fl : Flags) (d : LandTo) : (s.land k fl d).manifests = s.manifests := by unfold State.land; simp
@[simp] theorem State.land_opens (s : State) (k : Nat) (fl : Flags) (d : LandTo) : (s.land k fl d).opens = s.opens := by unfold State.land; simp
@[simp] theorem State.land_fab (s : State) (k : Nat) (fl : Flags) (d : LandTo) : (s.land k fl d).fab = s.fab := by unfold State.land; simp
@[simp] theorem State.land_mg (s : State) (k : Nat) (fl : Flags) (d : LandTo) : (s.land k fl d).mg = s.mg := by unfold State.land; simp
@[simp] theorem State.land_irqs (s : State) (k : Nat) (fl : Flags) (d : LandTo) : (s.land k fl d).irqs = s.irqs := by unfold State.land; simp
@[simp] theorem State.land_replies (s : State) (k : Nat) (fl : Flags) (d : LandTo) : (s.land k fl d).replies = s.replies := by unfold State.land; simp

/-! ## modAdit -/

@[simp] theorem State.modAdit_dcc (s : State) (a : Nat) (f : Adit → Adit) : (s.modAdit a f).dcc = s.dcc := rfl
@[simp] theorem State.modAdit_agenda (s : State) (a : Nat) (f : Adit → Adit) : (s.modAdit a f).agenda = s.agenda := rfl
@[simp] theorem State.modAdit_turn (s : State) (a : Nat) (f : Adit → Adit) : (s.modAdit a f).turn = s.turn := rfl
@[simp] theorem State.modAdit_cur (s : State) (a : Nat) (f : Adit → Adit) : (s.modAdit a f).cur = s.cur := rfl
@[simp] theorem State.modAdit_free (s : State) (a : Nat) (f : Adit → Adit) : (s.modAdit a f).free = s.free := rfl
@[simp] theorem State.modAdit_glob (s : State) (a : Nat) (f : Adit → Adit) : (s.modAdit a f).glob = s.glob := rfl
@[simp] theorem State.modAdit_pad (s : State) (a : Nat) (f : Adit → Adit) : (s.modAdit a f).pad = s.pad := rfl
@[simp] theorem State.modAdit_lane (s : State) (a : Nat) (f : Adit → Adit) : (s.modAdit a f).lane = s.lane := rfl
@[simp] theorem State.modAdit_crew (s : State) (a : Nat) (f : Adit → Adit) : (s.modAdit a f).crew = s.crew := rfl
@[simp] theorem State.modAdit_chip (s : State) (a : Nat) (f : Adit → Adit) : (s.modAdit a f).chip = s.chip := rfl
@[simp] theorem State.modAdit_cache (s : State) (a : Nat) (f : Adit → Adit) : (s.modAdit a f).cache = s.cache := rfl
@[simp] theorem State.modAdit_host (s : State) (a : Nat) (f : Adit → Adit) : (s.modAdit a f).host = s.host := rfl
@[simp] theorem State.modAdit_lines (s : State) (a : Nat) (f : Adit → Adit) : (s.modAdit a f).lines = s.lines := rfl
@[simp] theorem State.modAdit_shifts (s : State) (a : Nat) (f : Adit → Adit) : (s.modAdit a f).shifts = s.shifts := rfl
@[simp] theorem State.modAdit_cores (s : State) (a : Nat) (f : Adit → Adit) : (s.modAdit a f).cores = s.cores := rfl
@[simp] theorem State.modAdit_links (s : State) (a : Nat) (f : Adit → Adit) : (s.modAdit a f).links = s.links := rfl
@[simp] theorem State.modAdit_jobs (s : State) (a : Nat) (f : Adit → Adit) : (s.modAdit a f).jobs = s.jobs := rfl
@[simp] theorem State.modAdit_nextJob (s : State) (a : Nat) (f : Adit → Adit) : (s.modAdit a f).nextJob = s.nextJob := rfl
@[simp] theorem State.modAdit_msgs (s : State) (a : Nat) (f : Adit → Adit) : (s.modAdit a f).msgs = s.msgs := rfl
@[simp] theorem State.modAdit_acks (s : State) (a : Nat) (f : Adit → Adit) : (s.modAdit a f).acks = s.acks := rfl
@[simp] theorem State.modAdit_waiters (s : State) (a : Nat) (f : Adit → Adit) : (s.modAdit a f).waiters = s.waiters := rfl
@[simp] theorem State.modAdit_tlb (s : State) (a : Nat) (f : Adit → Adit) : (s.modAdit a f).tlb = s.tlb := rfl
@[simp] theorem State.modAdit_uppers (s : State) (a : Nat) (f : Adit → Adit) : (s.modAdit a f).uppers = s.uppers := rfl
@[simp] theorem State.modAdit_collapses (s : State) (a : Nat) (f : Adit → Adit) : (s.modAdit a f).collapses = s.collapses := rfl
@[simp] theorem State.modAdit_ctxs (s : State) (a : Nat) (f : Adit → Adit) : (s.modAdit a f).ctxs = s.ctxs := rfl
@[simp] theorem State.modAdit_funcs (s : State) (a : Nat) (f : Adit → Adit) : (s.modAdit a f).funcs = s.funcs := rfl
@[simp] theorem State.modAdit_keys (s : State) (a : Nat) (f : Adit → Adit) : (s.modAdit a f).keys = s.keys := rfl
@[simp] theorem State.modAdit_queues (s : State) (a : Nat) (f : Adit → Adit) : (s.modAdit a f).queues = s.queues := rfl
@[simp] theorem State.modAdit_tables (s : State) (a : Nat) (f : Adit → Adit) : (s.modAdit a f).tables = s.tables := rfl
@[simp] theorem State.modAdit_rings (s : State) (a : Nat) (f : Adit → Adit) : (s.modAdit a f).rings = s.rings := rfl
@[simp] theorem State.modAdit_manifests (s : State) (a : Nat) (f : Adit → Adit) : (s.modAdit a f).manifests = s.manifests := rfl
@[simp] theorem State.modAdit_opens (s : State) (a : Nat) (f : Adit → Adit) : (s.modAdit a f).opens = s.opens := rfl
@[simp] theorem State.modAdit_mg (s : State) (a : Nat) (f : Adit → Adit) : (s.modAdit a f).mg = s.mg := rfl
@[simp] theorem State.modAdit_irqs (s : State) (a : Nat) (f : Adit → Adit) : (s.modAdit a f).irqs = s.irqs := rfl
@[simp] theorem State.modAdit_replies (s : State) (a : Nat) (f : Adit → Adit) : (s.modAdit a f).replies = s.replies := rfl

/-! ## modStack -/

@[simp] theorem State.modStack_dcc (s : State) (n : Nat) (f : Stack → Stack) : (s.modStack n f).dcc = s.dcc := rfl
@[simp] theorem State.modStack_agenda (s : State) (n : Nat) (f : Stack → Stack) : (s.modStack n f).agenda = s.agenda := rfl
@[simp] theorem State.modStack_turn (s : State) (n : Nat) (f : Stack → Stack) : (s.modStack n f).turn = s.turn := rfl
@[simp] theorem State.modStack_cur (s : State) (n : Nat) (f : Stack → Stack) : (s.modStack n f).cur = s.cur := rfl
@[simp] theorem State.modStack_free (s : State) (n : Nat) (f : Stack → Stack) : (s.modStack n f).free = s.free := rfl
@[simp] theorem State.modStack_glob (s : State) (n : Nat) (f : Stack → Stack) : (s.modStack n f).glob = s.glob := rfl
@[simp] theorem State.modStack_pad (s : State) (n : Nat) (f : Stack → Stack) : (s.modStack n f).pad = s.pad := rfl
@[simp] theorem State.modStack_lane (s : State) (n : Nat) (f : Stack → Stack) : (s.modStack n f).lane = s.lane := rfl
@[simp] theorem State.modStack_crew (s : State) (n : Nat) (f : Stack → Stack) : (s.modStack n f).crew = s.crew := rfl
@[simp] theorem State.modStack_chip (s : State) (n : Nat) (f : Stack → Stack) : (s.modStack n f).chip = s.chip := rfl
@[simp] theorem State.modStack_cache (s : State) (n : Nat) (f : Stack → Stack) : (s.modStack n f).cache = s.cache := rfl
@[simp] theorem State.modStack_host (s : State) (n : Nat) (f : Stack → Stack) : (s.modStack n f).host = s.host := rfl
@[simp] theorem State.modStack_lines (s : State) (n : Nat) (f : Stack → Stack) : (s.modStack n f).lines = s.lines := rfl
@[simp] theorem State.modStack_shifts (s : State) (n : Nat) (f : Stack → Stack) : (s.modStack n f).shifts = s.shifts := rfl
@[simp] theorem State.modStack_cores (s : State) (n : Nat) (f : Stack → Stack) : (s.modStack n f).cores = s.cores := rfl
@[simp] theorem State.modStack_links (s : State) (n : Nat) (f : Stack → Stack) : (s.modStack n f).links = s.links := rfl
@[simp] theorem State.modStack_jobs (s : State) (n : Nat) (f : Stack → Stack) : (s.modStack n f).jobs = s.jobs := rfl
@[simp] theorem State.modStack_nextJob (s : State) (n : Nat) (f : Stack → Stack) : (s.modStack n f).nextJob = s.nextJob := rfl
@[simp] theorem State.modStack_msgs (s : State) (n : Nat) (f : Stack → Stack) : (s.modStack n f).msgs = s.msgs := rfl
@[simp] theorem State.modStack_acks (s : State) (n : Nat) (f : Stack → Stack) : (s.modStack n f).acks = s.acks := rfl
@[simp] theorem State.modStack_waiters (s : State) (n : Nat) (f : Stack → Stack) : (s.modStack n f).waiters = s.waiters := rfl
@[simp] theorem State.modStack_tlb (s : State) (n : Nat) (f : Stack → Stack) : (s.modStack n f).tlb = s.tlb := rfl
@[simp] theorem State.modStack_uppers (s : State) (n : Nat) (f : Stack → Stack) : (s.modStack n f).uppers = s.uppers := rfl
@[simp] theorem State.modStack_collapses (s : State) (n : Nat) (f : Stack → Stack) : (s.modStack n f).collapses = s.collapses := rfl
@[simp] theorem State.modStack_ctxs (s : State) (n : Nat) (f : Stack → Stack) : (s.modStack n f).ctxs = s.ctxs := rfl
@[simp] theorem State.modStack_funcs (s : State) (n : Nat) (f : Stack → Stack) : (s.modStack n f).funcs = s.funcs := rfl
@[simp] theorem State.modStack_keys (s : State) (n : Nat) (f : Stack → Stack) : (s.modStack n f).keys = s.keys := rfl
@[simp] theorem State.modStack_queues (s : State) (n : Nat) (f : Stack → Stack) : (s.modStack n f).queues = s.queues := rfl
@[simp] theorem State.modStack_tables (s : State) (n : Nat) (f : Stack → Stack) : (s.modStack n f).tables = s.tables := rfl
@[simp] theorem State.modStack_rings (s : State) (n : Nat) (f : Stack → Stack) : (s.modStack n f).rings = s.rings := rfl
@[simp] theorem State.modStack_manifests (s : State) (n : Nat) (f : Stack → Stack) : (s.modStack n f).manifests = s.manifests := rfl
@[simp] theorem State.modStack_opens (s : State) (n : Nat) (f : Stack → Stack) : (s.modStack n f).opens = s.opens := rfl
@[simp] theorem State.modStack_fab (s : State) (n : Nat) (f : Stack → Stack) : (s.modStack n f).fab = s.fab := rfl
@[simp] theorem State.modStack_irqs (s : State) (n : Nat) (f : Stack → Stack) : (s.modStack n f).irqs = s.irqs := rfl
@[simp] theorem State.modStack_replies (s : State) (n : Nat) (f : Stack → Stack) : (s.modStack n f).replies = s.replies := rfl

/-! ## modKeys -/

@[simp] theorem State.modKeys_dcc (s : State) (f : Keys → Keys) : (s.modKeys f).dcc = s.dcc := rfl
@[simp] theorem State.modKeys_agenda (s : State) (f : Keys → Keys) : (s.modKeys f).agenda = s.agenda := rfl
@[simp] theorem State.modKeys_turn (s : State) (f : Keys → Keys) : (s.modKeys f).turn = s.turn := rfl
@[simp] theorem State.modKeys_cur (s : State) (f : Keys → Keys) : (s.modKeys f).cur = s.cur := rfl
@[simp] theorem State.modKeys_free (s : State) (f : Keys → Keys) : (s.modKeys f).free = s.free := rfl
@[simp] theorem State.modKeys_glob (s : State) (f : Keys → Keys) : (s.modKeys f).glob = s.glob := rfl
@[simp] theorem State.modKeys_pad (s : State) (f : Keys → Keys) : (s.modKeys f).pad = s.pad := rfl
@[simp] theorem State.modKeys_lane (s : State) (f : Keys → Keys) : (s.modKeys f).lane = s.lane := rfl
@[simp] theorem State.modKeys_crew (s : State) (f : Keys → Keys) : (s.modKeys f).crew = s.crew := rfl
@[simp] theorem State.modKeys_chip (s : State) (f : Keys → Keys) : (s.modKeys f).chip = s.chip := rfl
@[simp] theorem State.modKeys_cache (s : State) (f : Keys → Keys) : (s.modKeys f).cache = s.cache := rfl
@[simp] theorem State.modKeys_host (s : State) (f : Keys → Keys) : (s.modKeys f).host = s.host := rfl
@[simp] theorem State.modKeys_lines (s : State) (f : Keys → Keys) : (s.modKeys f).lines = s.lines := rfl
@[simp] theorem State.modKeys_shifts (s : State) (f : Keys → Keys) : (s.modKeys f).shifts = s.shifts := rfl
@[simp] theorem State.modKeys_cores (s : State) (f : Keys → Keys) : (s.modKeys f).cores = s.cores := rfl
@[simp] theorem State.modKeys_links (s : State) (f : Keys → Keys) : (s.modKeys f).links = s.links := rfl
@[simp] theorem State.modKeys_jobs (s : State) (f : Keys → Keys) : (s.modKeys f).jobs = s.jobs := rfl
@[simp] theorem State.modKeys_nextJob (s : State) (f : Keys → Keys) : (s.modKeys f).nextJob = s.nextJob := rfl
@[simp] theorem State.modKeys_msgs (s : State) (f : Keys → Keys) : (s.modKeys f).msgs = s.msgs := rfl
@[simp] theorem State.modKeys_acks (s : State) (f : Keys → Keys) : (s.modKeys f).acks = s.acks := rfl
@[simp] theorem State.modKeys_waiters (s : State) (f : Keys → Keys) : (s.modKeys f).waiters = s.waiters := rfl
@[simp] theorem State.modKeys_tlb (s : State) (f : Keys → Keys) : (s.modKeys f).tlb = s.tlb := rfl
@[simp] theorem State.modKeys_uppers (s : State) (f : Keys → Keys) : (s.modKeys f).uppers = s.uppers := rfl
@[simp] theorem State.modKeys_collapses (s : State) (f : Keys → Keys) : (s.modKeys f).collapses = s.collapses := rfl
@[simp] theorem State.modKeys_ctxs (s : State) (f : Keys → Keys) : (s.modKeys f).ctxs = s.ctxs := rfl
@[simp] theorem State.modKeys_funcs (s : State) (f : Keys → Keys) : (s.modKeys f).funcs = s.funcs := rfl
@[simp] theorem State.modKeys_keys (s : State) (f : Keys → Keys) : (s.modKeys f).keys = f s.keys := rfl
@[simp] theorem State.modKeys_queues (s : State) (f : Keys → Keys) : (s.modKeys f).queues = s.queues := rfl
@[simp] theorem State.modKeys_tables (s : State) (f : Keys → Keys) : (s.modKeys f).tables = s.tables := rfl
@[simp] theorem State.modKeys_rings (s : State) (f : Keys → Keys) : (s.modKeys f).rings = s.rings := rfl
@[simp] theorem State.modKeys_manifests (s : State) (f : Keys → Keys) : (s.modKeys f).manifests = s.manifests := rfl
@[simp] theorem State.modKeys_opens (s : State) (f : Keys → Keys) : (s.modKeys f).opens = s.opens := rfl
@[simp] theorem State.modKeys_fab (s : State) (f : Keys → Keys) : (s.modKeys f).fab = s.fab := rfl
@[simp] theorem State.modKeys_mg (s : State) (f : Keys → Keys) : (s.modKeys f).mg = s.mg := rfl
@[simp] theorem State.modKeys_irqs (s : State) (f : Keys → Keys) : (s.modKeys f).irqs = s.irqs := rfl
@[simp] theorem State.modKeys_replies (s : State) (f : Keys → Keys) : (s.modKeys f).replies = s.replies := rfl

/-! ## modBank -/

@[simp] theorem State.modBank_dcc (s : State) (c k : Nat) (f : Bank → Bank) : (s.modBank c k f).dcc = s.dcc := rfl
@[simp] theorem State.modBank_agenda (s : State) (c k : Nat) (f : Bank → Bank) : (s.modBank c k f).agenda = s.agenda := rfl
@[simp] theorem State.modBank_turn (s : State) (c k : Nat) (f : Bank → Bank) : (s.modBank c k f).turn = s.turn := rfl
@[simp] theorem State.modBank_cur (s : State) (c k : Nat) (f : Bank → Bank) : (s.modBank c k f).cur = s.cur := rfl
@[simp] theorem State.modBank_free (s : State) (c k : Nat) (f : Bank → Bank) : (s.modBank c k f).free = s.free := rfl
@[simp] theorem State.modBank_glob (s : State) (c k : Nat) (f : Bank → Bank) : (s.modBank c k f).glob = s.glob := rfl
@[simp] theorem State.modBank_pad (s : State) (c k : Nat) (f : Bank → Bank) : (s.modBank c k f).pad = s.pad := rfl
@[simp] theorem State.modBank_lane (s : State) (c k : Nat) (f : Bank → Bank) : (s.modBank c k f).lane = s.lane := rfl
@[simp] theorem State.modBank_crew (s : State) (c k : Nat) (f : Bank → Bank) : (s.modBank c k f).crew = s.crew := rfl
@[simp] theorem State.modBank_chip (s : State) (c k : Nat) (f : Bank → Bank) : (s.modBank c k f).chip = s.chip := rfl
@[simp] theorem State.modBank_cache (s : State) (c k : Nat) (f : Bank → Bank) : (s.modBank c k f).cache = s.cache := rfl
@[simp] theorem State.modBank_host (s : State) (c k : Nat) (f : Bank → Bank) : (s.modBank c k f).host = s.host := rfl
@[simp] theorem State.modBank_lines (s : State) (c k : Nat) (f : Bank → Bank) : (s.modBank c k f).lines = s.lines := rfl
@[simp] theorem State.modBank_shifts (s : State) (c k : Nat) (f : Bank → Bank) : (s.modBank c k f).shifts = s.shifts := rfl
@[simp] theorem State.modBank_links (s : State) (c k : Nat) (f : Bank → Bank) : (s.modBank c k f).links = s.links := rfl
@[simp] theorem State.modBank_jobs (s : State) (c k : Nat) (f : Bank → Bank) : (s.modBank c k f).jobs = s.jobs := rfl
@[simp] theorem State.modBank_nextJob (s : State) (c k : Nat) (f : Bank → Bank) : (s.modBank c k f).nextJob = s.nextJob := rfl
@[simp] theorem State.modBank_msgs (s : State) (c k : Nat) (f : Bank → Bank) : (s.modBank c k f).msgs = s.msgs := rfl
@[simp] theorem State.modBank_acks (s : State) (c k : Nat) (f : Bank → Bank) : (s.modBank c k f).acks = s.acks := rfl
@[simp] theorem State.modBank_waiters (s : State) (c k : Nat) (f : Bank → Bank) : (s.modBank c k f).waiters = s.waiters := rfl
@[simp] theorem State.modBank_tlb (s : State) (c k : Nat) (f : Bank → Bank) : (s.modBank c k f).tlb = s.tlb := rfl
@[simp] theorem State.modBank_uppers (s : State) (c k : Nat) (f : Bank → Bank) : (s.modBank c k f).uppers = s.uppers := rfl
@[simp] theorem State.modBank_collapses (s : State) (c k : Nat) (f : Bank → Bank) : (s.modBank c k f).collapses = s.collapses := rfl
@[simp] theorem State.modBank_ctxs (s : State) (c k : Nat) (f : Bank → Bank) : (s.modBank c k f).ctxs = s.ctxs := rfl
@[simp] theorem State.modBank_funcs (s : State) (c k : Nat) (f : Bank → Bank) : (s.modBank c k f).funcs = s.funcs := rfl
@[simp] theorem State.modBank_keys (s : State) (c k : Nat) (f : Bank → Bank) : (s.modBank c k f).keys = s.keys := rfl
@[simp] theorem State.modBank_queues (s : State) (c k : Nat) (f : Bank → Bank) : (s.modBank c k f).queues = s.queues := rfl
@[simp] theorem State.modBank_tables (s : State) (c k : Nat) (f : Bank → Bank) : (s.modBank c k f).tables = s.tables := rfl
@[simp] theorem State.modBank_rings (s : State) (c k : Nat) (f : Bank → Bank) : (s.modBank c k f).rings = s.rings := rfl
@[simp] theorem State.modBank_manifests (s : State) (c k : Nat) (f : Bank → Bank) : (s.modBank c k f).manifests = s.manifests := rfl
@[simp] theorem State.modBank_opens (s : State) (c k : Nat) (f : Bank → Bank) : (s.modBank c k f).opens = s.opens := rfl
@[simp] theorem State.modBank_fab (s : State) (c k : Nat) (f : Bank → Bank) : (s.modBank c k f).fab = s.fab := rfl
@[simp] theorem State.modBank_mg (s : State) (c k : Nat) (f : Bank → Bank) : (s.modBank c k f).mg = s.mg := rfl
@[simp] theorem State.modBank_irqs (s : State) (c k : Nat) (f : Bank → Bank) : (s.modBank c k f).irqs = s.irqs := rfl
@[simp] theorem State.modBank_replies (s : State) (c k : Nat) (f : Bank → Bank) : (s.modBank c k f).replies = s.replies := rfl

end Sys2Proof.Machine
end

