-- ==== Sys2Proof/Laws/Ops.lean ====
section
/-!
SUPPORT. What each shared operation can do, said once: an instruction's check and effect at issue, landings, replies, and operations in sequence.
-/
namespace Sys2Proof.Machine

/-! ## At issue -/

/-- Where the checks of the bundle have passed, the effect alone takes place. -/
theorem atIssue_checked {check : State → Verdict} {effect : State → State} {s : State} (h : s.cur.checked = true) :
    atIssue check effect s = .next (effect s) := by simp [atIssue, h]

/-- A word whose check passes takes effect. -/
theorem atIssue_go {check : State → Verdict} {effect : State → State} {s : State} (h : check s = .go) :
    atIssue check effect s = .next (effect s) := by unfold atIssue; split <;> simp [h]

/-- A word that its check holds leaves its place among the waiters. -/
theorem atIssue_hold {check : State → Verdict} {effect : State → State} {s t : State} (hc : s.cur.checked = false) (h : check s = .hold t) :
    atIssue check effect s = .next { t with cur := { t.cur with verdict := 1 } } := by simp [atIssue, hc, h]

/-- A word whose check finds a fault takes it at its own place in the bundle, once the frame can be written. -/
theorem atIssue_fault {check : State → Verdict} {effect : State → State} {s : State} {f : FaultInfo} (hc : s.cur.checked = false)
    (h : check s = .fault f) (hw : s.trapWait s.me = none) :
    atIssue check effect s = .next { s.takeTrap s.me { f with word := s.cur.word } with
      cur := { (s.takeTrap s.me { f with word := s.cur.word }).cur with verdict := 2 } } := by simp [atIssue, hc, h, hw]

/-- A fault whose frame waits for a line or a page is held with what the wait began. -/
theorem atIssue_wait {check : State → Verdict} {effect : State → State} {s t : State} {f : FaultInfo} (hc : s.cur.checked = false)
    (h : check s = .fault f) (hw : s.trapWait s.me = some t) :
    atIssue check effect s = .next { t with cur := { t.cur with verdict := 1 } } := by simp [atIssue, hc, h, hw]

/-- An instruction at issue always gives a next state. -/
theorem atIssue_next (check : State → Verdict) (effect : State → State) (s : State) : ∃ t, atIssue check effect s = .next t := by
  unfold atIssue
  split
  · exact ⟨_, rfl⟩
  · split
    · exact ⟨_, rfl⟩
    · exact ⟨_, rfl⟩
    · split <;> exact ⟨_, rfl⟩

/-! ## Verdicts in sequence -/

@[simp] theorem firstOf_nil : firstOf [] = .go := rfl
@[simp] theorem firstOf_fault (f : FaultInfo) (vs : List Verdict) : firstOf (.fault f :: vs) = .fault f := rfl
@[simp] theorem firstOf_go (vs : List Verdict) : firstOf (.go :: vs) = firstOf vs := rfl

/-! ## Operations in sequence -/

@[simp] theorem andThen_next (s : State) (f : State → Out) : andThen (.next s) f = f s := rfl
@[simp] theorem andThen_fault (r : Fault) (f : State → Out) : andThen (.fault r) f = .fault r := rfl
@[simp] theorem andThen_refused (r : Refusal) (f : State → Out) : andThen (.refused r) f = .refused r := rfl

/-- What runs after a step that gave a next state. -/
theorem andThen_eq_next {o : Out} {f : State → Out} {t : State} (h : andThen o f = .next t) : ∃ s, o = .next s ∧ f s = .next t := by
  cases o with
  | next s => exact ⟨s, rfl, h⟩
  | fault r => cases h
  | refused r => cases h

/-! ## Shifts -/

/-- A resident shift changed is read changed, and no other shift changes. -/
theorem State.sh?_modSh (s : State) (i j : Nat) (f : Shift → Shift) :
    (s.modSh i f).sh? j = if j = i then (s.sh? i).map f else s.sh? j := by
  unfold State.modSh State.sh?
  split
  · next h => split <;> simp_all
  · next x h =>
    split
    · next e => subst e; simp [h]
    · next ne => exact NMap.get?_set_other _ _ ne

/-- The executing shift changed. -/
theorem State.modX_eq {s : State} {i : Nat} (h : s.cur.sh = some i) (f : Shift → Shift) : s.modX f = s.modSh i f := by simp [State.modX, h]

/-- With no shift executing, nothing changes. -/
theorem State.modX_none {s : State} (h : s.cur.sh = none) (f : Shift → Shift) : s.modX f = s := by simp [State.modX, h]

/-- The executing shift, read. -/
theorem State.x_eq {s : State} {i : Nat} {x : Shift} (h : s.cur.sh = some i) (hx : s.sh? i = some x) : s.x = x := by simp [State.x, h, hx]

/-- Land adds one landing behind the others of its shift, and leaves its registers. -/
theorem State.land_sh? {s : State} {i : Nat} (h : s.cur.sh = some i) (k : Nat) (fl : Flags) (d : LandTo) (j : Nat) :
    (s.land k fl d).sh? j = if j = i then (s.sh? i).map (fun x => x.post k fl d) else s.sh? j := by
  unfold State.land; rw [State.modX_eq h, State.sh?_modSh]

@[simp] theorem Shift.post_regs (x : Shift) (k : Nat) (fl : Flags) (d : LandTo) : (x.post k fl d).regs = x.regs := rfl
@[simp] theorem Shift.post_sp (x : Shift) (k : Nat) (fl : Flags) (d : LandTo) : (x.post k fl d).sp = x.sp := rfl
@[simp] theorem Shift.post_place (x : Shift) (k : Nat) (fl : Flags) (d : LandTo) : (x.post k fl d).place = x.place := rfl
@[simp] theorem Shift.post_rings (x : Shift) (k : Nat) (fl : Flags) (d : LandTo) : (x.post k fl d).rings = x.rings := rfl
@[simp] theorem Shift.post_handles (x : Shift) (k : Nat) (fl : Flags) (d : LandTo) : (x.post k fl d).handles = x.handles := rfl

/-! ## Registers -/

@[simp] theorem Shift.rs_zero (x : Shift) : x.rs 0 = 0 := rfl
@[simp] theorem Shift.rg_zero (x : Shift) : x.rg 0 = true := rfl
@[simp] theorem Shift.setS_zero (x : Shift) (w : Word) : x.setS 0 w = x := rfl
@[simp] theorem Shift.setG_zero (x : Shift) (b : Bool) : x.setG 0 b = x := rfl

/-- s[n] after a write of s[m]; s0 keeps reading zero (R51). -/
theorem Shift.rs_setS (x : Shift) (m n : SNum) (w : Word) : (x.setS m w).rs n = if n = 0 then 0 else if n = m then w else x.rs n := by
  unfold Shift.rs Shift.setS
  by_cases hn : n = 0
  · simp [hn]
  · by_cases hm : m = 0
    · subst hm; simp [hn]
    · by_cases e : n = m
      · subst e; simp [hn]
      · have : (m : Nat) ≠ n := fun h => e (Fin.ext h.symm)
        simp [hn, hm, e, this]

/-- g[n] after a write of g[m]; g0 keeps reading true (R51). -/
theorem Shift.rg_setG (x : Shift) (m n : GNum) (b : Bool) : (x.setG m b).rg n = if n = 0 then true else if n = m then b else x.rg n := by
  unfold Shift.rg Shift.setG
  by_cases hn : n = 0
  · simp [hn]
  · by_cases hm : m = 0
    · subst hm; simp [hn]
    · by_cases e : n = m
      · subst e; simp [hn]
      · have : (m : Nat) ≠ n := fun h => e (Fin.ext h.symm)
        simp [hn, hm, e, this]

/-- a[n] after a write of a[m]. -/
theorem Shift.ra_setA (x : Shift) (m n : ANum) (w : Addr) : (x.setA m w).ra n = if n = m then w else x.ra n := by
  unfold Shift.ra Shift.setA
  by_cases e : n = m
  · subst e; simp
  · have : (m : Nat) ≠ n := fun h => e (Fin.ext h.symm)
    simp [e, this]

/-- v[n] after a write of v[m]. -/
theorem Shift.rv_setV (x : Shift) (m n : VNum) (w : VReg) : (x.setV m w).rv n = if n = m then w else x.rv n := by
  unfold Shift.rv Shift.setV
  by_cases e : n = m
  · subst e; simp
  · have : (m : Nat) ≠ n := fun h => e (Fin.ext h.symm)
    simp [e, this]

end Sys2Proof.Machine
end

