-- ==== Sys2Proof/Laws/PerInstr.lean ====
section
/-!
SUPPORT. A family of statements about every instruction as syntax: the word that the encoder gives it ends its bundle and is unguarded (Table 3.1).
-/
namespace Sys2Proof.Laws.Alone

/-- A word that ends its bundle under the guard g0, not inverted. -/
def EndsUnguarded (w : Word) : Prop := w.getLsbD 63 = true ∧ w.extractLsb' 57 4 = 0

/-- What the family says of an instruction. -/
def Statement (i : Instr) : Prop := ∀ w, encode i = some w → EndsUnguarded w

theorem wordOf_bit (c : BitVec 2) (p : BitVec 57) (i : Nat) : (wordOf c p).getLsbD i = (1#1 ++ c ++ 0#1 ++ 0#3 ++ p).getLsbD i := rfl

theorem wordOf_alone (c : BitVec 2) (p : BitVec 57) : EndsUnguarded (wordOf c p) := by
  refine ⟨by rw [wordOf_bit]; simp only [BitVec.getLsbD_append]; rfl, BitVec.eq_of_getLsbD_eq fun i hi => ?_⟩
  have : i = 0 ∨ i = 1 ∨ i = 2 ∨ i = 3 := by omega
  rcases this with rfl | rfl | rfl | rfl <;> (rw [BitVec.getLsbD_extractLsb', wordOf_bit]; simp only [BitVec.getLsbD_append]; rfl)

theorem of_wordOf {i : Instr} {c : BitVec 2} {p : BitVec 57} (h : encode i = some (wordOf c p)) : Statement i := fun _ e =>
  Option.some.inj (h.symm.trans e) ▸ wordOf_alone c p

theorem of_none {i : Instr} (h : encode i = none) : Statement i := fun _ e => nomatch h.symm.trans e

theorem nop : Statement (.nop) := of_wordOf rfl
theorem add (sd sa sb : SNum) : Statement (.add sd sa sb) := of_wordOf rfl
theorem sub (sd sa sb : SNum) : Statement (.sub sd sa sb) := of_wordOf rfl
theorem mul (sd sa sb : SNum) : Statement (.mul sd sa sb) := of_wordOf rfl
theorem mulh (sd sa sb : SNum) : Statement (.mulh sd sa sb) := of_wordOf rfl
theorem mulhz (sd sa sb : SNum) : Statement (.mulhz sd sa sb) := of_wordOf rfl
theorem div (sd sa sb : SNum) : Statement (.div sd sa sb) := of_wordOf rfl
theorem divz (sd sa sb : SNum) : Statement (.divz sd sa sb) := of_wordOf rfl
theorem rem (sd sa sb : SNum) : Statement (.rem sd sa sb) := of_wordOf rfl
theorem remz (sd sa sb : SNum) : Statement (.remz sd sa sb) := of_wordOf rfl
theorem and (sd sa sb : SNum) : Statement (.and sd sa sb) := of_wordOf rfl
theorem or (sd sa sb : SNum) : Statement (.or sd sa sb) := of_wordOf rfl
theorem xor (sd sa sb : SNum) : Statement (.xor sd sa sb) := of_wordOf rfl
theorem andn (sd sa sb : SNum) : Statement (.andn sd sa sb) := of_wordOf rfl
theorem shl (sd sa sb : SNum) : Statement (.shl sd sa sb) := of_wordOf rfl
theorem shr (sd sa sb : SNum) : Statement (.shr sd sa sb) := of_wordOf rfl
theorem sra (sd sa sb : SNum) : Statement (.sra sd sa sb) := of_wordOf rfl
theorem rotl (sd sa sb : SNum) : Statement (.rotl sd sa sb) := of_wordOf rfl
theorem min (sd sa sb : SNum) : Statement (.min sd sa sb) := of_wordOf rfl
theorem max (sd sa sb : SNum) : Statement (.max sd sa sb) := of_wordOf rfl
theorem minz (sd sa sb : SNum) : Statement (.minz sd sa sb) := of_wordOf rfl
theorem maxz (sd sa sb : SNum) : Statement (.maxz sd sa sb) := of_wordOf rfl
theorem shli (sd sa : SNum) (n : BitVec 6) : Statement (.shli sd sa n) := of_wordOf rfl
theorem shri (sd sa : SNum) (n : BitVec 6) : Statement (.shri sd sa n) := of_wordOf rfl
theorem srai (sd sa : SNum) (n : BitVec 6) : Statement (.srai sd sa n) := of_wordOf rfl
theorem clz (sd sa : SNum) : Statement (.clz sd sa) := of_wordOf rfl
theorem ctz (sd sa : SNum) : Statement (.ctz sd sa) := of_wordOf rfl
theorem popc (sd sa : SNum) : Statement (.popc sd sa) := of_wordOf rfl
theorem sext (sd sa : SNum) (w1 : BitVec 6) : Statement (.sext sd sa w1) := of_wordOf rfl
theorem zext (sd sa : SNum) (w1 : BitVec 6) : Statement (.zext sd sa w1) := of_wordOf rfl
theorem bfx (sd sa sb : SNum) : Statement (.bfx sd sa sb) := of_wordOf rfl
theorem bfi (sd sa sb : SNum) : Statement (.bfi sd sa sb) := of_wordOf rfl
theorem sel (sd sa sb : SNum) : Statement (.sel sd sa sb) := of_wordOf rfl
theorem cmp (cc : Cond) (gd : GNum) (sa sb : SNum) : Statement (.cmp cc gd sa sb) := of_wordOf rfl
theorem fadd (sd sa sb : SNum) : Statement (.fadd sd sa sb) := of_wordOf rfl
theorem fsub (sd sa sb : SNum) : Statement (.fsub sd sa sb) := of_wordOf rfl
theorem fmul (sd sa sb : SNum) : Statement (.fmul sd sa sb) := of_wordOf rfl
theorem ffma (sd sa sb : SNum) : Statement (.ffma sd sa sb) := of_wordOf rfl
theorem fdiv (sd sa sb : SNum) : Statement (.fdiv sd sa sb) := of_wordOf rfl
theorem fsqrt (sd sa : SNum) : Statement (.fsqrt sd sa) := of_wordOf rfl
theorem fmin (sd sa sb : SNum) : Statement (.fmin sd sa sb) := of_wordOf rfl
theorem fmax (sd sa sb : SNum) : Statement (.fmax sd sa sb) := of_wordOf rfl
theorem fcmp (cc : FCond) (gd : GNum) (sa sb : SNum) : Statement (.fcmp cc gd sa sb) := of_wordOf rfl
theorem fcvt (fmt : Fmt) (toF32 rz : Bool) (sd sa : SNum) : Statement (.fcvt fmt toF32 rz sd sa) := of_wordOf rfl
theorem fclass (sd sa : SNum) : Statement (.fclass sd sa) := of_wordOf rfl
theorem gand (gd ga gb : GNum) : Statement (.gand gd ga gb) := of_wordOf rfl
theorem gor (gd ga gb : GNum) : Statement (.gor gd ga gb) := of_wordOf rfl
theorem gnot (gd ga : GNum) : Statement (.gnot gd ga) := of_wordOf rfl
theorem rddcc (sd : SNum) : Statement (.rddcc sd) := of_wordOf rfl
theorem adda (ad aa : ANum) (sb : SNum) : Statement (.adda ad aa sb) := of_wordOf rfl
theorem lea (ad : ANum) (sa sb : SNum) : Statement (.lea ad sa sb) := of_wordOf rfl
theorem suba (sd : SNum) (aa ab : ANum) : Statement (.suba sd aa ab) := of_wordOf rfl
theorem movas (hi : Bool) (sd : SNum) (aa : ANum) : Statement (.movas hi sd aa) := of_wordOf rfl
theorem movsa (ad : ANum) (sa : SNum) : Statement (.movsa ad sa) := of_wordOf rfl
theorem cmpa (sd : SNum) (aa ab : ANum) : Statement (.cmpa sd aa ab) := of_wordOf rfl
theorem anda (ad aa : ANum) (sb : SNum) : Statement (.anda ad aa sb) := of_wordOf rfl
theorem addi (sd sa : SNum) (imm : BitVec 32) : Statement (.addi sd sa imm) := of_wordOf rfl
theorem andi (sd sa : SNum) (imm : BitVec 32) : Statement (.andi sd sa imm) := of_wordOf rfl
theorem ori (sd sa : SNum) (imm : BitVec 32) : Statement (.ori sd sa imm) := of_wordOf rfl
theorem xori (sd sa : SNum) (imm : BitVec 32) : Statement (.xori sd sa imm) := of_wordOf rfl
theorem cmpi (cc : Cond) (gd : GNum) (sa : SNum) (imm : BitVec 32) : Statement (.cmpi cc gd sa imm) := of_wordOf rfl
theorem movi (sd : SNum) (imm : BitVec 32) : Statement (.movi sd imm) := of_wordOf rfl
theorem movhi (sd : SNum) (imm : BitVec 32) : Statement (.movhi sd imm) := of_wordOf rfl
theorem addai (ad aa : ANum) (imm : BitVec 32) : Statement (.addai ad aa imm) := of_wordOf rfl
theorem rdsr (sd : SNum) (r : SpecReg) : Statement (.rdsr sd r) := of_wordOf rfl
theorem wrsr (r : SpecReg) (sa : SNum) : Statement (.wrsr r sa) := of_wordOf rfl
theorem vadd (t : ElemW) (vd va vb : VNum) : Statement (.vadd t vd va vb) := of_wordOf rfl
theorem vsub (t : ElemW) (vd va vb : VNum) : Statement (.vsub t vd va vb) := of_wordOf rfl
theorem vmul (t : ElemW) (vd va vb : VNum) : Statement (.vmul t vd va vb) := of_wordOf rfl
theorem vmulh (t : ElemW) (vd va vb : VNum) : Statement (.vmulh t vd va vb) := of_wordOf rfl
theorem vadds (t : SatTy) (vd va vb : VNum) : Statement (.vadds t vd va vb) := of_wordOf rfl
theorem vsubs (t : SatTy) (vd va vb : VNum) : Statement (.vsubs t vd va vb) := of_wordOf rfl
theorem vmin (t : MinTy) (vd va vb : VNum) : Statement (.vmin t vd va vb) := of_wordOf rfl
theorem vmax (t : MinTy) (vd va vb : VNum) : Statement (.vmax t vd va vb) := of_wordOf rfl
theorem vabs (t : ElemW) (vd va : VNum) : Statement (.vabs t vd va) := of_wordOf rfl
theorem vneg (t : ElemW) (vd va : VNum) : Statement (.vneg t vd va) := of_wordOf rfl
theorem vand (vd va vb : VNum) : Statement (.vand vd va vb) := of_wordOf rfl
theorem vor (vd va vb : VNum) : Statement (.vor vd va vb) := of_wordOf rfl
theorem vxor (vd va vb : VNum) : Statement (.vxor vd va vb) := of_wordOf rfl
theorem vshl (t : ElemW) (vd va vb : VNum) : Statement (.vshl t vd va vb) := of_wordOf rfl
theorem vshr (t : ElemW) (vd va vb : VNum) : Statement (.vshr t vd va vb) := of_wordOf rfl
theorem vsra (t : ElemW) (vd va vb : VNum) : Statement (.vsra t vd va vb) := of_wordOf rfl
theorem vcmp (cc : VCond) (vd va vb : VNum) : Statement (.vcmp cc vd va vb) := of_wordOf rfl
theorem vsel (vd va vb : VNum) : Statement (.vsel vd va vb) := of_wordOf rfl
theorem vfadd (t : VFmt) (vd va vb : VNum) : Statement (.vfadd t vd va vb) := of_wordOf rfl
theorem vfsub (t : VFmt) (vd va vb : VNum) : Statement (.vfsub t vd va vb) := of_wordOf rfl
theorem vfmul (t : VFmt) (vd va vb : VNum) : Statement (.vfmul t vd va vb) := of_wordOf rfl
theorem vfma (t : VFmt) (vd va vb : VNum) : Statement (.vfma t vd va vb) := of_wordOf rfl
theorem vfms (t : VFmt) (vd va vb : VNum) : Statement (.vfms t vd va vb) := of_wordOf rfl
theorem vfnma (t : VFmt) (vd va vb : VNum) : Statement (.vfnma t vd va vb) := of_wordOf rfl
theorem vfmin (t : VFmt) (vd va vb : VNum) : Statement (.vfmin t vd va vb) := of_wordOf rfl
theorem vfmax (t : VFmt) (vd va vb : VNum) : Statement (.vfmax t vd va vb) := of_wordOf rfl
theorem vfdiv (vd va vb : VNum) : Statement (.vfdiv vd va vb) := of_wordOf rfl
theorem vrcp (vd va : VNum) : Statement (.vrcp vd va) := of_wordOf rfl
theorem vrsq (vd va : VNum) : Statement (.vrsq vd va) := of_wordOf rfl
theorem vexp2 (vd va : VNum) : Statement (.vexp2 vd va) := of_wordOf rfl
theorem vlog2 (vd va : VNum) : Statement (.vlog2 vd va) := of_wordOf rfl
theorem vcvt (dst src : Fmt) (vd va : VNum) : Statement (.vcvt dst src vd va) := of_wordOf rfl
theorem vnarrow (t : NarrowTy) (vd va vb : VNum) : Statement (.vnarrow t vd va vb) := of_wordOf rfl
theorem vwiden (t : NarrowTy) (hi : Bool) (vd va : VNum) : Statement (.vwiden t hi vd va) := of_wordOf rfl
theorem vbcast (t : ElemW) (vd : VNum) (sb : SNum) : Statement (.vbcast t vd sb) := of_wordOf rfl
theorem viota (vd : VNum) (sb : SNum) : Statement (.viota vd sb) := of_wordOf rfl
theorem vsetvl (sd sb : SNum) : Statement (.vsetvl sd sb) := of_wordOf rfl
theorem vextr (signed : Bool) (sd : SNum) (va : VNum) (n : BitVec 6) : Statement (.vextr signed sd va n) := of_wordOf rfl
theorem vins (vd : VNum) (sb : SNum) (n : BitVec 6) : Statement (.vins vd sb n) := of_wordOf rfl
theorem vperm (vd va vb : VNum) : Statement (.vperm vd va vb) := of_wordOf rfl
theorem vrot (vd va : VNum) (sb : SNum) : Statement (.vrot vd va sb) := of_wordOf rfl
theorem vslide (up : Bool) (vd va : VNum) (sb : SNum) : Statement (.vslide up vd va sb) := of_wordOf rfl
theorem vred (op : RedOp) (vd va : VNum) : Statement (.vred op vd va) := of_wordOf rfl
theorem vscan (op : RedOp) (ex : Bool) (vd va : VNum) : Statement (.vscan op ex vd va) := of_wordOf rfl
theorem part (vd va : VNum) (sd : SNum) : Statement (.part vd va sd) := of_wordOf rfl
theorem partn (n1 : BitVec 3) (va : VNum) (sb : SNum) : Statement (.partn n1 va sb) := of_wordOf rfl
theorem vgath (t : ElemW) (vd va : VNum) (sb : SNum) : Statement (.vgath t vd va sb) := of_wordOf rfl
theorem vscat (t : ElemW) (vs va : VNum) (sb : SNum) : Statement (.vscat t vs va sb) := of_wordOf rfl
theorem vld (vd : VNum) (sb : SNum) (off : BitVec 6) : Statement (.vld vd sb off) := of_wordOf rfl
theorem vst (vs : VNum) (sb : SNum) (off : BitVec 6) : Statement (.vst vs sb off) := of_wordOf rfl
theorem vldl (vd va : VNum) : Statement (.vldl vd va) := of_wordOf rfl
theorem vstl (vs va : VNum) : Statement (.vstl vs va) := of_wordOf rfl
theorem tenantV (opc : BitVec 6) (vt : BitVec 2) (vd va vb : VNum) : Statement (.tenantV opc vt vd va vb) := of_wordOf rfl
theorem tcfg (af bf : Fmt) (mb : BNum) (stamp : BitVec 20) : Statement (.tcfg af bf mb stamp) := of_wordOf rfl
theorem mma (kg1 : BitVec 4) (ct : TNum) (mb : BNum) (sa sw ss : SNum) (stamp : BitVec 20) : Statement (.mma kg1 ct mb sa sw ss stamp) := of_wordOf rfl
theorem mmaz (kg1 : BitVec 4) (ct : TNum) (mb : BNum) (sa sw ss : SNum) (stamp : BitVec 20) : Statement (.mmaz kg1 ct mb sa sw ss stamp) := of_wordOf rfl
theorem mopa (t : MopaTy) (ct : TNum) (mb : BNum) (va vb : VNum) (stamp : BitVec 20) : Statement (.mopa t ct mb va vb stamp) := of_wordOf rfl
theorem ald (ct : TNum) (mb : BNum) (sa : SNum) (stamp : BitVec 20) : Statement (.ald ct mb sa stamp) := of_wordOf rfl
theorem wbld (plain : Option Fmt) (mb : BNum) (aa : ANum) (sd : SNum) (stamp : BitVec 20) : Statement (.wbld plain mb aa sd stamp) := of_wordOf rfl
theorem wbsel (mb : BNum) (half : Bool) (stamp : BitVec 20) : Statement (.wbsel mb half stamp) := of_wordOf rfl
theorem crd (ct : TNum) (mb : BNum) (vd : VNum) (sr : SNum) (stamp : BitVec 20) : Statement (.crd ct mb vd sr stamp) := of_wordOf rfl
theorem cwr (ct : TNum) (mb : BNum) (vs : VNum) (sr : SNum) (stamp : BitVec 20) : Statement (.cwr ct mb vs sr stamp) := of_wordOf rfl
theorem cclr (ct : TNum) (mb : BNum) (stamp : BitVec 20) : Statement (.cclr ct mb stamp) := of_wordOf rfl
theorem cst (fmt : Fmt) (ct : TNum) (mb : BNum) (sa : SNum) (stamp : BitVec 20) : Statement (.cst fmt ct mb sa stamp) := of_wordOf rfl
theorem mbarm (mb : BNum) (stamp : BitVec 20) : Statement (.mbarm mb stamp) := of_wordOf rfl
theorem mbwait (sd : SNum) (mb : BNum) : Statement (.mbwait sd mb) := of_wordOf rfl
theorem setsb (abs : Bool) (sa : SNum) : Statement (.setsb abs sa) := of_wordOf rfl
theorem tenantM (opc : BitVec 4) (ct : TNum) (mb : BNum) (fa fb fc : VNum) (mmod : BitVec 5) (stamp : BitVec 20) : Statement (.tenantM opc ct mb fa fb fc mmod stamp) := of_wordOf rfl
theorem ld (sz : Size) (sx : Bool) (sd : SNum) (m : MemX) (lane : Fin 64) : Statement (.ld sz sx sd m lane) := of_wordOf rfl
theorem st (sz : Size) (sb : SNum) (m : MemX) (lane : Fin 64) : Statement (.st sz sb m lane) := of_wordOf rfl
theorem lda (sz : Size) (sx : Bool) (sc : Scope) (sd : SNum) (m : MemX) : Statement (.lda sz sx sc sd m) := of_wordOf rfl
theorem sta (sz : Size) (sc : Scope) (sb : SNum) (m : MemX) : Statement (.sta sz sc sb m) := of_wordOf rfl
theorem xld (mode : XMode) (e1 : Bool) (q : QNum) (sd : SNum) (m : MemX) : Statement (.xld mode e1 q sd m) := of_wordOf rfl
theorem xst (mode : XMode) (e1 : Bool) (q : QNum) (sd : SNum) (m : MemX) : Statement (.xst mode e1 q sd m) := of_wordOf rfl
theorem cpy (src : Space) (sd : SNum) (m : MemB) (as : ANum) (sl : SNum) : Statement (.cpy src sd m as sl) := of_wordOf rfl
theorem cpy2d (src : Space) (sd : SNum) (m : MemB) (as : ANum) (sp : SNum) : Statement (.cpy2d src sd m as sp) := of_wordOf rfl
theorem atom (op : AtomOp) (dword : Bool) (sc : Scope) (sd : SNum) (m : MemB) (sb : SNum) : Statement (.atom op dword sc sd m sb) := of_wordOf rfl
theorem cas (dword : Bool) (sc : Scope) (sd : SNum) (m : MemB) (sb : SNum) : Statement (.cas dword sc sd m sb) := of_wordOf rfl
theorem fence (kind : FenceKind) (sc : Scope) : Statement (.fence kind sc) := of_wordOf rfl
theorem waitge (dword signed : Bool) (sc : Scope) (sd : SNum) (m : MemB) (sb : SNum) : Statement (.waitge dword signed sc sd m sb) := of_wordOf rfl
theorem lockl (sd : SNum) (m : MemX) : Statement (.lockl sd m) := of_wordOf rfl
theorem unlockl (sd : SNum) (m : MemX) : Statement (.unlockl sd m) := of_wordOf rfl
theorem pref (l2 : Bool) (m : MemX) : Statement (.pref l2 m) := of_wordOf rfl
theorem rinit (sd : SNum) (q : QNum) (m : MemB) (sg : SNum) : Statement (.rinit sd q m sg) := of_wordOf rfl
theorem rclaim (sd : SNum) (q : QNum) : Statement (.rclaim sd q) := of_wordOf rfl
theorem rpub (q : QNum) : Statement (.rpub q) := of_wordOf rfl
theorem rwait (sd : SNum) (q : QNum) : Statement (.rwait sd q) := of_wordOf rfl
theorem rrel (q : QNum) : Statement (.rrel q) := of_wordOf rfl
theorem barinit (force : Bool) (sc : Scope) (sd : SNum) (m : MemB) (sn : SNum) : Statement (.barinit force sc sd m sn) := of_wordOf rfl
theorem bararr (sc : Scope) (sd : SNum) (m : MemB) : Statement (.bararr sc sd m) := of_wordOf rfl
theorem barwait (sc : Scope) (sd : SNum) (m : MemB) (sg : SNum) : Statement (.barwait sc sd m sg) := of_wordOf rfl
theorem mscan (op : ScanOp) (fmt : ScanFmt) (sd : SNum) (m : MemB) (sn so : SNum) : Statement (.mscan op fmt sd m sn so) := of_wordOf rfl
theorem bopen (sd : SNum) (m : MemB) (sn : SNum) : Statement (.bopen sd m sn) := of_wordOf rfl
theorem bst (sz : Size) (sb : SNum) (m : MemX) : Statement (.bst sz sb m) := of_wordOf rfl
theorem bseal (sc : Scope) (sd : SNum) : Statement (.bseal sc sd) := of_wordOf rfl
theorem babort (sd : SNum) : Statement (.babort sd) := of_wordOf rfl
theorem viewb (sc : Scope) : Statement (.viewb sc) := of_wordOf rfl
theorem viewe (sd : SNum) : Statement (.viewe sd) := of_wordOf rfl
theorem rtld (h : HNum) (m : MemX) : Statement (.rtld h m) := of_wordOf rfl
theorem rldq (h : HNum) (q : QNum) (sd : SNum) (m : MemX) : Statement (.rldq h q sd m) := of_wordOf rfl
theorem rst (sz : Size) (sb : SNum) (h : HNum) (m : MemX) : Statement (.rst sz sb h m) := of_wordOf rfl
theorem ratom (op : AtomOp) (dword : Bool) (sd : SNum) (m : MemB) (sb : SNum) (h : HNum) : Statement (.ratom op dword sd m sb h) := of_wordOf rfl
theorem rstn (sd : SNum) (m : MemB) (st : SNum) : Statement (.rstn sd m st) := of_wordOf rfl
theorem recvadd (fmt : RecvFmt) (cnt : Bool) (port : Fin 16) (sd : SNum) (m : MemB) (sg : SNum) : Statement (.recvadd fmt cnt port sd m sg) := of_wordOf rfl
theorem rsend (h : HNum) (sd : SNum) (m : MemB) (st : SNum) : Statement (.rsend h sd m st) := of_wordOf rfl
theorem lfence (sd : SNum) : Statement (.lfence sd) := of_wordOf rfl
theorem coll (k : BitVec 6) (sd : SNum) (m : MemB) (sl : SNum) : Statement (.coll k sd m sl) := of_wordOf rfl
theorem adpin (chk : Bool) (sd : SNum) (aw : ANum) (sn : SNum) : Statement (.adpin chk sd aw sn) := of_wordOf rfl
theorem adunpin (sd sn : SNum) : Statement (.adunpin sd sn) := of_wordOf rfl
theorem tenantX (opc : BitVec 6) (xmod : BitVec 4) (sd sc : SNum) (m : MemX) : Statement (.tenantX opc xmod sd sc m) := of_wordOf rfl
theorem br (imm : BitVec 32) : Statement (.br imm) := of_wordOf rfl
theorem bri (sx : SNum) (imm : BitVec 32) : Statement (.bri sx imm) := of_wordOf rfl
theorem jmp (sa : SNum) (imm : BitVec 32) : Statement (.jmp sa imm) := of_wordOf rfl
theorem call (imm : BitVec 32) : Statement (.call imm) := of_wordOf rfl
theorem calli (sa : SNum) (imm : BitVec 32) : Statement (.calli sa imm) := of_wordOf rfl
theorem ret : Statement (.ret) := of_wordOf rfl
theorem loop (sd : SNum) (imm : BitVec 32) : Statement (.loop sd imm) := of_wordOf rfl
theorem halt : Statement (.halt) := of_wordOf rfl
theorem safept (idx : BitVec 32) : Statement (.safept idx) := of_wordOf rfl
theorem yield (idx : BitVec 32) : Statement (.yield idx) := of_wordOf rfl
theorem waitev (sd st : SNum) (mask : BitVec 16) : Statement (.waitev sd st mask) := of_wordOf rfl
theorem sigev (sd st : SNum) (e : BitVec 4) : Statement (.sigev sd st e) := of_wordOf rfl
theorem cont : Statement (.cont) := of_wordOf rfl
theorem trap (n : BitVec 16) : Statement (.trap n) := of_wordOf rfl
theorem brk (n : BitVec 16) : Statement (.brk n) := of_wordOf rfl
theorem tret (fin : Bool) (sd : SNum) : Statement (.tret fin sd) := of_wordOf rfl
theorem microMov (fd fa : Sel) (imm : BitVec 12) : Statement (.microMov fd fa imm) := of_none rfl
theorem microVectorFop (fop : BitVec 8) (ft : BitVec 2) (fd fa fb : Sel) (imm : BitVec 12) : Statement (.microVectorFop fop ft fd fa fb imm) := of_none rfl
theorem microEngineAlu (fop : BitVec 8) (fd fa fb : Sel) (imm : BitVec 12) : Statement (.microEngineAlu fop fd fa fb imm) := of_none rfl
theorem zxf (fd fa : Sel) (imm : BitVec 12) : Statement (.zxf fd fa imm) := of_none rfl
theorem lidx (fd : Sel) : Statement (.lidx fd) := of_none rfl
theorem divpre (fd fa fb : Sel) : Statement (.divpre fd fa fb) := of_none rfl
theorem divq : Statement (.divq) := of_none rfl
theorem divfin (fd fa : Sel) : Statement (.divfin fd fa) := of_none rfl
theorem pnz (fd fa : Sel) : Statement (.pnz fd fa) := of_none rfl
theorem pscan (fd fa : Sel) : Statement (.pscan fd fa) := of_none rfl
theorem pcomp (fd fa fb : Sel) : Statement (.pcomp fd fa fb) := of_none rfl
theorem pcompf (fd fa fb : Sel) : Statement (.pcompf fd fa fb) := of_none rfl
theorem ptot (fd fa : Sel) : Statement (.ptot fd fa) := of_none rfl
theorem tok (fd fa : Sel) (imm : BitVec 12) : Statement (.tok fd fa imm) := of_none rfl
theorem pclamp (fd fa : Sel) (imm : BitVec 12) : Statement (.pclamp fd fa imm) := of_none rfl
theorem pcnt (fd fa : Sel) (imm : BitVec 12) : Statement (.pcnt fd fa imm) := of_none rfl
theorem padrd (ma md : Fin 16) : Statement (.padrd ma md) := of_none rfl
theorem padwr (ma md : Fin 16) : Statement (.padwr ma md) := of_none rfl
theorem lanerd (ma md : Fin 16) : Statement (.lanerd ma md) := of_none rfl
theorem lanewr (ma md : Fin 16) : Statement (.lanewr ma md) := of_none rfl
theorem sprd (ma md : Fin 16) : Statement (.sprd ma md) := of_none rfl
theorem spwr (ma md : Fin 16) : Statement (.spwr ma md) := of_none rfl
theorem claim (md : Fin 16) (imm : BitVec 12) : Statement (.claim md imm) := of_none rfl
theorem pub (imm : BitVec 12) : Statement (.pub imm) := of_none rfl
theorem wait (md : Fin 16) (imm : BitVec 12) : Statement (.wait md imm) := of_none rfl
theorem rel (imm : BitVec 12) : Statement (.rel imm) := of_none rfl
theorem xfer (ma md : Fin 16) (imm : BitVec 12) : Statement (.xfer ma md imm) := of_none rfl
theorem xferb (ma md : Fin 16) (imm : BitVec 12) : Statement (.xferb ma md imm) := of_none rfl
theorem send (ma md : Fin 16) (imm : BitVec 12) : Statement (.send ma md imm) := of_none rfl
theorem radd (ma md : Fin 16) : Statement (.radd ma md) := of_none rfl
theorem afeed (fa : Sel) : Statement (.afeed fa) := of_none rfl
theorem bfeed (fb : Sel) : Statement (.bfeed fb) := of_none rfl
theorem bslot : Statement (.bslot) := of_none rfl
theorem outer : Statement (.outer) := of_none rfl
theorem crow (fd : Sel) : Statement (.crow fd) := of_none rfl
theorem crowhi (fd : Sel) : Statement (.crowhi fd) := of_none rfl
theorem cwrow (fd : Sel) : Statement (.cwrow fd) := of_none rfl
theorem cwrowhi (fd : Sel) : Statement (.cwrowhi fd) := of_none rfl
theorem tclr : Statement (.tclr) := of_none rfl
theorem microNext : Statement (.microNext) := of_none rfl
theorem brt (mc : Fin 16) (tgt : BitVec 12) : Statement (.brt mc tgt) := of_none rfl
theorem brf (mc : Fin 16) (tgt : BitVec 12) : Statement (.brf mc tgt) := of_none rfl
theorem microJmp (tgt : BitVec 12) : Statement (.microJmp tgt) := of_none rfl
theorem microLoop (tgt : BitVec 12) : Statement (.microLoop tgt) := of_none rfl
theorem microEnd : Statement (.microEnd) := of_none rfl
theorem microCont (tgt : BitVec 12) : Statement (.microCont tgt) := of_none rfl
theorem coldReset : Statement (.coldReset) := of_none rfl
theorem warmReset : Statement (.warmReset) := of_none rfl
theorem powerOn : Statement (.powerOn) := of_none rfl
theorem powerStepLimit : Statement (.powerStepLimit) := of_none rfl
theorem firmwareBoot : Statement (.firmwareBoot) := of_none rfl
theorem firmwareStartTimeout : Statement (.firmwareStartTimeout) := of_none rfl
theorem fwctlGo (fn : Nat) (v : Word) : Statement (.fwctlGo fn v) := of_none rfl
theorem fwVerifyDone : Statement (.fwVerifyDone) := of_none rfl
theorem registerWrite (fn off width : Nat) (v : Word) : Statement (.registerWrite fn off width v) := of_none rfl
theorem idpkgWrite (fn : Nat) (v : Word) : Statement (.idpkgWrite fn v) := of_none rfl
theorem land (sh : Nat) : Statement (.land sh) := of_none rfl
theorem interlockArrival (k : Nat) : Statement (.interlockArrival k) := of_none rfl
theorem fullStatePreemption (sh : Nat) : Statement (.fullStatePreemption sh) := of_none rfl
theorem shiftSwitch (core slot : Nat) : Statement (.shiftSwitch core slot) := of_none rfl
theorem continuationDispatch (sh : Nat) : Statement (.continuationDispatch sh) := of_none rfl
theorem safePointOverrun (sh : Nat) : Statement (.safePointOverrun sh) := of_none rfl
theorem trapDelivery (sh : Nat) (f : FaultInfo) : Statement (.trapDelivery sh f) := of_none rfl
theorem delayedFaultDelivery (sh : Nat) (r : SNum) : Statement (.delayedFaultDelivery sh r) := of_none rfl
theorem tenantImageLoad (core ctx : Nat) (tag : Word) : Statement (.tenantImageLoad core ctx tag) := of_none rfl
theorem tenantLoadComplete (core bank : Nat) : Statement (.tenantLoadComplete core bank) := of_none rfl
theorem wbldSlotValid (sh : Nat) : Statement (.wbldSlotValid sh) := of_none rfl
theorem matrixOpIssue (sh : Nat) : Statement (.matrixOpIssue sh) := of_none rfl
theorem matrixOpComplete (sh : Nat) : Statement (.matrixOpComplete sh) := of_none rfl
theorem copyJobStart (j : Nat) : Statement (.copyJobStart j) := of_none rfl
theorem copyPiece (j : Nat) : Statement (.copyPiece j) := of_none rfl
theorem tokenWrite (k : Nat) : Statement (.tokenWrite k) := of_none rfl
theorem homeRequest (k : Nat) : Statement (.homeRequest k) := of_none rfl
theorem scanUnitRead (j ch : Nat) : Statement (.scanUnitRead j ch) := of_none rfl
theorem scanWaitLimit (j ch : Nat) : Statement (.scanWaitLimit j ch) := of_none rfl
theorem homeLineBst (k : Nat) : Statement (.homeLineBst k) := of_none rfl
theorem homeLineSeal (k : Nat) : Statement (.homeLineSeal k) := of_none rfl
theorem homeLineDiscard (k : Nat) : Statement (.homeLineDiscard k) := of_none rfl
theorem backwardFetch (k : Nat) : Statement (.backwardFetch k) := of_none rfl
theorem forwardFetch (k : Nat) : Statement (.forwardFetch k) := of_none rfl
theorem sealAck (k : Nat) : Statement (.sealAck k) := of_none rfl
theorem pendingResolution (line : Nat) : Statement (.pendingResolution line) := of_none rfl
theorem retentionEnd (line : Nat) : Statement (.retentionEnd line) := of_none rfl
theorem receivePacket (p : RxPacket) : Statement (.receivePacket p) := of_none rfl
theorem waitevTimeout (sh : Nat) : Statement (.waitevTimeout sh) := of_none rfl
theorem eventLatchSet (k : Nat) : Statement (.eventLatchSet k) := of_none rfl
theorem stepBoundFault (sh unit : Nat) : Statement (.stepBoundFault sh unit) := of_none rfl
theorem launch (q idx : Nat) : Statement (.launch q idx) := of_none rfl
theorem cmo (q idx : Nat) : Statement (.cmo q idx) := of_none rfl
theorem aditx (q idx : Nat) (data : List Byte) : Statement (.aditx q idx data) := of_none rfl
theorem nodeCheck (t n : Nat) : Statement (.nodeCheck t n) := of_none rfl
theorem condEvaluate (t n : Nat) : Statement (.condEvaluate t n) := of_none rfl
theorem dispatchDecision : Statement (.dispatchDecision) := of_none rfl
theorem rebalanceWindowEnd (t n : Nat) : Statement (.rebalanceWindowEnd t n) := of_none rfl
theorem nodeComplete (t n : Nat) : Statement (.nodeComplete t n) := of_none rfl
theorem tmapcmtGo (fn : Nat) (v : Word) : Statement (.tmapcmtGo fn v) := of_none rfl
theorem tmapCommitDone : Statement (.tmapCommitDone) := of_none rfl
theorem linkStateChange (die exit : Nat) (up : Bool) : Statement (.linkStateChange die exit up) := of_none rfl
theorem packetForward (k : Nat) (arriving : Option InPacket) : Statement (.packetForward k arriving) := of_none rfl
theorem failureNotice (op cause : Nat) : Statement (.failureNotice op cause) := of_none rfl
theorem fabricTimeout (op : Nat) : Statement (.fabricTimeout op) := of_none rfl
theorem laneOutOfService (adit lane : Nat) : Statement (.laneOutOfService adit lane) := of_none rfl
theorem lemlnWrite (fn adit : Nat) (v : Word) : Statement (.lemlnWrite fn adit v) := of_none rfl
theorem laneTurnDone (adit : Nat) : Statement (.laneTurnDone adit) := of_none rfl
theorem adctlGo (fn adit : Nat) (v : Word) : Statement (.adctlGo fn adit v) := of_none rfl
theorem aditDrainEnd (adit : Nat) : Statement (.aditDrainEnd adit) := of_none rfl
theorem aditDrainLimit (adit : Nat) : Statement (.aditDrainLimit adit) := of_none rfl
theorem aditTrainDone (adit : Nat) (ok : Bool) (devGib : Nat) : Statement (.aditTrainDone adit ok devGib) := of_none rfl
theorem adwinOff (fn adit : Nat) (v : Word) : Statement (.adwinOff fn adit v) := of_none rfl
theorem adwinCloseDone (adit : Nat) : Statement (.adwinCloseDone adit) := of_none rfl
theorem pageWalk (unit ctx : Nat) (va : Addr) (kind : AccKind) : Statement (.pageWalk unit ctx va kind) := of_none rfl
theorem tlbiPage (fn port : Nat) (v : Word) : Statement (.tlbiPage fn port v) := of_none rfl
theorem tlbiRegion (fn port : Nat) (v : Word) : Statement (.tlbiRegion fn port v) := of_none rfl
theorem tlbiContext (fn port : Nat) (v : Word) : Statement (.tlbiContext fn port v) := of_none rfl
theorem tlbiS2Page (fn port : Nat) (v : Word) : Statement (.tlbiS2Page fn port v) := of_none rfl
theorem tlbiS2Context (fn port : Nat) (v : Word) : Statement (.tlbiS2Context fn port v) := of_none rfl
theorem tlbiAll (fn port : Nat) (v : Word) : Statement (.tlbiAll fn port v) := of_none rfl
theorem invalidationComplete (port : Nat) : Statement (.invalidationComplete port) := of_none rfl
theorem collapseAck (k die : Nat) : Statement (.collapseAck k die) := of_none rfl
theorem keydWrite (fn : Nat) (v : Word) : Statement (.keydWrite fn v) := of_none rfl
theorem keyLoad (fn : Nat) (v : Word) : Statement (.keyLoad fn v) := of_none rfl
theorem keyRetire (fn : Nat) (v : Word) : Statement (.keyRetire fn v) := of_none rfl
theorem keySweepLine (slot line : Nat) : Statement (.keySweepLine slot line) := of_none rfl
theorem keySweepEnd (slot : Nat) : Statement (.keySweepEnd slot) := of_none rfl
theorem hostMemoryAccess (fn : HostPath) (pa : Nat) (len : Nat) (write : Option (List Byte)) : Statement (.hostMemoryAccess fn pa len write) := of_none rfl
theorem vfReset (fn vf : Nat) (v : Word) : Statement (.vfReset fn vf v) := of_none rfl
theorem vfEnable (fn vf : Nat) (v : Word) : Statement (.vfEnable fn vf v) := of_none rfl
theorem adrevRevoke (fn ctx : Nat) (v : Word) : Statement (.adrevRevoke fn ctx v) := of_none rfl
theorem adrevClear (fn ctx : Nat) (v : Word) : Statement (.adrevClear fn ctx v) := of_none rfl
theorem attnWrite (fn port : Nat) (v : Word) : Statement (.attnWrite fn port v) := of_none rfl
theorem attestGo (fn port : Nat) (v : Word) : Statement (.attestGo fn port v) := of_none rfl
theorem attestDone (port : Nat) : Statement (.attestDone port) := of_none rfl
theorem scrubCommand (stack : Nat) : Statement (.scrubCommand stack) := of_none rfl
theorem scrubQuarterEnd (stack : Nat) : Statement (.scrubQuarterEnd stack) := of_none rfl
theorem pgretGo (fn : Nat) (v : Word) : Statement (.pgretGo fn v) := of_none rfl
theorem deputyMismatch : Statement (.deputyMismatch) := of_none rfl
theorem hewerWatchdog (h : Nat) : Statement (.hewerWatchdog h) := of_none rfl
theorem thermalPlacementLimit (die : Nat) (above : Bool) : Statement (.thermalPlacementLimit die above) := of_none rfl
theorem thermalLimit (die : Nat) : Statement (.thermalLimit die) := of_none rfl
theorem qcfgEnable (fn q : Nat) (v : Word) : Statement (.qcfgEnable fn q v) := of_none rfl
theorem qcfgDisable (fn q : Nat) (v : Word) : Statement (.qcfgDisable fn q v) := of_none rfl
theorem queueDrainEnd (q : Nat) : Statement (.queueDrainEnd q) := of_none rfl
theorem qtailWrite (fn q : Nat) (v : Word) : Statement (.qtailWrite fn q v) := of_none rfl
theorem packetParse (q : Nat) (readable : Bool) : Statement (.packetParse q readable) := of_none rfl
theorem packetStart (q idx : Nat) : Statement (.packetStart q idx) := of_none rfl
theorem qcheadWrite (fn q : Nat) (v : Word) : Statement (.qcheadWrite fn q v) := of_none rfl
theorem completionWrite (q : Nat) : Statement (.completionWrite q) := of_none rfl
theorem interruptTimer (q : Nat) : Statement (.interruptTimer q) := of_none rfl
theorem memilWrite (fn : Nat) (v : Word) : Statement (.memilWrite fn v) := of_none rfl
theorem freezeGo (fn ctx : Nat) (v : Word) : Statement (.freezeGo fn ctx v) := of_none rfl
theorem freezeImageWrite (ctx : Nat) : Statement (.freezeImageWrite ctx) := of_none rfl
theorem thaw (fn ctx : Nat) (v : Word) : Statement (.thaw fn ctx v) := of_none rfl
theorem registerRead (fn off width : Nat) : Statement (.registerRead fn off width) := of_none rfl
theorem settleNotice (k : Nat) : Statement (.settleNotice k) := of_none rfl
theorem onDieScrubPathFailure (stack : Nat) (working : Bool) : Statement (.onDieScrubPathFailure stack working) := of_none rfl
theorem thawComplete (ctx : Nat) : Statement (.thawComplete ctx) := of_none rfl
theorem adapterEviction (ctx idx : Nat) : Statement (.adapterEviction ctx idx) := of_none rfl
theorem ualRequest (adit : Nat) (r : UalReq) : Statement (.ualRequest adit r) := of_none rfl

end Sys2Proof.Laws.Alone
end

