-- ==== Sys2Proof/Laws/Shared.lean ====
section
/-!
SUPPORT. What the shared operations on homes, translations, waiters and units leave alone, said once.
-/
namespace Sys2Proof.Machine

/-! ## Where a byte is held -/

/-- Stacked memory is held at its address (R297). -/
theorem State.globAt_stacked (s : State) {pa : Nat} (h : pa < stackedEnd) : s.globAt pa = pa := if_pos h

/-- An address in no open window is held at its address. -/
theorem State.globAt_outside (s : State) {pa : Nat} (h : s.windowOf pa = none) : s.globAt pa = pa := by unfold State.globAt; split <;> simp_all

/-! ## Cached translations (R341) -/

/-- A TLB that makes room adds no entry. -/
theorem keepRoom_subset (unit n : Nat) (l : List Tlb) {e : Tlb} (h : e ∈ keepRoom unit n l) : e ∈ l := by
  induction l generalizing n with
  | nil => cases n <;> cases h
  | cons a l ih =>
    unfold keepRoom at h
    split at h
    · split at h
      · exact .tail _ (ih _ h)
      · cases h with | head => exact .head _ | tail _ h => exact .tail _ (ih _ h)
    · cases h with | head => exact .head _ | tail _ h => exact .tail _ (ih _ h)

/-- The entries of other units all stay. -/
theorem keepRoom_other (unit n : Nat) (l : List Tlb) {e : Tlb} (ne : e.unit ≠ unit) (h : e ∈ l) : e ∈ keepRoom unit n l := by
  induction l generalizing n with
  | nil => cases h
  | cons a l ih =>
    unfold keepRoom
    cases h with
    | head => rw [if_neg ne]; exact .head _
    | tail _ h =>
      split
      · split
        · exact ih _ h
        · exact .tail _ (ih _ h)
      · exact .tail _ (ih _ h)

/-- A unit keeps no more entries than it has room for. -/
theorem keepRoom_length (unit n : Nat) (l : List Tlb) : ((keepRoom unit n l).filter fun e => e.unit == unit).length ≤ n := by
  induction l generalizing n with
  | nil => cases n <;> exact Nat.zero_le _
  | cons a l ih =>
    unfold keepRoom
    split
    · next h =>
      split
      · exact ih 0
      · next k => simp only [List.filter_cons, h, beq_self_eq_true, if_true, List.length_cons]; exact Nat.succ_le_succ (ih k)
    · next h => simp only [List.filter_cons, beq_iff_eq, h, if_false]; exact ih n

/-- Caching a translation changes the caches alone. -/
theorem State.cacheTlb_frame (s : State) (e : Tlb) : s.cacheTlb e = { s with tlb := (s.cacheTlb e).tlb, uppers := (s.cacheTlb e).uppers } := rfl

/-- Caching a translation adds no other. -/
theorem State.cacheTlb_subset (s : State) (e : Tlb) {x : Tlb} (h : x ∈ (s.cacheTlb e).tlb) : x = e ∨ x ∈ s.tlb := by
  have step (h : x ∈ e :: s.tlb.filter fun y => !(y.unit == e.unit && y.ctx == e.ctx && decide (y.va < e.va + e.size) && decide (e.va < y.va + y.size))) :
      x = e ∨ x ∈ s.tlb := by
    cases h with
    | head => exact .inl rfl
    | tail _ h => exact .inr (List.mem_filter.1 h).1
  simp only [State.cacheTlb] at h
  split at h
  · exact step h
  · exact step (keepRoom_subset _ _ _ h)

/-! ## Writes of the part (R222, R347) -/

/-- A write of the part to a line with a pending version waits as a message. -/
theorem State.ownWrite_pending (s : State) (pa : Nat) (key : Option Nat) (op : OwnOp) (bs : List Byte) (h : s.pendLine (pa / 128) = true) :
    s.ownWrite pa key op bs = s.post (.own pa key op bs none) := by simp [State.ownWrite, h]

/-- A trap of a context without a handler waits for nothing. -/
theorem State.trapWait_none (s : State) {i : Nat} {x : Shift} (hx : s.sh? i = some x) (h : 4 ≤ i % 8 ∨ (s.ctx x.place.ctx).tvctl.getLsbD 63 = false) :
    s.trapWait i = none := by
  unfold State.trapWait
  rw [hx]
  exact if_pos (by simpa using h)

/-! ## Waiters (R193, R219) -/

/-- A unit that waits already is not added again. -/
theorem State.addWaiter_again (s : State) {i unit : Nat} {w : Waiter} (why : WaitFor) (h : s.waiter? i unit = some w) : s.addWaiter i unit why = s := by
  simp [State.addWaiter, h]

/-- A waiter joins at the tail. -/
theorem State.addWaiter_new (s : State) {i unit : Nat} (why : WaitFor) (h : s.waiter? i unit = none) :
    (s.addWaiter i unit why).waiters = s.waiters ++ [{ sh := i, unit := unit, why := why, answer := none, data := [], bad := none }] := by
  simp [State.addWaiter, h]

/-- An instruction that waits at a home makes no check again until it is answered. -/
theorem State.whileWaiting_waits (s : State) {w : Waiter} (c : Verdict) (h : s.waiter? s.me 0 = some w) :
    s.whileWaiting c = if w.answer.isSome then .go else .hold s := by simp [State.whileWaiting, h]

/-- An instruction that does not wait is checked. -/
theorem State.whileWaiting_checks (s : State) (c : Verdict) (h : s.waiter? s.me 0 = none) : s.whileWaiting c = c := by simp [State.whileWaiting, h]

/-! ## Counts -/

/-- Where no device is named, no key miss is counted (R351). -/
@[simp] theorem State.kmiss_none (s : State) : s.kmiss none = s := rfl

end Sys2Proof.Machine
end

