-- ==== Sys2Proof/Tests/Slice0.lean ====
section
/-!
SUPPORT. Tests: ill-formed terms that WellFormed refuses, words written out from the encodings of the manual, single steps, and states that meet the
hypotheses of the statements.
-/
namespace Sys2Proof.Tests
-- One theorem after another: checked side by side, their threads ask for more memory than the check allows.
set_option Elab.async false
open Sys2Proof.Machine Sys2Proof.Claims

/-! ## Small states -/

/-- A shift of context 1 on core 0 that owns PAD bank 0, with code from 0x100 to 0x200, and with the whole of PAD, CREW, CHIP and GLOB in plain
footprints (mode 1) but for CREW from 0x1000 on (mode 2). -/
def unitShift : Shift :=
  { Shift.zero with
    sp := { Spec.zero with vl := 2 },
    img := { Image.zero with
      start := 0x100, lim := 0x200,
      feet := [⟨.pad, 1, false, 0, 0x8000, 1, 0⟩, ⟨.crew, 1, false, 0, 0x1000, 1, 0⟩, ⟨.crew, 2, false, 0x1000, 0x1000, 1, 0⟩,
        ⟨.chip, 1, false, 0, 0x1000, 1, 0⟩, ⟨.glob, 1, false, 0, 0x10000, 1, 0⟩] },
    place := { Place.zero with ctx := 1, banks := 1, mx := true } }

/-- A shift with scalar registers set. -/
def withS (x : Shift) (l : List (SNum × Word)) : Shift := l.foldl (fun x p => x.setS p.1 p.2) x

/-- A shift with address registers set. -/
def withA (x : Shift) (l : List (ANum × Addr)) : Shift := l.foldl (fun x p => x.setA p.1 p.2) x

/-- The machine after reset with one shift, number 0, whose bundle's checks are being made. -/
def one (x : Shift) : State := { State.reset with shifts := [(0, x)], cur := { Cur.zero with sh := some 0 } }

/-- The same, at the point where its bundle takes effect. -/
def passed (x : Shift) : State := { one x with cur := { Cur.zero with sh := some 0, checked := true } }

/-- The same with the translation tables of log 2, which map the first megabytes of GLOB to themselves. -/
def mapped (x : Shift) : State := { State.reset.placeWord 0 with agenda := [], shifts := [(0, x)], cur := { Cur.zero with sh := some 0 } }

/-- Whether an instruction gives a next state that passes a test. -/
def after (i : Instr) (s : State) (p : State → Bool) : Bool := match exec i s with | .next t => p t | _ => false


theorem memories_one (x : Shift) : Safety.Memories (one x) := by unfold Safety.Memories; exact ⟨rfl, rfl, rfl, rfl, rfl, rfl⟩

theorem padFree_of {s : State} {k : Acc} {ea n : Nat} (h : ea + n ≤ 2 ^ 20 ∧ s.acquirePending s.me = false ∧ s.jobClash s.me s.x k .pad ea n = false)
   (hb : ∀ j : Fin n, let b := ea + j.val
    ownsBank s.x.place.banks b = true ∧ inSaveArea s.x.place.banks b = false ∧ s.inRingHeader .pad s.myCore b = false ∧
    s.inRingSlots .pad s.myCore b = false ∧ ∃ m ∈ s.x.modesAt .pad b, k.permitted m = true) : PadFree s k ea n := by
  refine ⟨h.1, h.2.1, h.2.2, fun b h1 h2 => ?_⟩
  have h := hb ⟨b - ea, by omega⟩
  simp only [show ea + (b - ea) = b by omega] at h
  exact ⟨h.1, h.2.1, h.2.2.1, .inl h.2.2.2⟩

def gX (a : ANum) : MemX := { sp := .glob, xa := a, xi := 0, sc := 0, disp := 0 }

def gB (sp : Space) (a : ANum) : MemB := { sp := sp, xa := a, disp := 0 }

def isOk {α β : Type} : Except α β → Bool | .ok _ => true | .error _ => false

theorem ok_of {α β : Type} {e : Except α β} (h : isOk e = true) : ∃ b, e = .ok b := by cases e with | ok b => exact ⟨b, rfl⟩ | error _ => cases h

def ringR (_claim : Bool) : Ring := { Ring.zero with v := true, space := 1, prod := 1, cons := 1, base := 0x400 }

/-- image of one stage at 0x20000: EV 2, code from 0x100 to 0x200, bound 1000, one stage entry at 0x80, entry 0x100, stack 0x100 -/
def imageBytes : List Byte :=
  bytesOf 8 (0x4B485046 * 2 ^ 32 + 2 * 256) ++ bytesOf 8 (0x200 * 2 ^ 32 + 0x100) ++ bytesOf 8 1000 ++ bytesOf 8 (2 ^ 48 + 0x80) ++ List.replicate 96 0 ++
  bytesOf 8 0x100 ++ bytesOf 8 0x100

def nextOf (o : Out) : State := match o with | .next t => t | _ => State.reset

def fails {α β : Type} : Except α β → Bool | .ok _ => false | .error _ => true

theorem error_of_fails {α β : Type} {e : Except α β} (h : fails e = true) : ∃ b, e = .error b := by cases e with | ok b => cases h | error b => exact ⟨b, rfl⟩

def okIs {α β : Type} [DecidableEq β] (e : Except α β) (b : β) : Bool := match e with | .ok c => c == b | .error _ => false

theorem okIs_eq {α β : Type} [DecidableEq β] {e : Except α β} {b : β} (h : okIs e b = true) : e = .ok b := by
  cases e with | ok c => (have : c = b := by simpa [okIs] using h); rw [this] | error _ => cases h

def errIs {α β : Type} [DecidableEq α] (e : Except α β) (b : α) : Bool := match e with | .ok _ => false | .error c => c == b

/-- Whether an access passes as Clear says. -/
def clearly (s : State) (k : Acc) (sc : Scope) (sp : Space) (ea : Int) (n : Nat) : Bool :=
  decide (ea % (n : Int) = 0) && (match s.checkAccess s.me s.x 0 0 k sc false false false sp ea n with | .ok e => !s.accessWaits e ea k.writes | .error _ => false) &&
    !s.acquirePending s.me

theorem clear_of {s : State} {k : Acc} {sc : Scope} {sp : Space} {ea : Int} {n : Nat} (h : clearly s k sc sp ea n = true) : Clear s k sc sp ea n := by
  unfold clearly at h
  simp only [Bool.and_eq_true, decide_eq_true_eq, Bool.not_eq_true'] at h
  obtain ⟨⟨ha, hc⟩, hp⟩ := h
  split at hc
  · exact ⟨ha, ⟨_, ‹_›, by simpa using hc⟩, hp⟩
  · cases hc

/-- Whether an answer is there and passes a test. -/
def okWith {α β : Type} (e : Except α β) (p : β → Bool) : Bool := match e with | .ok b => p b | .error _ => false

theorem okWith_of {α β : Type} {e : Except α β} {p : β → Bool} (h : okWith e p = true) : ∃ b, e = .ok b ∧ p b = true := by
  cases e with | ok b => exact ⟨b, rfl, h⟩ | error _ => cases h

theorem errIs_eq {α β : Type} [DecidableEq α] {e : Except α β} {b : α} (h : errIs e b = true) : e = .error b := by
  cases e with | error c => (have : c = b := by simpa [errIs] using h); rw [this] | ok _ => cases h

/-! ## Well-formedness: an ill-formed term for each check -/

/-- An operand in a space. -/
def memIn (sp : Space) : MemX := { sp := sp, xa := 1, xi := 0, sc := 0, disp := 0 }

/-- The same for the words whose index field is another operand. -/
def memOf (sp : Space) : MemB := { sp := sp, xa := 1, disp := 0 }

theorem test_wf_guards : ([.cmp .lt 0 1 2, .cmpi .lt 0 1 2, .fcmp .lt 0 1 2, .gand 0 1 2, .gor 0 1 2, .gnot 0 1] : List Instr).all (fun i => !i.wf) = true := by
  decide

theorem test_wf_formats : ([.fcvt .f32 true false 1 2, .wrsr .tcb 1, .vcvt .s8 .s8 1 2, .vcvt .s64 .f32 1 2, .vcvt .f32 .z64 1 2, .tcfg .s64 .f32 0 0,
    .wbld (some .f32) 0 1 2 0, .cst .s8 0 0 1 0] : List Instr).map (fun i => i.wf) = [false, false, false, false, false, false, false, false] := by decide

theorem test_wf_pairs : ([.part 63 1 2, .partn 0 1 2, .mopa .f32 0 0 63 1 0, .mopa .f32 0 0 1 63 0, .crd 0 0 63 1 0, .cwr 0 0 63 1 0, .cpy2d .pad 1 (memOf .pad) 1 63,
    .cpy2d .pad 1 (memOf .pad) 1 0] : List Instr).all (fun i => !i.wf) = true := by decide

theorem test_wf_sizes : ([.ld .d true 1 (memIn .pad) 0, .lda .d true .sys 1 (memIn .pad), .atom .fadd true .sys 1 (memOf .pad) 2, .ratom .fadd true 1 (memOf .glob) 2 0]
    : List Instr).all (fun i => !i.wf) = true := by decide

theorem test_wf_tokens : ([.xld .stream false 0 0 (memIn .pad), .xst .stream false 0 0 (memIn .pad), .xst .index false 0 1 (memIn .pad), .cpy .pad 0 (memOf .pad) 1 2,
    .cpy2d .pad 0 (memOf .pad) 1 2, .mscan .topk .f32 0 (memOf .glob) 1 2, .rldq 0 0 0 (memIn .glob), .rstn 0 (memOf .pad) 1, .rsend 0 0 (memOf .pad) 1,
    .coll 0 0 (memOf .pad) 1] : List Instr).all (fun i => !i.wf) = true := by decide

theorem test_wf_lane_fields : ([.ld .w false 1 (memIn .pad) 1, .st .w 1 (memIn .pad) 1] : List Instr).all (fun i => !i.wf) = true := by decide

theorem test_wf_spaces_of_local_words : ([.lda .w false .sys 1 (memIn .lane), .sta .w .sys 1 (memIn .lane), .xld .stream false 0 1 (memIn .lane),
    .xst .stream false 0 1 (memIn .lane), .cpy .pad 1 (memOf .lane) 1 2, .cpy .lane 1 (memOf .pad) 1 2, .cpy2d .pad 1 (memOf .lane) 1 2,
    .cpy2d .lane 1 (memOf .pad) 1 2, .atom .add false .sys 1 (memOf .lane) 2, .cas false .sys 1 (memOf .lane) 2, .waitge false false .sys 1 (memOf .lane) 2,
    .rinit 1 0 (memOf .glob) 2, .rinit 1 0 (memOf .lane) 2, .barinit false .sys 1 (memOf .lane) 2, .bararr .sys 1 (memOf .lane),
    .barwait .sys 1 (memOf .lane) 2] : List Instr).all (fun i => !i.wf) = true := by decide

theorem test_wf_spaces_of_fabric_words : ([.lockl 1 (memIn .pad), .unlockl 1 (memIn .crew), .pref true (memIn .chip), .mscan .topk .f32 1 (memOf .pad) 1 2,
    .bopen 1 (memOf .pad) 2, .bst .w 1 (memIn .pad), .rtld 0 (memIn .lane), .rldq 0 0 1 (memIn .pad), .rst .w 1 0 (memIn .chip), .ratom .add false 1 (memOf .pad) 2 0,
    .rstn 1 (memOf .lane) 2, .recvadd .f32 false 0 1 (memOf .glob) 2, .rsend 0 1 (memOf .lane) 2, .coll 0 1 (memOf .lane) 2] : List Instr).all
    (fun i => !i.wf) = true := by decide

theorem test_wf_targets : ([.br 4, .call 4, .loop 1 12, .bri 1 4, .jmp 0 4, .calli 0 4, .waitev 1 2 0] : List Instr).all (fun i => !i.wf) = true := by decide

/-! ## Words written out from the encodings of the manual -/

/-- The example of R109. -/
theorem test_decode_cmp : decodeTableWord 64 0x8075_20C4_0000_0000 = some (.cmp .lt 2 3 4) := by decide

theorem test_decode_cmpi : decodeTableWord 64 0xE014_1245_0000_0064 = some (.cmpi .geu 1 9 100) := by decide

/-- The example of R54: the two halves of one word under guard g3. -/
theorem test_decode_halves : decodeWord 3 0x8604_5187_1328_B302 =
    some { ginv := false, gn := 3, ops := [.add 5 6 7, .vfadd .f32 10 11 12], stall := 2, vec := true } := by decide

/-- The example of chapter 7. -/
theorem test_decode_part : decodeTableWord 64 0x8000_0000_2B29_4140 = some (.part 10 20 5) := by decide

/-- The example of chapter 8, and a word laid out by Table 3.4 and R167. -/
theorem test_decode_mma : decodeTableWord 64 0xA013_0828_0700_0040 = some (.mma 7 1 2 4 5 0 0x40) := by decide

theorem test_decode_mopa : decodeTableWord 64 0xA024_8628_0001_2345 = some (.mopa .bf16 2 1 3 5 0x12345) := by decide

/-- The examples of chapter 10. -/
theorem test_decode_ld : decodeTableWord 64 0xC002_2841_C880_0400 = some (.ld .w false 5 { sp := .glob, xa := 2, xi := 3, sc := 2, disp := 16 } 0) := by decide

theorem test_decode_atom : decodeTableWord 64 0xC012_2940_4200_000C = some (.atom .swap true .sys 5 { sp := .glob, xa := 10, disp := 0 } 0) := by decide

/-- The words of chapters 13, 14, 18 and 19. -/
theorem test_decode_loop : decodeTableWord 64 0xE058_9000_FFFF_FFF8 = some (.loop 9 0xFFFF_FFF8) := by decide

theorem test_decode_waitev : decodeTableWord 64 0xE08C_91C0_0000_0001 = some (.waitev 9 7 1) := by decide

theorem test_decode_rtld : (decodeTableWord 64 0xC060_00C0_4000_1002).isSome = true := by decide

theorem test_decode_adpin : decodeTableWord 64 0xC080_28C3_8000_0000 = some (.adpin false 5 6 7) := by decide

theorem test_decode_tret : decodeTableWord 64 0xE0A0_6000_0000_0000 = some (.tret false 6) ∧ decodeTableWord 64 0xE0A0_6001_0000_0000 = some (.tret true 6) := by decide

/-- The word at 0x118 of R332: `pub qx`, `add m0, m0, m1` and `loop top` (a base word, which names its own ring). -/
theorem test_decode_micro : (decodeMicro .base 0x5011_6012_1088_0008_0000_0FFF_FFFF_F010).map (fun p => (p.fu, p.ag0, p.ag1, p.seq)) =
    some (some (.microEngineAlu 1 (.m 0) (.m 0) (.m 1) 0x10), some (.pub 0x10), none, .microLoop 0x116) := by decide

/-- The same word as R332 prints it, as a word of the base region. -/
theorem test_printed_micro : printedWord 0x118 = some 0x5011_6012_1088_0008_0000_0FFF_FFFF_F010 := by decide

/-- A guard g0 inverted (R48), an unassigned opcode (R58), a reserved field that is not zero (R54), bit 5 of an address register (R51) and a guard
destination g0 (R51). -/
theorem test_decode_refusals : [0x9000_0000_0000_0000, 0x80E0_0000_0000_0000, 0xE080_0000_0000_0001, 0xC002_2C41_C880_0400, 0x8075_00C4_0000_0000].map
    (decodeTableWord 64) = [none, none, none, none, none] := by decide

/-- Meets the hypotheses of GuardsSelectWordsAndNopChangesNothing and of the clause of IntegersAndDivisionsLandWrappedResults on opcodes. -/
theorem test_witness_words : (0x9000_0000_0000_0000 : Word).toNat / 2 ^ 57 % 16 = 8 ∧ integerOpcode (.maxz 63 0 63) = some (0x1B, 63, 0, 63) ∧
    encode (.maxz 63 0 63) = some (BitVec.ofNat 64 (2 ^ 63 + 0x1B * 2 ^ 50 + 63 * 2 ^ 44 + 63 * 2 ^ 32)) := by decide

/-! ## Values of the manual's examples -/

/-- The last landing that an instruction leaves its shift: where it goes, with the flags. -/
def lands (i : Instr) (s : State) : Option (LandTo × Flags) :=
  match exec i s with | .next t => t.x.landings.getLast?.map fun l => (l.dst, l.flags) | _ => none

/-- The examples of chapter 6 on BFX, FCVT, LEA and ADDAI. -/
theorem test_bfx : lands (.bfx 5 2 3) (passed (withS unitShift [(2, 0x12345678), (3, 0xD04)])) = some (.s 5 0x567, 0) := by decide +kernel

theorem test_fcvt : lands (.fcvt .s8 false true 8 7) (passed (withS unitShift [(7, 0xC06CCCCD)])) = some (.s 8 0xFFFFFFFFFFFFFFFD, fPE) := by decide +kernel

theorem test_lea : lands (.lea 4 2 3) (passed (withS unitShift [(2, 0x4000001000), (3, 2)])) = some (.a 4 0x2_0000_0040_0000_1000, 0) := by decide +kernel

theorem test_addai : lands (.addai 4 4 0xFFFFFFF0) (passed (withA unitShift [(4, 0x2_0000_0040_0000_1000)])) = some (.a 4 0x2_0000_0040_0000_0FF0, 0) := by
  decide +kernel

/-- Table 5.8 and the example of R85: F32 0x4020_1000 to E2M1 in one rounding is 3.0, and from BF16 2.5 it is 2.0. -/
theorem test_round_once : (convert .e2m1 .f32 .rne false 0 0x40201000).1 = 5 ∧ (convert .e2m1 .bf16 .rne false 0 0x4020).1 = 4 := by decide +kernel

/-- The example of chapter 5 on stochastic rounding. -/
theorem test_stochastic : convert .bf16 .f32 .sr false 0x90000000 0x3F808000 = (0x3F80, fPE) ∧ convert .bf16 .f32 .sr false 0x7FFFFFFF 0x3F808000 = (0x3F81, fPE) := by
  decide +kernel

/-- The example of chapter 7 on VCVT. -/
theorem test_saturate : convert .e4m3 .f32 .rne false 0 0x43FA0000 = (0x7E, fOF ||| fPE) ∧ convert .e4m3 .f32 .rne false 0 0x3F801000 = (0x38, fPE) := by
  decide +kernel

/-- R105: −2^63 ÷ −1 wraps to −2^63 and sets no flag. -/
theorem test_div : lands (.div 6 1 2) (passed (withS unitShift [(1, 0x8000000000000000), (2, 0xFFFFFFFFFFFFFFFF)])) = some (.s 6 0x8000000000000000, 0) := by
  decide +kernel

/-- R262: a count of 1 ends the loop, and the counter s0 never does. -/
theorem test_loop : after (.loop 9 0xFFFFFFF8) (passed (withS unitShift [(9, 1)])) (fun t => t.cur.taken.isNone) = true ∧
    after (.loop 0 0xFFFFFFF8) { passed unitShift with cur := { (passed unitShift).cur with at_ := 0x110 } } (fun t => t.cur.taken == some 0x108) = true := by
  decide +kernel

/-- The first step after a word is placed runs it: `cmp.lt g2, s3, s4` on zeros. -/
theorem test_step : (match step (State.reset.withFetchWord 64 0x8075_20C4_0000_0000) with
    | .next t => (t.sh? 0).map (fun x => (x.regs.pc, x.landings.map (·.dst))) | _ => none) = some (0x2008, [.g 2 false]) := by decide +kernel

/-! ## Words that issue -/

def regs3 : Shift := withA (withS unitShift [(1, 5), (2, 3), (3, 0x8000000000000000), (4, 0x3F800000)]) [(1, 0x10), (2, 0x1000)]

/-- Meets the hypotheses of IntegersAndDivisionsLandWrappedResults. -/
theorem test_witness_integers : twoSource (one regs3) (.mulh 6 3 1) = some (6, -3, 3) ∧ division (one regs3) (.rem 6 1 0) = some (6, 5, 2) ∧
    division (one regs3) (.div 6 1 2) = some (6, 1, 0) := by decide

/-- Meets the hypotheses of SingleSourceIntegersAndBitCountsLand. -/
theorem test_witness_single : oneSource (one regs3) (.sext 6 3 63) = some (6, -0x8000000000000000) := by decide

/-- Meets the hypotheses of ComparesAndGuardsLandTheirGuard. -/
theorem test_witness_guards : ∃ p, guardWord (one regs3) (.cmp .lt 1 3 1) = some (1, p) ∧ p :=
  ⟨_, rfl, (by show ((one regs3).rs 3).toInt < ((one regs3).rs 1).toInt; decide)⟩

/-- Meets the hypotheses of ScalarFloatsRoundOnceAndLand. -/
theorem test_witness_floats : ∃ v f, floatWord (one regs3) (.fadd 6 4 4) = some (6, 4, v, f) := ⟨_, _, rfl⟩

/-- Meets the hypotheses of FloatArithmeticIsExactBeforeRounding. -/
theorem test_witness_exact : let x : Ex := ⟨false, 1, 1, 0⟩; 0 < x.n ∧ 0 < x.d ∧ Rational x + Rational x ≠ 0 ∧ Rational x + Rational ⟨true, 1, 1, 0⟩ = 0 := by decide +kernel

/-- R113: −0 is below +0, a signalling NaN gives way to the other operand with NV, and two NaNs give the canonical one. -/
theorem test_minmax : [fpSelect false false 8 23 0 0x80000000, fpSelect true false 8 23 0 0x80000000, fpSelect true false 8 23 0x7F800001 0x3F800000,
    fpSelect false true 8 23 0x80000001 0x7FC00000, fpSelect true false 8 23 0x7FC00001 0xFFC00000] =
    [(0x80000000, 0), (0, 0), (0x3F800000, 1), (0x80000000, 0), (0x7FC00000, 0)] := by decide

/-- Meets the hypotheses of AddressAndSpecialRegisterWordsLand. -/
theorem test_witness_address : addressWord (one regs3) (.addai 3 1 0xFFFFFFF0) = some (3, 0) ∧ readWord (one regs3) (.cmpa 3 1 2) = some (3, -1) := by decide

/-- Meets the hypotheses of VectorIntegersWorkElementByElement, LaneMovesAndSelectionsLandTheirLanes, VectorFloatsRoundEachElementOnce and ReductionsAndConversionsCombineActiveLanes. -/
theorem test_witness_vectors : (∃ f, vectorInt (.vadd .b 1 2 3) = some (8, 1, 2, 3, f)) ∧ (one regs3).vl = 2 ∧
  (∃ f, vectorLanes (one regs3) (.vslide true 1 2 3) = some (3, 1, f)) ∧ (∃ op, vectorFloat (one regs3) (.vrcp 1 2) = some (8, 1, .f32, 2, 2, op)) ∧
  (∃ f, vectorElement (one regs3) (.vcvt .f16 .f32 1 2) = some (4, 1, 32, 1, f)) ∧ (∃ f, reduction .min = some (f, 0x7FFFFFFF)) ∧
  floatIdentity .fmax = some 0xFF800000 := by
  refine ⟨⟨_, rfl⟩, rfl, ?_, ?_, ?_, ?_, rfl⟩
  all_goals exact ⟨_, rfl⟩

/-! ## Landings and local accesses -/

def eqo (a b : Out) : Bool := match a, b with | .next s, .next t => decide (s = t) | _, _ => false

def landing (d : LandTo) : Landing := { left := 0, seq := 0, flags := 2, dst := d }

def due1 (d : LandTo) : Shift := { unitShift with landings := [{ landing d with left := 2 }, landing d] }

/-- Meets the hypotheses of LandingsWriteTheRegistersTheyName and LandingsChangeOnlyTheirBytes. -/
theorem test_witness_landing (d : LandTo) : (one (due1 d)).sh? 0 = some (due1 d) ∧ ((due1 d).landings.filter fun m => m.left == 0) = [landing d] ∧
   Safety.Memories (one (due1 d)) := ⟨rfl, rfl, memories_one _⟩

def twoDue : Shift := { unitShift with landings := [landing (.s 3 7), { landing (.special .stat 8) with flags := 0 }] }

/-- Meets the hypotheses of LandingsOfOneCycleTakeStatFirst. -/
theorem test_witness_stat : (one twoDue).sh? 0 = some twoDue ∧
  ∀ l ∈ twoDue.landings, l.left = 0 → (∃ r v, l.dst = .s r v) ∨ (l.dst = .special .stat 8 ∧ l.flags = 0) := by
  refine ⟨rfl, ?_⟩
  rw [show twoDue.landings = [landing (.s 3 7), { landing (.special .stat 8) with flags := 0 }] from rfl]
  simp [landing]

/-- Meets the hypotheses of FixedLatencyWordsChangeNothingAtIssue. -/
theorem test_witness_fixed : fixedWord (.vfdiv 1 2 3) = true := by decide

def at8 : Shift := withA (withS unitShift [(1, 8), (2, 0x2FC0)]) [(1, 0x2FF8), (2, 0xFF8)]

def padX : MemX := { sp := .pad, xa := 1, xi := 0, sc := 0, disp := 0 }

def laneX : MemX := { sp := .lane, xa := 2, xi := 0, sc := 0, disp := 0 }

/-- Meets the hypotheses of LocalLoadsAndStoresComplete. -/
theorem test_witness_local : PadFree (one at8) .read 0x2FF8 8 ∧ PadFree (one at8) .write 0x2FF8 8 ∧ LaneFree (one at8) 0xFF8 8 ∧
   (one at8).x.eaX padX = 0x2FF8 ∧ (one at8).x.eaX laneX = 0xFF8 ∧ (one at8).sectorPending (one at8).me (localSector (one at8).myCore .pad 0 0x2FF8) = false :=
  ⟨padFree_of (by decide) (by decide), padFree_of (by decide) (by decide), ⟨by decide, by decide⟩, by decide, by decide, by decide⟩

/-- Meets the hypotheses of VectorAccessesComplete. -/
theorem test_witness_vector_accesses : PadFree (one at8) .read ((one at8).rs 1).toNat (4 * (one at8).vl) ∧ PadFree (one at8) .write ((one at8).rs 1).toNat (4 * (one at8).vl) ∧
   (∀ n, n < (one at8).vl → PadFree (one at8) .read (((one at8).rs 1).toNat + el ((one at8).rv 1) 32 n 0 * 4) 4 ∧ PadFree (one at8) .write (((one at8).rs 1).toNat + el ((one at8).rv 1) 32 n 0 * 4) 4 ∧
      (one at8).bytesPending .pad n (((one at8).rs 1).toNat + el ((one at8).rv 1) 32 n 0 * 4) 4 = false) ∧
   (∀ n, n < (one at8).vl → el ((one at8).rv 1) 32 n 0 % 4 = 0 ∧ LaneFree (one at8) (el ((one at8).rv 1) 32 n 0) 4 ∧
      (one at8).bytesPending .lane n (el ((one at8).rv 1) 32 n 0) 4 = false) ∧
   ((one at8).rs 1).toNat % 4 = 0 ∧ (one at8).bytesPending .pad 0 ((one at8).rs 1).toNat (4 * (one at8).vl) = false := by
  refine ⟨padFree_of (by decide +kernel) (by decide +kernel), padFree_of (by decide +kernel) (by decide +kernel), ?_, ?_, by decide +kernel, by decide +kernel⟩
  · intro n hn
    have : n = 0 ∨ n = 1 := by have : (one at8).vl = 2 := rfl; omega
    rcases this with rfl | rfl <;> exact ⟨padFree_of (by decide +kernel) (by decide +kernel), padFree_of (by decide +kernel) (by decide +kernel), by decide +kernel⟩
  · intro n hn
    have : n = 0 ∨ n = 1 := by have : (one at8).vl = 2 := rfl; omega
    rcases this with rfl | rfl <;> exact ⟨by decide +kernel, ⟨by decide +kernel, by decide +kernel⟩, by decide +kernel⟩

/-- Meets the hypotheses of PartnSortsLanesIntoArms. -/
theorem test_witness_partn : (one at8).vl ≤ 64 ∧ ((one at8).rs 1).toNat % 4 = 0 ∧ PadFree (one at8) .write ((one at8).rs 1).toNat (32 + 256 * 2) ∧
    (one at8).bytesPending .pad 0 ((one at8).rs 1).toNat (32 + 256 * 2) = false :=
  ⟨by decide +kernel, by decide +kernel, padFree_of (by decide +kernel) (by decide +kernel), by decide +kernel⟩

/-! ## Home accesses, locks and rings -/

def globShift : Shift := { withA (withS unitShift [(1, 0x40), (2, 0x20001), (3, 1)]) [(1, 0x5000), (2, 0x800), (3, 0x5001), (4, 0xFE0), (5, 0x1040)] with place := { unitShift.place with lkq := 2 } }

/-- Meets the hypotheses of HomeAccessesSendTheirRequest. -/
theorem test_witness_home_accesses :
    let s := mapped globShift
    (gX 1).sp ≠ .lane ∧ (gX 1).sp ≠ .pad ∧ Clear s (s.readKind .glob).1 (s.readKind .glob).2 .glob (s.x.eaX (gX 1)) 8 ∧ Clear s .write .shift .glob (s.x.eaX (gX 1)) 8 ∧
    Clear s .acq (s.ldaScope .glob .sys) .glob (s.x.eaX (gX 1)) 8 ∧ Clear s .rel .sys .glob (s.x.eaX (gX 1)) 8 ∧ Clear s .rmw .crew .crew (s.x.eaB (gB .crew 4)) 8 ∧
    Clear s .barRmw .crew .crew (s.x.eaB (gB .crew 5)) 32 ∧
    ∀ k ∈ [(s.readKind .glob).1, .acq, .rmw, .barRmw], TableRoom s k .glob (s.x.eaX (gX 1)) ∧ TableRoom s k .crew (s.x.eaB (gB .crew 4)) := by
  intro s
  refine ⟨by simp [gX], by simp [gX], clear_of ?_, clear_of ?_, clear_of ?_, clear_of ?_, clear_of ?_, clear_of ?_, fun k _ => ⟨fun _ => ?_, fun h => by cases h⟩⟩
  case refine_7 => cases k <;> decide +kernel
  all_goals decide +kernel

/-- Meets the hypotheses of MisalignedAccessesTakeTheAlignmentFault. -/
theorem test_witness_misaligned : (one globShift).cur.checked = false ∧ (one globShift).x.eaX (gX 3) % (bytes .h : Int) ≠ 0 ∧ (one globShift).x.eaB (gB .glob 3) % 4 ≠ 0 := by decide

/-- Meets the hypotheses of WaitsThatAreOverComplete. -/
theorem test_witness_waits :
    let s := one globShift
    let h := (s.resolve .acq .crew 0 (s.x.eaB (gB .crew 4))).1
    let g := (s.resolve .acq .crew 0 (s.x.eaB (gB .crew 5))).1
    (s.syncPending s.me = false ∧ s.waiter? s.me 0 = none) ∧ (∀ p a k, h ≠ .fab p a k ∧ g ≠ .fab p a k) ∧
    (s.sectorPending s.me h.sector = false ∧ s.seeQuiet s.me h = none ∧ (s.ownRead s.me h 8).2.1 = false ∧
      signed 64 (s.rs 0).toNat ≤ signed 64 (number (s.ownRead s.me h 8).1) ∧ (s.rs 0).toNat % 2 ^ 64 ≤ number (s.ownRead s.me h 8).1) ∧
    (s.sectorPending s.me g.sector = false ∧ s.seeQuiet s.me g = none ∧ (s.ownRead s.me g 32).2.1 = false ∧ s.barWord g 3 ≠ 1) ∧
    Clear s .acq .crew .crew (s.x.eaB (gB .crew 4)) 8 ∧ Clear s .barAcq .crew .crew (s.x.eaB (gB .crew 5)) 32 := by
  refine ⟨by decide +kernel, fun p a k => ⟨(fun e => by cases e), (fun e => by cases e)⟩, by decide +kernel, by decide +kernel, ?_, ?_⟩
  · exact clear_of (by decide +kernel)
  · exact clear_of (by decide +kernel)

/-- Core 0 holds these locks of lines, by context and line. -/
def locking (l : List (Nat × Nat)) : State := (mapped globShift).modCore 0 fun c => { c with locks := l }

/-- Meets the hypotheses of LineLocksFencesAndPrefetchesComplete: a line held, the quota of 2 used up, a set with 10 lines locked, and room. -/
theorem test_witness_locks :
    let k := (mapped globShift).lineAt 0x5000
    let held (l : List (Nat × Nat)) : Nat := (l.filter fun e => e.1 == 1).length
    let inSet (l : List (Nat × Nat)) : List Nat := ((l.map (·.2)).filter fun e => e % 256 == k % 256).eraseDups
    let full := (List.range 10).map fun j => (2, k + 256 * (j + 1))
    (gX 1).sp = .glob ∧ (mapped globShift).x.eaX (gX 1) = 0x5000 ∧ (mapped globShift).x.place.lkq = 2 ∧
    (∀ l ∈ [[(1, k)], [(1, k + 1), (1, k + 2)], full, []], ((locking l).core (locking l).myCore).locks = l ∧ Clear (locking l) .acq .sys .glob 0x5000 1) ∧
    (1, k) ∉ [(1, k + 1), (1, k + 2)] ∧ held [(1, k + 1), (1, k + 2)] = 2 ∧ (1, k) ∉ full ∧ held full = 0 ∧ k ∉ inSet full ∧ 10 ≤ (inSet full).length := by
  refine ⟨rfl, by decide +kernel, rfl, ?_, by decide +kernel⟩
  intro l h
  simp only [List.mem_cons, List.not_mem_nil, or_false] at h
  rcases h with rfl | rfl | rfl | rfl <;> exact ⟨by decide +kernel, clear_of (by decide +kernel)⟩

def held (c w : Bool) : Shift := { globShift with rings := globShift.rings.set 3 { ringR true with hc := c, hw := w, hk := 1 } }

def ringState (c w : Bool) (k st : Nat) : State := { one (held c w) with pad := Mem.put [] 0x400 [3, 7] |>.put (0x440 + k) [BitVec.ofNat 8 st] |>.put 0x404 [BitVec.ofNat 8 k] |>.put 0x405 [BitVec.ofNat 8 k] }

/-- Four slots of 128 bytes; ringed true has a ring object at 0x800 whose slot 0 is CLAIMED. -/
def ringed (busy : Bool) : State :=
  let s := one (withS globShift [(1, 0x703)])
  if busy then { s with rings := [{ space := 1, dom := 0, base := 0x800, table := 0, node := 0, decl := false }], pad := Mem.put [] 0x800 [3, 7] |>.put 0x840 [1] } else s

/-- Meets the hypotheses of RingWordsAnswerAndTakeTheirSlots. -/
theorem test_witness_rings_made :
   (one globShift).x.eaB (gB .pad 2) % 128 = 0 ∧ (one globShift).x.badGeom 4 (gB .pad 2) ((one globShift).rs 1) = true ∧
   ∀ busy, let s := ringed busy
     s.x.eaB (gB .pad 2) % 128 = 0 ∧ s.x.badGeom 4 (gB .pad 2) (s.rs 1) = false ∧ s.ringBusy (s.x.newRing 4 (gB .pad 2)) s.myCore = busy ∧
     (∃ e, s.checkAccess s.me s.x 0 0 .rmw (ringScope .pad) true false false .pad (s.x.eaB (gB .pad 2)) (ringSize (s.rs 1)) = .ok e) ∧ s.accessPending s.me = false ∧
     s.x.localDue s.x.tim.seq = false ∧ Safety.Memories s ∧ (gB .pad 2).sp = .pad := by
  refine ⟨by decide, by decide, ?_⟩
  intro busy
  unfold Safety.Memories
  cases busy <;> and_intros <;> first | exact ok_of (by decide +kernel) | decide +kernel

/-- Meets the hypotheses of RingWordsAnswerAndTakeTheirSlots: a claim takes the last slot, a wait a full one, and a slot held is given up. -/
theorem test_witness_rings :
   (∀ claim : Bool, let s := ringState false false 3 (if claim then 0 else 2)
     let r := s.ring 3
     Safety.Memories s ∧ r.sp = .pad ∧ r.v = true ∧ (if claim then r.prod else r.cons).getLsbD s.x.place.stage = true ∧ r.hc = false ∧ r.hw = false ∧ s.acquirePending s.me = false ∧
     s.syncPending s.me = false ∧ s.ringPending s.me r s.myCore = false ∧ s.nextSlot r s.myCore claim = 3 ∧ s.ringByte r s.myCore (0x40 + 3) % 4 = (if claim then 0 else 2) ∧ s.waiters = []) ∧
   (∀ w : Bool, let s := ringState (!w) w 0 0
     (s.ring 3).v = true ∧ (s.ring 3).hc = !w ∧ (s.ring 3).hw = w ∧ s.acquirePending s.me = false ∧ s.cur.checked = false) ∧
   ((one globShift).ring 3).v = false ∧ (one globShift).cur.checked = false := by
  refine ⟨?_, ?_, by decide, by decide⟩
  · intro claim
    unfold Safety.Memories
    cases claim <;> and_intros <;> decide +kernel
  · intro w
    cases w <;> decide +kernel

/-! ## Jobs and fabric words -/

def home0 : Handle := { Handle.zero with v := true, dstpkg := Mgmt.zero.idpkg, len := 1, hops := [0xF0] }

/-- rings, handle 1, registers -/
def jobShift : Shift :=
  let x := withA (withS unitShift [(1, 0x10), (2, 0x100000010), (3, 0x10), (4, 0x200000008), (5, 0x100000000), (6, 0x800), (9, 0x801)]) [(1, 0x5000), (2, 0x800), (3, 0x6000)]
  { x with rings := (x.rings.set 3 (ringR true)), handles := x.handles.set 1 home0, place := { x.place with core := 0 } }

def jobState : State := { mapped jobShift with pad := Mem.put [] 0x801 [0x50] |>.put 0x809 [1] }

def isJob (i : Instr) (s : State) : Bool := after i s fun t => t.jobs.length == 1 && t.msgs.length == 0

def isTok (st : Nat) (i : Instr) (s : State) : Bool := after i s fun t => t.jobs.length == 0 && (match t.msgs with | [Msg.token 0 8 w none] => w.toNat == st | _ => false)

/-- Meets the hypotheses of EngineWordsQueueTheirJob. -/
theorem test_witness_engine_words :
    let s := jobState
    let room (eng : Nat) (reads writes : List Foot) : Prop := s.jobFeet s.x reads writes = none ∧ s.acquirePending s.me = false ∧ s.engineFull eng = false
    let shape := copyShape (.cpy .glob 8 (gB .pad 2) 1 1) (s.rs 1) 0
    let shape2 := copyShape (.cpy2d .glob 8 (gB .pad 2) 1 2) (s.rs 2) (s.rs (nextNum 2))
    let shape3 := copyShape (.cpy2d .glob 8 (gB .pad 2) 1 4) (s.rs 4) (s.rs (nextNum 4))
    let feet := s.accessFeetOf .stream 3 1 (gX 1)
    ((s.ring 3).v = true ∧ (s.ring 3).prod.getLsbD s.x.place.stage = true ∧ (s.ring 3).cons.getLsbD s.x.place.stage = true ∧ room 2 feet [] ∧ room 1 [] feet ∧ feet ≠ []) ∧
    (shape.refused .glob .pad (s.ra 1).toNat (s.x.eaB (gB .pad 2)) = none ∧ room 0 (shape.srcFoot .glob (s.ra 1).toNat) (shape.dstFoot .pad (s.x.eaB (gB .pad 2)))) ∧
    2 ^ 32 ≤ (s.rs 5).toNat ∧
    (shape2.refused .glob .pad (s.ra 1).toNat (s.x.eaB (gB .pad 2)) = none ∧ room 0 (shape2.srcFoot .glob (s.ra 1).toNat) (shape2.dstFoot .pad (s.x.eaB (gB .pad 2)))) ∧
    shape3.refused .glob .pad (s.ra 1).toNat (s.x.eaB (gB .pad 2)) = some 3 ∧
    (scanBad .f32 (s.x.eaB (gB .glob 1)) (s.rs 6) = false ∧ room 0 (scanFeet .topk .f32 (s.x.eaB (gB .glob 1)) (s.rs 3) (s.rs 6)).1 (scanFeet .topk .f32 (s.x.eaB (gB .glob 1)) (s.rs 3) (s.rs 6)).2) ∧
    scanBad .f32 (s.x.eaB (gB .glob 1)) (s.rs 9) = true := by decide +kernel

/-- Meets the hypotheses of LinkWordsQueueTheirJob. -/
theorem test_witness_link_words :
    let s := jobState
    s.acquirePending s.me = false ∧
    ((s.ring 3).v = true ∧ (s.ring 3).prod.getLsbD s.x.place.stage = true ∧ s.x.eaX (gX 1) % 8 = 0 ∧
      s.jobFeet s.x [runFoot .glob (s.x.eaX (gX 1)) ((s.rs 1).toNat % 2 ^ 24 * s.slotSize 3) 1 0] [] = none) ∧
    (s.rstnTargets (s.rs 1) (s.rs 6) = [(0x5000, 1, true)] ∧ s.rstnBad (s.rs 1) (s.rs 6) = false ∧ s.padLate ((s.rs 6).toNat % 2 ^ 20) 128 = false ∧
      s.regionRoute .glob (s.x.eaB (gB .glob 3)) = none ∧
      s.jobFeet s.x [runFoot .glob (s.x.eaB (gB .glob 3)) 0x10 1 0, runFoot .pad 0x800 16 1 0] [runFoot .glob 0x5000 0x10 1 0] = none) ∧
    (s.rs 1).toNat % 2 ^ 24 ≠ 0 ∧ (s.rs 1).toNat % 2 ^ 24 % 4 = 0 ∧ s.routeCheck (s.handle 1) (s.myCore / 64) = none ∧ (s.rs 0).toNat % 2 ^ 24 = 0 := by decide +kernel

/-- Meets the hypotheses of LinkWordsQueueTheirJob. -/
theorem test_witness_link_route : jobState.routeAt (jobState.handle 1) (jobState.x.eaX (gX 1)) = none ∧ jobState.routeAt ((jobState.x.handles[1]?).getD Handle.zero) 0x5000 = none ∧
    jobState.jobFeet jobState.x [runFoot .glob (jobState.x.eaB (gB .glob 3)) 0x10 1 0] [] = none := by decide +kernel

def linkState : State := { jobState with links := [(0, { tag := 0, ctx := 1, words := [], ctab := [0x80000000], users := [(0, 0)] })] }

/-- Meets the hypotheses of LinkWordsQueueTheirJob. -/
theorem test_witness_coll : (linkState.collEntry 0).isSome = true ∧ linkState.regionRoute .glob (linkState.x.eaB (gB .glob 1)) = none ∧ (linkState.rs 1).toNat % 2 ^ 32 = 16 ∧ linkState.acquirePending linkState.me = false ∧
    linkState.jobFeet linkState.x [runFoot .glob (linkState.x.eaB (gB .glob 1)) 16 1 0] [runFoot .glob (linkState.x.eaB (gB .glob 1)) 16 1 0] = none := by decide +kernel

/-- A window of 16 bytes at 0x800 and 16 elements, without a counter and with one at 0x2000, which a mode 2 footprint holds. -/
def recvShift : Shift :=
  let x := withS jobShift [(2, 0x1000010), (4, 0x0200000001000010)]
  { x with sp := { x.sp with vl := 2 }, img := { x.img with feet := ⟨.pad, 2, false, 0x2000, 0x100, 1, 0⟩ :: x.img.feet } }

def recvState : State := { jobState with shifts := [(0, recvShift)] }

/-- Meets the hypotheses of FabricAndReceiveWordsComplete: a bad descriptor, a window without and with a counter on a free port, and a port in use. -/
theorem test_witness_recvadd :
   (jobState.rs 6).toNat / 2 ^ 20 % 2 ^ 24 = 0 ∧
   (let s := recvState
    (∀ r ∈ [(2 : SNum), 4], let w := (s.rs r).toNat
      ¬(w % 2 ^ 20 = 0 ∨ w / 2 ^ 20 % 2 ^ 24 = 0 ∨ s.x.eaB (gB .pad 2) % 4 ≠ 0 ∨ w / 2 ^ 44 % 8 ≠ 0) ∧ s.jobFeet s.x [] [runFoot .pad (s.x.eaB (gB .pad 2)) (w % 2 ^ 20) 1 0] = none) ∧
    s.port? s.myCore 3 = none ∧ s.acquirePending s.me = false ∧ s.counterMode ((s.rs 4).toNat / 2 ^ 44) = false ∧
    ∃ e, s.checkAccess s.me s.x 0 0 .rmw .shift false false false .pad (((s.rs 4).toNat / 2 ^ 44 : Nat) : Int) 8 = .ok e) ∧
   after (.recvadd .f32 false 3 8 (gB .pad 2) 2) { recvState with cur := { recvState.cur with checked := true } } (fun t => (t.port? t.myCore 3).isSome) = true := by
  and_intros <;> first | exact ok_of (by decide +kernel) | decide +kernel

def routeState : State := jobState.storeQuiet (.glob 0x5000 0) ([1, 0, 0xFF, 0x0F] ++ List.replicate 4 0 ++ [0xF0])

/-- Meets the hypotheses of FabricAndReceiveWordsComplete. -/
theorem test_witness_fabric :
   let s := jobState
   let quiet (ea : Int) (a : FabAt) : Bool := !s.sectorPending s.me (Home.fab a.pkg a.pa 0).sector && !s.sectorPending s.me (Home.glob a.pa 0).sector &&
     !s.useWaits a.tlb ea.toNat true
   s.acquirePending s.me = false ∧ s.x.eaX (gX 1) % (bytes .d : Int) = 0 ∧ s.x.eaB (gB .glob 1) % 8 = 0 ∧
   (∃ a, s.fabCheck s.me s.x 0 0 .write (s.handle 1) (s.x.eaX (gX 1)) 8 = .ok a ∧ quiet (s.x.eaX (gX 1)) a = true) ∧
   (∃ a, s.fabCheck s.me s.x 0 0 .rmw (s.handle 1) (s.x.eaB (gB .glob 1)) 8 = .ok a ∧ quiet (s.x.eaB (gB .glob 1)) a = true) ∧
   s.fabricOut s.me = false ∧ (match routeState.rtldCheck (gX 1) with | .go => true | _ => false) = true :=
  by and_intros <;> first | exact okWith_of (by decide +kernel) | decide +kernel

/-! ## Adapters, bundles, matrix and tenant words -/

def bundleShift : Shift := withA (withS unitShift [(1, 0x10), (2, 7), (3, 0x10), (0, 0)]) [(1, 0x5000), (2, 0x800), (3, 0x6000)]

/-- adapter table -/
def pinned : State :=
  ((mapped bundleShift).modCtx 1 fun c => { c with adtb := 0x8000000000004000, adlim := 4 }).storeQuiet (.glob 0x4000 0) (bytesOf 8 0x8000000000000100 ++ bytesOf 8 0x7000)

def isDone : PinOut → Bool → Bool | .done _ _ a, b => a.isSome == b | _, _ => false

theorem done_of {o : PinOut} (h : isDone o true = true) : ∃ t w v, o = .done t w (some v) := by
  cases o with
  | wait => cases h
  | fault f => cases h
  | done t w a => cases a with | some v => exact ⟨t, w, v, rfl⟩ | none => cases h

/-- Meets the hypotheses of AdapterPinsViewsAndAbortsLandTheirStatus. -/
theorem test_witness_adapters : (mapped bundleShift).accessPending 0 = false ∧ pinned.accessPending pinned.me = false ∧
    (∃ t w v, pinned.pinAnswer (.adpin false 5 1 0) 0 0 = .done t w (some v)) ∧ (∃ w, (mapped bundleShift).pinAnswer (.adunpin 5 2) 2 7 = .done (mapped bundleShift) w none) :=
  ⟨by decide, by decide +kernel, done_of (by decide +kernel), ⟨_, rfl⟩⟩

/-- The shift with GLOB in a footprint of bundles (mode 3). -/
def bundler (b : Bundle) : Shift := { bundleShift with bundle := b, img := { bundleShift.img with feet := [⟨.glob, 3, false, 0, 0x10000, 1, 0⟩] } }

/-- A bundle 7 of version 1 is open, with its anchor at 0x6000, whose first dword is `man`. -/
def inBundle (full : Bool) (members : List Nat) (man : Nat) : State :=
  (mapped (bundler { v := true, full := full, version := 1, name := 7, manifest := 0xFFF * 2 ^ 45 + 0x6000 / 128, key := 0, members := members, vas := members.map fun _ => 0x5000 })).storeQuiet
    (.glob 0x6000 0) (bytesOf 8 man)

/-- No bundle is open, the context has `n` open, and the anchor at 0x6000 holds `man`. -/
def anchored (man n : Nat) : State := { (mapped (bundler Bundle.zero)).storeQuiet (.glob 0x6000 0) (bytesOf 8 man) with opens := [(1, n)] }

/-- The first dword of a manifest: NAME, VERSION and state. -/
def manWord (name version state : Nat) : Nat := name * 2 ^ 44 + version * 2 ^ 32 + state * 2 ^ 25

/-- The fabric line at 0x5000. -/
def line160 : Nat := 0xFFF * 2 ^ 45 + 160

/-- Meets the hypotheses of BundleWordsComplete on BSEAL: without a bundle, full, opened with and without members, and no longer opened. -/
theorem test_witness_seals :
    (mapped bundleShift).x.bundle.v = false ∧
    (∀ s ∈ [inBundle true [line160] 0, inBundle false [line160] (manWord 7 1 1), inBundle false [] (manWord 7 1 1), inBundle false [line160] (manWord 7 1 4)],
      s.x.bundle.v = true ∧ s.farAnchor = none ∧ s.sealScope s.x ≤ scRank .sys ∧ s.bstPending s.me = false ∧ s.accessPending s.me = false ∧ s.x.localDue s.x.tim.seq = false ∧
        linePkg s.x.bundle.manifest = s.mg.idpkg ∧ Safety.Memories s) ∧
    (let opened (s : State) : Bool := manState (s.manifest (localLine s.x.bundle.manifest)) == 1 && manName (s.manifest (localLine s.x.bundle.manifest)) == s.x.bundle.name &&
      manVersion (s.manifest (localLine s.x.bundle.manifest)) == s.x.bundle.version
     opened (inBundle false [line160] (manWord 7 1 1)) = true ∧ opened (inBundle false [] (manWord 7 1 1)) = true ∧ opened (inBundle false [line160] (manWord 7 1 4)) = false) := by
  refine ⟨rfl, ?_, by decide +kernel⟩
  intro s h
  simp only [List.mem_cons, List.not_mem_nil, or_false] at h
  unfold Safety.Memories
  rcases h with rfl | rfl | rfl | rfl <;> and_intros <;> decide +kernel

/-- Meets the hypotheses of BundleWordsComplete on BST: the first line, a member line, the sixteenth line, and no bundle. -/
theorem test_witness_stores :
    (∀ s ∈ [inBundle false [] (manWord 7 1 1), inBundle false [line160] (manWord 7 1 1), inBundle false (List.replicate 15 3) (manWord 7 1 1)],
      s.x.eaX (gX 1) % (bytes .d : Int) = 0 ∧ s.x.bundle.v = true ∧ s.x.bundle.members.length ≤ 15 ∧
        (s.resolve .rel .glob 0 (s.x.eaX (gX 1))).1 = .glob 0x5000 0 ∧ s.lineNum (s.resolve .rel .glob 0 (s.x.eaX (gX 1))).1 = line160 ∧
        ∃ e, s.checkAccess s.me s.x 0 0 .rel .sys false false true .glob (s.x.eaX (gX 1)) (bytes .d) = .ok e ∧ (!s.accessWaits e (s.x.eaX (gX 1)) true) = true) ∧
    (inBundle false [] 0).x.bundle.members.length < 15 ∧ line160 ∈ (inBundle false [line160] 0).x.bundle.members ∧
    line160 ∉ (inBundle false (List.replicate 15 3) 0).x.bundle.members ∧ (inBundle false (List.replicate 15 3) 0).x.bundle.members.length = 15 ∧
    (mapped bundleShift).x.bundle.v = false ∧ (mapped bundleShift).cur.checked = false := by
  refine ⟨?_, by decide +kernel⟩
  intro s h
  simp only [List.mem_cons, List.not_mem_nil, or_false] at h
  rcases h with rfl | rfl | rfl <;> and_intros <;> first | exact okWith_of (by decide +kernel) | decide +kernel

/-- Meets the hypotheses of BundleWordsComplete on BOPEN: a free anchor, another name, the same bundle open, and 256 bundles of the context open. -/
theorem test_witness_opens :
    (∀ s ∈ [anchored 0 0, anchored (manWord 5 1 3) 0, anchored (manWord 7 1 1) 0, anchored 0 256],
      s.farAnchor = none ∧ s.x.eaB (gB .glob 3) % 128 = 0 ∧ s.x.bundle.v = false ∧ s.accessPending s.me = false ∧ s.x.localDue s.x.tim.seq = false ∧
        (s.resolve .rmw .glob 0 (s.x.eaB (gB .glob 3))).1 = .glob 0x6000 0 ∧ s.waiters = [] ∧
        openWaits (number (s.homeRead (.glob 0x6000 0) 8).1) ((s.rs 2).toNat % 2 ^ 20) = false ∧
        ((s.resolve .rmw .glob 0 (s.x.eaB (gB .glob 3))).2.homeRead (.glob 0x6000 0) 8).2.1 = false ∧ Safety.Memories s ∧
        (let u := (s.resolve .rmw .glob 0 (s.x.eaB (gB .glob 3))).2
         0x6000 % 128 = 0 ∧ u.retiredAt 0x6000 = false ∧ u.windowShut 0x6000 = false ∧ u.keyLive 0 = true) ∧
        ∃ e, s.checkAccess s.me s.x 0 0 .rmw .sys false false true .glob (s.x.eaB (gB .glob 3)) 128 = .ok e ∧ (!s.accessWaits e (s.x.eaB (gB .glob 3)) true) = true) ∧
    (let word (s : State) : Nat := number ((s.resolve .rmw .glob 0 (s.x.eaB (gB .glob 3))).2.homeRead (.glob 0x6000 0) 8).1
     manState (word (anchored 0 0)) = 0 ∧ (anchored 0 0).openCount 1 = 0 ∧ (manState (word (anchored (manWord 5 1 3) 0)) ≠ 0 ∧ manName (word (anchored (manWord 5 1 3) 0)) ≠ 7) ∧
     (manState (word (anchored (manWord 7 1 1) 0)) = 1 ∧ manName (word (anchored (manWord 7 1 1) 0)) = 7) ∧ manState (word (anchored 0 256)) = 0 ∧ (anchored 0 256).openCount 1 = 256) := by
  refine ⟨?_, by decide +kernel⟩
  intro s h
  simp only [List.mem_cons, List.not_mem_nil, or_false] at h
  unfold Safety.Memories
  rcases h with rfl | rfl | rfl | rfl <;> and_intros <;> first | exact okWith_of (by decide +kernel) | decide +kernel

/-- Meets the hypotheses of AdapterPinsViewsAndAbortsLandTheirStatus. -/
theorem test_witness_views : (one bundleShift).x.view.v = false ∧ (one bundleShift).x.bundle.v = false ∧ (inBundle false [line160] (manWord 7 1 1)).x.bundle.v = true ∧
    (inBundle false [line160] (manWord 7 1 1)).acquirePending (inBundle false [line160] (manWord 7 1 1)).me = false := by decide +kernel

/-- Meets the hypotheses of MatrixWordsEnterTheirQueueOrComplete. -/
theorem test_witness_matrix : (one bundleShift).cur.sh.bind (one bundleShift).sh? = some bundleShift ∧ bundleShift.place.mx = true ∧ bundleShift.mxHalted = false ∧ bundleShift.mx.queue.length < 16 ∧ 
    bundleShift.mx.bars[(0 : BNum)].armed = false ∧ bundleShift.mx.queue = [] ∧ ({ bundleShift with place := { bundleShift.place with mx := false } }).place.mx = false := ⟨rfl, by decide, by decide, by decide, by decide, rfl, rfl⟩

def bound : Shift := { bundleShift with img := { bundleShift.img with binds := [⟨0, 0xC0, 0, 5, 0, 9⟩, ⟨1, 0x30, 0, 5, 0, 9⟩, ⟨2, 0xC0, 0, 5, 2, 9⟩] } }

def ready : State := (one bound).modCore 0 fun c => { c with banks := c.banks.set 0 { state := 2, ctx := 1, tag := 9, words := [], image := 0, used := 0 } }

/-- Meets the hypotheses of TenantWordsStartTheirRoutine. -/
theorem test_witness_tenant : ready.cur.sh.bind ready.sh? = some bound ∧
   ready.tenantWords bound ready.myCore (.tenantV 0 0 1 2 3) = some (⟨0, 0xC0, 0, 5, 0, 9⟩, some []) ∧ 
   ready.tenantWords bound ready.myCore (.tenantM 0 0 0 1 2 3 0 0) = some (⟨1, 0x30, 0, 5, 0, 9⟩, some []) ∧ 
   ready.tenantWords bound ready.myCore (.tenantX 0 0 4 5 (gX 1)) = some (⟨2, 0xC0, 0, 5, 2, 9⟩, some []) ∧ 
   bound.lane.v = false ∧ bound.place.mx = true ∧ bound.mxHalted = false ∧ bound.mx.queue.length < 16 ∧ ready.acquirePending ready.me = false ∧ ready.engineFull 1 = false ∧ 
   ready.tenantWords bound ready.myCore (.tenantV 1 0 1 2 3) = none ∧ ready.cur.checked = false := by
  refine ⟨rfl, ?_⟩
  and_intros <;> decide

/-! ## Traps -/

def trapShift : Shift := withA { unitShift with sp := { unitShift.sp with stkl := 0x3000 } } [(31, 0x3000)]

def handled : State :=
  ((mapped trapShift).modCtx 1 fun c => { c with tvimg := 0x20000, tvfrm := 0x200000, tvctl := 0x8000000000000000 }).storeQuiet (.glob 0x20000 0) imageBytes

def lostPage : Tlb :=
  { unit := partUnit, ctx := 1, va := 0x200000, size := 0x200000, pa := 0x200000, gpa := 0x200000, key := 9, fab := none, wr := true, nx := false, rsh := 0,
    path := [], leaves := [], dup := none, dupPage := (0, 0), group1 := false, group2 := false, logged := [], acSet := true, dtSet := true }

def imagePage : Tlb := { lostPage with va := 0x20000, size := 0x1000, pa := 0x20000, gpa := 0x20000, key := 0 }

/-- Writes under a key that is not LIVE are dropped (R351): a run of them through one cached page leaves the state as it is. -/
theorem virtPut_dropped (s : State) (ht : s.tlb = [lostPage, imagePage]) (dead : s.keyLive 9 = false) (hl : s.lines = [])
    (hr : s.mg.retired = []) (hf : s.mg.off = []) (hd : (s.ctx 1).dl.getLsbD 63 = false) (hms : s.msgs = []) (hk : s.kmiss (s.deviceOf 1) = s) :
    ∀ fuel va bs, 0x200000 ≤ va → va + bs.length ≤ 0x400000 → s.virtPutFrom partUnit 1 fuel va bs = .ok s := by
  have hg : ∀ v, s.granule lostPage v = none := fun v => by
    simp only [State.granule, show lostPage.ctx = 1 from rfl, hd]; simp
  have htr : ∀ v, 0x200000 ≤ v → v < 0x400000 → s.translate partUnit 1 v true false = .ok lostPage := by
    intro v h1 h2
    have hf : s.tlbFind partUnit 1 v = some lostPage := by
      simp [State.tlbFind, ht, lostPage, h1, h2]
    simp only [State.translate, hf, State.usable]; rfl
  have hu : ∀ v, s.useEntry lostPage v true = s := by
    intro v
    have c : lostPage.settled true = true := rfl
    have hc : s.cacheTlb lostPage = s := by
      have e3 : (lostPage :: s.tlb.filter fun x => !(x.unit == lostPage.unit && x.ctx == lostPage.ctx && decide (x.va < lostPage.va + lostPage.size) &&
          decide (lostPage.va < x.va + x.size))) = s.tlb := by rw [ht]; rfl
      simp only [State.cacheTlb, show tlbRoom lostPage.unit = none from rfl, show lostPage.uppers = [] from rfl, e3, List.any_nil, Bool.not_false, List.nil_append]
      rw [List.filter_eq_self.2 (fun _ _ => rfl)]
    unfold State.useEntry
    rw [if_pos c]
    simp only [hg, if_true]
    exact hc
  have hpk : ∀ pa bs, pa < 0x400000 → s.poke pa bs (some 9) = s := by
    intro pa bs h
    have hr' : s.retiredAt pa = false := by simp [State.retiredAt, hr]
    have hw : s.windowShut pa = false := by simp only [State.windowShut]; rw [if_pos (Nat.lt_trans h (by decide))]; simp [State.stackOff, hf]
    simp [State.poke, hr', hw, dead]
  have hm : ∀ n, (s.modLine n fun l => { l with pennant := none, side := none }) = s := by
    intro n
    have h : s.line n = Line.zero := by simp [State.line, hl, NMap.getD, NMap.get?]
    have : NMap.put s.lines (s.lineKey n) Line.zero { (s.line n) with pennant := none, side := none } = s.lines := by
      rw [h, hl]; rfl
    simp only [State.modLine, this]
  have ho : ∀ v bs, 0x200000 ≤ v → v < 0x400000 → s.ownLine lostPage v bs = s := by
    intro v bs h1 h2
    have hd' : ∀ p, (Option.filter p (lostPage.dupAt v)).isSome = false := fun _ => rfl
    have hp : ∀ n, s.pendLine n = false := fun n => by simp [State.pendLine, State.line, hl, NMap.getD, NMap.get?, Line.zero]
    simp only [State.ownLine, show lostPage.key = 9 from rfl, dead, show lostPage.ctx = 1 from rfl, hk, hd', Bool.false_eq_true, if_false,
      show lostPage.pa + (v - lostPage.va) = v from (by show 0x200000 + (v - 0x200000) = v; omega)]
    simp only [State.ownWrite, ownAhead, bitsAhead, hp, hms, List.any_nil, Bool.and_false, Bool.or_self, Bool.false_eq_true, if_false, State.ownAct, State.writeLine,
      hpk v bs h2, State.unpennant, hm, ite_self]
  intro fuel
  induction fuel with
  | zero => intro va bs _ _; rfl
  | succ n ih =>
    intro va bs h1 h2
    unfold State.virtPutFrom
    split
    · rfl
    · rename_i hne
      have hlen : 0 < bs.length := by cases bs with | nil => simp at hne | cons _ _ => simp
      rw [if_neg (by omega : ¬2 ^ 72 ≤ va)]
      simp only [htr va h1 (by omega), State.logLim, hg]
      change State.virtPutFrom ((s.useEntry lostPage _ true).ownLine lostPage _ _) _ _ _ _ _ = _
      rw [hu, ho _ _ h1 (by omega)]
      exact ih _ _ (by omega) (by simp; omega)

def lost : State := { handled with tlb := [lostPage, imagePage], lines := [] }

theorem lost_put (f : FaultInfo) (jobs : List Job) : lost.framePut 0 trapShift 0x200000 (frameBytes trapShift f jobs 0 0 0 0 0) = .ok lost := by
  unfold State.framePut
  rw [if_neg (by decide +kernel)]
  exact virtPut_dropped lost rfl (by decide) rfl rfl rfl (by decide) rfl rfl _ _ _ (Nat.le_refl _) (by rw [frame_length]; decide)

/-- Meets the hypotheses of TrapsEnterAndLeaveTheirHandler. -/
theorem test_witness_traps_enter :
    let s := lost
    let c := s.ctx trapShift.place.ctx
    let frame : Addr := BitVec.ofNat 72 (c.tvfrm.toNat / 2 ^ 16 % 2 ^ 48 * 2 ^ 16 + c.tvctl.toNat / 2 ^ 8 % 2 ^ 8 * 2 ^ 64)
    let p := s.pendShown 0 trapShift
    s.sh? 0 = some trapShift ∧ 0 % 8 < 4 ∧ c.tvctl.getLsbD 63 = true ∧ ∃ s' h,
      s.framePut 0 trapShift frame.toNat (frameBytes trapShift { code := 3 } (s.jobs.filter fun j => j.sh == 0 && decide (j.state < 4)) s.dcc p.1 p.2 s.dcc s.free) = .ok s' ∧
      s'.handlerFor 0 trapShift 3 frame = some h :=
  ⟨rfl, by decide, by decide, lost, _, lost_put _ _, Option.eq_some_of_isSome (by decide +kernel)⟩

def goodPage : Tlb := { lostPage with key := 0 }

theorem virtFrom_plain (s : State) (ht : s.tlb = [goodPage]) (live : s.keyLive 0 = true) (hl : s.lines = []) (hr : s.mg.retired = []) (ho : s.mg.off = []) :
    ∀ fuel va n, 0x200000 ≤ va → va + n ≤ 0x400000 → n ≤ 128 * fuel → va % 128 = 0 → n % 128 = 0 → s.virtFrom partUnit 1 false fuel va n = .ok (s.glob.bytes va n) := by
  have htr : ∀ v, 0x200000 ≤ v → v < 0x400000 → s.translate partUnit 1 v false false = .ok goodPage := by
    intro v h1 h2
    have hf : s.tlbFind partUnit 1 v = some goodPage := by
      simp [State.tlbFind, ht, goodPage, lostPage, h1, h2]
    simp only [State.translate, hf, State.usable]; rfl
  have hpk : ∀ pa n, pa < 0x400000 → s.peek pa n (some 0) = (s.glob.bytes pa n, false, false) := by
    intro pa n h
    have hr' : s.retiredAt pa = false := by simp [State.retiredAt, hr]
    have hw : s.windowShut pa = false := by simp only [State.windowShut]; rw [if_pos (Nat.lt_trans h (by decide))]; simp [State.stackOff, ho]
    have hn : s.line (pa / 128) = Line.zero := by simp [State.line, hl, NMap.getD, NMap.get?]
    have ha : s.globAt pa = pa := by simp only [State.globAt]; rw [if_pos (Nat.lt_trans h (by decide))]
    simp only [State.peek, hr', hw, hn, live, ha]
    rfl
  intro fuel
  induction fuel with
  | zero => intro va n _ _ h _ _; have : n = 0 := by omega
            subst this; rfl
  | succ f ih =>
    intro va n h1 h2 h3 h4 h5
    unfold State.virtFrom
    split
    · rename_i h; subst h; rfl
    · have hk : min n (128 - va % 128) = 128 := by omega
      have e : s.virtLine partUnit 1 va 128 false = .ok (s.glob.bytes va 128, goodPage) := by
        unfold State.virtLine
        rw [if_neg (by omega : ¬2 ^ 72 ≤ va), htr va h1 (by omega)]
        have hp := hpk (0x200000 + (va - 0x200000)) 128 (by omega)
        rw [show 0x200000 + (va - 0x200000) = va by omega] at hp
        change (if (s.peek (0x200000 + (va - 0x200000)) 128 (some 0)).2.1 = true then _ else Except.ok ((s.peek (0x200000 + (va - 0x200000)) 128 (some 0)).1, goodPage)) = _
        rw [show 0x200000 + (va - 0x200000) = va by omega, hp]
        rfl
      simp only [hk, e]
      rw [ih (va + 128) (n - 128) (by omega) (by omega) (by omega) (by omega) (by omega)]
      simp only [← bytes_add]
      rw [show 128 + (n - 128) = n by omega]

def backBase : Shift := { trapShift with tim := { trapShift.tim with stopped := some 1 } }

def backHandler : Shift := { trapShift with place := { trapShift.place with serves := some 0, frame := 0x200000 } }

def back (magic : Nat) : State :=
  { mapped backBase with
    shifts := [(0, backBase), (4, backHandler)], cur := { Cur.zero with sh := some 4 }, tlb := [goodPage], lines := [],
    glob := Mem.put (Mem.put [] 0x200000 (bytesOf 8 (magic * 2 ^ 32) ++ bytesOf 8 0x100)) 0x200540 [1] }

theorem back_bytes (k : Nat) : (back k).frameRead 4 backBase 0x200000 = .ok ((back k).glob.bytes 0x200000 0x40000) := by
  unfold State.frameRead
  rw [if_neg (show ¬(back k).frameFar backBase.place.ctx 0x200000 = true from Bool.false_ne_true)]
  exact virtFrom_plain (back k) rfl (show State.reset.keyLive 0 = true by decide) rfl rfl rfl _ _ _ (by decide) (by decide) (by decide) (by decide) (by decide)

theorem upto_lt {a n k : Nat} (h : k ∈ upto a n) : k < a + n := by
  induction n generalizing a with
  | zero => cases h
  | succ n ih =>
    simp only [upto, List.mem_cons] at h
    rcases h with rfl | h
    · omega
    · have := ih h; omega

theorem back_good : badFrame backBase ((back 0x5446524D).glob.bytes 0x200000 0x40000) ((back 0x5446524D).unitsShown 0 backBase) = none := by
  have hf (o : Nat) (h : o + 8 ≤ 0x40000) := fdw_bytes (back 0x5446524D).glob 0x200000 0x40000 o h
  have h1 : ∀ n ∈ upto 0 32, (0x308 + 16 * n, fdw ((back 0x5446524D).glob.bytes 0x200000 0x40000) (0x308 + 16 * n) / 256 != 0) =
      (0x308 + 16 * n, (back 0x5446524D).glob.num (0x200000 + (0x308 + 16 * n)) 8 / 256 != 0) := by
    intro n hn
    rw [hf _ (by have := upto_lt hn; omega)]
  have h2 : ∀ k ∈ upto 0 48, (0x5000 + 1024 * k, badKind backBase ((back 0x5446524D).glob.bytes 0x200000 0x40000) k) =
      (0x5000 + 1024 * k, nbits ((back 0x5446524D).glob.num (0x200000 + (0x5000 + 1024 * k)) 8) 56 8 != 0) := by
    intro n hn
    unfold badKind
    rw [hf _ (by have := upto_lt hn; omega), show backBase.landings[n]? = none from rfl]
    simp
  unfold badFrame frameChecks
  simp only [List.map_congr_left h1, List.map_congr_left h2, badAction]
  simp only [hf 0 (by decide), hf 8 (by decide), hf 0x500 (by decide), hf 0x508 (by decide), hf 0x538 (by decide), hf 0x520 (by decide), hf 0x528 (by decide),
    hf 0x540 (by decide), hf 0x11000 (by decide), hf 0x13000 (by decide), hf 0x13200 (by decide)]
  decide +kernel

theorem back_bad : badFrame backBase ((back 7).glob.bytes 0x200000 0x40000) ((back 7).unitsShown 0 backBase) = some 0 := by decide +kernel

/-- Meets the hypotheses of TrapsEnterAndLeaveTheirHandler. -/
theorem test_witness_traps_leave (k : Nat) :
    let s := back k
    s.sh? 4 = some backHandler ∧ s.cur.sh = some 4 ∧ backHandler.place.serves ≠ none ∧ (∀ j ∈ s.jobs, j.sh ≠ 4 ∧ j.sh ≠ baseOf 4) ∧ s.sh? (baseOf 4) = some backBase ∧
      s.accessPending 4 = false ∧ s.frameRead 4 backBase backHandler.place.frame.toNat = .ok (s.glob.bytes 0x200000 0x40000) ∧
      4 ≤ 4 % 8 ∧ backBase.lane.v = false :=
  ⟨rfl, rfl, by decide, (fun _ h => by cases h), rfl, rfl, back_bytes k, by decide, rfl⟩

/-! ## Control, progress and events -/

def codeShift : Shift :=
  let x := withA (withS unitShift [(1, 0x10), (2, 9), (3, 0x150)]) [(31, 0x1000)]
  { x with sp := { x.sp with stkb := 0x800, stkl := 0x2000 } }

def codeState : State := { one codeShift with cur := { (one codeShift).cur with at_ := 0x108, npc := 0x118 }, pad := Mem.put [] 0x1000 [0x18, 1] }

def edge : State := { one (withA codeShift [(31, 0x808)]) with cur := codeState.cur }

/-- Meets the hypotheses of ControlTransfersGoToTheirTarget. -/
theorem test_witness_transfers : target codeState (.br 0x10) = some 0x118 ∧ target codeState (.bri 2 0) = some 0x150 ∧ target codeState (.jmp 3 0) = some 0x150 ∧ InProgram codeState 0x118 ∧ InProgram codeState 0x1F8 ∧ ¬InProgram codeState 0x200 ∧ ¬InProgram codeState 0x11C ∧
   codeState.cur.checked = false := by unfold InProgram; decide

/-- Meets the hypotheses of ControlTransfersGoToTheirTarget. -/
theorem test_witness_calls :
    let p := (codeState.ra 31).toNat
    (p % 16 = 0 ∧ codeState.x.sp.stkb.toNat + 16 ≤ p ∧ PadFree codeState .write (p - 16) 16 ∧ codeState.sectorPending codeState.me (localSector codeState.myCore .pad 0 ((p - 16 : Nat) : Int)) = false ∧ InProgram codeState (codeState.cur.at_ + (0x10 : BitVec 32).toInt) ∧ InProgram codeState (un codeState 3 + (0 : BitVec 32).toInt)) ∧
    (p + 16 ≤ codeState.x.sp.stkl.toNat ∧ PadFree codeState .read p 8 ∧ codeState.sectorPending codeState.me (localSector codeState.myCore .pad 0 (p : Int)) = false ∧ codeState.x.landings = [] ∧ InProgram codeState (number (padBytes codeState p 8))) ∧
    ((edge.ra 31).toNat % 16 ≠ 0 ∧ (edge.ra 31).toNat < edge.x.sp.stkb.toNat + 16 ∧ edge.cur.checked = false) := by
  refine ⟨⟨by decide, by decide, padFree_of (by decide) (by decide), by decide, ?_, ?_⟩, ⟨by decide, padFree_of (by decide) (by decide), by decide, rfl, ?_⟩, by decide, by decide, rfl⟩
  all_goals (unfold InProgram; decide)

/-- Meets the hypotheses of ProgressWordsCompleteWhereNothingIsHeld: nothing held or in flight, a result of the bundle in flight, and a view held. -/
theorem test_witness_progress : (∀ q ∈ codeState.x.rings.toList, q.hc = false ∧ q.hw = false) ∧ codeState.x.bundle.v = false ∧ codeState.x.view.v = false ∧ codeState.x.place.serves = none ∧ codeState.x.conts = [] ∧ codeState.x.lane.v = false ∧ codeState.x.tim.laneBusy = 0 ∧
    codeState.x.mx.queue = [] ∧ codeState.x.mx.active = [] ∧ codeState.jobs = [] ∧ codeState.node? codeState.x.place.table codeState.x.place.node = none ∧ (codeState.cur.sh.bind codeState.sh?).isSome = true ∧
    codeState.x.landings = [] ∧ codeState.cur.checked = false ∧
    (let s := passed { codeShift with landings := [landing (.s 3 7)] }
     (∀ q ∈ s.x.rings.toList, q.hc = false ∧ q.hw = false) ∧ s.x.bundle.v = false ∧ s.x.view.v = false ∧ s.x.landings ≠ [] ∧ s.cur.checked = true) ∧
    (one { codeShift with view := { codeShift.view with v := true } }).x.view.v = true ∧ (one { codeShift with view := { codeShift.view with v := true } }).cur.checked = false := by
  and_intros <;> first | rfl | decide

def eventShift : Shift := { codeShift with evl := 6, tim := { codeShift.tim with waitFrom := some 5 } }

def eventState : State := { one eventShift with msgs := [.event 0 1 0 4], dcc := 5 }

/-- Meets the hypotheses of EventsReachTheirLatch. -/
theorem test_witness_events : (2 : BitVec 16) ≠ 0 ∧ eventState.x.evl &&& 2 ≠ 0 ∧ eventState.msgs[0]? = some (.event 0 1 0 4) ∧ eventState.performedUpTo 0 1 = true ∧ eventState.sh? 0 = some eventShift ∧ eventShift.tim.waitFrom = some 5 ∧ 5 ≠ 0 ∧ 5 ≤ eventState.dcc ∧
   eventState.cur.checked = false ∧ reached eventState 8 = [0] := ⟨by decide, by decide, rfl, by decide, rfl, rfl, by decide, by decide, rfl, by decide⟩

def faultShift : Shift := { codeShift with pend := { codeShift.pend with trap := some 7, delayed := [⟨5, { code := 0x0E }⟩] }, tim := { codeShift.tim with spc := 3 }, img := { codeShift.img with spbound := 3 } }

/-- The frame's first line holds a pending version of a bundle. -/
def stuck : State :=
  { lost with
    shifts := [(0, faultShift)],
    lines := [(0x4000, { Line.zero with side := some { pending := true, name := 7, version := 2, index := 1, anchor := 9, key := 0, data := [], poison := 0, pennant := none, since := 0, settled := none } })] }

/-- Meets the hypotheses of TrapsAreDeliveredAtABoundary: a trap that may be delivered, and one whose frame waits. -/
theorem test_witness_boundary : (one faultShift).sh? 0 = some faultShift ∧ (one faultShift).trapWait 0 = none ∧ (one faultShift).pendingFaults 0 faultShift = [{ code := 0x11, num := 7 }, { code := 0x0F }] ∧ faultShift.img.spbound ≤ faultShift.tim.spc ∧
   faultShift.pend.delayed.find? (fun e => e.reg == 5) = some ⟨5, { code := 0x0E }⟩ ∧ (one faultShift).cur.checked = false ∧
   stuck.sh? 0 = some faultShift ∧ (∃ t, stuck.trapWait 0 = some t) ∧ stuck.pendingFaults 0 faultShift = [{ code := 0x11, num := 7 }, { code := 0x0F }] :=
  ⟨rfl, by decide, by decide, by decide, by decide, rfl, rfl, Option.isSome_iff_exists.1 (by decide +kernel), by decide +kernel⟩

/-- Meets the hypotheses of TrapsEnterAndLeaveTheirHandler. -/
theorem test_witness_system_fault : (one codeShift).sh? 0 = some codeShift ∧ ((one codeShift).ctx codeShift.place.ctx).tvctl.getLsbD 63 = false := ⟨rfl, by decide⟩

/-! ## Micro-operations -/

def laneUnit : MicroUnit := { MicroUnit.zero with v := true, ten := true, instr := .tenantV 0 0 1 2 3, vl := 2, mpc := 7, steps := 5, bound := 5, m := (MicroUnit.zero.m.set 1 (bytes64 5 3)).set 2 (bytes64 8 7), flags := 4 }
  where bytes64 (a b : Nat) : VReg := BitVec.ofNat 2048 (a + b * 2 ^ 32)

def laneShift : Shift := { unitShift with lane := laneUnit }

def laneState : State := { one laneShift with cur := { Cur.zero with sh := some 0, unit := 1, imm := 5 } }

def engineUnit : MicroUnit := { MicroUnit.zero with v := true, ten := true, instr := .xld .stream false 3 8 { sp := .glob, xa := 1, xi := 0, sc := 0, disp := 0 }, m := ((MicroUnit.zero.m.set 1 0x5000).set 2 0x482).set 15 1, held := [(3, 2, true)] }

def engineJob : Job := { State.reset.newJob engineUnit.instr 1 0 0 0 0 8 with unit := engineUnit, state := 3 }

def engineState : State := 
  { mapped { unitShift with rings := unitShift.rings.set 3 { Ring.zero with v := true, space := 1, prod := 1, cons := 1, base := 0x400 } } with
    jobs := [engineJob], cur := { Cur.zero with sh := some 0, unit := 2, job := some engineJob.id, imm := 0x13 } }

/-- Meets the hypotheses of the statements on micro-words. -/
theorem test_witness_on_lane : OnLane laneState laneShift ∧ OnEngine engineState engineJob ∧ Stands laneState ∧ Stands engineState ∧ laneState.onLane = true ∧ engineState.onLane = false :=
  ⟨⟨rfl, rfl⟩, ⟨by decide, _, rfl, rfl⟩, .inl ⟨_, rfl, rfl⟩, .inr ⟨engineJob, by decide, _, rfl, rfl⟩, rfl, rfl⟩

/-- Meets the hypotheses of MicroOperationsAndDivisionStepsComplete. -/
theorem test_witness_micro_operations : laneStep laneState (.pclamp (.m 4) (.m 1) 4) = some (.m 4, 2, fun i => min (src laneState 4 (.m 1) i) (4 : BitVec 12).toNat) ∧ laneState.before.vl ≤ 64 ∧
   engineStep engineState (.zxf (.m 4) (.m 1) 12) = some (.m 4, 0) ∧ (∃ i, vectorOp 0x01 0 (.m 4) (.m 1) (.m 2) 0 = some i) := by
  refine ⟨rfl, by decide, by decide +kernel, ⟨_, rfl⟩⟩

/-- Meets the hypotheses of MicroOperationsAndDivisionStepsComplete. -/
theorem test_witness_divisions : decodeFtz (ftzOf laneState.before.stat) .f32 (src laneState laneState.cur.imm (.m 1) 0) = .fin ⟨false, 5, 1, -149⟩ ∧
   decodeFtz (ftzOf laneState.before.stat) .f32 (src laneState laneState.cur.imm (.m 2) 0) = .fin ⟨false, 8, 1, -149⟩ ∧
   (2 ^ 2 ≤ 5 ∧ 5 < 2 ^ (2 + 1) ∧ 2 ^ 3 ≤ 8 ∧ 8 < 2 ^ (3 + 1)) ∧ (decodeFtz false .f32 0x7F800000 = .inf false) ∧
   temp laneState 2 0 ≠ 0 ∧ temp laneState 1 0 < temp laneState 2 0 ∧ 32 * temp laneState 3 0 + 32 < 2 ^ 32 ∧ rmOf laneState.before.stat ≠ .sr ∧ src laneState laneState.cur.imm (.m 3) 0 / 2 ^ 30 % 2 = 0 ∧ temp laneState 3 0 * temp laneState 2 0 + temp laneState 1 0 ≠ 0 := by decide +kernel

/-- The engine's job with ring 3 in PAD, CREW or CHIP and a route to its own package in handle 1, which owns nothing else. -/
def engineIn (space : Nat) : State :=
  let x := { unitShift with rings := unitShift.rings.set 3 { Ring.zero with v := true, space := space, prod := 1, cons := 1, base := 0x400 } }
  { mapped x with
    jobs := [{ engineJob with handles := engineJob.handles.set 1 { Handle.zero with v := true, dstpkg := Mgmt.zero.idpkg, len := 1, hops := [0xF0] } }],
    cur := { Cur.zero with sh := some 0, unit := 2, job := some engineJob.id, imm := 0x13 } }

/-- The first piece of a send of 256 bytes to the address in m1 over handle 1. -/
def sendPiece : MAcc := { unitAcc (engineIn 1) true .glob 1 256 (List.replicate 256 0) with via := some 1 }

def someWith {α : Type} (o : Option α) (p : α → Bool) : Bool := match o with | some a => p a | none => false

theorem someWith_of {α : Type} {o : Option α} {p : α → Bool} (h : someWith o p = true) : ∃ a, o = some a ∧ p a = true := by
  cases o with | some a => exact ⟨a, rfl, h⟩ | none => cases h

/-- Meets the hypotheses of AddressGeneratorsMoveTheirWords: slots of rings in PAD, CREW and CHIP, and a send of which a piece leaves. -/
theorem test_witness_generators :
   (∀ p ∈ [(1, Space.pad), (2, Space.crew), (3, Space.chip)], (engineIn p.1).unitRing 0x13 = 3 ∧ ((engineIn p.1).ring ((engineIn p.1).unitRing 0x3)).sp = p.2 ∧
      (engineIn p.1).unit.held.find? (fun h => h.1 == ((engineIn p.1).unitRing 0x3).val) = some (3, 2, true) ∧ Safety.Memories (engineIn p.1)) ∧
   (∃ j, OnEngine (engineIn 1) j) ∧ (engineIn 1).slotRing ((engineIn 1).before.m[(2 : Fin 16)].toNat % 2 ^ 72) = some 3 ∧
   ((engineIn 1).readAcc (unitAcc (engineIn 1) false (engineIn 1).unitSpace 2 256 [])).1.length = 256 ∧
   ∃ b, sendPiece.pieces.head? = some b ∧ (okWith ((engineIn 1).pieceAway b) (fun a => a.isSome) && ((engineIn 1).usePiece b).isSome) = true := by
  refine ⟨?_, ⟨_, by decide, _, rfl, rfl⟩, by decide +kernel, by decide +kernel, someWith_of (by decide +kernel)⟩
  unfold Safety.Memories
  decide +kernel

/-- Meets the hypotheses of TilePortsWorkOnTheirTile. -/
theorem test_witness_tile : RowsRise laneShift ∧ OnLane laneState laneShift := ⟨by unfold RowsRise; exact List.Pairwise.nil, rfl, rfl⟩

/-- Meets the hypotheses of MicroSequencingSetsTheNextWord. -/
theorem test_witness_sequencing : laneState.unit.vl ≤ 64 ∧ (∃ i, i < laneState.unit.vl ∧ el laneState.unit.m[1] 32 i 0 ≠ 0) ∧ (¬∃ i, i < laneState.unit.vl ∧ el laneState.unit.m[4] 32 i 0 ≠ 0) ∧
   engineState.unit.m[(15 : Fin 16)].toNat < 2 ^ 72 ∧ engineState.unit.m[(15 : Fin 16)] ≠ 0 ∧ laneState.before = laneState.unit ∧ laneShift.lane.instr = .tenantV 0 0 1 2 3 ∧ laneState.cur.sh = some 0 ∧
   laneShift.lane.v = true ∧ laneShift.lane.halt = false ∧ laneShift.lane.ten = true ∧ laneShift.lane.bound ≤ laneShift.lane.steps := by
  refine ⟨by decide, ⟨0, by decide, by decide +kernel⟩, ?_, by decide +kernel, by decide +kernel, rfl, rfl, rfl, rfl, rfl, rfl, by decide⟩
  intro ⟨i, h, n⟩
  have : i = 0 ∨ i = 1 := by have : laneState.unit.vl = 2 := rfl; omega
  rcases this with rfl | rfl <;> exact n (by decide +kernel)

/-! ## Arrivals, matrix events, the loader and engines -/

def bindingShift : Shift := { unitShift with img := { unitShift.img with binds := [⟨0, 0xC0, 0, 5, 0, 9⟩, ⟨1, 0x30, 0, 5, 0, 9⟩, ⟨2, 0xC0, 0, 5, 2, 9⟩] } }

def mail (m : Msg) : State := { one unitShift with msgs := [m] }

def record1 : Cont := { tgt := 3, m := noTemps, instr := .tenantV 0 0 1 2 3, vl := 2, tag := 9, stat := 0 }

def waitingCont : Shift := { bindingShift with conts := [record1] }

/-- A shift alone in the order of its core. -/
def solo : State := (one unitShift).modCore 0 fun c => { c with order := [0] }

def readyFor (x : Shift) : State := (one x).modCore 0 fun c => { c with banks := c.banks.set 0 { state := 2, ctx := 1, tag := 9, words := [], image := 0x200, used := 0 } }

def pairOf (x : Shift) : State := ({ one x with shifts := [(0, x), (1, unitShift)] }).modCore 0 fun c => { c with issuing := some 0, order := [0, 1] }

def atSafe : Shift := { unitShift with tim := { unitShift.tim with safe := some 3 } }

def tired : Shift := { unitShift with tim := { unitShift.tim with spc := 65536 }, pend := { unitShift.pend with preempt := true } }

/-- Meets the hypotheses of ArrivalsAndSwitchesTakeEffect. -/
theorem test_witness_arrivals :
    (∀ m, (mail m).sh? 0 = some unitShift ∧ (mail m).msgs[0]? = some m) ∧
    ((readyFor waitingCont).sh? 0 = some waitingCont ∧ waitingCont.conts = [record1] ∧ waitingCont.lane.v = false ∧ waitingCont.tim.laneBusy = 0 ∧ ((readyFor waitingCont).contUnit waitingCont (0 / 8) record1).isSome = true) ∧
    (0 < 4 ∧ solo.slotReady 0 0 = true ∧ solo.issuer 0 = none ∧ (solo.core 0).issuing ≠ some 0) ∧
    (1 < 4 ∧ (pairOf atSafe).slotReady 0 1 = true ∧ (pairOf atSafe).issuer 0 = some 0 ∧ (pairOf atSafe).sh? 0 = some atSafe ∧ atSafe.tim.safe = some 3 ∧ ((pairOf atSafe).core 0).issuing ≠ some 1) ∧
    ((pairOf tired).sh? 0 = some tired ∧ (pairOf tired).issuer (0 / 8) = some 0 ∧ (pairOf tired).preemptDue 0 tired = true ∧ 0 % 4 ≠ 1 ∧ (pairOf tired).nextReady (0 / 8) (some (0 % 4)) = some 1) := by
  refine ⟨fun m => ⟨rfl, rfl⟩, ?_⟩
  and_intros <;> first | rfl | decide

def queued (i : Instr) : State := { nextOf (exec i { one unitShift with dcc := 5 }) with dcc := 9 }

def opOf (s : State) : MOp := match s.x.mx.queue with | o :: _ => o | [] => match s.x.mx.active with | o :: _ => o | [] => (s.x.mx.stream).getD (opZero)
  where opZero : MOp := { raw := 0, instr := .nop, target := none, entry := 0, stat := 0, armed := false, sa := 0, sb := 0, sc := 0, aa := 0, issued := none, done := none, flags := 0, code := 0, rank := 0, rows := [], bytes := [], r := 0, half := false, slot := 0, occ := 0, vl := 0, regs := [], seq := 0 }

def opReady : State := queued (.mopa .f32 1 2 3 4 0xFFFFF)

def opTimed : State := queued (.mopa .f32 1 2 3 4 9)

def opLate : State := queued (.mopa .f32 1 2 3 4 7)

def opDone : State := { nextOf (execMatrixOpIssue 0 (queued (.cclr 1 2 0xFFFFF))) with dcc := 5000 }

def streaming : Shift := { unitShift with mx := { unitShift.mx with active := [{ opOf.opZero with instr := .wbld none 0 1 2 0xFFFFF, issued := some 4, bytes := List.replicate 64 0, r := 1 }] } }

def streamState : State := { one streaming with dcc := 9 }

/-- Meets the hypotheses of MatrixAndLoaderEventsTakeEffect. -/
theorem test_witness_matrix_events :
    (∀ s ∈ [opReady, opTimed], s.sh? 0 = some s.x ∧ s.x.mx.queue = [opOf s] ∧ (∀ af bf mb st, (opOf s).instr ≠ .tcfg af bf mb st) ∧ (∀ mb st, (opOf s).instr ≠ .mbarm mb st) ∧ (opOf s).entry ≤ s.dcc ∧ s.x.mx.lastIssue < s.dcc ∧
      ((opOf s).target = none ∨ (opOf s).target = some s.dcc) ∧ { s with cur := { Cur.zero with sh := some 0 } }.mxReady (opOf s) = true ∧ { s with cur := { Cur.zero with sh := some 0 } }.mxFault (opOf s) = none) ∧
    (opLate.sh? 0 = some opLate.x ∧ opLate.x.mx.queue = [opOf opLate] ∧ (opOf opLate).entry ≤ opLate.dcc ∧ (opOf opLate).target = some 7 ∧ 7 < opLate.dcc) ∧
    (opDone.sh? 0 = some opDone.x ∧ (opDone.mxDue opDone.x).isSome = true) ∧
    (streamState.sh? 0 = some streaming ∧ streaming.mx.stream = some (opOf streamState) ∧ (opOf streamState).instr = .wbld none 0 1 2 0xFFFFF ∧ streamState.fab.ops = [] ∧
      { streamState with cur := { Cur.zero with sh := some 0 } }.slotReading streaming (opOf streamState) (opOf streamState).half ((opOf streamState).sa.toNat % 2 ^ 13 + (opOf streamState).slot) = false ∧
      (opOf streamState).code = 0 ∧ { streamState with cur := { Cur.zero with sh := some 0 } }.streamOrdered 0 streaming (opOf streamState) = true ∧ (opOf streamState).issued ≠ some streamState.dcc ∧ 64 ≤ (opOf streamState).bytes.length) := by
  refine ⟨?_, ?_, ?_, ?_⟩
  · intro s h
    have : s = opReady ∨ s = opTimed := by simpa using h
    rcases this with rfl | rfl <;> and_intros <;> first | (intros; intro e; cases e) | decide +kernel
  · decide +kernel
  · decide +kernel
  · and_intros <;> decide +kernel

/-- tenant image of one word at 0x20000: its digest is of 128 bytes of table and of that word, all zero -/
def digest : List Byte := sha256 (List.replicate 0x90 0)

def goodBank : Bank := { state := 1, ctx := 1, tag := BitVec.ofNat 64 (ofLE (digest.take 8)), words := [], image := 0x20000, used := 0 }

def badBank : Bank := { state := 1, ctx := 1, tag := 0, words := [], image := 0x30000, used := 0 }

def tenantState : State :=
  let s := ((mapped bindingShift).storeQuiet (.glob 0x20000 0) (bytesOf 8 (0x4D494D47 * 2 ^ 32 + 0x10000))).storeQuiet (.glob 0x20020 0) digest
  s.modCore 0 fun c => { c with banks := (c.banks.set 0 goodBank).set 1 badBank }

/-- Meets the hypotheses of MatrixAndLoaderEventsTakeEffect. -/
theorem test_witness_loader :
    ((one bindingShift).imageOwner 0 1 9 = some bindingShift ∧ (one bindingShift).loadBank 0 none = some 0 ∧ 0 < 2 ∧ (one bindingShift).bankHas 0 1 9 = false) ∧
    (∃ b, (tenantState.core 0).banks[0]? = some b ∧ b.state = 1 ∧ ∃ m, tenantState.tenantAt b.ctx b.image.toNat = .ok m ∧ m.tag = b.tag) ∧
    (∃ b, (tenantState.core 0).banks[1]? = some b ∧ b.state = 1 ∧ tenantState.tenantAt b.ctx b.image.toNat = .error 3) :=
  by
  refine ⟨by decide +kernel, ⟨_, rfl, rfl, ?_⟩, ⟨_, rfl, rfl, errIs_eq (by decide +kernel)⟩⟩
  obtain ⟨m, h, hm⟩ := okWith_of (e := tenantState.tenantAt goodBank.ctx goodBank.image.toNat) (p := fun m => m.tag == goodBank.tag) (by decide +kernel)
  exact ⟨m, h, eq_of_beq hm⟩

def copyBase : Shift := withA (withS unitShift [(1, 0x10), (3, 0x40), (6, 0x800)]) [(1, 0x5000), (2, 0x800)]

def jobOf (s : State) : Job := (s.jobs.head?).getD (s.newJob .nop 0 0 0 0 0 0)

def copying (st steps done : Nat) (buf : Option (List Byte)) : State :=
  let s := nextOf (exec (.cpy .glob 8 (gB .pad 2) 1 1) (mapped copyBase))
  { s with jobs := s.jobs.map fun j => { j with state := st, done := done, buf := buf, unit := { j.unit with steps := steps } } }

def scanning (op : ScanOp) (steps : Nat) (todo : List Nat) (buf : Option (List Byte)) : State :=
  let s := nextOf (exec (.mscan op .f32 8 (gB .glob 1) 3 6) (mapped copyBase))
  { s with
    jobs := s.jobs.map fun j => { j with state := 2, todo := todo, buf := buf, unit := { j.unit with steps := steps } },
    mg := { s.mg with scanThresh := 256 }, dcc := 2 ^ 16 }

def wrote : EngWrite → Bool | .done _ => true | _ => false

theorem wrote_of {e : EngWrite} (h : wrote e = true) : ∃ t, e = .done t := by
  cases e <;> first | exact ⟨_, rfl⟩ | cases h

/-- Whether a piece is read, and its write goes through. -/
def moves (s : State) : Bool :=
  let j := jobOf s
  match s.engineRead j s.x 3 false j.copyEnds.1 j.nextPiece.1 j.nextPiece.2.2 with
  | .data bs t => wrote (t.engineWrite1 j s.x 3 false j.copyEnds.2.2.1 j.nextPiece.2.1 bs)
  | _ => false

theorem moves_of {s : State} (h : moves s = true) : let j := jobOf s
    ∃ bs t u, s.engineRead j s.x 3 false j.copyEnds.1 j.nextPiece.1 j.nextPiece.2.2 = .data bs t ∧ t.engineWrite1 j s.x 3 false j.copyEnds.2.2.1 j.nextPiece.2.1 bs = .done u := by
  simp only [moves] at h
  split at h
  · obtain ⟨u, hu⟩ := wrote_of h
    exact ⟨_, _, u, ‹_›, hu⟩
  · cases h

/-- Meets the hypotheses of CopiesAndScansMoveOn on copies: one that starts, one before its loop, one at its end, one with bytes in hand and one that reads. -/
theorem test_witness_copies :
    (let s := copying 1 0 0 none
     s.job? 0 = some (jobOf s) ∧ s.copyMayStart (jobOf s) = true) ∧
    (∀ s ∈ [copying 2 0 0 none, copying 2 1 0 none, copying 2 2 0x10 none, copying 2 2 0 (some (List.replicate 16 0)), copying 2 2 0 none],
      s.job? 0 = some (jobOf s) ∧ s.copyReady (jobOf s) = true ∧ s.sh? (jobOf s).sh = some s.x) ∧
    (let c (s : State) := (copyShape (jobOf s).instr (jobOf s).opi (jobOf s).opx).total
     c (copying 2 2 0x10 none) ≤ 0x10 ∧ 0 < c (copying 2 2 0 none) ∧ 0 < c (copying 2 2 0 (some (List.replicate 16 0)))) ∧
    (let s := copying 2 2 0 (some (List.replicate 16 0))
     ∃ t, s.engineWrite1 (jobOf s) s.x 3 false (jobOf s).copyEnds.2.2.1 (jobOf s).nextPiece.2.1 (List.replicate 16 0) = .done t) ∧
    (let s := copying 2 2 0 none
     (jobOf s).buf = none ∧ ∃ bs t u, s.engineRead (jobOf s) s.x 3 false (jobOf s).copyEnds.1 (jobOf s).nextPiece.1 (jobOf s).nextPiece.2.2 = .data bs t ∧
      t.engineWrite1 (jobOf s) s.x 3 false (jobOf s).copyEnds.2.2.1 (jobOf s).nextPiece.2.1 bs = .done u) := by
  refine ⟨by decide +kernel, by decide +kernel, by decide +kernel, wrote_of (by decide +kernel), by decide +kernel, moves_of (by decide +kernel)⟩

/-- A line of codes of 1.0. -/
def ones : List Byte := (List.range 32).flatMap fun _ => bytesOf 4 0x3F800000

/-- Meets the hypotheses of CopiesAndScansMoveOn on scans: before the loop, behind the last line, and at a line, which a scan unit reads or which has waited. -/
theorem test_witness_scans :
    (∀ op ∈ [ScanOp.cntge, ScanOp.topk, ScanOp.botk], ∀ s ∈ [scanning op 2 [160] none, scanning op 3 [] none, scanning op 3 [160, 161] (some ones)],
      let j := jobOf s
      s.job? 0 = some j ∧ s.sh? j.sh = some s.x ∧ j.instr = .mscan op .f32 8 (gB .glob 1) 3 6 ∧ s.copySteps j = true) ∧
    (∀ op ∈ [ScanOp.cntge, ScanOp.topk, ScanOp.botk], let s := scanning op 3 [160, 161] (some ones)
      let j := jobOf s
      let ch := s.scanUnitOf j s.x 160
      j.todo.find? (fun l => s.scanUnitOf j s.x l == ch) = some 160 ∧ s.scanWaited 0 ch = true ∧ j.best = [] ∧ s.mg.scanThresh = 256) ∧
    (∀ s ∈ [scanning .topk 3 [] none, scanning .botk 3 [] none], let j := jobOf s
      (scanWrites j s.x s (sectors ((j.opx.toNat % 2 ^ 20 : Nat) : Int) (8 * (j.opi.toNat / 2 ^ 32 % 64 + 1))) (bytesOf 4 0 ++ bytesOf 4 0xFFFF_FFFF) 0).2.isNone = true) ∧
    ∀ n ch, (Config.occupancy n ch).toNat < 256 :=
  ⟨by decide +kernel, by decide +kernel, by decide +kernel, fun n ch => (Config.occupancy n ch).isLt⟩

/-- R221: −0 and +0 rank by index, and a NaN ranks nowhere. -/
theorem test_scan_order : scanKey .f32 0x80000000 = scanKey .f32 0 ∧ scanNaN .bf16 0x7F81 = true ∧ scanNaN .z32 0x7FC00000 = false ∧ scanKey .bf16 0xBF80 < scanKey .bf16 0x3F80 := by
  decide

/-! ## Requests and bundle lines -/

def request (h : Home) (op : HomeOp) (dst : Option SNum) : Req :=
  { sh := some 0, seq := 0, at_ := h, op := op, acq := false, rel := false, dst := dst, va := 0x40, via := [], collapse := none, fetch := none, since := 0 }

/-- A barrier of two expected arrivals, of which one has come, stands in CREW at 0x40. -/
def asked (h : Home) (op : HomeOp) (dst : Option SNum) : State :=
  { one unitShift with
    msgs := [.req (request h op dst)], crew := Mem.put [] 0x40 [2, 0, 0, 0, 1, 0, 0, 0, 7, 0, 0, 0, 1], keys := (mapped unitShift).keys }

/-- Meets the hypotheses of RequestsArePerformedWholeAtTheirHome, at a home in each memory, with and without a destination. -/
theorem test_witness_requests (op : HomeOp) (dst : Option SNum) :
    ∀ h ∈ [Home.lane 0 3 0x40, .pad 0 0x40, .crew 0 0x40, .chip 0 0x40, .glob 0x5000 0], let s := asked h op dst
      Safety.Memories s ∧ s.msgs[0]? = some (.req (request h op dst)) ∧ s.reqReady 0 (request h op dst) = true ∧ Plain s h ∧ h.sectorBase = h := by
  intro h hh
  simp only [List.mem_cons, List.not_mem_nil, or_false] at hh
  unfold Safety.Memories
  rcases hh with rfl | rfl | rfl | rfl | rfl <;> and_intros <;> first | rfl | trivial

/-- Meets the hypotheses of RequestsArePerformedWholeAtTheirHome. -/
theorem test_witness_request_values : atomic .add 64 0x100000002 5 = some 0x100000007 ∧
    (let s := asked (.crew 0 0x40) .bararr (some 5)
     let word (m : Nat) : Nat := number (((homeBytes s (.crew 0 0x40) 32).drop (4 * m)).take 4)
     word 3 = 1 ∧ word 1 + 1 = word 0) ∧
    (let s := asked (.crew 0 0x80) .bararr (some 5)
     number (((homeBytes s (.crew 0 0x80) 32).drop 12).take 4) ≠ 1) := by decide

/-- A write of the part that waited for its line. -/
def ownState : State := { mapped unitShift with msgs := [.own 0x5000 (some 0) .put [1, 2] none] }

/-- Meets the hypotheses of RequestsArePerformedWholeAtTheirHome. -/
theorem test_witness_own : Safety.Memories ownState ∧ Plain ownState (.glob 0x5000 0) ∧ ownState.msgs[0]? = some (.own 0x5000 (some 0) .put [1, 2] none) ∧
    ownAhead (ownState.msgs.take 0) 0x5000 = false ∧ bitsAhead (ownState.msgs.take 0) = false := by
  unfold Safety.Memories
  and_intros <;> rfl

def line5 : Nat := 0xFFF * 2 ^ 45 + 5

def anchor9 : Nat := 0xFFF * 2 ^ 45 + 9

def side (pend : Bool) (settled : Option Nat) : Side :=
  { pending := pend, name := 7, version := 2, index := 1, anchor := anchor9, key := 0, data := List.replicate 128 3, poison := 0, pennant := some { name := 7, version := 1, index := 1, count := 1, anchor := anchor9 }, since := 0, settled := settled }

def viewer : Shift := { unitShift with view := { unitShift.view with v := true } }

def lined (m : List Msg) (e : Option Side) (man : Nat) (dcc : Nat) : State :=
  { one viewer with msgs := m, dcc := dcc, lines := match e with | none => [] | some e => [(5, { Line.zero with side := some e })], glob := Mem.put [] (9 * 128) (bytesOf 8 man) }

def pend : Side := side true none

def kept : Side := side false none

def man (st : Nat) : Nat := 7 * 2 ^ 44 + 2 * 2 ^ 32 + 1 * 2 ^ 28 + st * 2 ^ 25

theorem lines_one (m : List Msg) (e : Option Side) (st dcc : Nat) : Safety.Rises (lined m e (man st) dcc).lines ∧ linePkg line5 = (lined m e (man st) dcc).mg.idpkg ∧ localLine line5 = 5 ∧ (lined m e (man st) dcc).sh? 0 = some viewer := by
  refine ⟨?_, by show _ = 0xFFF; decide, by decide, rfl⟩
  cases e with
  | none => exact List.Pairwise.nil
  | some e => exact List.Pairwise.cons (fun _ h => by cases h) List.Pairwise.nil

theorem memories_lined (m : List Msg) (e : Option Side) (dcc : Nat) (st : Fin 8) : Safety.Memories (lined m e (man st.val) dcc) :=
  ⟨(by show Mem.wf (Mem.put [] (9 * 128) (bytesOf 8 (man st.val))) = true; revert st; decide), rfl, rfl, rfl, rfl, rfl⟩

/-- A request at byte 8 of line 5. -/
def lineReq (op : HomeOp) (f : Option Fetch) : Req :=
  { sh := some 0, seq := 0, at_ := .glob (5 * 128 + 8) 0, op := op, acq := false, rel := false, dst := some 5, va := 0x288, via := [], collapse := none, fetch := f, since := 0 }

def bundleStore : BunAct := { kind := 1, pa := 0, name := 7, version := 2, index := 1, count := 0, anchor := anchor9, off := 8, data := [1, 2] }

/-- Meets the hypotheses of BundleLinesKeepTheirVersions. -/
theorem test_witness_bundle_store : let r := lineReq (.bst bundleStore) none
    let s := lined [.req r] none (man 1) 0
    s.msgs[0]? = some (.req r) ∧ r.at_ = .glob 0x288 0 ∧ 0x288 / 128 = 5 ∧ r.op = .bst bundleStore ∧ s.reqReady 0 r = true ∧ r.collapse = none ∧ bundleStore.off + bundleStore.data.length ≤ 128 ∧ s.drops (5 * 128) 0 = false ∧ s.collapses = [] ∧
      bitsAhead (s.msgs.take 0) = false ∧ (s.line 5).side = none ∧ s.sideUsed 5 < 2048 := by
  and_intros <;> first | rfl | decide +kernel

/-- Meets the hypotheses of BundleLinesKeepTheirVersions: a backward fetch that finds its version and one that does not, and a forward fetch. -/
theorem test_witness_fetches :
    (∀ f, let r := lineReq (.read 8 false) (some f)
      r.at_ = .glob 0x288 0 ∧ 0x288 / 128 = 5 ∧ r.op = .read 8 false ∧ r.sh = some 0 ∧ r.dst = some 5 ∧ r.fetch = some f ∧ ∀ e, (lined [.req r] e (man 2) 0).msgs[0]? = some (.req r)) ∧
    (let s := lined [.req (lineReq (.read 8 false) (some ⟨false, 7, 1⟩))] (some kept) (man 2) 0
     s.retainedFor 5 7 1 = some kept ∧ kept.key = 0 ∧ s.keyLive 0 = true ∧ kept.poison = 0 ∧ 0x288 % 128 + 8 ≤ kept.data.length) ∧
    ((lined [.req (lineReq (.read 8 false) (some ⟨false, 8, 1⟩))] (some kept) (man 2) 0).retainedFor 5 8 1 = none ∧ viewer.view.v = true) ∧
    ((lined [] (some pend) (man 2) 0).retiredAt (5 * 128) = false ∧ (lined [] (some pend) (man 2) 0).windowShut (5 * 128) = false ∧
      linePkg pend.anchor = (lined [] (some pend) (man 2) 0).mg.idpkg) ∧
    (pend.pending = true ∧ pend.name = (⟨true, 7, 2⟩ : Fetch).name ∧ pend.version = (⟨true, 7, 2⟩ : Fetch).version) :=
  ⟨fun _ => ⟨rfl, by decide, rfl, rfl, rfl, rfl, fun _ => rfl⟩, by decide +kernel, by decide +kernel, by decide, by decide⟩

/-- Meets the hypotheses of BundleLinesKeepTheirVersions. -/
theorem test_witness_sides : pend.pending = true ∧ pend.name = 7 ∧ pend.version = 2 ∧ kept.pending = false ∧ kept.settled = none ∧ (side false (some 4)).settled = some 4 ∧ 4 + 65536 ≤ 65540 ∧ pend.since + 1048576 ≤ 1048576 ∧
    linePkg pend.anchor = (lined [] none (man 2) 0).mg.idpkg ∧
    (∀ m e st dcc, (lined m (some e) (man st) dcc).msgs = m) ∧ (∀ e ∈ [pend, kept, side false (some 4)], ∀ st ∈ [1, 2, 4], ((lined [] (some e) (man st) 0).line 5).side = some e) ∧
    (lined [.discard line5 7 2] (some pend) (man 2) 0).discardReady 0 = true :=
  by and_intros <;> first | exact fun _ _ _ _ => rfl | rfl | decide +kernel

/-- Meets the hypotheses of BundleLinesKeepTheirVersions: the acknowledgement of the last member, and one before it. -/
theorem test_witness_manifests : let s := lined [.sealAck (0xFFF * 2 ^ 45 + 9) 7 2 (0xFFF * 2 ^ 45 + 5)] none (man 2) 0
    manName (s.manifest 9) = 7 ∧ manVersion (s.manifest 9) = 2 ∧ manState (s.manifest 9) = 2 ∧ localLine (0xFFF * 2 ^ 45 + 9) = 9 ∧ s.fab.ops = [] ∧ s.msgs.tail = [] ∧
    (∀ m ∈ s.membersOf 9, m = 0 ∨ (anchor9, m) ∈ s.acks) ∧ (0 ∈ s.membersOf 9 ∧ 0 ≠ line5 ∧ (anchor9, 0) ∉ s.acks) ∧
    manState ((lined [] (some pend) (man 1) 0).manifest 9) = 1 ∧ manState ((lined [] (some pend) (man 4) 0).manifest 9) = 4 := by decide

/-! ## Fabric and adits -/

def armed : State := nextOf (exec (.recvadd .f32 false 3 8 (gB .pad 2) 2) (passed (withA (withS unitShift [(2, 0x100001000)]) [(2, 0x800)])))

def portOf (s : State) : Port := (s.port? 0 3).getD { armed := false, ctx := 0, sh := 0, fmt := .f32, cnten := false, window := 0, wlen := 0, elen := 0, cnt := 0, received := 0, flags := 0, job := 0 }

def packet : RxPacket := { core := 0, port := 3, ctx := 1, off := 0, data := [1, 2, 3, 4] }

def withMap (n : Nat) (busy : Bool) : State :=
  { State.reset with fab := { State.reset.fab with tmapbase := 0x4000, tbusy := busy }, glob := Mem.put [] 0x4000 (bytesOf 8 (0x4C4D4150 * 2 ^ 32 + n)) }

def crossing : Packet :=
  { id := 0, op := some 0, src := none, resp := false, die := 0, hops := [0xA0, 0xF0], key := 0, act := .read 0x5000 8, path := [], data := [], flags := 0, pen := none, refused := none, note := none,
    waits := false, fresh := true }

/-- A failure notice of cause 6 that has come back to the die of operation 4. -/
def noticed : Packet := { crossing with op := some 4, resp := true, hops := [], note := some 6 }

def operation : FabOp :=
  { id := 4, sh := some 0, kind := 1, dst := some 5, job := none, since := 0, die := 0, pkg := 0xFFF, act := .read 0x5000 8, info := { code := 0x0E }, sx := false, seq := 0, rel := false, hops := [],
    key := 0, adit := none, path := [], late := none }

def fabricState (dcc : Nat) (p : Packet) : State := { one unitShift with dcc := dcc, fab := { State.reset.fab with pkts := [p], ops := [operation], links := 0xFFFF } }

/-- Adit 0 is as f leaves it. -/
def withAdit (f : Adit → Adit) : State := { State.reset with fab := { State.reset.fab with adits := State.reset.fab.adits.set 0 (f State.reset.fab.adits[0]) } }

/-- Adit 0 is UP in LEM. -/
def lemUp (s : State) : State := { s with fab := { s.fab with adits := (withAdit fun a => { a with st := 1, cur := 3 }).fab.adits } }

/-- Meets the hypotheses of FabricEventsTakeEffect on receive ports and the topology map. -/
theorem test_witness_receive :
    (let s := lemUp armed
     s.port? packet.core packet.port = some (portOf armed) ∧ s.lemOpen 0 = true ∧ (portOf armed).ctx = packet.ctx ∧ packet.off + packet.data.length ≤ (portOf armed).wlen ∧
      (portOf armed).received + packet.data.length < (portOf armed).elen ∧ (portOf armed).cnten = false) ∧
    ((portOf armed).received + 0x1000 = (portOf armed).elen ∧ { packet with data := List.replicate 0x1000 0 }.data.length = 0x1000 ∧ (portOf armed).ctx ≠ { packet with ctx := 2 }.ctx ∧
      armed.port? 0 4 = none) ∧ (∀ m, m < 36 → armed.lemOpen m = false) ∧
    (withMap 1 false).fab.tbusy = false ∧ ((withMap 1 true).fab.tbusy = true ∧ (withMap 1 true).readMap.isSome = true ∧ (withMap 0 true).readMap = none) ∧
    ∀ z : Fin 4, 28 + z.val ∉ State.reset.mg.off := by decide +kernel

/-- Meets the hypotheses of FabricEventsTakeEffect on packets: one that goes on, one that comes in, a notice at its operation, and one on its way. -/
theorem test_witness_packets_move :
    (let s := fabricState 5 crossing
     s.fab.pkts[0]? = some crossing ∧ crossing.resp = false ∧ s.pktBefore 0 crossing = false ∧ 9 ≤ (0xA0 : Byte).toNat / 16 ∧ (0xA0 : Byte).toNat / 16 ≤ 12 ∧ s.liveUp 0 10 = true) ∧
    ((InPacket.mk 0 0 [0xF0] (.read 0x5000 8)).adit < 36 ∧ (lemUp State.reset).lemOpen 0 = true ∧ State.reset.lemOpen 0 = false) ∧
    (let s := fabricState 5 noticed
     s.fab.pkts[0]? = some noticed ∧ noticed.resp = true ∧ noticed.path = [] ∧ noticed.src = none ∧ noticed.op = some operation.id ∧ noticed.note = some 6 ∧ s.op? operation.id = some operation) ∧
    (operation.kind = 1 ∧ operation.sh = some 0 ∧ operation.dst = some 5 ∧ operation.late = none ∧ operation.adit = none ∧ { operation with adit := some 0 }.adit = some 0) ∧
    (operation.since + 2 ^ 24 ≤ (fabricState (2 ^ 24) crossing).dcc ∧ (fabricState 5 crossing).dcc < operation.since + 2 ^ 24) := by decide +kernel

/-- Meets the hypotheses of FabricEventsTakeEffect. -/
theorem test_witness_incoming : ∀ a b c e, (InPacket.mk 0 0 [0xF0] (.read 0x5000 8)).act ≠ .resp a b c e := fun _ _ _ _ h => by cases h

/-- Adit 0 drains since cycle 5, with an operation out over it. -/
def draining : State := let s := withAdit fun a => { a with st := 3, drainFrom := 5, drainlg := 10 }
  { s with fab := { s.fab with ops := [{ operation with adit := some 0 }] }, dcc := 6 }

/-- Meets the hypotheses of AditEventsTakeEffect on lanes and on the progress of a switch. -/
theorem test_witness_adits :
    ((aditNow (withAdit fun a => { a with good := 3 }) 0).good.getLsbD 0 = true ∧ (aditNow (withAdit fun a => { a with good := 3 }) 0).good.getLsbD 5 = false) ∧
    (let a := aditNow (withAdit fun a => { a with good := 0xFF, st := 1, cur := 3 }) 0
     (5 : Word).toNat < 2 ^ 25 ∧ a.st = 1 ∧ a.cur = 3 ∧ a.good &&& (5 : Word).extractLsb' 0 8 ≠ 0 ∧ a.good &&& ~~~(5 : Word).extractLsb' 0 8 ≠ 0) ∧
    (let a := aditNow (withAdit fun a => { a with good := 0xFF, peerGood := 0xFF, st := 1, cur := 3, lcur := 0x0F, dir := 0x07, peerDir := 0xF8, turn := true }) 0
     a.turn = true ∧ a.st = 1 ∧ a.cur = 3 ∧ a.dir ≠ a.lcur ∧ a.dir &&& (a.good &&& a.peerGood) = ~~~a.peerDir &&& (a.good &&& a.peerGood)) ∧
    ((aditNow State.reset 0).turn = false ∧ 65 + (0 : Fin 36).val ∉ State.reset.mg.off) ∧
    (let v : Word := 0xA02; v.toNat < 2 ^ 13 ∧ v.toNat / 8 % 32 = 0 ∧ v.toNat % 2 = 0 ∧ 10 ≤ v.toNat / 256 % 32 ∧ v.toNat / 256 % 32 ≤ 24) ∧
    (let v : Word := 0xA03; v.toNat < 2 ^ 13 ∧ v.toNat / 8 % 32 = 0 ∧ v.toNat % 2 = 1 ∧ 10 ≤ v.toNat / 256 % 32 ∧ v.toNat / 256 % 32 ≤ 24 ∧ v.toNat / 2 % 4 = 1) ∧
    ((aditNow State.reset 0).st ≤ 1 ∧ (aditNow State.reset 0).st ≠ 1 ∧ (aditNow State.reset 0).turn = false) ∧
    (let s := withAdit fun a => { a with st := 3, drainFrom := 0, drainlg := 10 }
     (aditNow s 0).st = 3 ∧ s.aditBusy 0 = false ∧ (aditNow s 0).drainFrom + 2 ^ (aditNow s 0).drainlg ≤ { s with dcc := 1024 }.dcc) ∧
    ((aditNow draining 0).st = 3 ∧ draining.aditBusy 0 = true ∧ draining.dcc < (aditNow draining 0).drainFrom + 2 ^ (aditNow draining 0).drainlg) := by decide +kernel

/-- Meets the hypotheses of AditEventsTakeEffect on training, on the window, and on a peer of a UAL adit. -/
theorem test_witness_training :
    (∀ a ∈ [aditNow (withAdit fun a => { a with st := 5, pers := 0, winBase := 0x400, winSize := 4 }) 0, aditNow (withAdit fun a => { a with st := 5, pers := 1 }) 0], a.st = 5 ∧ a.trains = true) ∧
    (aditNow (withAdit fun a => { a with st := 5, pers := 1, good := 0x0F }) 0).trains = false ∧
    (let s := withAdit fun a => { a with st := 5, pers := 0, winBase := 0x400, winSize := 4 }
     (aditNow s 0).pers = 0 ∧ s.windowFits 0 3 = false ∧ s.windowFits 0 4 = true) ∧ (aditNow (withAdit fun a => { a with st := 5, pers := 1 }) 0).pers ≠ 0 ∧
    (let a := aditNow (withAdit fun a => { a with winBase := 4, winSize := 1, winEn := true }) 0
     (0x4000000100000001 : Word).toNat = 2 ^ 62 + a.winBase * 2 ^ 30 + a.winSize ∧ a.winBase < 2 ^ 22 ∧ a.winSize < 2 ^ 16 ∧ a.winEn = true ∧ a.closing = false) ∧
    (let s := withAdit fun a => { a with closing := true, winEn := true, st := 1, winBase := 0x400, winSize := 4, offFrom := 0, drainlg := 10 }
     (aditNow s 0).closing = true ∧ s.msgs = [] ∧ (aditNow s 0).offFrom + 2 ^ (aditNow s 0).drainlg ≤ { s with dcc := 1024 }.dcc ∧
     (let m := Msg.req { lineReq (.read 8 false) none with at_ := .glob (0x400 * 2 ^ 30) 0 }
      s.dcc < (aditNow s 0).offFrom + 2 ^ (aditNow s 0).drainlg ∧ m.overAdit { s with msgs := [m] } 0 (aditNow s 0).offFrom = true)) ∧
    (let s := withAdit fun a => { a with st := 1, cur := 1 }
     (aditNow s 0).st = 1 ∧ (aditNow s 0).cur = 1 ∧ 0x5000 % 32 = 0 ∧ s.ualThere 0x5000 32 = true ∧ s.ualWaits [] 0 (.read 0x5000 32) = false ∧
       s.ualWaits [(0, .read 0x5000 32)] 0 (.read 0x5000 32) = true) ∧
    (aditNow State.reset 0).cur ≠ 1 ∧ 5 ≠ 64 ∧ 5 ≠ 65 := by decide +kernel

/-- Meets the hypotheses of AditEventsTakeEffect. -/
theorem test_witness_ualink : let s := withAdit fun a => { a with st := 1, cur := 1 }
    (s.homeRead (.glob 0x5000 ualKey) 32).2.1 = false := by
  simp only [State.homeRead, State.peek]
  split <;> rfl

/-! ## Translations, keys, tenants, registers and resets -/

theorem memories_reset : Safety.Memories State.reset := ⟨rfl, rfl, rfl, rfl, rfl, rfl⟩

def opened : State := State.reset.modFunc 64 fun f => { f with topen := some (2, 1, 0) }

def dying (dies : List Nat) : Collapse := { leaf := 0x7000, page := 0x200000, size := 0x200000, rsh := 36, dies := dies }

def collapsing (dies : List Nat) : State := { State.reset with collapses := [dying dies] }

/-- Meets the hypotheses of TranslationEventsTakeEffect. -/
theorem test_witness_translations :
    (∃ e, (mapped unitShift).walk 0 1 (0x5000 : Addr).toNat (AccKind.write == .write) (AccKind.write == .fetch) = .ok e) ∧
    (∃ f, State.reset.walk 0 1 (0x5000 : Addr).toNat (AccKind.read == .write) (AccKind.read == .fetch) = .error f) ∧
    (7 < 4096 ∧ (0x700201 : Word).toNat = 7 * 2 ^ 20 + 2 * 256 + 1 ∧ (State.reset.func 64).topen = none ∧ (opened.func 64).topen ≠ none) ∧
    ((opened.func 64).topen = some (2, 1, 0) ∧ opened.usesOpen 2 1 = false ∧ { opened with msgs := [.req { lineReq (.read 8 false) none with sh := none }] }.usesOpen 2 1 = true) ∧
    (∀ k ≤ 5, State.reset.usesOpen k 1 = false) ∧
    (∀ dies, (collapsing dies).collapses[0]? = some (dying dies)) ∧
    ((collapsing [1, 2]).replicaRead (dying [1, 2]) 1 = false ∧ ([1, 2].filter fun d => d != 1) ≠ [] ∧ ([1].filter fun d => d != 1) = []) ∧
    (∀ d < 4, (collapsing [1]).replicaRead (dying [1]) d = false) ∧ (collapsing [1]).pendLine (0x7000 / 128) = false ∧ ownAhead (collapsing [1]).msgs 0x7000 = false :=
  ⟨ok_of (by decide +kernel), error_of_fails (by decide +kernel), by decide, by decide, by decide, fun _ => rfl, by decide⟩

theorem rises_opened : Safety.Rises opened.funcs := by
  show List.Pairwise _ [_]; exact List.Pairwise.cons (fun _ h => by cases h) List.Pairwise.nil

def keyed (st : Nat) (n : Nat) : State := { State.reset with keys := { State.reset.keys with slots := [(0, { st := 1, pair := 0 }), (3, { st := st, pair := 0 })], seq := List.replicate n 0 } }

def swept : State := { keyed 2 0 with lines := [(5, { Line.zero with tag := 3 })] }

/-- Meets the hypotheses of KeysAndTenantsTakeEffect. -/
theorem test_witness_keys :
    (keyed 0 8).keys.seq.length < 9 ∧ (3 < 256 ∧ (0x301 : Word).toNat = 3 * 256 + 1 ∧ (keyed 0 8).keyState 3 = 0 ∧ (keyed 0 8).keys.seq.length = 8) ∧
    (0 < 3 ∧ (0x302 : Word).toNat = 3 * 256 + 2 ∧ (keyed 1 0).keyState 3 = 1) ∧ (Safety.Memories swept ∧ swept.keyState 3 = 2 ∧ (swept.line 5).tag = 3 ∧ Safety.Rises swept.lines) ∧
    ((keyed 2 0).keyState 3 = 2 ∧ (∀ l ∈ (keyed 2 0).lines, l.2.bears 3 = false) ∧ Safety.Rises (keyed 2 0).keys.slots) := by
  refine ⟨by decide, by decide, by decide, ⟨?_, by decide, by decide, ?_⟩, by decide, (fun _ h => by cases h), ?_⟩
  · unfold Safety.Memories
    decide
  · exact List.Pairwise.cons (fun _ h => by cases h) List.Pairwise.nil
  · exact List.Pairwise.cons (fun p h => by cases h with | head => decide | tail _ h => cases h) (List.Pairwise.cons (fun _ h => by cases h) List.Pairwise.nil)

def device : State := State.reset.modFunc 5 fun f => { f with vst := 1, en := true }

def attesting : State := State.reset.modFunc 64 fun f => { f with attReq := some (0x5000, 64, f.nonce, 0) }

/-- Meets the hypotheses of KeysAndTenantsTakeEffect. -/
theorem test_witness_tenants :
    (5 < 64 ∧ (State.reset.func 5).vst = 0 ∧ (device.func 5).vst = 1) ∧ (7 < 4096 ∧ Safety.Rises State.reset.ctxs ∧ Safety.Rises (State.reset.ctx 7).pins ∧ ((State.reset.ctx 7).pin 3).count = 0 ∧
      (0x8000000000000003 : Word).toNat = 2 ^ 63 + 3 ∧ (0xC000000000000003 : Word).toNat = 2 ^ 63 + 2 ^ 62 + 3) ∧ (64 ≤ 64 ∧ Safety.Rises State.reset.funcs) ∧
    (0x28 < 2 ^ 43 ∧ (0x5101 : Word).toNat = 0x28 * 2 ^ 9 + 64 * 4 + 1 ∧ (State.reset.func 64).attReq = none) ∧
    ((attesting.func 64).attReq = some (0x5000, 64, (State.reset.func 64).nonce, 0) ∧ (∀ f ∈ attesting.funcs, ∀ q, f.2.attReq = some q → 0 ≤ q.2.2.2) ∧ (∀ l ∈ attesting.lines, l.2.side = none) ∧ attesting.collapses = []) ∧ 5 ≠ 64 :=
  by and_intros <;> first | exact List.Pairwise.nil | exact fun _ _ _ _ => Nat.zero_le _ | exact (fun _ h => by cases h) | decide

def scrubbing (dcc esc thresh : Nat) : State := { State.reset.modStack 0 fun x => { x with ecsok := false, esc := esc, thresh := thresh } with dcc := dcc }

/-- A device caches the line at 0x5000. -/
def cached : State := { State.reset with cache := [(0x5000 / 128, { home := List.replicate 128 7, dirty := 1 })] }

/-- Meets the hypotheses of RegistersAndErrorsTakeEffect and HostQueuesTakeEffect on a line of a device cache. -/
theorem test_witness_cache : (∃ c, NMap.get? cached.cache (0x5000 / 128) = some c) ∧ (cached.homeRead (.glob 0x5000 (cached.hostKey 64)) 2).2.2 = false ∧
    (cached.homeRead (.glob 0x5000 (cached.hostKey 64)) 2).2.1 = false ∧ NMap.get? State.reset.cache (0x5000 / 128) = none ∧ Safety.Memories cached ∧ Safety.Rises cached.cache := by
  refine ⟨⟨_, rfl⟩, by decide, by decide, rfl, ⟨rfl, rfl, rfl, rfl, rfl, rfl⟩, ?_⟩
  exact List.Pairwise.cons (fun _ h => by cases h) List.Pairwise.nil

/-- Meets the hypotheses of RegistersAndErrorsTakeEffect: an occupancy below the threshold, a cycle of 64 at escalation 3, a cycle between, and no threshold. -/
theorem test_witness_scrub : (scrubbing 0 0 256).scrubMay 0 0 = true ∧ (scrubbing 128 3 1).scrubMay 0 0 = true ∧ (scrubbing 129 3 1).scrubMay 0 0 = false ∧
    (((scrubbing 0 2 0).stack 0).esc < 3 ∧ ((scrubbing 0 2 0).stack 0).thresh = 0) ∧ ((scrubbing 128 3 1).stack 0).esc = 3 :=
  ⟨decide_eq_true (Config.occupancy 0 0).isLt, rfl, rfl, by decide, rfl⟩

/-- Meets the hypotheses of RegistersAndErrorsTakeEffect. -/
theorem test_witness_registers :
    (8 = 8 ∧ 0x7508 % 8 = 0 ∧ State.reset.windowReads 64 0x7508 = true ∧ State.reset.register (0x7508 / 8 * 8) = some 0) ∧ (4 = 4 ∧ 0x750C % 4 = 0 ∧ State.reset.register (0x750C / 8 * 8) = some 0) ∧ State.reset.windowReads 5 0x7508 = false ∧ (4095 : Word).toNat < 4096 ∧
    (0x7509 % 8 ≠ 0 ∧ 0x7509 / 8 ≠ 0x5408 / 8) ∧ (∀ m, (aditNow State.reset m).st ≠ 1 ∨ (aditNow State.reset m).cur = 0) ∧ (∀ c ∈ State.reset.ctxs, c.2.rt.getLsbD 63 = false) ∧
    (0x5000 % 128 + [1, 2].length ≤ 128 ∧ [(1 : Byte), 2] ≠ [] ∧ (State.reset.homeRead (.glob 0x5000 (State.reset.hostKey 64)) 2).2.1 = false ∧ State.reset.pendAt (.glob 0x5000 (State.reset.hostKey 64)) = false ∧ ownAhead State.reset.msgs 0x5000 = false ∧ State.reset.collapsing 0x5000 = false ∧ Safety.Memories State.reset ∧
      State.reset.keyLive (State.reset.hostKey 64) = true ∧ State.reset.retiredAt 0x5000 = false ∧ State.reset.windowShut 0x5000 = false ∧ (State.reset.line (0x5000 / 128)).tag = State.reset.hostKey 64) ∧
    (((scrubbing 0 0 0).stack 0).scrubs = true ∧ ((scrubbing 0 0 0).stack 0).scrubbed < stackLines ∧ (let s := scrubbing (2 ^ 60) 0 0; (s.stack 0).passAt + ((s.stack 0).quarter + 1) * 2 ^ (s.stack 0).passlg / 4 ≤ s.dcc)) ∧
    (5 < 2 ^ 40 ∧ (0x10000000005000 : Word).toNat = 5 * 4096 + 2 ^ 52 ∧ 5 * 4096 < stackedEnd ∧ State.reset.mg.retired.length < 1024 ∧ 5 ∉ State.reset.mg.retired) ∧ State.reset.mg.mmTimes = [] ∧ 7 < 8 := by
  and_intros <;> first | exact memories_reset | exact (fun _ h => by cases h) | decide

def asState (f : Mgmt → Mgmt) : State := { State.reset with mg := f State.reset.mg }

/-- Meets the hypotheses of ResetsAndFirmwareTakeEffect. -/
theorem test_witness_resets :
    (∀ k ∈ [31, 64, 100, 32 + 0, 32 + 31], let s := asState fun g => { g with powered := true, powerStep := k }
      s.mg.powered = true ∧ s.mg.powerStep = k ∧ k < 101 ∧ ((k < 32 ∨ 64 ≤ k) ∨ ∃ crew < 32, k = 32 + crew)) ∧ (asState fun g => { g with powered := false }).mg.powered = false ∧
    ((asState fun g => { g with fwState := 0 }).mg.fwState = 0 ∧ (let s := { (asState fun g => { g with fwState := 0, fwSince := 1 }) with dcc := 2 ^ 32 + 1 }; s.mg.fwSince + 2 ^ 32 ≤ s.dcc)) ∧
    (State.reset.msgs = [] ∧ State.reset.queues = [] ∧ State.reset.fab.ops = [] ∧ State.reset.fab.pkts = [] ∧ State.reset.fab.uals = []) ∧ (0xFFFFFFFFFF < 2 ^ 40 ∧ (0xFFFFFFFFFF001 : Word).toNat = 0xFFFFFFFFFF * 4096 + 1 ∧ State.reset.mg.fwBusy = false) ∧ (asState fun g => { g with fwBusy := true }).mg.fwBusy = true := by
  decide

/-! ## Host queues -/

def work (Q : HQueue) : State := { State.reset with queues := [(5, Q)], mg := { State.reset.mg with fwState := 1 }, dcc := 2 ^ 20 }

def idle : HQueue := { HQueue.zero with cfg := 0x0040000010000006, cpl := 6 }

def running : HQueue := { idle with cfg := 0xC040000010000006, st := 1, tail := 1 }

def packetOf (op : Nat) : Pkt := { idx := 0, dw := BitVec.ofNat 64 op :: List.replicate 7 0, bufs := [(0x5000, 128, 1)], started := true, table := none, moved := none }

def done1 : Cpl := { tag := 0, status := 0, detail := 0, irq := true, write := true }

theorem rises_work (Q : HQueue) : Safety.Rises (work Q).queues := List.Pairwise.cons (fun _ h => by cases h) List.Pairwise.nil

theorem queue_work (Q : HQueue) : (work Q).queue 5 = Q := rfl

/-- Meets the hypotheses of HostQueuesTakeEffect. -/
theorem test_witness_queues :
    (let v : Word := 0x8040000010000006
     idle.st = 0 ∧ v.getLsbD 63 = true ∧ v.toNat / 2 ^ 55 % 2 ^ 7 = 0 ∧ v.toNat / 2 ^ 47 % 2 = 0 ∧ v.toNat / 2 ^ 5 % 2 ^ 23 = 0 ∧ (work idle).queueMayRun idle v = true) ∧
    (let v : Word := running.cfg &&& 0x7FFFFFFFFFFFFFFF
     running.st ≠ 0 ∧ running.cfg.getLsbD 63 = true ∧ v.toNat / 2 ^ 55 % 2 ^ 7 = 0 ∧ v.toNat / 2 ^ 47 % 2 = 0 ∧ v.toNat / 2 ^ 5 % 2 ^ 23 = 0) ∧
    ({ running with st := 3 }.st = 3 ∧ running.pkts = [] ∧ running.cpls = []) ∧
    (let v : Word := 64
     v.toNat < 2 ^ 32 ∧ (work running).mg.fwState = 1 ∧ running.st = 1 ∧ (v.setWidth 32 - running.head).toNat ≤ running.slots ∧ (v.setWidth 32 - running.tail).toNat ≤ running.slots) ∧
    ((work running).parseTurn 5 = true ∧ (work running).checkPacket (!running.cfg.getLsbD 62) ((work running).headPacket running) true = .error (0x10, 0) ∧
      (let s := { work running with host := [(0, 1)] }; s.parseTurn 5 = true ∧ s.checkPacket (!running.cfg.getLsbD 62) (s.headPacket running) true = .ok [])) ∧
    (let Q := { running with pkts := [{ packetOf 1 with started := false }] }
     Q.pkts.find? (fun x => x.idx == 0) = some { packetOf 1 with started := false } ∧ (work Q).startReady Q { packetOf 1 with started := false } = true) ∧
    (let Q := { running with cpls := [done1] }
     Q.cpls = [done1] ∧ (Q.cwrite - Q.chead).toNat < Q.entries ∧ (work Q).strayWrites = false ∧ NMap.get? ((work Q).func Q.fn).msix (Q.int.toNat / 2 ^ 32 % 2 ^ 11) = none) ∧
    (let Q := { running with oldest := some 3, live := 0x8000000000010001, counted := 1 }
     NMap.get? ((work Q).func Q.fn).msix (Q.live.toNat / 2 ^ 32 % 2 ^ 11) = none ∧
     (NMap.get? (((work Q).modFunc Q.fn fun f => { f with msix := [(0, { addr := 0x1000, data := 5, masked := false, pending := false })] }).func Q.fn).msix (Q.live.toNat / 2 ^ 32 % 2 ^ 11)).map (·.masked) = some false ∧
     Q.oldest = some 3 ∧ Q.live.getLsbD 63 = true ∧ 0 < Q.counted ∧ Q.live.toNat / 2 ^ 16 % 2 ^ 16 ≠ 0 ∧ 3 + Q.live.toNat / 2 ^ 16 % 2 ^ 16 * 1024 ≤ (work Q).dcc) :=
  by and_intros <;> first | exact errIs_eq (by decide +kernel) | exact okIs_eq (by decide +kernel) | decide +kernel

def cmoState (op : Nat) : State :=
  let s := mapped unitShift
  { s with queues := [(5, { running with pkts := [packetOf op] })] }

/-- Meets the hypotheses of HostQueuesTakeEffect. -/
theorem test_witness_packets :
    ((cmoState 2).queue 5).pkts.find? (fun x => x.idx == 0) = some (packetOf 2) ∧ (packetOf 2).hd % 256 = 2 ∧ (packetOf 2).started = true ∧ ((cmoState 2).ctx ((cmoState 2).queue 5).ctx).frzState = 0 ∧
    (let b := (packetOf 2).bufs.headD (0, 0, 0)
     (∃ t, (cmoState 2).walkRange ((cmoState 2).queue 5).ctx (b.2.1 / 4096 + 2) b.1 b.2.1 = .ok t) ∧ ∃ f, { State.reset with queues := (cmoState 2).queues }.walkRange ((cmoState 2).queue 5).ctx (b.2.1 / 4096 + 2) b.1 b.2.1 = .error f) ∧
    (packetOf 3).hd % 256 = 3 ∧ ((cmoState 3).adit (packetOf 3).aditx.2.1).cur ≠ 1 ∧ ((cmoState 3).adit (packetOf 3).aditx.2.1).cur ≠ 2 ∧ ((cmoState 3).ctx (((cmoState 3).queue 5).cfg.toNat / 2 ^ 28 % 4096)).frzState = 0 :=
  by and_intros <;> first | exact ok_of (by decide +kernel) | exact error_of_fails (by decide +kernel) | decide +kernel

/-- A transfer of eight bytes between the buffer at 0x5000 and port 1 of adit 0, which is UP in UAL with that port. -/
def mover (receives : Bool) : Pkt := { packetOf 3 with dw := [3, 0x5000, BitVec.ofNat 64 (2 ^ 14 + (if receives then 2 ^ 16 else 0) + 8 * 2 ^ 32), 0, 0, 0, 0, 0] }

def moving (receives : Bool) : State :=
  let s := mapped unitShift
  { s with queues := [(5, { running with pkts := [mover receives] })], fab := { s.fab with adits := s.fab.adits.set 0 { s.fab.adits[0] with st := 1, cur := 1, ports := 2 } } }

/-- Meets the hypotheses of HostQueuesTakeEffect: a piece of a transfer, and its last. -/
theorem test_witness_transfer_pieces :
    (∀ r, let s := moving r
      ((s.queue 5).pkts.find? fun x => x.idx == 0) = some (mover r) ∧ (mover r).hd % 256 = 3 ∧ (mover r).started = true ∧ (s.ctx 1).frzState = 0 ∧ (s.queue 5).cfg.toNat / 2 ^ 28 % 4096 = 1 ∧
      (s.adit (mover r).aditx.2.1).cur = 1 ∧ (s.adit (mover r).aditx.2.1).st = 1 ∧ (s.adit (mover r).aditx.2.1).ports.getLsbD (mover r).aditPort = true ∧ (mover r).aditx.2.2.1 = r ∧
      (mover r).aditx.1 = 0x5000 ∧ (mover r).aditx.2.2.2 = 8 ∧ 4 ≤ 32 - 0x5000 % 32 ∧ 8 ≤ 32 - 0x5000 % 32) ∧
    ((moving true).virtPend 1 0x5000 = false ∧ ∃ t, (moving true).virtPut partUnit 1 0x5000 [1, 2, 3, 4] = .ok t) ∧ ∃ bs, (moving false).virtBytes partUnit 1 0x5000 4 false = .ok bs := by
  refine ⟨?_, ⟨by decide +kernel, ok_of (by decide +kernel)⟩, ok_of (by decide +kernel)⟩
  intro r
  cases r <;> decide +kernel

/-! ## Graphs and freezes -/

def launcher (addr : Nat) : Pkt := { idx := 0, dw := 1 :: BitVec.ofNat 64 addr :: List.replicate 6 0, bufs := [], started := true, table := none, moved := none }

def launchState (addr : Nat) : State :=
  let s := (mapped unitShift).storeQuiet (.glob 0x30000 0) (bytesOf 8 (0x47525048 * 2 ^ 32 + 0x10000) ++ bytesOf 8 1 ++ bytesOf 8 0x140)
  { s with queues := [(5, { HQueue.zero with cfg := 0xC040000010000006, st := 1, pkts := [launcher addr] })] }

/-- Meets the hypotheses of GraphsAndFreezesTakeEffect. -/
theorem test_witness_launch :
    (∀ a, ((launchState a).queue 5).pkts.find? (fun z => z.idx == 0) = some (launcher a)) ∧ (launchState 0x30000).launchReady 5 (launcher 0x30000) = true ∧ (launchState 0x31000).launchReady 5 (launcher 0x31000) = true ∧
    (let c := ((launchState 0x30000).queue 5).cfg.toNat
     (∃ T, (launchState 0x30000).readTable (c / 2 ^ 28 % 2 ^ 12) (launcher 0x30000).launchAddr 5 0 (c / 2 ^ 40 % 2 ^ 7) = .ok T) ∧ (launchState 0x30000).freeTable = some 0 ∧
      (launchState 0x31000).readTable (c / 2 ^ 28 % 2 ^ 12) (launcher 0x31000).launchAddr 5 0 (c / 2 ^ 40 % 2 ^ 7) = .error (1, 0x0B)) :=
  ⟨fun _ => rfl, by decide +kernel, by decide +kernel, ok_of (by decide +kernel), by decide +kernel, errIs_eq (by decide +kernel)⟩

/-- node entries: a kernel of one stage on crew 0 with one bank and its image at 0x20000; a condition on the dword at 0x30000, which is not zero, with one node to go on to -/
def kernel1 (image : Nat) (st : Nat) : Node :=
  { dw := [0, 0, 0x100000000, 0, 0, 0, 0, 0, 0x101, 0, 0, 1, 0, 0, 0, BitVec.ofNat 64 image] ++ List.replicate 16 0, status := 0, state := st, iter := 0, pred := 0, ready := 0, checked := false, cond := false, images := [], placed := [] }

def cond1 (addr lo hi : Nat) : Node :=
  { dw := [0x4000000000000000, 0, 0, 0, 0, 0, 0, 0, BitVec.ofNat 64 addr, 0, BitVec.ofNat 64 (lo * 2 ^ 16 + hi * 2 ^ 32)] ++ List.replicate 21 0, status := 0, state := 2, iter := 0, pred := 0, ready := 0, checked := false, cond := false, images := [], placed := [] }

def tableOf (x : Node) : GTable := { ctx := 1, addr := 0x30000, bytes := List.replicate 40 0, nodes := [x], edges := [], queue := 5, pkt := 0, prioCap := 127, samples := [], windows := [(0, 0)], moves := [], fails := [] }

def graph (x : Node) : State := { ((mapped unitShift).storeQuiet (.glob 0x20000 0) imageBytes).storeQuiet (.glob 0x30000 0) [1] with tables := [(0, tableOf x)], shifts := [], dcc := 1 }

def halted1 : Node := kernel1 0x20000 3

theorem tables_graph (x : Node) : (graph x).table? 0 = some (tableOf x) ∧ (graph x).node? 0 0 = some x ∧ ((graph x).ctx (tableOf x).ctx).frzState = 0 := ⟨rfl, rfl, by show ((graph (kernel1 0 2)).ctx 1).frzState = 0; decide +kernel⟩

/-- Meets the hypotheses of GraphsAndFreezesTakeEffect. -/
theorem test_witness_nodes :
    (let x := kernel1 0x21000 2
     x.state = 2 ∧ x.kind = 0 ∧ x.checked = false ∧ x.ready < (graph x).dcc ∧ (graph x).earlierUnchecked (0, 0, x) = false ∧ ∃ e, (graph x).checkNode (tableOf x) x = .error e) ∧
    (let x := kernel1 0x20000 2
     x.state = 2 ∧ x.kind = 0 ∧ ∃ y, (graph x).checkNode (tableOf x) x = .ok y ∧ ((graph x).earlierClash (0, 0, y) (tableOf x).ctx == []) = true) ∧
    (let x := cond1 0x30000 1 0
     x.state = 2 ∧ x.kind = 1 ∧ (x.d 10 / 2 ^ 32 % 2 ^ 16 < x.d 10 / 2 ^ 16 % 2 ^ 16)) ∧
    (let x := cond1 0x4000000000 0 0
     x.kind = 1 ∧ x.d 10 % 8 ≤ 5 ∧ x.d 10 / 2 ^ 32 % 2 ^ 16 < (tableOf x).nodes.length ∧ ∃ f, (graph x).virtBytes partUnit (tableOf x).ctx x.condaddr 8 false = .error f) ∧
    (let x := cond1 0x30000 0 0
     x.kind = 1 ∧ x.d 10 % 8 ≤ 5 ∧ x.d 10 / 2 ^ 16 % 2 ^ 16 ≤ x.d 10 / 2 ^ 32 % 2 ^ 16 ∧ x.d 10 / 2 ^ 32 % 2 ^ 16 < (tableOf x).nodes.length ∧
      (graph x).virtBytes partUnit (tableOf x).ctx x.condaddr 8 false = .ok [1, 0, 0, 0, 0, 0, 0, 0] ∧ condCode (x.d 10 % 8) (BitVec.ofNat 64 (number [1, 0, 0, 0, 0, 0, 0, 0])) (BitVec.ofNat 64 (x.d 9)) = false) ∧
    ((graph halted1).completeReady 0 0 (tableOf halted1) halted1 = true ∧ { graph halted1 with dcc := 5 }.windowOver (tableOf halted1) 0 halted1 = true) := by
  refine ⟨⟨?_, ?_, ?_, ?_, ?_, error_of_fails ?_⟩, ⟨?_, ?_, okWith_of ?_⟩, ?_, ⟨?_, ?_, ?_, error_of_fails ?_⟩, ⟨?_, ?_, ?_, ?_, okIs_eq ?_, ?_⟩, ?_⟩ <;> decide +kernel

def ripe : Node := match (graph (kernel1 0x20000 2)).checkNode (tableOf (kernel1 0x20000 2)) (kernel1 0x20000 2) with | .ok y => { y with checked := true } | .error _ => kernel1 0 2

/-- Meets the hypotheses of GraphsAndFreezesTakeEffect. -/
theorem test_witness_dispatch : (graph halted1).dispatchOrder = [] ∧ (graph ripe).dispatchOrder = [(0, 0, ripe)] ∧ (graph ripe).table? 0 = some (tableOf ripe) ∧ (graph ripe).node? 0 0 = some ripe ∧ ripe.state = 2 ∧ (graph ripe).switchedOut = [] ∧ (graph ripe).earlierClash (0, 0, ripe) 1 = [] ∧
   ((graph ripe).plan (tableOf ripe) ripe).isSome = true := by decide +kernel

/-- The image of imageBytes with one footprint, 256 bytes of GLOB at 0x40000 in mode WR. -/
def writerBytes : List Byte :=
  bytesOf 8 (0x4B485046 * 2 ^ 32 + 2 * 256) ++ bytesOf 8 (0x200 * 2 ^ 32 + 0x100) ++ bytesOf 8 1000 ++ bytesOf 8 (2 ^ 48 + 0x80) ++ bytesOf 8 0 ++ bytesOf 8 (2 ^ 48 + 0xC0) ++
  List.replicate 80 0 ++ bytesOf 8 (2 ^ 32 + 0x100) ++ bytesOf 8 0x100 ++ List.replicate 48 0 ++ bytesOf 8 12 ++ bytesOf 8 0x40000 ++ bytesOf 8 0x100 ++ bytesOf 8 1 ++
  List.replicate 32 0

/-- A running node and a ready one, both of the image at 0x22000. -/
def writers (first : Node) : State :=
  { (mapped unitShift).storeQuiet (.glob 0x22000 0) writerBytes with
    dcc := 1,
    tables := [(0, { tableOf first with nodes := [first, kernel1 0x22000 2] })] }

def writer : Node := match (writers (kernel1 0x22000 3)).checkNode (tableOf (kernel1 0x22000 3)) (kernel1 0x22000 3) with | .ok y => y | .error _ => kernel1 0 3

/-- Meets the hypotheses of GraphsAndFreezesTakeEffect: a node whose footprint meets that of a running one. -/
theorem test_witness_clash :
    let s := writers writer
    let x := kernel1 0x22000 2
    (s.node? 0 1 = some x ∧ x.state = 2 ∧ x.kind = 0 ∧ x.checked = false ∧ x.ready < s.dcc ∧ s.earlierUnchecked (0, 1, x) = false) ∧
      ∃ y, s.checkNode (tableOf writer) x = .ok y ∧ (s.earlierClash (0, 1, y) 1 == [(0, 0)]) = true :=
  ⟨by decide +kernel, okWith_of (by decide +kernel)⟩

def freezing (st : Nat) : State := State.reset.modCtx 1 fun c => { c with frzState := st }

theorem body_length (s : State) (ctx : Nat) (h : s.ctxShifts ctx = []) : (s.imageBody ctx).length = 0x40000 + (s.sharedSection ctx).length := by
  simp only [State.imageBody, h, List.length_append, padTo_length, List.flatMap_nil, List.length_nil]

theorem freezing_body : ((freezing 1).imageBody 1).length ≤ 0x80000 := by
  rw [body_length _ _ rfl]
  exact Nat.add_le_add_left (show ((freezing 1).sharedSection 1).length ≤ 0x40000 by decide +kernel) 0x40000

theorem sealed_length (bs : List Byte) (m n : Nat) : (sealImage bs m n).length ≤ bs.length + 0x60 := by
  have := sha256_length (digestBytes bs m n)
  unfold sealImage
  rw [List.length_append, List.length_append, List.length_take, List.length_drop]
  omega

/-- An image below stacked memory's end, in a part with nothing retired and nothing left off, can be written. -/
theorem writable_of {s : State} {n : Nat} (hr : s.mg.retired = []) (ho : s.mg.off = []) (h : n ≤ stackedEnd) : s.frzUnwritable 0 n = false := by
  unfold State.frzUnwritable
  rw [List.any_eq_false]
  intro k _
  by_cases hk : 4096 * k < n
  · have h1 : 4096 * k < stackedEnd := by omega
    simp [State.memThere, State.retiredAt, State.windowShut, State.stackOff, hr, ho, h1]
  · simp [hk]

def freezingImage : List Byte := sealImage ((freezing 1).imageBody 1) ((freezing 1).ctxQueues 1).length ((freezing 1).ctxShifts 1).length

theorem freezing_writable : (freezing 1).frzUnwritable ((freezing 1).frzBase 1) freezingImage.length = false := by
  rw [show (freezing 1).frzBase 1 = 0 by decide]
  have h1 := sealed_length ((freezing 1).imageBody 1) ((freezing 1).ctxQueues 1).length ((freezing 1).ctxShifts 1).length
  exact writable_of rfl rfl (Nat.le_trans h1 (Nat.le_trans (Nat.add_le_add_right freezing_body _) (by decide)))

theorem freezing_ready (n : Nat) : ((freezing 1).ctx 1).frzState = 1 ∧ (freezing 1).freezeQuiet 1 = true ∧ (freezing 1).frzTooBig 1 = false ∧
    (freezing 1).frzWaits ((freezing 1).frzBase 1) n = false :=
  ⟨rfl, by decide, by decide, by simp [State.frzWaits, show (freezing 1).lines = [] from rfl]⟩

/-- Meets the hypotheses of GraphsAndFreezesTakeEffect. -/
theorem test_witness_freezes :
    ((1 : Word).getLsbD 0 = true ∧ State.reset.ctxfrzBad 1 1 = false ∧ (2 : Word).getLsbD 1 = true ∧ (freezing 2).ctxfrzBad 1 2 = false) ∧
    (((freezing 1).ctx 1).frzState = 1 ∧ (freezing 1).freezeQuiet 1 = true ∧ (freezing 1).frzTooBig 1 = false ∧
      (freezing 1).frzWaits ((freezing 1).frzBase 1) freezingImage.length = false) ∧
    (freezing 1).frzUnwritable ((freezing 1).frzBase 1) freezingImage.length = false ∧
    (Safety.Rises (freezing 3).ctxs ∧ ((freezing 3).ctx 1).frzState = 3) :=
  ⟨by decide, freezing_ready _, freezing_writable, List.Pairwise.cons (fun _ h => by cases h) List.Pairwise.nil, rfl⟩

/-! ## Steps -/

def placed (w : Nat) : State := State.reset.withFetchWord 64 w

def laid (w : Nat) : State := { State.resume { { placed w with agenda := [] } with turn := 1 } 0 with cur := { Cur.zero with sh := some 0 } }

def placedX : Shift := ((laid 0).sh? 0).getD Shift.zero

/-- The state after the translations of the fetch have been used. -/
def used (w : Nat) : State := ((laid w).fetchUse placedX).getD State.reset

theorem getD_of {α : Type} {o : Option α} {d : α} (h : o.isSome = true) : o = some (o.getD d) := by
  cases o with | some a => rfl | none => cases h

def soleWord (i : Instr) : DWord := { ginv := false, gn := 0, ops := [i], stall := 0, vec := false }

/-- The state at which the word's bundle is checked. -/
def held0 (w : Nat) : State := { used w with cur := { Cur.zero with sh := some 0, at_ := placedX.regs.pc, npc := placedX.regs.pc + 8, stall := 0 } }

/-- The state at which the word's checks run. -/
def runs (w : Nat) : State := { held0 w with cur := { (held0 w).cur with raw := BitVec.ofNat 64 w } }

def fetched (w : Nat) (i : Instr) : Fetched := { words := [(soleWord i, BitVec.ofNat 64 w)], stall := 0 }

def verdictOf (o : Out) : Nat := match o with | .next t => t.cur.verdict | _ => 9

/-- The hypotheses of a step on a word that is one instruction. -/
def Ready (w : Nat) (i : Instr) (v : Nat) : Prop :=
  ((placed w).mg.powered = true ∧ (placed w).agenda = [.cycle] ∧ ({ placed w with agenda := [] }).nextCore = some (0, 0)) ∧ AtBoundary (laid w) 0 placedX ∧
    (laid w).fetchUse placedX = some (used w) ∧ (used w).codeBytes placedX (placedX.img.base.toNat + placedX.regs.pc) = .ok (bytesOf 8 w) ∧
    (placedX.img.start ≤ placedX.regs.pc ∧ placedX.regs.pc + 8 ≤ placedX.img.lim ∧ BitVec.ofNat 64 w = BitVec.ofNat 64 (ofLE (bytesOf 8 w)) ∧ (BitVec.ofNat 64 w).getLsbD 63 = true) ∧
    decodeWord placedX.img.ev (BitVec.ofNat 64 w) = some (soleWord i) ∧
    (liveOk placedX i = true ∧ tenantKey i = none ∧ placedX.guardOf (soleWord i) = true ∧ (held0 w).routineHeld 0 placedX (fetched w i) = false ∧
      (held0 w).heldBefore 0 placedX (fetched w i) = false ∧ placedX.shadowRead (fetched w i) = none ∧ (held0 w).x.delayedAt i = none ∧ verdictOf (exec i (runs w)) = v)

def brkWord : Nat := ((encode (.brk 7)).getD 0).toNat

/-- Meets the hypotheses of StepRunsTheDecodedWord, for a word that takes effect. -/
theorem test_witness_step_runs : Ready 0x807520C400000000 (.cmp .lt 2 3 4) 0 := by
  unfold Ready AtBoundary
  refine ⟨by decide +kernel, by decide +kernel, ?_, okIs_eq (by decide +kernel), by decide +kernel, rfl, by decide +kernel⟩
  exact getD_of (by decide +kernel)

/-- Meets the hypotheses of StepRunsTheDecodedWord, for a word that traps. -/
theorem test_witness_step_traps : Ready brkWord (.brk 7) 2 := by
  unfold Ready AtBoundary
  refine ⟨by decide +kernel, by decide +kernel, ?_, okIs_eq (by decide +kernel), by decide +kernel, rfl, by decide +kernel⟩
  exact getD_of (by decide +kernel)

/-- Meets the hypotheses of StepRunsTheDecodedWord, for a move of the agenda: of a part that is powered up, and of one that is not. -/
theorem test_witness_agenda : { placed 0 with agenda := [.act (.land 0), .cycle] }.agenda = .act (.land 0) :: [.cycle] ∧ (placed 0).allows (.land 0) = true ∧
    { placed 0 with mg := { (placed 0).mg with powered := false } }.allows (.land 0) = false ∧
    ∃ t, exec (.land 0) { placed 0 with agenda := [.cycle], cur := Cur.zero } = .next t := ⟨rfl, rfl, rfl, _, rfl⟩

/-- The placed state in the middle of a power-on sequence, in which nothing of the part's own is due. -/
def starting (w : Nat) : State := { placed w with agenda := [], mg := { (placed w).mg with powerStep := 5 } }

/-- Meets the hypotheses of StepRunsTheDecodedWord, for a state with an empty agenda. -/
theorem test_witness_idle : (starting 0).due = none ∧ (starting 0).mg.powered = true ∧ (starting 0).nextCore = some (0, 0) := by
  refine ⟨?_, by decide +kernel⟩
  exact Option.isNone_iff_eq_none.1 (by decide +kernel)

def loopState (n : Word) : State := passed (withS unitShift [(9, n)])

/-- Meets the hypotheses of LoopsCountDownAndTransfer. -/
theorem test_witness_loops : (loopState 1).cur.checked = true ∧ ((loopState 5).sh? 0).isSome = true ∧ { loopState 5 with cur := { (loopState 5).cur with taken := some 0x110 } }.cur.taken = some 0x110 ∧ 
   (({ loopState 5 with cur := { (loopState 5).cur with taken := some 0x110 } }.endBundle 0).sh? 0).isSome = true := by decide

/-- Meets the hypotheses of EncodeDecodeRoundTrip. -/
theorem test_witness_encode : ∃ w, encode (.loop 9 0xFFFFFFF8) = some w ∧ decodeTableWord 64 w.toNat = some (.loop 9 0xFFFFFFF8) ∧ Instr.wf (.loop 9 0xFFFFFFF8) = true := ⟨_, rfl, by decide, by decide⟩

def waiting : State := { one unitShift with waiters := [{ sh := 0, unit := 0, why := .ge (.crew 0 0x40) true false 5, answer := none, data := [], bad := none }], agenda := [.cycle] }

/-- Meets the hypotheses of StepLeavesNoWaiterPastItsValue. -/
theorem test_witness_waiter : NoneWaitsPast waiting ∧ ∃ t, step waiting = .next t := by
  refine ⟨?_, _, rfl⟩
  intro w hw h d sg thr e _ _
  have : w = { sh := 0, unit := 0, why := .ge (.crew 0 0x40) true false 5, answer := none, data := [], bad := none } := by
    cases hw with | head => rfl | tail _ h => cases h
  subst this; cases e; decide

/-! ## The checks of a local access -/

/-- The first check of Table 9.7 that one byte of an access to PAD, CREW or CHIP fails; 9 where it passes all. -/
def firstFailure (s : State) (i : Nat) (x : Shift) (k : Acc) (sc : Scope) (sp : Space) (ea : Int) : Nat :=
  let c := x.place.core
  let inSlot := s.inRingSlots sp c ea.toNat
  if ea < 0 ∨ (spLimit sp : Int) < ea + 1 then 1
  else if sp = .pad ∧ ownsBank x.place.banks ea.toNat = false then 2
  else if (sp = .pad ∧ inSaveArea x.place.banks ea.toNat = true) ∨ s.inRingHeader sp c ea.toNat = true then 3
  else if inSlot = false ∧ x.modesAt sp ea = [] then 4
  else if inSlot = false ∧ (∀ m ∈ x.modesAt sp ea, k.permitted m = false) then 5
  else if k.sync = true ∧ inSlot = false ∧ 2 ∈ x.modesAt sp ea ∧ scRank sc < s.requiredScope x.place.ctx sp c ea false then 6
  else if inSlot = true ∧ (k.sync = true ∨ x.holdsSlotAt sp ea.toNat = false) then 7
  else if s.jobClash i x k sp ea 1 = true then 8
  else 9

/-- One byte lies in an access of one byte. -/
theorem one_byte (p : Int → Prop) (ea : Int) : (∃ b : Int, ea ≤ b ∧ b < ea + ((1 : Nat) : Int) ∧ p b) ↔ p ea := by
  constructor
  · rintro ⟨b, h1, h2, h3⟩
    have : b = ea := by omega
    exact this ▸ h3
  · exact fun h => ⟨ea, Int.le_refl _, by omega, h⟩

/-- A job that reads and writes CREW from 0x100 to 0x140. -/
def copyJob : Job :=
  { (one unitShift).newJob .nop 0 0 0 0 0 8 with
    reads := [runFoot .crew 0x100 0x40 1 0],
    writes := [runFoot .crew 0x140 0x40 1 0] }

/-- A ring of four slots of 256 bytes in PAD from 0x400. -/
def ringedPad : State :=
  { one (held false false) with
    pad := Mem.put [] 0x400 [3, 8],
    rings := [{ space := 1, dom := 0, base := 0x400, table := 0, node := 0, decl := true }] }

/-- Each clause of LocalChecksNameTheFirstFailure at a boundary of its range. -/
theorem test_witness_checks :
    [firstFailure (one unitShift) 0 unitShift .read .shift .pad (-1), firstFailure (one unitShift) 0 unitShift .read .shift .pad 0x100000,
      firstFailure (one unitShift) 0 unitShift .read .shift .pad 0x8000, firstFailure (one unitShift) 0 unitShift .read .shift .pad 0x3000,
      firstFailure (one unitShift) 0 unitShift .read .shift .crew 0x2000, firstFailure (one unitShift) 0 unitShift .write .shift .crew 0x1000,
      firstFailure (one unitShift) 0 unitShift .rel .shift .crew 0xFFF] = [1, 1, 2, 3, 4, 5, 9] := by decide +kernel

/-- Meets the hypotheses of LocalChecksNameTheFirstFailure. -/
theorem test_witness_scope_check :
    [Scope.shift, .crew].map (fun sc => firstFailure { one unitShift with shifts := [(0, unitShift), (8, { unitShift with place := { unitShift.place with index := 1 } })] } 0 unitShift .acq sc .crew 0x1000) = [6, 9] := by
  decide +kernel

/-- Meets the hypotheses of LocalChecksNameTheFirstFailure. -/
theorem test_witness_slot_check : [(0x47F : Int), 0x480, 0x880].map (fun a => firstFailure ringedPad 0 (held false false) .read .shift .pad a) = [3, 7, 9] := by decide +kernel

/-- Meets the hypotheses of LocalChecksNameTheFirstFailure. -/
theorem test_witness_job_check :
    [((.write : Acc), (0x100 : Int)), (.read, 0x100), (.read, 0x140), (.read, 0x180)].map
      (fun a => firstFailure { one unitShift with jobs := [copyJob] } 0 unitShift a.1 .shift .crew a.2) = [8, 9, 8, 9] := by decide +kernel

end Sys2Proof.Tests
end

/-!
Registers, host accesses, scrubbing and limits (R4, R17, R376 to R387, R402): the rules about the management state, about memory whose chunks are
zeroed, and about a host access of one line; then one lemma per event of the statement.
-/
namespace Sys2Proof.Machine

/-! ## Numbers and bytes -/

theorem mem_upto {a n k : Nat} : k ∈ upto a n ↔ a ≤ k ∧ k < a + n := by
  induction n generalizing a with
  | zero => simp only [upto, List.not_mem_nil, false_iff]; omega
  | succ n ih => simp only [upto, List.mem_cons, ih]; omega

/-- The two readings of R2: bytes by repeated division, and byte by byte. -/
theorem leBytes_eq_bytesOf (n x : Nat) : leBytes n x = Claims.bytesOf n x := by
  induction n generalizing x with
  | zero => rfl
  | succ n ih =>
    simp only [leBytes, ih, Claims.bytesOf, List.range_succ_eq_map, List.map_cons, List.map_map, Nat.pow_zero, Nat.div_one, List.cons.injEq, true_and]
    refine List.map_congr_left fun j _ => ?_
    simp [Nat.pow_succ', Nat.div_div_eq_div_mul]

theorem Mem.bytes_length (m : Mem) (a n : Nat) : (m.bytes a n).length = n := by
  induction n generalizing a with
  | zero => rfl
  | succ n ih => simp [Mem.bytes, ih]

theorem wbits_of_lt {v : Word} {n : Nat} (h : v.toNat < 2 ^ n) : wbits v 0 n = v.toNat := by
  simp [wbits, nbits, Nat.mod_eq_of_lt h]

/-- A saturating count stops at its largest value. -/
theorem satAdd_eq_min (w n k : Nat) : satAdd w n k = min (n + k) (2 ^ w - 1) := by
  unfold satAdd; split <;> omega

/-! ## Register writes (R4, R17) -/

/-- A field of 12 bits leaves the reserved bits above it 0. -/
theorem and_reserved_of_lt {v : Word} (h : v.toNat < 4096) : v &&& ~~~0xFFF = 0 := by
  refine BitVec.eq_of_getLsbD_eq fun i hi => ?_
  have above : v.getLsbD i = true → i < 12 := fun set => by
    have := Nat.ge_two_pow_of_testBit set
    exact (Nat.pow_lt_pow_iff_right (by decide : 1 < 2)).1 (by omega : 2 ^ i < 2 ^ 12)
  rw [show (0xFFF : Word) = (BitVec.allOnes 12).setWidth 64 from rfl, BitVec.getLsbD_and, BitVec.getLsbD_not, BitVec.getLsbD_setWidth, BitVec.getLsbD_allOnes]
  simpa [hi] using above

theorem State.masked_of_lt (s t : State) {v : Word} (h : v.toNat < 4096) : s.masked v (~~~0xFFF) t = t :=
  if_neg fun set => set (and_reserved_of_lt h)

/-- A register-access error is counted and logged, and changes nothing else. -/
theorem State.refused_regErr (s : State) : Claims.Refused s s.regErr := ⟨rfl, satAdd_eq_min .., rfl⟩

/-- Every function reads past its window as zeros. -/
theorem execRegisterRead_outside (s : State) {fn off : Nat} (width : Nat) (h : s.windowReads fn off = false) :
    execRegisterRead fn off width s = .next { s.regErr with replies := s.replies ++ [zeros width] } := by
  simp [execRegisterRead, h]

theorem execRegisterRead_value (s : State) {fn off width : Nat} {v : Word} (shape : width = 8 ∧ off % 8 = 0 ∨ width = 4 ∧ off % 4 = 0)
    (h : s.windowReads fn off = true) (hv : s.register (off / 8 * 8) = some v) :
    execRegisterRead fn off width s = .next { s with replies := s.replies ++ [(leBytes 8 v.toNat).drop (off % 8) |>.take width] } := by
  simp only [execRegisterRead, h, hv]
  rcases shape with ⟨hw, ho⟩ | ⟨hw, ho⟩ <;> simp [hw, ho]

theorem execRegisterWrite_bbsel (s : State) {v : Word} (h : v.toNat < 4096) :
    execRegisterWrite 64 0x7508 8 v s = .next { s with mg := { s.mg with bbsel := v.toNat } } :=
  calc execRegisterWrite 64 0x7508 8 v s
    _ = .next (s.masked v (~~~0xFFF) (s.modMg fun g => { g with bbsel := wbits v 0 12 })) := rfl
    _ = .next (s.modMg fun g => { g with bbsel := v.toNat }) := by rw [State.masked_of_lt _ _ h, wbits_of_lt h]

theorem execRegisterWrite_misaligned (s : State) (fn : Nat) {off : Nat} (v : Word) (h : off % 8 ≠ 0) (key : off / 8 ≠ 0x5408 / 8) :
    execRegisterWrite fn off 8 v s = .next s.regErr := by
  simp only [execRegisterWrite]
  rw [if_pos (.inr (.inl h)), if_neg fun e => key e.2]

/-- IDPKG is written where every adit that is up carries memory (R18, R292). -/
theorem State.writeIdpkg_free (s : State) {v : Word} (h : v.toNat < 4096) (free : ∀ m, (Claims.aditNow s m).st ≠ 1 ∨ (Claims.aditNow s m).cur = 0) :
    s.writeIdpkg v = { s with mg := { s.mg with idpkg := v.toNat } } := by
  have none_up : ¬(upto 0 36).any (fun n => (s.adit n).st == 1 && (s.adit n).cur != 0) = true := by
    simp only [List.any_eq_true, not_exists, not_and]
    intro n hn
    have lt : n < 36 := by have := mem_upto.1 hn; omega
    have now : s.adit n = Claims.aditNow s ⟨n, lt⟩ := by simp [State.adit, Claims.aditNow, lt]
    rw [now]
    rcases free ⟨n, lt⟩ with h | h <;> simp [h]
  unfold State.writeIdpkg
  rw [if_neg none_up, State.masked_of_lt _ _ h, wbits_of_lt h]
  rfl

/-! ## Chunks of memory zeroed (R402) -/

/-- Dropping entries by their keys keeps a memory above its bound. -/
theorem Mem.filter_above (m : Mem) (p : Nat → Bool) (lo : Option Nat) (h : Mem.above lo m = true) : Mem.above lo (m.filter fun c => p c.1) = true := by
  induction m generalizing lo with
  | nil => rfl
  | cons e m ih =>
    obtain ⟨k, b⟩ := e
    obtain ⟨hlo, hb, hm⟩ := (Mem.above_cons ..).1 h
    rw [List.filter_cons]
    split
    · exact (Mem.above_cons ..).2 ⟨hlo, hb, ih _ hm⟩
    · cases lo with
      | none => exact Mem.above_none (ih _ hm)
      | some l => exact Mem.above_mono (ih _ hm) (hlo l rfl)

/-- Where entries are dropped by their keys, what is dropped reads as unlisted and what is kept as before. -/
theorem Mem.get_filter (m : Mem) (p : Nat → Bool) (lo : Option Nat) (h : Mem.above lo m = true) (a : Nat) :
    Mem.get (m.filter fun c => p c.1) a = if p a then Mem.get m a else unlisted := by
  induction m generalizing lo with
  | nil => simp [Mem.get]
  | cons e m ih =>
    obtain ⟨k, b⟩ := e
    obtain ⟨-, -, hm⟩ := (Mem.above_cons ..).1 h
    have below : a ≤ k → Mem.get m a = unlisted := Mem.get_above hm
    rw [List.filter_cons]
    by_cases hk : p k = true
    · simp only [hk, if_true, Mem.get, ih _ hm]; grind
    · simp only [hk, Bool.false_eq_true, if_false, Mem.get, ih _ hm]; grind

@[simp] theorem State.zeroChunk_mg (s : State) (n : Nat) : (s.zeroChunk n).mg = s.mg := rfl

theorem State.zeroChunk_wf {s : State} (n : Nat) (h : s.glob.wf = true) : (s.zeroChunk n).glob.wf = true :=
  Mem.filter_above s.glob (fun a => !inChunk n a) none h

theorem State.get_zeroChunk {s : State} (n a : Nat) (h : s.glob.wf = true) (lt : a < stackedEnd) :
    (s.zeroChunk n).glob.get a = if a / 2 ^ 36 = n then 0 else s.glob.get a := by
  refine (Mem.get_filter s.glob (fun a => !inChunk n a) none h a).trans ?_
  simp [inChunk, lt, unlisted]

/-- The chunks of a list whose bits differ are zeroed; the others keep their bytes, and the management fields are kept. -/
theorem State.zeroChunks_fold (old new : BitVec 12) (l : List Nat) (s : State) (h : s.glob.wf = true) :
    let t := l.foldl (fun (s : State) n => if old.getLsbD n == new.getLsbD n then s else s.zeroChunk n) s
    t.mg = s.mg ∧ ∀ a, a < stackedEnd →
      t.glob.get a = if a / 2 ^ 36 ∈ l ∧ old.getLsbD (a / 2 ^ 36) ≠ new.getLsbD (a / 2 ^ 36) then 0 else s.glob.get a := by
  induction l generalizing s with
  | nil => simp
  | cons n l ih =>
    rw [List.foldl_cons]
    by_cases same : old.getLsbD n = new.getLsbD n
    · rw [if_pos (beq_iff_eq.2 same)]
      obtain ⟨mg, get⟩ := ih s h
      refine ⟨mg, fun a lt => (get a lt).trans ?_⟩
      simp only [List.mem_cons]; grind
    · rw [if_neg (mt beq_iff_eq.1 same)]
      obtain ⟨mg, get⟩ := ih _ (State.zeroChunk_wf n h)
      refine ⟨mg, fun a lt => (get a lt).trans ?_⟩
      rw [State.get_zeroChunk n a h lt]
      simp only [List.mem_cons]; grind

/-- MEMIL is written where no context has a root table, and zeroes the chunks whose bits change (R402). -/
theorem State.writeMemil_free (s : State) {v : Word} (mem : s.glob.wf = true) (h : v.toNat < 4096) (free : ∀ c ∈ s.ctxs, c.2.rt.getLsbD 63 = false) :
    (s.writeMemil v).mg.dil = v.setWidth 12 ∧
      ∀ a, a < stackedEnd → (s.writeMemil v).glob.get a = if v.getLsbD (a / 2 ^ 36) = s.mg.dil.getLsbD (a / 2 ^ 36) then s.glob.get a else 0 := by
  have none_rooted : ¬s.ctxs.any (fun c => c.2.rt.getLsbD 63) = true := by simpa using free
  have field : v.extractLsb' 0 12 = v.setWidth 12 := by simp [BitVec.setWidth_eq_extractLsb']
  have eq : s.writeMemil v = (s.zeroChunks s.mg.dil (v.setWidth 12)).modMg fun g => { g with dil := v.setWidth 12 } := by
    unfold State.writeMemil
    rw [if_neg none_rooted, State.masked_of_lt _ _ h, field]
  rw [eq]
  refine ⟨rfl, fun a lt => ?_⟩
  have chunk : a / 2 ^ 36 < 12 := Nat.div_lt_of_lt_mul lt
  have bit : (v.setWidth 12).getLsbD (a / 2 ^ 36) = v.getLsbD (a / 2 ^ 36) := by rw [BitVec.getLsbD_setWidth, decide_eq_true chunk, Bool.true_and]
  have listed : a / 2 ^ 36 ∈ upto 0 12 := mem_upto.2 (by omega)
  rw [State.modMg_glob, State.zeroChunks, (State.zeroChunks_fold _ _ _ s mem).2 a lt, bit]
  grind

/-! ## Host accesses of one line (R385, R387) -/

/-- A run that stays in a line is cut nowhere. -/
theorem linesOf_one_line {pa n : Nat} (fits : pa % 128 + n ≤ 128) (pos : 0 < n) : linesOf pa n = [(pa, n)] := by
  have rest : (upto 1 (n / 128 + 1)).filterMap (fun k =>
      if max pa ((pa / 128 + k) * 128) < min (pa + n) ((pa / 128 + k + 1) * 128) then
        some (max pa ((pa / 128 + k) * 128), min (pa + n) ((pa / 128 + k + 1) * 128) - max pa ((pa / 128 + k) * 128)) else none) = [] := by
    refine List.filterMap_eq_nil_iff.2 fun k hk => if_neg ?_
    have := (mem_upto.1 hk).1
    omega
  have lo : max pa ((pa / 128 + 0) * 128) = pa := by omega
  have hi : min (pa + n) ((pa / 128 + 0 + 1) * 128) = pa + n := by omega
  simp only [linesOf, upto, List.filterMap_cons, lo, hi, Nat.zero_add] at rest ⊢
  rw [rest, if_pos (by omega)]
  simp

theorem State.peek_length (s : State) (pa n : Nat) (key : Option Nat) : (s.peek pa n key).1.length = n := by
  unfold State.peek
  cases key with
  | none => exact Mem.bytes_length ..
  | some k => dsimp only; split <;> simp [Mem.bytes_length]

/-- What the physical function reads of one line that is not poisoned. -/
theorem State.hostRead_one_line (s : State) (pcie : Bool) {pa n : Nat} (fits : pa % 128 + n ≤ 128) (pos : 0 < n)
    (clean : (s.homeRead (.glob pa (s.hostKey 64)) n).2.1 = false) :
    s.hostRead pcie 64 pa n = { s with replies := s.replies ++ [let r := s.homeRead (.glob pa (s.hostKey 64)) n; (if pcie then s.behind pa r else r).1] } := by
  have behind_clean : (s.behind pa (s.homeRead (.glob pa (s.hostKey 64)) n)).2.1 = false := by
    unfold State.behind; split
    · split <;> exact clean
    · exact clean
  cases pcie <;> simp [State.hostRead, linesOf_one_line fits pos, clean, behind_clean]

/-- Over the PCIe path a read meets the bytes behind a line that a device cache holds (log 60). -/
theorem State.behind_cached (s : State) {pa n key : Nat} {c : Held} (hc : NMap.get? s.cache (pa / 128) = some c) (known : (s.homeRead (.glob pa key) n).2.2 = false) :
    (s.behind pa (s.homeRead (.glob pa key) n)).1 = (c.home.drop (pa % 128)).take n := by
  simp only [State.behind, hc, known, Bool.false_eq_true, if_false]
  rw [show (s.homeRead (.glob pa key) n).1.length = n from s.peek_length ..]

theorem State.dirtied_frame (s : State) (line : Nat) (m : BitVec 128) : s.dirtied line m = { s with cache := (s.dirtied line m).cache } := by
  unfold State.dirtied; split <;> rfl

/-- A write under the key of its line, where memory takes it, puts its bytes there. -/
theorem State.poke_same_key (s : State) {pa key : Nat} (bs : List Byte) (page : s.retiredAt pa = false) (unshut : s.windowShut pa = false)
    (live : s.keyLive key = true) (tag : (s.line (pa / 128)).tag = key) :
    (s.poke pa bs (some key)).glob = s.glob.put (s.globAt pa) bs ∧ (s.poke pa bs (some key)).replies = s.replies := by
  simp only [State.poke, page, unshut, live, tag, Bool.false_eq_true, Bool.not_true, if_false, if_true]
  rw [State.dirtied_frame]
  exact ⟨rfl, rfl⟩

/-- What a store does beyond its bytes, to pennants and to waiters, touches neither memory nor the host's replies. -/
theorem State.storeAt_frame (s : State) (pa key : Nat) (bs : List Byte) :
    (s.storeAt (.glob pa key) bs).glob = (s.poke pa bs (some key)).glob ∧ (s.storeAt (.glob pa key) bs).replies = (s.poke pa bs (some key)).replies := by
  have quiet : (s.storeQuiet (.glob pa key) bs).glob = (s.poke pa bs (some key)).glob ∧
      (s.storeQuiet (.glob pa key) bs).replies = (s.poke pa bs (some key)).replies := by
    simp only [State.storeQuiet, State.homeWrite]
    split <;> exact ⟨rfl, rfl⟩
  unfold State.storeAt
  dsimp only
  split <;> exact quiet

/-- A write of one line that no cache holds and that waits for nothing is stored at once, on either path. -/
theorem State.hostWrite_uncached (s : State) (pcie : Bool) {fn pa : Nat} (piece : List Byte) (live : s.keyLive (s.hostKey fn) = true)
    (settled : s.pendAt (.glob pa (s.hostKey fn)) = false) (first : ownAhead s.msgs pa = false) (single : s.collapsing pa = false)
    (cache : NMap.get? s.cache (pa / 128) = none) : s.hostWrite pcie fn pa piece = s.storeAt (.glob pa (s.hostKey fn)) piece := by
  have pend : s.pendLine (pa / 128) = false := settled
  simp [State.hostWrite, State.deadKey, live, pend, first, single, cache]

theorem execHostMemoryAccess_write_one_line (s : State) (pcie : Bool) {pa : Nat} {bs : List Byte} (fits : pa % 128 + bs.length ≤ 128) (nonempty : bs ≠ []) :
    execHostMemoryAccess ⟨pcie, 64⟩ pa bs.length (some bs) s = .next (s.hostWrite pcie 64 pa bs) := by
  simp [execHostMemoryAccess, linesOf_one_line fits (List.length_pos_iff.2 nonempty)]

/-! ## Memory stacks (R376, R377) -/

theorem State.stack_of_mg {s t : State} (h : s.mg.stks = t.mg.stks) (n : Nat) : s.stack n = t.stack n := by
  unfold State.stack; rw [h]

@[simp] theorem State.stack_modLine (s : State) (l n : Nat) (f : Line → Line) : (s.modLine l f).stack n = s.stack n := State.stack_of_mg rfl n

@[simp] theorem State.stack_log (s : State) (k u c n : Nat) (d : BitVec 128) : (s.log k u c d).stack n = s.stack n := State.stack_of_mg rfl n

theorem State.stack_modStack (s : State) (n : Fin 16) (f : Stack → Stack) : (s.modStack n.val f).stack n.val = f (s.stack n.val) := by
  simp [State.stack, State.modStack, n.isLt]

@[simp] theorem Stack.found_scrubbed (x : Stack) (pa : Nat) (bad : Bool) : (x.found pa bad).scrubbed = x.scrubbed := by
  cases bad <;> rfl

/-- A scrub command that its escalation lets through reads one line, whatever it finds there (log 24). -/
theorem execScrubCommand_counts (s : State) (n : Fin 16) (runs : (s.stack n.val).scrubs = true) (left : (s.stack n.val).scrubbed < stackLines)
    (may : s.scrubMay n.val (s.stackLine n.val (s.stack n.val).scrubbed) = true) :
    ∃ t, execScrubCommand n.val s = .next t ∧ (t.stack n.val).scrubbed = (s.stack n.val).scrubbed + 1 ∧ t.glob = s.glob ∧ t.free = s.free + 1 := by
  have goes : ¬(16 ≤ n.val ∨ (!(s.stack n.val).scrubs) = true ∨ stackLines ≤ (s.stack n.val).scrubbed ∨
      (!s.scrubMay n.val (s.stackLine n.val (s.stack n.val).scrubbed)) = true) := by
    simp only [runs, may, Bool.not_true, Bool.false_eq_true, false_or, or_false]; omega
  have same : State.stack { s with free := s.free + 1 } n.val = s.stack n.val := rfl
  simp only [execScrubCommand]
  rw [if_neg goes]
  split
  · exact ⟨_, rfl, by simp [State.stack_modStack, same], rfl, rfl⟩
  · exact ⟨_, rfl, by simp [State.poisonLine, State.stack_modStack, same], rfl, rfl⟩
  · exact ⟨_, rfl, by simp [State.stack_modStack, same], rfl, rfl⟩

/-- Below escalation 3 a threshold of 0 lets no command through: no occupancy is below it. -/
theorem State.scrubMay_no_threshold (s : State) (n pa : Nat) (esc : (s.stack n).esc < 3) (thresh : (s.stack n).thresh = 0) : s.scrubMay n pa = false := by
  simp only [State.scrubMay, thresh]
  obtain h | h | h : (s.stack n).esc = 0 ∨ (s.stack n).esc = 1 ∨ (s.stack n).esc = 2 := by omega
  all_goals simp [h]

theorem State.scrubMay_escalated (s : State) (n pa : Nat) (esc : (s.stack n).esc = 3) : s.scrubMay n pa = true ↔ s.dcc % 64 = 0 := by
  simp [State.scrubMay, esc]

theorem execScrubQuarterEnd_counts (s : State) (n : Fin 16) (runs : (s.stack n.val).scrubs = true)
    (due : (s.stack n.val).passAt + ((s.stack n.val).quarter + 1) * 2 ^ (s.stack n.val).passlg / 4 ≤ s.dcc) :
    ∃ t, execScrubQuarterEnd n.val s = .next t ∧ (t.stack n.val).quarter = if (s.stack n.val).quarter = 3 then 0 else (s.stack n.val).quarter + 1 := by
  have goes : ¬(16 ≤ n.val ∨ (!(s.stack n.val).scrubs) = true ∨
      s.dcc < (s.stack n.val).passAt + ((s.stack n.val).quarter + 1) * 2 ^ (s.stack n.val).passlg / 4) := by
    simp only [runs, Bool.not_true, Bool.false_eq_true, false_or]; omega
  simp only [execScrubQuarterEnd]
  rw [if_neg goes]
  split
  · next last => exact ⟨_, rfl, by rw [State.stack_modStack, if_pos (by omega)]; rfl⟩
  · next more =>
    refine ⟨_, rfl, ?_⟩
    rw [if_neg (show (s.stack n.val).quarter ≠ 3 by omega)]
    split <;> simp [State.stack_modStack]

theorem execOnDieScrubPathFailure_marks (s : State) (n : Fin 16) (working : Bool) :
    ∃ t, execOnDieScrubPathFailure n.val working s = .next t ∧ (t.stack n.val).ecsok = working ∧ (t.stack n.val).ce = (s.stack n.val).ce ∧ t.glob = s.glob := by
  refine ⟨_, rfl, ?_⟩
  simp only [State.stack_modStack]
  split <;> exact ⟨rfl, rfl, rfl⟩

/-! ## Pages retired (R378) -/

theorem State.writePgret_retires (s : State) {v : Word} {page : Nat} (hp : page < 2 ^ 40) (hv : v.toNat = page * 4096 + 2 ^ 52) (stacked : page * 4096 < stackedEnd)
    (room : s.mg.retired.length < 1024) (fresh : page ∉ s.mg.retired) :
    (s.writePgret v).mg.retired = s.mg.retired ++ [page] ∧ (s.writePgret v).glob = s.glob := by
  have low : wbits v 0 12 = 0 := by simp only [wbits, nbits, hv]; omega
  have field : wbits v 12 40 = page := by simp only [wbits, nbits, hv]; omega
  have go : v.getLsbD 52 = true := by
    rw [BitVec.getLsbD, Nat.testBit_eq_decide_div_mod_eq, hv, decide_eq_true_eq]; omega
  simp only [State.writePgret, low, field, go]
  rw [if_neg (by simp; omega), if_pos (by simpa using fresh)]
  exact ⟨rfl, rfl⟩

/-! ## Mismatches, watchdogs and thermal limits (R380, R381, R383) -/

/-- A first mismatch is far from the third that causes a warm reset. -/
theorem execDeputyMismatch_first (s : State) (h : s.mg.mmTimes = []) :
    ∃ t, execDeputyMismatch s = .next t ∧ t = { s with mg := t.mg } ∧ t.mg.mismatch = min (s.mg.mismatch + 1) (2 ^ 32 - 1) ∧ t.mg.mmTimes = [s.dcc] := by
  simp only [execDeputyMismatch, h]
  exact ⟨_, rfl, rfl, satAdd_eq_min .., rfl⟩

theorem getLsbD_clear_bit {w : Nat} (x : BitVec w) (h j : Nat) : (x &&& ~~~((1 : BitVec w) <<< h)).getLsbD j = (x.getLsbD j && j != h) := by
  rw [show (1 : BitVec w) <<< h = BitVec.twoPow w h from rfl, BitVec.getLsbD_and, BitVec.getLsbD_not, BitVec.getLsbD_twoPow]
  by_cases lt : j < w
  · grind
  · simp [BitVec.getLsbD_of_ge x j (by omega)]

theorem getLsbD_set_bit {w : Nat} (x : BitVec w) (h : Nat) {j : Nat} (lt : j < w) : (x ||| ((1 : BitVec w) <<< h)).getLsbD j = (x.getLsbD j || j == h) := by
  rw [show (1 : BitVec w) <<< h = BitVec.twoPow w h from rfl, BitVec.getLsbD_or, BitVec.getLsbD_twoPow]
  grind

/-- The mark of a die that is above the placement limit, or no longer is; those of the other dies stay. -/
theorem execThermalPlacementLimit_marks (s : State) (die : Fin 4) (above : Bool) :
    ∃ t, execThermalPlacementLimit die.val above s = .next t ∧ t = { s with mg := t.mg } ∧
      ∀ j : Fin 4, t.mg.hot.getLsbD j.val = if j = die then above else s.mg.hot.getLsbD j.val := by
  refine ⟨_, rfl, rfl, fun j => ?_⟩
  cases above
  · refine (getLsbD_clear_bit s.mg.hot die.val j.val).trans ?_
    by_cases e : j = die <;> simp [e, Fin.val_inj]
  · refine (getLsbD_set_bit s.mg.hot die.val j.isLt).trans ?_
    by_cases e : j = die <;> simp [e, Fin.val_inj]

/-- The black box keeps the event that is logged last. -/
theorem keptEvents_getLast? (l : List Event) (e : Event) : (keptEvents (l ++ [e])).getLast? = some e := by
  unfold keptEvents
  split
  · simp
  · have room : ¬(l ++ [e]).length ≤ (l ++ [e]).length - 4096 := by rw [List.length_append, List.length_singleton]; omega
    rw [List.getLast?_drop, if_neg room, List.getLast?_append]; rfl

/-- The entry that a thermal limit leaves bears its die as UNIT, and outlasts the loss of power (log 6). -/
theorem execThermalLimit_flushes (s : State) (die : Nat) :
    ∃ t, execThermalLimit die s = .next t ∧ t = { s with mg := t.mg } ∧ t.mg.powered = false ∧ t.mg.flushed = true ∧
      (t.mg.box.getLast?.map fun e => (e.kind, e.unit)) = some (10, die) := by
  refine ⟨_, rfl, rfl, rfl, rfl, ?_⟩
  simp [Mgmt.logged, keptEvents_getLast?]

end Sys2Proof.Machine

namespace Sys2Proof.Claims
open Sys2Proof.Machine

/-- Settles O50, clause by clause from the lemma about each event. -/
theorem registersAndErrorsTakeEffect : Obligations.RegistersAndErrorsTakeEffect := by
  unfold Obligations.RegistersAndErrorsTakeEffect
  intro s fn off width h pa page n die v working above bs
  refine ⟨?read, ?readOut, ?bbsel, ?misaligned, ?idpkg, ?memil, ?hostRead, ?hostWrite, ?scrub, ?quarter, ?path, ?page, ?mismatch, ?watchdog, ?hot, ?limit⟩
  case read => exact fun shape win reg => leBytes_eq_bytesOf 8 v.toNat ▸ execRegisterRead_value s shape win reg
  case readOut => exact fun win => ⟨_, execRegisterRead_outside s width win, s.refused_regErr⟩
  case bbsel => exact execRegisterWrite_bbsel s
  case misaligned => exact fun mis key => ⟨_, execRegisterWrite_misaligned s fn v mis key, s.refused_regErr⟩
  case idpkg => exact fun small free => congrArg Host.Outcome.next (s.writeIdpkg_free small free)
  case memil => exact fun mems small free => ⟨_, rfl, s.writeMemil_free mems.1 small free⟩
  case hostRead =>
    intro fits nonempty clean
    have pos := List.length_pos_iff.2 nonempty
    refine ⟨⟨_, rfl, ?_⟩, fun c hc known => ⟨_, rfl, ?_⟩⟩
    · rw [s.hostRead_one_line false fits pos clean]
      exact ⟨rfl, rfl⟩
    · rw [s.hostRead_one_line true fits pos clean, ← s.behind_cached hc known]
      exact ⟨rfl, rfl⟩
  case hostWrite =>
    intro fits nonempty settled first single live page unshut tag cache pcie
    obtain ⟨glob, replies⟩ := s.poke_same_key bs page unshut live tag
    obtain ⟨globAt, repliesAt⟩ := s.storeAt_frame pa (s.hostKey 64) bs
    refine ⟨_, execHostMemoryAccess_write_one_line s pcie fits nonempty, ?_⟩
    rw [s.hostWrite_uncached pcie bs live settled first single cache]
    exact ⟨globAt.trans glob, repliesAt.trans replies⟩
  case scrub =>
    refine fun runs left => ⟨execScrubCommand_counts s n runs left, fun esc thresh => ?_, s.scrubMay_escalated _ _⟩
    exact if_pos (.inr (.inr (.inr (by rw [s.scrubMay_no_threshold _ _ esc thresh]; rfl))))
  case quarter => exact execScrubQuarterEnd_counts s n
  case path => exact execOnDieScrubPathFailure_marks s n working
  case page => exact fun hp hv stacked room fresh => ⟨_, rfl, s.writePgret_retires hp hv stacked room fresh⟩
  case mismatch => exact execDeputyMismatch_first s
  case watchdog => exact fun lt => ⟨_, congrArg Host.Outcome.next (if_pos lt), rfl, getLsbD_clear_bit _ h⟩
  case hot => exact execThermalPlacementLimit_marks s die above
  case limit => exact execThermalLimit_flushes s die.val

end Sys2Proof.Claims

/-!
Resets, power-up and the firmware image (R11, R294, R382, R384): what a reset finds where nothing is in flight, the units of the power-up order, and one
lemma per event of the statement; then the values that a cold reset leaves (R351, R381, R388).
-/
namespace Sys2Proof.Machine

/-! ## What is in flight -/

/-- What a warm reset with nothing in flight meets of the state: DCC and the keys, and the queues, operations, peer requests, messages and packets. -/
structure Traffic where
  dcc : Nat
  keys : Keys
  queues : NMap HQueue
  ops : List FabOp
  uals : List (Nat × UalReq)
  msgs : List Msg
  pkts : List Packet

def State.traffic (s : State) : Traffic := ⟨s.dcc, s.keys, s.queues, s.fab.ops, s.fab.uals, s.msgs, s.fab.pkts⟩

@[simp] theorem State.traffic_modLine (s : State) (n : Nat) (f : Line → Line) : (s.modLine n f).traffic = s.traffic := rfl

theorem State.traffic_modFab_of_adits (s : State) {f : Fabric → Fabric} (h : f s.fab = { s.fab with adits := (f s.fab).adits }) :
    (s.modFab f).traffic = s.traffic := by
  unfold State.modFab State.traffic
  dsimp only
  rw [h]

@[simp] theorem State.traffic_modAdit (s : State) (n : Nat) (f : Adit → Adit) : (s.modAdit n f).traffic = s.traffic :=
  s.traffic_modFab_of_adits (by dsimp only; split <;> rfl)

@[simp] theorem State.traffic_countPoison (s : State) (n : Nat) : (s.countPoison n).traffic = s.traffic :=
  s.traffic_modFab_of_adits (by dsimp only; split <;> rfl)

@[simp] theorem State.traffic_dirtied (s : State) (line : Nat) (m : BitVec 128) : (s.dirtied line m).traffic = s.traffic := by
  rw [s.dirtied_frame]; rfl

/-- A write at a line's home changes memory, lines and counts, and nothing in flight. -/
@[simp] theorem State.traffic_poke (s : State) (pa : Nat) (bs : List Byte) (key : Option Nat) : (s.poke pa bs key).traffic = s.traffic := by
  have stored (m : Mem) (line : Nat) (mask : BitVec 128) : (State.dirtied { s with glob := m } line mask).traffic = s.traffic := State.traffic_dirtied ..
  unfold State.poke
  dsimp only
  split
  · rfl
  split
  · split
    · rfl
    · exact s.traffic_countPoison _
  split
  · exact stored ..
  split
  · rfl
  split <;> exact stored ..

@[simp] theorem State.traffic_writeLine (s : State) (pa : Nat) (key : Option Nat) (bs : List Byte) : (s.writeLine pa key bs).traffic = s.traffic := by
  unfold State.writeLine State.unpennant
  split <;> simp

@[simp] theorem State.traffic_bitsAt (s : State) (pa : Nat) (key : Option Nat) (f : Byte → Byte → Byte) (bs : List Byte) :
    (s.bitsAt pa key f bs).traffic = s.traffic := by
  unfold State.bitsAt
  dsimp only
  split <;> simp

@[simp] theorem State.traffic_ownAct (s : State) (pa : Nat) (key : Option Nat) (op : OwnOp) (bs : List Byte) : (s.ownAct pa key op bs).traffic = s.traffic := by
  cases op <;> simp [State.ownAct]

/-! ## A warm reset with nothing in flight (R294) -/

/-- Nothing that an adit could end or perform is in flight in t, but writes of the part itself and responses; its DCC and its keys are those of o. -/
structure Traffic.Calm (o t : Traffic) : Prop where
  dcc : t.dcc = o.dcc
  keys : t.keys = o.keys
  queues : t.queues = []
  ops : t.ops = []
  uals : t.uals = []
  reqs : ∀ r, Msg.req r ∉ t.msgs
  resps : ∀ p ∈ t.pkts, p.resp = true

/-- A write of the part is performed, or waits as a message that is no request. -/
theorem Traffic.Calm.ownWrite {o : Traffic} {s : State} (h : o.Calm s.traffic) (pa : Nat) (key : Option Nat) (op : OwnOp) (bs : List Byte) :
    o.Calm (s.ownWrite pa key op bs).traffic := by
  unfold State.ownWrite
  split
  · have old : ∀ r, Msg.req r ∉ s.msgs := h.reqs
    have reqs : ∀ r, Msg.req r ∉ s.msgs ++ [.own pa key op bs none] := by simpa using old
    exact { h with reqs }
  · simpa using h

theorem Traffic.Calm.dirChanged {o : Traffic} {s : State} (h : o.Calm s.traffic) (die exit : Nat) : o.Calm (s.dirChanged die exit false).traffic := by
  unfold State.dirChanged
  dsimp only
  split
  · exact h
  split
  · exact h
  · rw [if_neg Bool.false_ne_true]
    refine Traffic.Calm.ownWrite ?_ ..
    exact h

theorem Traffic.Calm.aditStop {o : Traffic} {s : State} (h : o.Calm s.traffic) (n : Nat) : o.Calm (s.aditStop n).traffic := by
  have marked : o.Calm (s.modAdit n fun a => { a with st := 3, drainFrom := s.dcc }).traffic := by simpa using h
  unfold State.aditStop
  dsimp only
  split
  · exact marked.dirChanged ..
  · exact marked

/-- Only requests go over a window. -/
theorem Msg.overAdit_of_no_req {ms : List Msg} (h : ∀ r, Msg.req r ∉ ms) (s : State) (n limit : Nat) {m : Msg} (hm : m ∈ ms) : m.overAdit s n limit = false := by
  cases m with
  | req r => exact absurd hm (h r)
  | _ => rfl

theorem Traffic.Calm.flushWindow {o : Traffic} {s : State} (h : o.Calm s.traffic) (n : Nat) : o.Calm (s.flushWindow n).traffic := by
  have no_request : ∀ m ∈ s.msgs, m.overAdit s n (s.adit n).drainFrom = false := fun _ hm => Msg.overAdit_of_no_req h.reqs s n _ hm
  have none_mine : s.msgs.filter (fun m => m.overAdit s n (s.adit n).drainFrom) = [] := List.filter_eq_nil_iff.2 fun m hm => by simp [no_request m hm]
  have all_kept : s.msgs.filter (fun m => !m.overAdit s n (s.adit n).drainFrom) = s.msgs := List.filter_eq_self.2 fun m hm => by simp [no_request m hm]
  unfold State.flushWindow
  extract_lets mine
  rw [none_mine, all_kept]
  exact h

/-- What an adit ends of a request of another package goes back as a response. -/
theorem Traffic.Calm.crossBack {o : Traffic} {s : State} (h : o.Calm s.traffic) (c : Crossing) (act : FabAct) (data : List Byte) (note : Option Nat) :
    o.Calm (s.crossBack c act data note).traffic := by
  refine { h with resps := fun p hp => ?_ }
  rcases List.mem_append.1 hp with hp | hp
  · exact h.resps p hp
  · rw [List.mem_singleton.1 hp]

theorem Traffic.Calm.cutTransit {o : Traffic} {s : State} (h : o.Calm s.traffic) (n : Nat) : o.Calm (s.cutTransit n).traffic := by
  let t := s.modFab fun f => { f with pkts := f.pkts.filter (fun p => !p.openOver n), crossed := f.crossed.filter fun c => c.src != n }
  have dropped : o.Calm t.traffic := { h with resps := fun p hp => h.resps p ((List.mem_filter.1 hp).1) }
  exact List.foldlRecOn (motive := fun t : State => o.Calm t.traffic) _ _ dropped fun _ h c _ => h.crossBack c ..

theorem Traffic.Calm.cutWindow {o : Traffic} {s : State} (h : o.Calm s.traffic) (n limit : Nat) : o.Calm (s.cutWindow n limit).traffic := by
  have kept : o.Calm (State.traffic { s with msgs := s.msgs.filter fun m => !m.overAdit s n limit }) :=
    { h with reqs := fun r hr => h.reqs r ((List.mem_filter.1 hr).1) }
  refine List.foldlRecOn (motive := fun t : State => o.Calm t.traffic) _ _ kept fun t ht m hm => ?_
  cases m with
  | req r => exact absurd hm (h.reqs r)
  | _ => exact ht

theorem Traffic.Calm.aditCut {o : Traffic} {s : State} (h : o.Calm s.traffic) (n : Nat) : o.Calm (s.aditCut n).traffic := by
  have no_ops : s.fab.ops.filter (s.outOver n) = [] := by rw [show s.fab.ops = [] from h.ops]; rfl
  unfold State.aditCut
  rw [no_ops, List.foldl_nil]
  let t := (s.cutTransit n).cutWindow n ((s.cutTransit n).adit n).drainFrom
  have cut : o.Calm t.traffic := (h.cutTransit n).cutWindow n _
  have uals : t.fab.uals.filter (fun u => u.1 != n) = [] := by rw [show t.fab.uals = [] from cut.uals]; rfl
  refine List.foldlRecOn (motive := fun t : State => o.Calm t.traffic) _ _ { cut with uals } fun _ _ q hq => ?_
  have queued : q ∈ t.queues := hq
  rw [show t.queues = [] from cut.queues] at queued
  cases queued

theorem Traffic.Calm.aditReset {o : Traffic} {s : State} (h : o.Calm s.traffic) (n : Nat) : o.Calm (s.aditReset n).traffic := by
  have written (t : State) (ht : o.Calm t.traffic) : (t.fab.pkts.filter fun p => p.writeOf n && p.endsHere) = [] :=
    List.filter_eq_nil_iff.2 fun p hp => by simp [Packet.writeOf, ht.resps p hp]
  unfold State.aditReset
  extract_lets a t₁ t₂ t₃ t₄
  have h₁ : o.Calm t₁.traffic := by
    unfold t₁
    split
    · rw [State.traffic_modAdit]; exact h
    · exact h
  have h₂ : o.Calm t₂.traffic := by
    unfold t₂
    split
    · exact h₁.flushWindow n
    · exact h₁
  have h₃ : o.Calm t₃.traffic := by
    unfold t₃
    split
    · exact (h₂.aditStop n).aditCut n
    · exact h₂.aditCut n
  have h₄ : o.Calm t₄.traffic := by unfold t₄; rw [written t₃ h₃]; exact h₃
  simpa using h₄

@[simp] theorem State.traffic_zeroChunks (s : State) (old new : BitVec 12) : (s.zeroChunks old new).traffic = s.traffic :=
  List.foldlRecOn (motive := fun t : State => t.traffic = s.traffic) _ _ rfl fun t ht n _ => by
    split <;> exact ht

/-- With nothing in flight no adit ends or performs anything that DCC or the keys could show. -/
theorem State.afterWarm_quiet (s : State) (msgs : s.msgs = []) (queues : s.queues = []) (ops : s.fab.ops = []) (pkts : s.fab.pkts = [])
    (uals : s.fab.uals = []) : s.afterWarm.dcc = s.dcc ∧ s.afterWarm.keys.slots = s.keys.slots := by
  have reqs (r : Req) : Msg.req r ∉ s.msgs := by rw [msgs]; exact List.not_mem_nil
  have resps : ∀ p ∈ s.fab.pkts, p.resp = true := by rw [pkts]; exact fun _ hp => nomatch hp
  have start : s.traffic.Calm s.traffic := { dcc := rfl, keys := rfl, queues, ops, uals, reqs, resps }
  let t := (upto 0 36).foldl (fun (s : State) n => s.aditReset n) s
  have reset : s.traffic.Calm t.traffic := List.foldlRecOn (motive := fun t : State => s.traffic.Calm t.traffic) _ _ start fun _ h n _ => h.aditReset n
  have zeroed : s.traffic.Calm (t.zeroChunks t.mg.dil 0).traffic := by simpa using reset
  have slots := congrArg Keys.slots zeroed.keys
  exact ⟨zeroed.dcc, slots⟩

/-! ## A cold reset (R11, R382) -/

/-- The adits that the power-up left off stay down (log 94). -/
theorem State.aditNow_afterCold (s : State) (n : Fin 36) : Claims.aditNow s.afterCold n = { Adit.zero with down := s.mg.off.contains (65 + n.val) } := by
  simp [Claims.aditNow, State.afterCold, aditsUp]

/-! ## Power-up (R379, R382) -/

/-- The crews are the units 32 to 63 of the power-up order. -/
theorem powerUnit_eq_crew {k n : Nat} : powerUnit k = .crew n ↔ n < 32 ∧ k = 32 + n := by
  unfold powerUnit
  repeat' split
  all_goals simp only [reduceCtorEq, false_iff, PowerUnit.crew.injEq]
  all_goals omega

theorem State.selfTest_of_not_crew (s : State) {k : Nat} (h : k < 32 ∨ 64 ≤ k) : s.selfTest k = s := by
  unfold State.selfTest
  split
  · next n crew => have := powerUnit_eq_crew.1 crew; omega
  · rfl

theorem State.selfTest_crew (s : State) {k n : Nat} (lt : n < 32) (h : k = 32 + n) :
    s.selfTest k = { s with
      free := s.free + 1, mg := { s.mg with coresvc := s.mg.coresvc &&& ~~~((Config.selfTestFails s.free).setWidth 256 <<< (8 * n)) } } := by
  unfold State.selfTest
  rw [powerUnit_eq_crew.2 ⟨lt, h⟩]
  rfl

/-- Clearing bits of one crew sets none, and clears none of another crew. -/
theorem getLsbD_clear_crew (v : BitVec 256) (fails : BitVec 8) (n k : Nat) :
    ((v &&& ~~~(fails.setWidth 256 <<< (8 * n))).getLsbD k = true → v.getLsbD k = true) ∧
      (k / 8 ≠ n → (v &&& ~~~(fails.setWidth 256 <<< (8 * n))).getLsbD k = v.getLsbD k) := by
  rw [BitVec.getLsbD_and, Bool.and_eq_true]
  refine ⟨And.left, fun other => ?_⟩
  by_cases lt : k < 256
  · have outside : k < 8 * n ∨ 8 ≤ k - 8 * n := by omega
    have clear : (fails.setWidth 256 <<< (8 * n)).getLsbD k = false := by
      rw [BitVec.getLsbD_shiftLeft, BitVec.getLsbD_setWidth]
      rcases outside with below | above
      · simp [below]
      · simp [BitVec.getLsbD_of_ge fails _ above]
    rw [BitVec.getLsbD_not, clear, decide_eq_true lt]
    exact Bool.and_true _
  · rw [BitVec.getLsbD_of_ge v k (by omega), Bool.false_and]

/-- A part with power brings up the next unit. -/
theorem execPowerOn_next (s : State) (powered : s.mg.powered = true) (more : s.mg.powerStep < 101) :
    execPowerOn s = .next ((s.selfTest s.mg.powerStep).modMg fun g => { g with powerStep := g.powerStep + 1 }) := by
  simp only [execPowerOn, powered, more, Bool.not_true, Bool.false_eq_true, if_false, if_true]

theorem execPowerOn_not_crew (s : State) (powered : s.mg.powered = true) (more : s.mg.powerStep < 101) (h : s.mg.powerStep < 32 ∨ 64 ≤ s.mg.powerStep) :
    execPowerOn s = .next { s with mg := { s.mg with powerStep := s.mg.powerStep + 1 } } := by
  rw [execPowerOn_next s powered more, s.selfTest_of_not_crew h]
  rfl

/-- A crew comes up without those of its own cores that fail their self test (log 12). -/
theorem execPowerOn_crew (s : State) (powered : s.mg.powered = true) (more : s.mg.powerStep < 101) {crew : Nat} (lt : crew < 32)
    (h : s.mg.powerStep = 32 + crew) :
    ∃ t, execPowerOn s = .next t ∧ t = { s with free := s.free + 1, mg := { s.mg with powerStep := s.mg.powerStep + 1, coresvc := t.mg.coresvc } } ∧
      ∀ k, (t.mg.coresvc.getLsbD k = true → s.mg.coresvc.getLsbD k = true) ∧ (k / 8 ≠ crew → t.mg.coresvc.getLsbD k = s.mg.coresvc.getLsbD k) := by
  rw [execPowerOn_next s powered more, s.selfTest_crew lt h]
  exact ⟨_, rfl, rfl, getLsbD_clear_crew _ _ crew⟩

/-- Power returns as after a cold reset, with the sequence at its start (log 10). -/
theorem execPowerOn_unpowered (s : State) (h : s.mg.powered = false) :
    ∃ t, execPowerOn s = .next t ∧ t.mg.powerStep = 0 ∧ t.mg.powered = true ∧ t.mg.off = [] ∧ t.shifts = [] ∧ t.dcc = 0 := by
  simp only [execPowerOn, h]
  exact ⟨_, rfl, rfl, rfl, rfl, rfl, rfl⟩

/-- The unit whose turn it is stays off, and the sequence goes on. -/
theorem execPowerStepLimit_leaves_off (s : State) (powered : s.mg.powered = true) (more : s.mg.powerStep < 101) :
    ∃ t, execPowerStepLimit s = .next t ∧ t.mg.powerStep = s.mg.powerStep + 1 ∧ t.mg.off = s.mg.off ++ [s.mg.powerStep] ∧ t.glob = s.glob ∧
      t.shifts = s.shifts := by
  simp only [execPowerStepLimit, powered]
  rw [if_neg (by simpa using more)]
  refine ⟨_, rfl, ?_⟩
  split <;> simp [Mgmt.logged]

/-! ## The firmware image (R384) -/

/-- The stored image runs, or fails its check and leaves RECOVERY (log 5). -/
theorem execFirmwareBoot_starts (s : State) (h : s.mg.fwState = 0) :
    ∃ t, execFirmwareBoot s = .next t ∧ t = { s with mg := t.mg } ∧ (t.mg.fwState = 1 ∨ t.mg.fwState = 2 ∧ t.mg.version = 0 ∧ t.mg.build = 0) := by
  refine ⟨_, rfl, ?_⟩
  rw [if_neg (not_not_intro h)]
  split
  · exact ⟨rfl, .inl rfl⟩
  · exact ⟨rfl, .inr ⟨rfl, rfl, rfl⟩⟩

theorem execFirmwareStartTimeout_recovers (s : State) (h : s.mg.fwState = 0) (late : s.mg.fwSince + 2 ^ 32 ≤ s.dcc) :
    execFirmwareStartTimeout s = .next { s with mg := { s.mg with fwState := 2, version := 0, build := 0 } } :=
  congrArg Host.Outcome.next (if_pos ⟨h, late⟩)

/-- GO with no verification under way starts one of the image at ADDR. -/
theorem State.writeFwctl_go (s : State) {v : Word} {a : Nat} (lt : a < 2 ^ 40) (hv : v.toNat = a * 4096 + 1) (free : s.mg.fwBusy = false) :
    s.writeFwctl v = { s with mg := { s.mg with fwAddr := a, fwBusy := true, fwErr := false } } := by
  have high : wbits v 52 12 = 0 := by simp only [wbits, nbits, hv]; omega
  have low : wbits v 1 11 = 0 := by simp only [wbits, nbits, hv]; omega
  have addr : wbits v 12 40 = a := by simp only [wbits, nbits, hv]; omega
  have go : v.getLsbD 0 = true := by
    rw [BitVec.getLsbD, Nat.testBit_eq_decide_div_mod_eq, hv, decide_eq_true_eq]; omega
  simp only [State.writeFwctl, high, low, addr, go, free]
  rw [if_neg (by decide)]
  simp only [State.modMg, Bool.or_true, Bool.not_true, Bool.and_false]

/-- An image that starts changes the management fields alone, and reports running. -/
theorem State.startImage_frame (s : State) (n : Nat) :
    s.startImage n = { s with mg := (s.startImage n).mg } ∧ (s.startImage n).mg.fwState = 1 ∧ (s.startImage n).mg.fwBusy = s.mg.fwBusy ∧
      (s.startImage n).mg.fwStored = s.mg.fwStored :=
  ⟨rfl, rfl, rfl, rfl⟩

/-- An image that is not valid changes nothing but FWCTL; a valid one is stored, and starts at once in RECOVERY. -/
theorem execFwVerifyDone_judges (s : State) (busy : s.mg.fwBusy = true) :
    ∃ t, execFwVerifyDone s = .next t ∧ t = { s with mg := t.mg } ∧ t.mg.fwBusy = false ∧
      let image := Config.firmwareAt (s.bytesFrom (s.mg.fwAddr * 4096))
      (Config.firmwareValid image = false → t.mg.fwErr = true ∧ t.mg.fwStored = s.mg.fwStored) ∧
      (Config.firmwareValid image = true → t.mg.fwStored = image ∧ (s.mg.fwState = 2 → t.mg.fwState = 1)) := by
  simp only [execFwVerifyDone, busy, Bool.not_true, Bool.false_eq_true, if_false]
  generalize Config.firmwareAt (s.bytesFrom (s.mg.fwAddr * 4096)) = image
  cases valid : Config.firmwareValid image
  · exact ⟨_, rfl, rfl, rfl, fun _ => ⟨rfl, rfl⟩, nofun⟩
  · simp only [Bool.not_true, Bool.false_eq_true, if_false, State.modMg_mg]
    by_cases recovery : s.mg.fwState = 2
    · obtain ⟨frame, state, idle, stored⟩ :=
        ((s.modMg fun g => { g with fwBusy := false }).modMg fun g => { g with fwStored := image }).startImage_frame image
      simp only [recovery, if_true]
      exact ⟨_, rfl, frame, idle, nofun, fun _ => ⟨stored, fun _ => state⟩⟩
    · simp only [recovery, if_false]
      exact ⟨_, rfl, rfl, rfl, nofun, fun _ => ⟨rfl, nofun⟩⟩

/-! ## The values of the register tables (R11, R351, R388) -/

theorem State.adit_reset {n : Nat} (h : n < 36) : State.reset.adit n = Adit.zero := by
  simp [State.adit, State.reset, Fabric.zero, h]

theorem State.stack_reset {n : Nat} (h : n < 16) : State.reset.stack n = Stack.zero := by
  simp [State.stack, State.reset, Mgmt.zero, h]

theorem memories_canonical_reset : Safety.Memories State.reset := ⟨rfl, rfl, rfl, rfl, rfl, rfl⟩

theorem noneWaitsPast_reset : Claims.NoneWaitsPast State.reset := fun _ hw => nomatch hw

end Sys2Proof.Machine

namespace Sys2Proof.Claims
open Sys2Proof.Machine

/-- Settles O51, clause by clause from the lemma about each event. -/
theorem resetsAndFirmwareTakeEffect : Obligations.ResetsAndFirmwareTakeEffect := by
  unfold Obligations.ResetsAndFirmwareTakeEffect
  intro s v a
  refine ⟨?cold, ?warm, ?power, ?wake, ?boot, ?timeout, ?go, ?verify⟩
  case cold => exact ⟨_, rfl, rfl, s.aditNow_afterCold, rfl, rfl, rfl, rfl, rfl⟩
  case warm => exact ⟨_, rfl, rfl, rfl, rfl, rfl, rfl, s.afterWarm_quiet⟩
  case power =>
    exact fun powered more => ⟨execPowerOn_not_crew s powered more, fun _ lt turn => execPowerOn_crew s powered more lt turn,
      execPowerStepLimit_leaves_off s powered more⟩
  case wake => exact execPowerOn_unpowered s
  case boot => exact execFirmwareBoot_starts s
  case timeout => exact execFirmwareStartTimeout_recovers s
  case go => exact fun lt hv free => congrArg Host.Outcome.next (s.writeFwctl_go lt hv free)
  case verify => exact execFwVerifyDone_judges s

/-- Settles O59: each register reads the value of its table, and nothing waits or is listed in memory. -/
theorem resetHoldsTheSpecValues : Obligations.ResetHoldsTheSpecValues := by
  unfold Obligations.ResetHoldsTheSpecValues
  refine ⟨rfl, rfl, rfl, rfl, rfl, rfl, rfl, rfl, rfl, rfl, rfl, rfl, rfl, rfl, rfl, rfl, rfl, rfl, ?perDie, ?perStack, ?perAdit, ?perCtx, ?perQueue, ?perFunc,
    memories_canonical_reset, noneWaitsPast_reset⟩
  case perDie => exact fun d lt => by simp [State.reset, Mgmt.zero, lt]
  case perStack => exact fun n lt => by rw [State.stack_reset lt]; exact ⟨rfl, rfl, rfl, rfl, rfl⟩
  case perAdit => exact fun n lt => by rw [State.adit_reset lt]; exact ⟨rfl, rfl, rfl, rfl, rfl, rfl⟩
  case perCtx => exact fun _ => ⟨rfl, rfl, rfl, rfl, rfl, rfl, rfl⟩
  case perQueue => exact fun _ => ⟨rfl, rfl, rfl, rfl, rfl⟩
  case perFunc => exact fun _ => ⟨rfl, rfl, rfl, rfl⟩

end Sys2Proof.Claims

/-!
Vector floating point (R94, R125, R131, R133, R134): the elements of a lane and the lanes of a register as folds that thread the shift, the draws of one
lane's generator, and the landing of the rounded elements, which VFDIV shares with the start of its base routine (R302).
-/
namespace Sys2Proof.Machine

/-! ## Elements and lanes as bit fields (R121) -/

/-- A field of a number cut to n bits that holds the field. -/
theorem nbits_mod_two_pow {lo w n : Nat} (x : Nat) (h : lo + w ≤ n) : nbits (x % 2 ^ n) lo w = nbits x lo w := by
  refine Nat.eq_of_testBit_eq fun i => ?_
  simp only [nbits, Nat.testBit_mod_two_pow, Nat.testBit_div_two_pow]
  grind

theorem toNat_extractLsb'_ofNat {lo w n : Nat} (x : Nat) (h : lo + w ≤ n) : ((BitVec.ofNat n x).extractLsb' lo w).toNat = nbits x lo w := by
  rw [BitVec.extractLsb'_toNat, BitVec.toNat_ofNat, Nat.shiftRight_eq_div_pow]
  exact nbits_mod_two_pow x h

theorem nbits_zero (x w : Nat) : nbits x 0 w = x % 2 ^ w := by rw [nbits, Nat.pow_zero, Nat.div_one]

/-- A field below bit i of a number put above i bits. -/
theorem nbits_low {i lo w b : Nat} (a : Nat) (hb : b < 2 ^ i) (h : lo + w ≤ i) : nbits (b + a * 2 ^ i) lo w = nbits b lo w := by
  rw [← nbits_mod_two_pow _ h, Nat.add_mul_mod_self_right, Nat.mod_eq_of_lt hb]

/-- A field from bit i on of a number put above i bits. -/
theorem nbits_high {i b : Nat} (a m w : Nat) (hb : b < 2 ^ i) : nbits (b + a * 2 ^ i) (i + m) w = nbits a m w := by
  rw [nbits, Nat.pow_add, ← Nat.div_div_eq_div_mul, Nat.add_mul_div_right _ _ (Nat.two_pow_pos i), Nat.div_eq_of_lt hb, Nat.zero_add]
  rfl

/-- Element j is inside a lane. -/
theorem element_fits {w j : Nat} (h : j < 32 / w) : w * j + w ≤ 32 :=
  calc w * j + w = w * (j + 1) := rfl
    _ ≤ w * (32 / w) := Nat.mul_le_mul_left w h
    _ ≤ 32 := Nat.mul_div_le 32 w

/-- An element of a lane is a field of the register. -/
theorem elem_laneGet (v : VReg) (i : Nat) {w j : Nat} (h : j < 32 / w) : elem (laneGet v i) w j = Claims.el v w i j := by
  rw [elem, laneGet, BitVec.extractLsb'_toNat, Nat.shiftRight_eq_div_pow, nbits_mod_two_pow _ (element_fits h), nbits, Nat.div_div_eq_div_mul, ← Nat.pow_add]
  rfl

/-- Lane n of the number that a list of lanes makes. -/
theorem nbits_foldr_lanes (l : List Lane) (n : Nat) : nbits (l.foldr (fun x acc => x.toNat + acc * 2 ^ 32) 0) (32 * n) 32 = (l.getD n 0).toNat := by
  induction l generalizing n with
  | nil => simp only [List.foldr_nil, nbits, Nat.zero_div, Nat.zero_mod, List.getD_nil]; rfl
  | cons x l ih =>
    rw [List.foldr_cons]
    cases n with
    | zero => rw [Nat.mul_zero, nbits_low _ x.isLt (by decide), nbits_zero, Nat.mod_eq_of_lt x.isLt, List.getD_cons_zero]
    | succ n => rw [show 32 * (n + 1) = 32 + 32 * n by omega, nbits_high _ _ _ x.isLt, ih, List.getD_cons_succ]

/-- Lane n of a list of lanes, 0 past its end. -/
theorem laneGet_ofLaneList (l : List Lane) {n : Nat} (h : n < 64) : laneGet (ofLaneList l) n = l.getD n 0 :=
  BitVec.eq_of_toNat_eq ((toNat_extractLsb'_ofNat _ (by omega)).trans (nbits_foldr_lanes l n))

theorem upto_eq_range' (a n : Nat) : upto a n = List.range' a n := by
  induction n generalizing a with
  | zero => rfl
  | succ n ih => rw [upto, ih, List.range'_succ]

theorem upto_zero (n : Nat) : upto 0 n = List.range n := by rw [upto_eq_range', List.range_eq_range']

/-- The number that n elements of width w make. -/
def joinElems (w : Nat) (f : Nat → Nat) (n : Nat) : Nat := (List.range n).foldl (fun acc j => acc + f j % 2 ^ w * 2 ^ (w * j)) 0

theorem joinElems_succ (w : Nat) (f : Nat → Nat) (n : Nat) : joinElems w f (n + 1) = joinElems w f n + f n % 2 ^ w * 2 ^ (w * n) := by
  rw [joinElems, List.range_succ, List.foldl_append]
  rfl

theorem joinElems_lt (w : Nat) (f : Nat → Nat) (n : Nat) : joinElems w f n < 2 ^ (w * n) := by
  induction n with
  | zero => exact Nat.two_pow_pos _
  | succ n ih =>
    calc joinElems w f (n + 1) = joinElems w f n + f n % 2 ^ w * 2 ^ (w * n) := joinElems_succ w f n
      _ < 2 ^ (w * n) + f n % 2 ^ w * 2 ^ (w * n) := Nat.add_lt_add_right ih _
      _ = (f n % 2 ^ w + 1) * 2 ^ (w * n) := by rw [Nat.add_one_mul, Nat.add_comm]
      _ ≤ 2 ^ w * 2 ^ (w * n) := Nat.mul_le_mul_right _ (Nat.mod_lt _ (Nat.two_pow_pos w))
      _ = 2 ^ (w * (n + 1)) := by rw [Nat.mul_succ, Nat.pow_add, Nat.mul_comm]

theorem nbits_joinElems (w : Nat) (f : Nat → Nat) {n j : Nat} (h : j < n) : nbits (joinElems w f n) (w * j) w = f j % 2 ^ w := by
  induction n with
  | zero => exact absurd h (Nat.not_lt_zero j)
  | succ n ih =>
    rw [joinElems_succ]
    rcases Nat.lt_succ_iff_lt_or_eq.1 h with lt | rfl
    · have below : w * j + w ≤ w * n := Nat.mul_le_mul_left w lt
      rw [nbits_low _ (joinElems_lt w f n) below, ih lt]
    · refine (nbits_high _ 0 w (joinElems_lt w f j)).trans ?_
      rw [nbits_zero, Nat.mod_mod]

/-- Element j of a lane put together from elements. -/
theorem elem_ofElems (f : Nat → Nat) {w j : Nat} (h : j < 32 / w) : elem (ofElems w f) w j = f j % 2 ^ w := by
  rw [elem, ofElems, upto_zero, BitVec.toNat_ofNat, nbits_mod_two_pow _ (element_fits h)]
  exact nbits_joinElems w f h

/-! ## Folds that thread the shift (R94, R125) -/

/-- The shift that the first n steps of a fold leave. -/
def shiftAfter {α : Type} (f : Shift → Nat → α × Flags × Shift) (x : Shift) : Nat → Shift
  | 0 => x
  | n + 1 => (f (shiftAfter f x n) n).2.2

/-- What step n of a fold gives. -/
def stepAt {α : Type} (f : Shift → Nat → α × Flags × Shift) (x : Shift) (n : Nat) : α × Flags × Shift := f (shiftAfter f x n) n

/-- The flags of the first n steps of a fold. -/
def flagsAfter {α : Type} (f : Shift → Nat → α × Flags × Shift) (x : Shift) : Nat → Flags
  | 0 => 0
  | n + 1 => flagsAfter f x n ||| (stepAt f x n).2.1

theorem getLsbD_flagsAfter {α : Type} (f : Shift → Nat → α × Flags × Shift) (x : Shift) (n b : Nat) :
    (flagsAfter f x n).getLsbD b = true ↔ ∃ j, j < n ∧ (stepAt f x j).2.1.getLsbD b = true := by
  induction n with
  | zero => simp [flagsAfter]
  | succ n ih => simp only [flagsAfter, BitVec.getLsbD_or, Bool.or_eq_true, ih, Nat.exists_lt_succ_right]

/-- A fold that collects a value from each step, ORs the flags and threads the shift. -/
theorem foldl_threads {α β : Type} (f : Shift → Nat → α × Flags × Shift) (g : β → α → Nat → β) (b : β) (x : Shift) (n : Nat) :
    (List.range n).foldl (fun (p : β × Flags × Shift) j => (g p.1 (f p.2.2 j).1 j, p.2.1 ||| (f p.2.2 j).2.1, (f p.2.2 j).2.2)) (b, 0, x) =
      ((List.range n).foldl (fun p j => g p (stepAt f x j).1 j) b, flagsAfter f x n, shiftAfter f x n) := by
  induction n with
  | zero => rfl
  | succ n ih => simp only [List.range_succ, List.foldl_append, ih]; rfl

theorem foldElems_eq (w : Nat) (f : Shift → Nat → Nat × Flags × Shift) (x : Shift) :
    foldElems w f x = (ofElems w fun j => (stepAt f x j).1, flagsAfter f x (32 / w), shiftAfter f x (32 / w)) := by
  simp only [foldElems, ofElems, upto_zero, foldl_threads f (fun acc r j => acc + r % 2 ^ w * 2 ^ (w * j))]

theorem foldLanes_eq (f : Shift → Nat → Lane × Flags × Shift) (x : Shift) (vl : Nat) :
    foldLanes f x vl = (ofLaneList ((List.range vl).map fun i => (stepAt f x i).1), flagsAfter f x vl, shiftAfter f x vl) := by
  simp only [foldLanes, upto_zero, foldl_threads f (fun l r _ => r :: l), List.foldl_flip_cons_eq_append, List.append_nil, List.reverse_reverse]

/-- An active lane of a fold over lanes. -/
theorem laneGet_foldLanes (f : Shift → Nat → Lane × Flags × Shift) (x : Shift) {n vl : Nat} (active : n < vl) (lt : n < 64) :
    laneGet (foldLanes f x vl).1 n = (stepAt f x n).1 := by
  rw [foldLanes_eq, laneGet_ofLaneList _ lt]
  simp [active]

/-! ## Draws (R93, R94) -/

/-- The second shift is the first but for its generators. -/
def OnlyGens (x y : Shift) : Prop := y = { x with sp := { x.sp with gens := y.sp.gens } }

theorem OnlyGens.trans {x y z : Shift} (h : OnlyGens x y) (g : OnlyGens y z) : OnlyGens x z := by
  unfold OnlyGens at *
  rw [h] at g
  exact g

theorem OnlyGens.drawIf (x : Shift) (rm : RMode) (g : Nat) : OnlyGens x (x.drawIf rm g).2 := by
  unfold Shift.drawIf
  split <;> rfl

/-- Steps that draw and no more, one after another. -/
theorem OnlyGens.shiftAfter {α : Type} {f : Shift → Nat → α × Flags × Shift} (h : ∀ x j, OnlyGens x (f x j).2.2) (x : Shift) (n : Nat) :
    OnlyGens x (shiftAfter f x n) := by
  induction n with
  | zero => rfl
  | succ n ih => exact ih.trans (h _ n)

/-- Each generator n of the second shift is that of the first after m n draws. -/
def GensAfter (o y : Shift) (m : Nat → Nat) : Prop := ∀ n, n < 66 → y.sp.gens[n]? = some (Claims.genAfter o n (m n))

theorem genAfter_succ (x : Shift) (g n : Nat) : Claims.genAfter x g (n + 1) = genStep (Claims.genAfter x g n) := by
  simp [Claims.genAfter, List.range_succ]

/-- Before a draw, no generator has stepped. -/
theorem GensAfter.zero {o y : Shift} (h : y.sp.gens = o.sp.gens) : GensAfter o y fun _ => 0 := fun n lt => by
  simp [Claims.genAfter, h, lt]

/-- The value drawn is the next of its generator. -/
theorem GensAfter.drawIf_fst {o y : Shift} {m : Nat → Nat} (h : GensAfter o y m) (rm : RMode) {g : Nat} (lt : g < 66) :
    (y.drawIf rm g).1 = if rm = .sr then (Claims.genAfter o g (m g + 1)).toNat else 0 := by
  unfold Shift.drawIf Shift.draw
  split <;> simp [h g lt, genAfter_succ]

/-- A draw steps its generator and no other. -/
theorem GensAfter.drawIf_snd {o y : Shift} {m : Nat → Nat} (h : GensAfter o y m) (rm : RMode) (g : Nat) :
    GensAfter o (y.drawIf rm g).2 fun n => m n + if rm = .sr ∧ n = g then 1 else 0 := fun n lt => by
  unfold Shift.drawIf Shift.draw
  split
  case isFalse no => simp [no, h n lt]
  case isTrue sr =>
    by_cases e : n = g
    · subst e
      simp only [Vector.getElem?_setIfInBounds_self, lt, if_true, h n lt, Option.getD_some, sr, and_self, genAfter_succ]
    · have ne : g ≠ n := Ne.symm e
      simp [e, ne, h n lt]

/-! ## Elements rounded once (R91, R125, R131) -/

/-- Draw j, from 0 on, of generator g; none unless the mode is SR. -/
def nthDraw (o : Shift) (rm : RMode) (g j : Nat) : Nat := if rm = .sr then (Claims.genAfter o g (j + 1)).toNat else 0

section
variable (f : Fmt) (rm : RMode) (ftz : Bool) (v : Nat → Nat → FV × Flags)

/-- Element j of lane n: the exact value v n j, rounded. -/
def roundElem (n : Nat) (x : Shift) (j : Nat) : Nat × Flags × Shift := roundDraw x n f rm ftz (v n j)

/-- The elements of lane n, rounded in order. -/
def roundLane (x : Shift) (n : Nat) : Lane × Flags × Shift := foldElems f.width (roundElem f rm ftz v n) x

/-- Code and flags of element j of lane n, rounded with its draw. -/
def roundedElem (o : Shift) (n j : Nat) : Nat × Flags :=
  ((roundTo f rm ftz (nthDraw o rm n j) (v n j).1).1, (v n j).2 ||| (roundTo f rm ftz (nthDraw o rm n j) (v n j).1).2)

theorem roundElem_onlyGens (n : Nat) (x : Shift) (j : Nat) : OnlyGens x (roundElem f rm ftz v n x j).2.2 := OnlyGens.drawIf x rm n

theorem roundLane_onlyGens (x : Shift) (n : Nat) : OnlyGens x (roundLane f rm ftz v x n).2.2 := by
  rw [roundLane, foldElems_eq]
  exact OnlyGens.shiftAfter (roundElem_onlyGens f rm ftz v n) x _

variable {o x : Shift} {m : Nat → Nat}

/-- The first k elements of lane n draw k times from its generator. -/
theorem GensAfter.elems (h : GensAfter o x m) (n k : Nat) :
    GensAfter o (shiftAfter (roundElem f rm ftz v n) x k) fun g => m g + if rm = .sr ∧ g = n then k else 0 := by
  induction k with
  | zero => simpa [shiftAfter] using h
  | succ k ih =>
    have counts : (fun g => m g + if rm = .sr ∧ g = n then k + 1 else 0) =
        fun g => (m g + if rm = .sr ∧ g = n then k else 0) + if rm = .sr ∧ g = n then 1 else 0 := by grind
    rw [counts]
    exact ih.drawIf_snd rm n

/-- The first n lanes draw from their own generators, once for each element. -/
theorem GensAfter.lanes (h : x.sp.gens = o.sp.gens) (n : Nat) :
    GensAfter o (shiftAfter (roundLane f rm ftz v) x n) fun g => if rm = .sr ∧ g < n then 32 / f.width else 0 := by
  induction n with
  | zero => simpa [shiftAfter] using GensAfter.zero h
  | succ n ih =>
    have counts : (fun g => if rm = .sr ∧ g < n + 1 then 32 / f.width else 0) =
        fun g => (if rm = .sr ∧ g < n then 32 / f.width else 0) + if rm = .sr ∧ g = n then 32 / f.width else 0 := by grind
    rw [counts, shiftAfter, roundLane, foldElems_eq]
    exact ih.elems f rm ftz v n _

/-- Element j of lane n takes draw j of generator n, since no lane before it draws from that generator. -/
theorem stepAt_roundElem (h : x.sp.gens = o.sp.gens) {n : Nat} (lt : n < 66) (j : Nat) :
    let r := stepAt (roundElem f rm ftz v n) (shiftAfter (roundLane f rm ftz v) x n) j
    (r.1, r.2.1) = roundedElem f rm ftz v o n j := by
  have draw := ((GensAfter.lanes f rm ftz v h n).elems f rm ftz v n j).drawIf_fst rm lt
  have own : ((shiftAfter (roundElem f rm ftz v n) (shiftAfter (roundLane f rm ftz v) x n) j).drawIf rm n).1 = nthDraw o rm n j := by
    simp only [draw, nthDraw, Nat.lt_irrefl, and_false, if_false, Nat.zero_add, and_true]
    split <;> rfl
  simp only [stepAt, roundElem, roundDraw, own, roundedElem]

/-- A rounded element of an active lane. -/
theorem elem_roundLanes (h : x.sp.gens = o.sp.gens) {n j vl : Nat} (active : n < vl) (lt : n < 64) (hj : j < 32 / f.width) :
    elem (laneGet (foldLanes (roundLane f rm ftz v) x vl).1 n) f.width j = (roundedElem f rm ftz v o n j).1 % 2 ^ f.width := by
  rw [laneGet_foldLanes _ _ active lt, stepAt, roundLane, foldElems_eq, elem_ofElems _ hj, ← stepAt_roundElem f rm ftz v h (by omega) j]

/-- A flag is raised where an element of an active lane raises it. -/
theorem flags_roundLanes (h : x.sp.gens = o.sp.gens) {vl : Nat} (le : vl ≤ 64) (b : Nat) :
    (foldLanes (roundLane f rm ftz v) x vl).2.1.getLsbD b = true ↔
      ∃ n j, n < vl ∧ j < 32 / f.width ∧ (roundedElem f rm ftz v o n j).2.getLsbD b = true := by
  have lane {n : Nat} (lt : n < vl) : (stepAt (roundLane f rm ftz v) x n).2.1.getLsbD b = true ↔
      ∃ j, j < 32 / f.width ∧ (roundedElem f rm ftz v o n j).2.getLsbD b = true := by
    rw [stepAt, roundLane, foldElems_eq, getLsbD_flagsAfter]
    simp only [← stepAt_roundElem f rm ftz v h (show n < 66 by omega)]
  rw [foldLanes_eq, getLsbD_flagsAfter]
  grind

theorem roundLanes_onlyGens (x : Shift) (vl : Nat) : OnlyGens x (foldLanes (roundLane f rm ftz v) x vl).2.2 := by
  rw [foldLanes_eq]
  exact OnlyGens.shiftAfter (roundLane_onlyGens f rm ftz v) x vl

theorem gens_roundLanes (h : x.sp.gens = o.sp.gens) (vl : Nat) :
    GensAfter o (foldLanes (roundLane f rm ftz v) x vl).2.2 fun g => if rm = .sr ∧ g < vl then 32 / f.width else 0 := by
  rw [foldLanes_eq]
  exact GensAfter.lanes f rm ftz v h vl

end

/-- The exact value of element j of lane n of three registers (Tables 7.4 and 7.5). -/
def exactElem (f : Fmt) (ftz : Bool) (op : FV → FV → FV → FV × Flags) (a b d : VReg) (n j : Nat) : FV × Flags :=
  op (decodeFtz ftz f (elem (laneGet a n) f.width j)) (decodeFtz ftz f (elem (laneGet b n) f.width j)) (decodeFtz ftz f (elem (laneGet d n) f.width j))

theorem fpLanes_eq (f : Fmt) (stat : Word) (op : FV → FV → FV → FV × Flags) (a b d : VReg) (x : Shift) (vl : Nat) :
    fpLanes f stat op a b d x vl = foldLanes (roundLane f (rmOf stat) (ftzOf stat) (exactElem f (ftzOf stat) op a b d)) x vl := rfl

/-! ## The executing shift changed and landed -/

theorem NMap.set_set {α : Type} (m : NMap α) (a : Nat) (x y : α) : NMap.set (NMap.set m a x) a y = NMap.set m a y := by
  induction m with
  | nil => simp [NMap.set]
  | cons e m ih =>
    simp only [NMap.set]
    split
    · next h => simp [NMap.set, h]
    · split <;> simp [NMap.set, *]

theorem State.modSh_modSh (s : State) (i : Nat) (f g : Shift → Shift) : (s.modSh i f).modSh i g = s.modSh i fun x => g (f x) := by
  cases h : NMap.get? s.shifts i <;> simp [State.modSh, h, NMap.set_set]

theorem State.modX_modX (s : State) (f g : Shift → Shift) : (s.modX f).modX g = s.modX fun x => g (f x) := by
  cases h : s.cur.sh <;> simp [State.modX, h, State.modSh_modSh]

/-- A change of the executing shift is read by it, where it is resident. -/
theorem State.x_modX_resident {s : State} {i : Nat} {x : Shift} (h : s.cur.sh = some i) (hx : s.sh? i = some x) (f : Shift → Shift) : (s.modX f).x = f x :=
  State.x_eq (i := i) (by simpa using h) (by rw [State.modX_eq h, State.sh?_modSh, if_pos rfl, hx]; rfl)

/-- Where no shift executes, or none is resident, there is nothing to change. -/
theorem State.x_modX (s : State) (f : Shift → Shift) : (s.modX f).x = f s.x ∨ (s.modX f).x = s.x := by
  cases h : s.cur.sh with
  | none => exact .inr (by rw [State.modX_none h])
  | some i =>
    cases hx : s.sh? i with
    | none => exact .inr (by rw [State.modX_eq h, State.modSh, show NMap.get? s.shifts i = none from hx])
    | some x => exact .inl (by rw [State.x_modX_resident h hx, State.x_eq h hx])

/-- Lanes whose draws leave VL land under the VL that they were computed with. -/
theorem State.landD_next (s : State) (k : Nat) (vd : VNum) (r : Shift → Nat → Drawn) (h : (r s.x s.vl).2.2.sp.vl = s.vl) :
    s.landD k vd r = .next ((s.modX fun _ => (r s.x s.vl).2.2).land k (r s.x s.vl).2.1 (.v vd 0 s.vl (r s.x s.vl).1)) := by
  have vl : (s.modX fun _ => (r s.x s.vl).2.2).vl = s.vl := by
    rcases s.x_modX fun _ => (r s.x s.vl).2.2 with e | e
    · rw [State.vl, e, h]
    · rw [State.vl, e]
  rw [State.landD, State.landV, vl]

/-- The shift with a base routine started (R302). -/
def Shift.startBase (x : Shift) (entry h : Nat) (i : Instr) (a b : VReg) (vl : Nat) (stat : Word) : Shift :=
  { x with
    tim := { x.tim with laneBusy := h },
    lane := { MicroUnit.zero with v := true, mpc := entry, instr := i, opa := a, opb := b, vl := vl, stat := stat } }

theorem State.startBase_eq (s : State) (entry h : Nat) (i : Instr) (a b : VReg) :
    s.startBase entry h i a b = s.modX fun x => x.startBase entry h i a b s.vl s.stat := State.modX_modX ..

/-- The second shift is the first but for its lane sequencer. -/
def OnlyLane (x y : Shift) : Prop := y = { x with tim := { x.tim with laneBusy := y.tim.laneBusy }, lane := y.lane }

theorem OnlyLane.refl (x : Shift) : OnlyLane x x := rfl

theorem OnlyLane.sp {x y : Shift} (h : OnlyLane x y) : y.sp = x.sp := by rw [h]

/-- A change of the lane sequencer, then draws. -/
theorem OnlyLane.onlyGens {x y z : Shift} (h : OnlyLane x y) (g : OnlyGens y z) :
    z = { x with sp := { x.sp with gens := z.sp.gens }, tim := { x.tim with laneBusy := z.tim.laneBusy }, lane := z.lane } := by
  rw [g, h]

/-- The start of a base routine changes the lane sequencer alone. -/
theorem State.startBase_onlyLane (s : State) (entry h : Nat) (i : Instr) (a b : VReg) : OnlyLane s.x (s.startBase entry h i a b).x := by
  rw [State.startBase_eq]
  rcases s.x_modX fun x => x.startBase entry h i a b s.vl s.stat with e | e <;> rw [e] <;> rfl

end Sys2Proof.Machine

namespace Sys2Proof.Claims
open Sys2Proof.Machine

/-- The words of Tables 7.4 and 7.5 land their rounded lanes, VFDIV after the start of its base routine. -/
theorem exec_vectorFloat {i : Instr} {s : State} {k : Nat} {d : VNum} {fmt : Fmt} {a b : VNum} {op : FV → FV → FV → FV × Flags}
    (h : vectorFloat s i = some (k, d, fmt, a, b, op)) :
    let lanes := fpLanes fmt s.stat op (s.rv a) (s.rv b) (s.rv d)
    (k ≠ 16 ∧ Sys2Proof.Machine.exec i s = s.landD k d lanes) ∨
      (k = 16 ∧ Sys2Proof.Machine.exec i s = (s.startBase 0x000 8 i (s.rv a) (s.rv b)).landD k d lanes) := by
  unfold vectorFloat at h
  split at h
  case h_7 => -- VFDIV
    cases h
    exact .inr ⟨rfl, rfl⟩
  case h_12 => cases h
  all_goals
    cases h
    exact .inl ⟨by decide, rfl⟩

/-- The draws of the word that issues are those of its shift. -/
theorem drawOf_eq (s : State) (g j : Nat) : drawOf s g j = nthDraw s.x (rmOf s.stat) g j := rfl

/-- R94, R125 and R131 of lanes, their flags and the shift after their draws: each element of an active lane is its exact value rounded once. -/
def RoundedOnce (s : State) (fmt : Fmt) (op : FV → FV → FV → FV × Flags) (va vb vd : VReg) (lanes : Drawn) : Prop :=
  let value (n j : Nat) : FV × Flags :=
    op (decodeFtz (ftzOf s.stat) fmt (el va fmt.width n j)) (decodeFtz (ftzOf s.stat) fmt (el vb fmt.width n j))
      (decodeFtz (ftzOf s.stat) fmt (el vd fmt.width n j))
  let rounded (n j : Nat) : Nat × Flags := roundTo fmt (rmOf s.stat) (ftzOf s.stat) (drawOf s n j) (value n j).1
  (∀ n j, n < s.vl → j < 32 / fmt.width → el lanes.1 fmt.width n j = (rounded n j).1 % 2 ^ fmt.width) ∧
  (∀ b, lanes.2.1.getLsbD b = true ↔ ∃ n j, n < s.vl ∧ j < 32 / fmt.width ∧ ((value n j).2 ||| (rounded n j).2).getLsbD b = true) ∧
  ∀ n, n < 66 → lanes.2.2.sp.gens[n]? = some (genAfter s.x n (if rmOf s.stat = .sr ∧ n < s.vl then 32 / fmt.width else 0))

/-- The lanes computed from a shift with the generators of the word's. -/
theorem roundedOnce_fpLanes {s : State} {x : Shift} (gens : x.sp.gens = s.x.sp.gens) (le : s.vl ≤ 64) (fmt : Fmt) (op : FV → FV → FV → FV × Flags)
    (va vb vd : VReg) :
    RoundedOnce s fmt op va vb vd (fpLanes fmt s.stat op va vb vd x s.vl) := by
  rw [fpLanes_eq]
  refine ⟨fun n j active hj => ?_, fun b => ?_, gens_roundLanes _ _ _ _ gens s.vl⟩
  · rw [← elem_laneGet _ _ hj, elem_roundLanes _ _ _ _ gens active (by omega) hj]
    simp only [roundedElem, exactElem, elem_laneGet _ _ hj, drawOf_eq]
  · rw [flags_roundLanes _ _ _ _ gens le]
    refine exists₂_congr fun n j => and_congr_right fun _ => and_congr_right fun hj => ?_
    simp only [roundedElem, exactElem, elem_laneGet _ _ hj, drawOf_eq]

/-- Rounded lanes land from a state whose shift differs from that of the word in its lane sequencer alone. -/
theorem landD_fpLanes {s t : State} (lane : OnlyLane s.x t.x) (put : ∀ y : Shift, (t.modX fun _ => y) = s.modX fun _ => y) (k : Nat) (d : VNum) (fmt : Fmt)
    (op : FV → FV → FV → FV × Flags) (va vb vd : VReg) :
    ∃ (r : VReg) (fl : Flags) (y : Shift), OnlyGens t.x y ∧
      t.landD k d (fpLanes fmt s.stat op va vb vd) = .next ((s.modX fun _ => y).land k fl (.v d 0 s.vl r)) ∧
      (s.vl ≤ 64 → RoundedOnce s fmt op va vb vd (r, fl, y)) := by
  have vl : t.vl = s.vl := congrArg Spec.vl lane.sp
  have gensOnly : OnlyGens t.x (fpLanes fmt s.stat op va vb vd t.x s.vl).2.2 := roundLanes_onlyGens ..
  have kept : (fpLanes fmt s.stat op va vb vd t.x t.vl).2.2.sp.vl = t.vl := by rw [vl, gensOnly, ← vl]
  have landed := t.landD_next k d (fpLanes fmt s.stat op va vb vd) kept
  rw [put, vl] at landed
  exact ⟨_, _, _, gensOnly, landed, fun le => roundedOnce_fpLanes (congrArg Spec.gens lane.sp) le fmt op va vb vd⟩

/-- Settles O10: every word lands lanes that are rounded element by element, each lane with the draws of its own generator; VFDIV first starts its base
routine, which leaves the generators, STAT and VL that they are computed with. -/
theorem vectorFloatsRoundEachElementOnce : Obligations.VectorFloatsRoundEachElementOnce := by
  intro i s k d fmt a b op h value rounded
  rcases exec_vectorFloat h with ⟨hk, run⟩ | ⟨hk, run⟩
  · obtain ⟨r, fl, y, gensOnly, landed, once⟩ := landD_fpLanes (.refl s.x) (fun _ => rfl) k d fmt op (s.rv a) (s.rv b) (s.rv d)
    refine ⟨r, fl, y, (OnlyLane.refl s.x).onlyGens gensOnly, fun _ => ?_, fun e => absurd e hk, run.trans landed, once⟩
    rw [gensOnly]
    exact ⟨rfl, rfl⟩
  · have lane := s.startBase_onlyLane 0x000 8 i (s.rv a) (s.rv b)
    have put (y : Shift) : ((s.startBase 0x000 8 i (s.rv a) (s.rv b)).modX fun _ => y) = s.modX fun _ => y := by
      rw [State.startBase_eq, State.modX_modX]
    obtain ⟨r, fl, y, gensOnly, landed, once⟩ := landD_fpLanes lane put k d fmt op (s.rv a) (s.rv b) (s.rv d)
    refine ⟨r, fl, y, lane.onlyGens gensOnly, fun ne => absurd hk ne, fun _ j z cur resident => ?_, run.trans landed, once⟩
    rw [gensOnly, State.startBase_eq, State.x_modX_resident cur resident]
    exact ⟨rfl, rfl, rfl, rfl⟩

end Sys2Proof.Claims

/-!
The matrix queue, its weight stream and the loader (R153, R154, R158, R163, R323, R324): what the end of an operation, its issue and its results leave of
a shift, and what is read of a core whose bank changed; then one lemma per event of the statement.
-/
namespace Sys2Proof.Machine

/-! ## A change that changes nothing -/

theorem NMap.set_of_get? {α : Type} {m : NMap α} {a : Nat} {x : α} (h : NMap.get? m a = some x) : NMap.set m a x = m := by
  induction m with
  | nil => cases h
  | cons e m ih =>
    simp only [NMap.get?, NMap.set] at h ⊢
    split at h
    · next here => cases h; rw [if_pos here]
    · next ne =>
      split at h
      · cases h
      · next nlt => rw [if_neg ne, if_neg nlt, ih h]

theorem State.modSh_of_fixed {s : State} {i : Nat} {x : Shift} {f : Shift → Shift} (hx : s.sh? i = some x) (fixed : f x = x) : s.modSh i f = s := by
  have get : NMap.get? s.shifts i = some x := hx
  simp only [State.modSh, get, fixed, NMap.set_of_get? get]

/-! ## What the end of an operation changes (R155, R158) -/

/-- The second shift is the first but for its barriers and the interlocks of its vector registers. -/
def OnlyEnds (x y : Shift) : Prop := y = { x with mx := { x.mx with bars := y.mx.bars, ready := y.mx.ready }, pend := y.pend }

theorem OnlyEnds.refl (x : Shift) : OnlyEnds x x := rfl

theorem OnlyEnds.trans {x y z : Shift} (h : OnlyEnds x y) (g : OnlyEnds y z) : OnlyEnds x z := by
  rw [OnlyEnds, g, h]

theorem OnlyEnds.crdLanded (x : Shift) (v : VNum) : OnlyEnds x (x.crdLanded v) := by
  unfold Shift.crdLanded; split <;> rfl

/-- An operation that ends counts on its barrier and releases the registers that it holds. -/
theorem OnlyEnds.finishOp (x : Shift) (o : MOp) (fl : Flags) (code : Nat) : OnlyEnds x (x.finishOp o fl code) := by
  unfold Shift.finishOp
  extract_lets y
  have bars : OnlyEnds x y := by unfold y; split <;> rfl
  refine bars.trans ?_
  split
  · split
    · exact .crdLanded ..
    · exact .refl y
  · rfl
  · exact .refl y

/-- Whether an operation stays in the queue of a halted unit (R158). -/
def MOp.outlastsHalt (o : MOp) : Bool := match o.instr with | .tcfg _ _ _ _ | .mbarm _ _ => true | _ => false

theorem MOp.outlastsHalt_iff {o : MOp} : o.outlastsHalt = true ↔ (∃ af bf mb st, o.instr = .tcfg af bf mb st) ∨ ∃ mb st, o.instr = .mbarm mb st := by
  unfold MOp.outlastsHalt
  split <;> simp_all

/-- HALT set with a code, and the queue without the operations that complete in error. -/
def Shift.halted (x : Shift) (code : Nat) : Shift :=
  (x.setTcb (x.sp.tcb ||| (1 : Word) <<< 63)).modMx fun m => { m with queue := m.queue.filter MOp.outlastsHalt, haltCode := code }

theorem Shift.mxHalted_halted (x : Shift) (code : Nat) : (x.halted code).mxHalted = true :=
  (getLsbD_set_bit x.sp.tcb 63 (by decide)).trans (by simp)

theorem Shift.haltMx_eq (x : Shift) (code : Nat) :
    x.haltMx code = (x.mx.queue.filter fun o => !o.outlastsHalt).foldl (fun x o => x.finishOp o 0 code) (x.halted code) := rfl

/-- A unit that halts has HALT set, and then ends operations. -/
theorem Shift.haltMx_onlyEnds (x : Shift) (code : Nat) : OnlyEnds (x.halted code) (x.haltMx code) := by
  rw [Shift.haltMx_eq]
  exact List.foldlRecOn (motive := OnlyEnds (x.halted code)) _ _ (.refl _) fun _ h o _ => h.trans (.finishOp _ o 0 code)

/-! ## What an issue leaves (R153, R154) -/

/-- The second shift has the queue of the first, the cycle of its last issue and its registers. -/
structure SameQueue (x y : Shift) : Prop where
  queue : y.mx.queue = x.mx.queue
  lastIssue : y.mx.lastIssue = x.mx.lastIssue
  regs : y.regs = x.regs

theorem SameQueue.trans {x y z : Shift} (h : SameQueue x y) (g : SameQueue y z) : SameQueue x z :=
  ⟨g.queue.trans h.queue, g.lastIssue.trans h.lastIssue, g.regs.trans h.regs⟩

theorem SameQueue.of_onlyGens {x y : Shift} (h : OnlyGens x y) : SameQueue x y := by
  rw [h]; exact ⟨rfl, rfl, rfl⟩

theorem SameQueue.setTcb (x : Shift) (w : Word) : SameQueue x (x.setTcb w) := ⟨rfl, rfl, rfl⟩

/-- The conversions of a CST draw, and change nothing else. -/
theorem cstBytes_onlyGens (x : Shift) (f : Fmt) (ct : TNum) (stat : Word) : OnlyGens x (cstBytes x f ct stat).2.2 :=
  List.foldlRecOn (motive := fun p : List (List Byte) × Flags × Shift => OnlyGens x p.2.2) _ _ rfl fun _ row _ _ =>
    List.foldlRecOn (motive := fun p : List (List Byte) × Flags × Shift => OnlyGens x p.2.2) _ _ row fun p h _ _ => h.trans (.drawIf p.2.2 ..)

theorem SameQueue.putSlots (x : Shift) (half : Bool) (ks : List Nat) (state code : Nat) : SameQueue x (x.putSlots half ks state code) := by
  obtain ⟨queue, lastIssue⟩ : (x.putSlots half ks state code).mx.queue = x.mx.queue ∧ (x.putSlots half ks state code).mx.lastIssue = x.mx.lastIssue :=
    List.foldlRecOn (motive := fun m : Matrix => m.queue = x.mx.queue ∧ m.lastIssue = x.mx.lastIssue) _ _ ⟨rfl, rfl⟩ fun _ h _ _ => h
  exact ⟨queue, lastIssue, rfl⟩

/-- Shift i executes, and has the queue of x, the cycle of its last issue and its registers. -/
def State.SameQueueAt (i : Nat) (x : Shift) (t : State) : Prop := t.cur.sh = some i ∧ ∃ y, t.sh? i = some y ∧ SameQueue x y

theorem State.SameQueueAt.modX {i : Nat} {x : Shift} {t : State} (h : t.SameQueueAt i x) {f : Shift → Shift} (keeps : SameQueue t.x (f t.x)) :
    (t.modX f).SameQueueAt i x := by
  obtain ⟨cur, y, hy, same⟩ := h
  rw [State.x_eq cur hy] at keeps
  refine ⟨by rw [State.modX_eq cur, State.modSh_cur, cur], f y, ?_, same.trans keeps⟩
  rw [State.modX_eq cur, State.sh?_modSh, if_pos rfl, hy]; rfl

theorem State.SameQueueAt.mxStart {i : Nat} {x : Shift} {t : State} (h : t.SameQueueAt i x) (o : MOp) : (t.mxStart o).SameQueueAt i x := h.modX ⟨rfl, rfl, rfl⟩

/-- Whatever operation runs, the queue behind it stays. -/
theorem State.SameQueueAt.mxRun {i : Nat} {x : Shift} {t : State} (h : t.SameQueueAt i x) (o : MOp) : (t.mxRun o).SameQueueAt i x := by
  unfold State.mxRun
  split
  case h_5 => exact (h.modX (.of_onlyGens (cstBytes_onlyGens ..))).mxStart _ -- CST
  case h_6 => exact (h.modX ⟨rfl, rfl, rfl⟩).mxStart _ -- CRD
  case h_9 => exact (h.modX (.setTcb ..)).mxStart _ -- WBSEL
  case h_10 => exact (h.modX (.setTcb ..)).mxStart _ -- TCFG
  case h_11 => exact (h.modX (.putSlots ..)).mxStart _ -- WBLD
  case h_12 => -- a tenant operation
    split
    · exact h
    · exact (h.modX ⟨rfl, rfl, rfl⟩).mxStart _
  case h_13 => exact h
  all_goals exact h.mxStart _

/-! ## The head of the queue (R153, R154, R158) -/

/-- The state in which an event of shift i runs. -/
def State.executing (s : State) (i : Nat) : State := { s with cur := { Cur.zero with sh := some i } }

/-- What the head of the queue does in a cycle in which the queue may issue. -/
def State.mxTurn (s : State) (o : MOp) : State :=
  match o.target with
  | none => if s.mxReady o then s.mxGo o else s
  | some t => if s.dcc < t then s else if s.dcc = t ∧ s.mxReady o then s.mxGo o else s.mxMiss o

/-- The shift without the head of its queue, which issued at cycle n. -/
def Shift.popped (x : Shift) (n : Nat) : Shift := x.modMx fun m => { m with queue := m.queue.drop 1, lastIssue := n }

section
variable {s : State} {i : Nat} {x : Shift} {o : MOp} {rest : List MOp}

theorem State.executing_x (hx : s.sh? i = some x) : (s.executing i).x = x := State.x_eq (i := i) rfl hx

theorem State.mxPop_sameQueueAt (cur : s.cur.sh = some i) (hx : s.sh? i = some x) : s.mxPop.SameQueueAt i (x.popped s.dcc) := by
  refine ⟨by rw [State.mxPop, State.modX_eq cur, State.modSh_cur, cur], x.popped s.dcc, ?_, rfl, rfl, rfl⟩
  rw [State.mxPop, State.modX_eq cur, State.sh?_modSh, if_pos rfl, hx]; rfl

/-- An operation that ends in error at its issue leaves a halted unit. -/
theorem State.sh?_mxError (cur : s.cur.sh = some i) (hx : s.sh? i = some x) (o : MOp) (code : Nat) :
    (s.mxError o code).sh? i = some (((x.popped s.dcc).finishOp o 0 code).haltMx code) := by
  rw [State.mxError, State.mxPop, State.modX_modX, State.modX_eq cur, State.sh?_modSh, if_pos rfl, hx]; rfl

theorem Shift.clearHalt_of_not_tcfg (hq : x.mx.queue = o :: rest) (tcfg : ∀ af bf mb st, o.instr ≠ .tcfg af bf mb st) : x.clearHalt = x := by
  unfold Shift.clearHalt
  split
  · next e => rw [hq] at e; cases e; exact absurd rfl (tcfg _ _ _ _)
  · rfl

/-- In the event, the head of the queue of shift i acts. -/
theorem execMatrixOpIssue_eq (hx : s.sh? i = some x) (hq : x.mx.queue = o :: rest) (tcfg : ∀ af bf mb st, o.instr ≠ .tcfg af bf mb st) :
    execMatrixOpIssue i s = .next ((s.executing i).mxHead o) := by
  have kept : (s.executing i).modX Shift.clearHalt = s.executing i :=
    State.modSh_of_fixed (s := s.executing i) hx (Shift.clearHalt_of_not_tcfg hq tcfg)
  simp only [execMatrixOpIssue, ← State.executing.eq_1, kept, State.executing_x hx, hq]

section
variable (mbarm : ∀ mb st, o.instr ≠ .mbarm mb st)
include mbarm

theorem State.mxHead_eq (entered : o.entry ≤ s.dcc) (next : s.x.mx.lastIssue < s.dcc) : s.mxHead o = s.mxTurn o := by
  unfold State.mxHead
  dsimp only
  rw [if_neg (by omega), if_neg]
  · rfl
  · rintro ⟨-, barm⟩
    split at barm
    · next e => exact mbarm _ _ e
    · cases barm

theorem State.mxGo_of_no_fault (fault : s.mxFault o = none) : s.mxGo o = s.mxPop.mxRun o := by
  unfold State.mxGo
  split
  · next e => exact absurd e (mbarm _ _)
  · simp only [fault]

theorem State.mxMiss_eq : s.mxMiss o = s.mxError o 8 := by
  unfold State.mxMiss
  split
  · next e => exact absurd e (mbarm _ _)
  · rfl

theorem State.mxTurn_issues (cycle : o.target = none ∨ o.target = some s.dcc) (ready : s.mxReady o = true) (fault : s.mxFault o = none) :
    s.mxTurn o = s.mxPop.mxRun o := by
  rw [← State.mxGo_of_no_fault mbarm fault]
  rcases cycle with e | e <;> simp [State.mxTurn, e, ready]

theorem State.mxTurn_misses {n : Nat} (target : o.target = some n) (late : n < s.dcc) : s.mxTurn o = s.mxError o 8 := by
  rw [State.mxTurn, target, ← State.mxMiss_eq mbarm]
  dsimp only
  rw [if_neg (by omega), if_neg (by omega)]

variable (hx : s.sh? i = some x) (hq : x.mx.queue = o :: rest) (tcfg : ∀ af bf mb st, o.instr ≠ .tcfg af bf mb st) (entered : o.entry ≤ s.dcc)
  (next : x.mx.lastIssue < s.dcc)
include hx hq tcfg entered next

theorem execMatrixOpIssue_turn : execMatrixOpIssue i s = .next ((s.executing i).mxTurn o) := by
  have may : (s.executing i).x.mx.lastIssue < (s.executing i).dcc := by rw [State.executing_x hx]; exact next
  rw [execMatrixOpIssue_eq hx hq tcfg, State.mxHead_eq (s := s.executing i) mbarm entered may]

/-- The head of the queue issues in its cycle. -/
theorem execMatrixOpIssue_issues (cycle : o.target = none ∨ o.target = some s.dcc) (ready : (s.executing i).mxReady o = true)
    (fault : (s.executing i).mxFault o = none) :
    ∃ t y, execMatrixOpIssue i s = .next t ∧ t.sh? i = some y ∧ y.mx.queue = rest ∧ y.mx.lastIssue = s.dcc ∧ y.regs = x.regs := by
  obtain ⟨-, y, hy, same⟩ := (State.mxPop_sameQueueAt (s := s.executing i) rfl hx).mxRun o
  have issue := execMatrixOpIssue_turn mbarm hx hq tcfg entered next
  rw [State.mxTurn_issues (s := s.executing i) mbarm cycle ready fault] at issue
  exact ⟨_, y, issue, hy, by rw [same.queue, Shift.popped, Shift.modMx, hq]; rfl, same.lastIssue, same.regs⟩

/-- The head of the queue halts the unit where its cycle has passed. -/
theorem execMatrixOpIssue_halts {n : Nat} (target : o.target = some n) (late : n < s.dcc) :
    ∃ t y, execMatrixOpIssue i s = .next t ∧ t.sh? i = some y ∧ y.mxHalted = true ∧ y.mx.haltCode = 8 ∧ y.regs = x.regs ∧
      ∀ p ∈ y.mx.queue, p.outlastsHalt = true := by
  have issue := execMatrixOpIssue_turn mbarm hx hq tcfg entered next
  rw [State.mxTurn_misses (s := s.executing i) mbarm target late] at issue
  have ends := OnlyEnds.finishOp (x.popped s.dcc) o 0 8
  have halts := Shift.haltMx_onlyEnds ((x.popped s.dcc).finishOp o 0 8) 8
  refine ⟨_, ((x.popped s.dcc).finishOp o 0 8).haltMx 8, issue, State.sh?_mxError (s := s.executing i) rfl hx o 8, ?_, ?_, ?_, ?_⟩
  · rw [halts]; exact Shift.mxHalted_halted _ 8
  · rw [halts]; rfl
  · rw [halts, ends]; rfl
  · rw [halts]; exact fun p hp => (List.mem_filter.1 hp).2

end

end

/-! ## Completion (R154) -/

/-- The second shift is the first but for its tiles. -/
def OnlyTiles (x y : Shift) : Prop := y = { x with mx := { x.mx with tiles := y.mx.tiles } }

/-- The shift with the rows of an operation in its tile. -/
def Shift.rowsWritten (x : Shift) (o : MOp) : Shift :=
  match tileOf o.instr with
  | some ct => o.rows.foldl (fun (x : Shift) (r : Nat × TileRow) => x.setRow ct r.1 r.2) x
  | none => x

theorem Shift.rowsWritten_onlyTiles (x : Shift) (o : MOp) : OnlyTiles x (x.rowsWritten o) := by
  unfold Shift.rowsWritten
  split
  · exact List.foldlRecOn (motive := OnlyTiles x) _ _ rfl fun y h r _ => by rw [h]; rfl
  · rfl

theorem Shift.endOp_onlyEnds (x : Shift) (o : MOp) (fl : Flags) (code : Nat) :
    OnlyEnds (x.modMx fun m => { m with active := m.active.filter fun e => e.rank != o.rank }) (x.endOp o fl code) := .finishOp ..

theorem execMatrixOpComplete_eq {s : State} {i : Nat} {x : Shift} {o : MOp} (hx : s.sh? i = some x) (due : s.mxDue x = some o) :
    execMatrixOpComplete i s = .next
      (if o.bytes = [] then s.modSh i fun x => (x.rowsWritten o).endOp o o.flags 0
        else (s.modSh i fun x => (x.rowsWritten o).endOp o o.flags 0).putPad x.place.core (wbits o.sa 0 20) o.bytes) := by
  simp only [execMatrixOpComplete, hx, due, List.isEmpty_iff]
  rfl

/-- What an operation that ends wrote is in its tile and in PAD, and it is in progress no more. -/
theorem execMatrixOpComplete_ends {s : State} {i : Nat} {x : Shift} {o : MOp} (hx : s.sh? i = some x) (due : s.mxDue x = some o) :
    ∃ t y, execMatrixOpComplete i s = .next t ∧ t.sh? i = some y ∧ (∀ p ∈ y.mx.active, p.rank ≠ o.rank) ∧ y.regs = x.regs ∧ y.mx.queue = x.mx.queue ∧
      t.pad = if o.bytes = [] then s.pad else s.pad.put (x.place.core * 2 ^ 20 + o.sa.toNat % 2 ^ 20) o.bytes := by
  have tiles := x.rowsWritten_onlyTiles o
  have ends := (x.rowsWritten o).endOp_onlyEnds o o.flags 0
  refine ⟨_, (x.rowsWritten o).endOp o o.flags 0, execMatrixOpComplete_eq hx due, ?_, ?_, ?_, ?_, ?_⟩
  · have ended : (s.modSh i fun x => (x.rowsWritten o).endOp o o.flags 0).sh? i = some ((x.rowsWritten o).endOp o o.flags 0) := by
      rw [State.sh?_modSh, if_pos rfl, hx]; rfl
    split <;> exact ended
  · rw [ends]
    exact fun p hp => by simpa using (List.mem_filter.1 hp).2
  · rw [ends, tiles]; rfl
  · rw [ends, tiles]; rfl
  · have place : padKey x.place.core (wbits o.sa 0 20) = x.place.core * 2 ^ 20 + o.sa.toNat % 2 ^ 20 := by rw [padKey, wbits, nbits_zero]
    split
    · exact State.modSh_pad ..
    · rw [State.putPad, State.modSh_pad, place]

/-! ## The weight stream (R163) -/

/-- A slot whose bytes have all arrived is put, where nothing holds the stream. -/
theorem State.streamStep_puts {s : State} {i : Nat} {x : Shift} {o : MOp} {plain : Option Fmt} (good : o.code = 0)
    (home : ∀ p ∈ s.fab.ops, ¬(p.kind = 5 ∧ p.sh = some i)) (unread : s.slotReading x o o.half (o.sa.toNat % 2 ^ 13 + o.slot) = false)
    (ordered : s.streamOrdered i x o = true) (later : o.issued ≠ some s.dcc) (arrived : wbldBytes plain ≤ o.bytes.length) :
    s.streamStep i x o plain = s.modSh i fun x => x.wbldPut o plain (o.sa.toNat % 2 ^ 13 + o.slot) o.bytes := by
  have first : wbits o.sa 0 13 = o.sa.toNat % 2 ^ 13 := nbits_zero ..
  have none_away : (s.fab.ops.any fun f => f.kind == 5 && f.sh == some i) = false := by simpa using home
  unfold State.streamStep
  dsimp only
  rw [first, none_away, unread, ordered, if_neg (fun bad => bad good), if_neg (by simpa using later), if_pos arrived]

theorem execWbldSlotValid_eq {s : State} {i : Nat} {x : Shift} {o : MOp} {plain : Option Fmt} {mb : BNum} {a : ANum} {d : SNum} {st : BitVec 20}
    (hx : s.sh? i = some x) (stream : x.mx.stream = some o) (instr : o.instr = .wbld plain mb a d st) :
    execWbldSlotValid i s = .next ((s.executing i).streamStep i x o plain) := by
  have resident : (s.executing i).sh? i = some x := hx
  simp only [execWbldSlotValid, ← State.executing.eq_1, resident, stream, instr]

/-! ## Cores and their banks (R324) -/

theorem State.core_modCore_new {s : State} {c : Nat} {f : Core → Core} (new : f (s.core c) ≠ Core.zero) : (s.modCore c f).core c = f (s.core c) :=
  NMap.getD_put_new _ _ new

/-- A core of which a bank is in use is not as at reset. -/
theorem Core.ne_zero_of_bank {c : Core} {k : Nat} {b : Bank} (hb : c.banks[k]? = some b) (used : b.state ≠ 0) : c ≠ Core.zero := by
  rintro rfl
  have empty : b = Bank.zero := by
    obtain ⟨lt, e⟩ := Vector.getElem?_eq_some_iff.1 hb
    exact e.symm.trans (Vector.getElem_replicate lt)
  exact used (by rw [empty]; rfl)

/-- A bank put in use is read so. -/
theorem State.bank_modBank {s : State} {core k : Nat} {b : Bank} {f : Bank → Bank} (hb : (s.core core).banks[k]? = some b) (used : (f b).state ≠ 0) :
    ((s.modBank core k f).core core).banks[k]? = some (f b) := by
  have lt : k < 2 := (Vector.getElem?_eq_some_iff.1 hb).1
  have set : ((s.core core).banks.setIfInBounds k (f b))[k]? = some (f b) := by simp [lt]
  have changed : (s.modBank core k f).core core = { s.core core with banks := (s.core core).banks.setIfInBounds k (f b) } := by
    unfold State.modBank
    rw [State.core_modCore_new] <;> simp only [hb]
    exact Core.ne_zero_of_bank (k := k) set used
  rw [changed, set]

/-! ## What the reads of the loader leave of the cores (R338, R351) -/

@[simp] theorem State.kmissBy_cores (s : State) (fn : Option Nat) (n : Nat) : (s.kmissBy fn n).cores = s.cores := by
  unfold State.kmissBy
  split
  · rfl
  · split <;> rfl

@[simp] theorem State.dirtied_cores (s : State) (line : Nat) (m : BitVec 128) : (s.dirtied line m).cores = s.cores := by
  rw [s.dirtied_frame]

@[simp] theorem State.poke_cores (s : State) (pa : Nat) (bs : List Byte) (key : Option Nat) : (s.poke pa bs key).cores = s.cores := by
  have stored (m : Mem) (line : Nat) (mask : BitVec 128) : (State.dirtied { s with glob := m } line mask).cores = s.cores := State.dirtied_cores ..
  unfold State.poke
  dsimp only
  split
  · rfl
  split
  · split <;> rfl
  split
  · exact stored ..
  split
  · rfl
  split <;> exact stored ..

@[simp] theorem State.ownWrite_cores (s : State) (pa : Nat) (key : Option Nat) (op : OwnOp) (bs : List Byte) : (s.ownWrite pa key op bs).cores = s.cores := by
  have line (bs : List Byte) : (s.writeLine pa key bs).cores = s.cores := by
    unfold State.writeLine State.unpennant
    split <;> simp
  have bits (f : Byte → Byte → Byte) : (s.bitsAt pa key f bs).cores = s.cores := by
    unfold State.bitsAt
    dsimp only
    split
    · rfl
    · exact line _
  unfold State.ownWrite
  split
  · rfl
  · cases op
    · exact line _
    · exact bits _
    · exact bits _

@[simp] theorem State.touchEntry_cores (s : State) (write : Bool) (leaves : List Nat) (pa : Nat) : (s.touchEntry write leaves pa).cores = s.cores := by
  unfold State.touchEntry
  split
  · rfl
  · exact State.ownWrite_cores ..

@[simp] theorem State.cacheTlb_cores (s : State) (e : Tlb) : (s.cacheTlb e).cores = s.cores := rfl

/-- An access that takes effect changes tables, logs and TLBs. -/
@[simp] theorem State.useEntry_cores (s : State) (e : Tlb) (va : Nat) (write : Bool) : (s.useEntry e va write).cores = s.cores := by
  have touched : ((e.entriesAt va).foldl (fun s p => s.touchEntry write (e.leavesAt va) p) s).cores = s.cores :=
    List.foldlRecOn (motive := fun t : State => t.cores = s.cores) _ _ rfl fun t ht p _ => (t.touchEntry_cores ..).trans ht
  have logged (t : State) (n : Nat) : (t.logGranule e.ctx n).cores = t.cores := State.ownWrite_cores ..
  unfold State.useEntry
  dsimp only
  rw [State.cacheTlb_cores]
  split
  · split
    · split
      · rfl
      · exact touched
    · rw [logged]
      split
      · rfl
      · exact touched
  · split
    · rfl
    · exact touched

theorem State.touchVirt_cores (s : State) (unit ctx va n : Nat) (write : Bool) : (s.touchVirt unit ctx va n write).cores = s.cores :=
  List.foldlRecOn (motive := fun t : State => t.cores = s.cores) _ _ rfl fun t ht j _ => by
    dsimp only
    split
    · split
      · rw [State.useEntry_cores]
        split
        · exact ht
        · exact (t.kmissBy_cores ..).trans ht
      · exact ht
    · exact ht

/-- The reads of an image change no core. -/
@[simp] theorem State.core_sawTenant (s : State) (ctx va c : Nat) : (s.sawTenant ctx va).core c = s.core c :=
  congrArg (NMap.getD · c Core.zero) (s.touchVirt_cores ..)

/-! ## A load and its end (R323, R324) -/

/-- The bank that a load takes. -/
def Shift.loadingBank (x : Shift) (ctx : Nat) (tag : Word) : Bank :=
  { Bank.zero with state := 1, ctx := ctx, tag := tag, image := BitVec.ofNat 72 x.img.timg }

/-- A load takes its bank. -/
theorem State.bank_startLoad {s : State} {core ctx : Nat} {tag : Word} {x : Shift} {k : Nat} {keep : Option Nat} (owner : s.imageOwner core ctx tag = some x)
    (room : s.loadBank core keep = some k) (lt : k < 2) (absent : s.bankHas core ctx tag = false) :
    ((s.startLoad core ctx tag keep).core core).banks[k]? = some (x.loadingBank ctx tag) := by
  have cores : (s.startLoad core ctx tag keep).core core = (s.modBank core k fun _ => x.loadingBank ctx tag).core core := by
    simp only [State.startLoad, owner, room, absent, Bool.false_eq_true, if_false]
    rfl
  rw [cores]
  exact State.bank_modBank (f := fun _ => x.loadingBank ctx tag) (Vector.getElem?_eq_getElem lt) (Nat.succ_ne_zero 0)

/-- The state whose load ended with a failure. -/
def State.loadFailed (s : State) (core bank : Nat) (b : Bank) (code : Nat) : State :=
  (s.modBank core bank fun b => { b with state := 3, words := [] }).modCore core fun c =>
    { c with ldFails := satAdd 32 c.ldFails 1, ldCtx := b.ctx, ldCode := code }

section
variable {s : State} {core bank : Nat} {b : Bank} (hb : (s.core core).banks[bank]? = some b)
include hb

/-- A failed load leaves its bank FAILED and its code and context in LDERR. -/
theorem State.core_loadFailed (code : Nat) :
    let c := (s.loadFailed core bank b code).core core
    c.banks[bank]? = some { b with state := 3, words := [] } ∧ c.ldCode = code ∧ c.ldCtx = b.ctx := by
  have failed := State.bank_modBank (f := fun b => { b with state := 3, words := [] }) hb (by simp)
  unfold State.loadFailed
  rw [State.core_modCore_new (Core.ne_zero_of_bank (k := bank) failed (by simp))]
  exact ⟨failed, rfl, rfl⟩

variable (loading : b.state = 1)
include loading

theorem execTenantLoadComplete_ready {m : TenantImg} (image : s.tenantAt b.ctx b.image.toNat = .ok m) (tag : m.tag = b.tag) :
    execTenantLoadComplete core bank s = .next ((s.modBank core bank fun b => { b with state := 2, words := m.words }).sawTenant b.ctx b.image.toNat) := by
  simp [execTenantLoadComplete, hb, loading, image, tag]

theorem execTenantLoadComplete_failed {code : Nat} (image : s.tenantAt b.ctx b.image.toNat = .error code) :
    execTenantLoadComplete core bank s = .next ((s.loadFailed core bank b code).sawTenant b.ctx b.image.toNat) := by
  simp only [execTenantLoadComplete, hb, loading, image, ne_eq, not_true_eq_false, if_false]
  rfl

end

end Sys2Proof.Machine

namespace Sys2Proof.Claims
open Sys2Proof.Machine

/-- Settles O42: each event does to its shift or its core what its lemma above says. -/
theorem matrixAndLoaderEventsTakeEffect : Obligations.MatrixAndLoaderEventsTakeEffect := by
  intro s i core bank x o rest ctx tag b
  refine ⟨fun hx hq tcfg mbarm entered next => ⟨execMatrixOpIssue_issues mbarm hx hq tcfg entered next, fun n target late => ?halts⟩,
    execMatrixOpComplete_ends, fun plain mb a d st hx stream instr => ?puts, fun owner room lt absent => ?loads,
    fun hb loading => ⟨fun m image same => ?ready, fun c image => ?failed⟩⟩
  case halts =>
    obtain ⟨t, y, run, hy, halted, code, regs, left⟩ := execMatrixOpIssue_halts mbarm hx hq tcfg entered next target late
    exact ⟨t, y, run, hy, halted, code, regs, fun p hp => MOp.outlastsHalt_iff.1 (left p hp)⟩
  case puts =>
    intro u n good home unread ordered later arrived
    have put := State.streamStep_puts (s := u) (plain := plain) good home unread ordered later arrived
    refine ⟨_, (execWbldSlotValid_eq hx stream instr).trans (congrArg _ put), ?_, State.modSh_glob ..⟩
    rw [State.sh?_modSh, if_pos rfl, show u.sh? i = some x from hx]; rfl
  case loads => exact ⟨_, x.loadingBank ctx tag, rfl, State.bank_startLoad owner room lt absent, rfl, rfl, rfl⟩
  case ready =>
    refine ⟨_, { b with state := 2, words := m.words }, execTenantLoadComplete_ready hb loading image same, ?_, rfl, rfl⟩
    rw [State.core_sawTenant]
    exact State.bank_modBank (f := fun b => { b with state := 2, words := m.words }) hb (Nat.succ_ne_zero 1)
  case failed =>
    obtain ⟨failed, code, owner⟩ := State.core_loadFailed hb c
    refine ⟨_, { b with state := 3, words := [] }, execTenantLoadComplete_failed hb loading image, ?_, rfl, ?_, ?_⟩ <;> rw [State.core_sawTenant]
    · exact failed
    · exact code
    · exact owner

end Sys2Proof.Claims

/-!
The run-time check of the local spaces (R183, Table 9.7): a list of checks, each of which says that some byte of the access fails it, and the fault of
the first that fails.
-/
namespace Sys2Proof.Machine

/-! ## Checks made in order -/

/-- r is the failure of the first of some checks that fails, each with the number of its failure, or says that all pass. -/
def FirstFailure {α : Type} (fail : Nat → α) (pass : α) : List (Prop × Nat) → α → Prop
  | [], r => r = pass
  | c :: cs, r => (c.1 → r = fail c.2) ∧ (¬c.1 → FirstFailure fail pass cs r)

section
variable {α β : Type} {fail : Nat → α} {pass : α} {cs ds : List (Prop × Nat)}

theorem FirstFailure.cons_ite {b c : Prop} [Decidable b] {r : α} (n : Nat) (h : b ↔ c) (rest : FirstFailure fail pass cs r) :
    FirstFailure fail pass ((c, n) :: cs) (if b then fail n else r) :=
  ⟨fun hc => if_pos (h.2 hc), fun hc => (if_neg (mt h.1 hc)).symm ▸ rest⟩

/-- Checks that are made where earlier ones pass. -/
theorem FirstFailure.append {o p : Option α} (first : FirstFailure (some ∘ fail) none cs o) (second : FirstFailure (some ∘ fail) none ds p) :
    FirstFailure (some ∘ fail) none (cs ++ ds) (o.or p) := by
  induction cs with
  | nil => exact first.symm ▸ second
  | cons c cs ih => exact ⟨fun hc => by rw [first.1 hc]; rfl, fun hc => ih (first.2 hc)⟩

theorem FirstFailure.map (f : α → β) {r : α} (h : FirstFailure fail pass cs r) : FirstFailure (f ∘ fail) (f pass) cs (f r) := by
  induction cs with
  | nil => exact congrArg f h
  | cons c cs ih => exact ⟨fun hc => congrArg f (h.1 hc), fun hc => ih (h.2 hc)⟩

end

/-! ## The bytes of an access -/

/-- Some byte of an access of n bytes at an address has a property. -/
def SomeByte (ea : Int) (n : Nat) (p : Int → Prop) : Prop := ∃ b, ea ≤ b ∧ b < ea + n ∧ p b

/-- The bytes of an access, counted from its first. -/
theorem someByte_iff (ea : Int) (n : Nat) (p : Int → Prop) : SomeByte ea n p ↔ ∃ j ∈ upto 0 n, p (ea + (j : Int)) := by
  constructor
  · rintro ⟨b, lo, hi, hp⟩
    exact ⟨(b - ea).toNat, mem_upto.2 (by omega), by rwa [show ea + ((b - ea).toNat : Int) = b by omega]⟩
  · rintro ⟨j, hj, hp⟩
    have := (mem_upto.1 hj).2
    exact ⟨ea + j, by omega, by omega, hp⟩

/-! ## Table 9.7 in PAD, CREW and CHIP -/

/-- Checks 1 to 3 of Table 9.7, each with the cause of its fault. -/
def State.rangeChecks (s : State) (x : Shift) (sp : Space) (ea : Int) (n : Nat) : List (Prop × Nat) :=
  [(ea < 0 ∨ (spLimit sp : Int) < ea + n, 1),
    (sp = .pad ∧ SomeByte ea n fun b => ownsBank x.place.banks b.toNat = false, 2),
    (SomeByte ea n fun b => (sp = .pad ∧ inSaveArea x.place.banks b.toNat = true) ∨ s.inRingHeader sp x.place.core b.toNat = true, 8)]

/-- Checks 4 to 8 of Table 9.7, each with the cause of its fault. -/
def State.footChecks (s : State) (i : Nat) (x : Shift) (k : Acc) (sc : Scope) (sp : Space) (ea : Int) (n : Nat) : List (Prop × Nat) :=
  let inSlot (b : Int) : Prop := s.inRingSlots sp x.place.core b.toNat = true
  [(SomeByte ea n fun b => ¬inSlot b ∧ x.modesAt sp b = [], 3),
    (SomeByte ea n fun b => ¬inSlot b ∧ ∀ m ∈ x.modesAt sp b, k.permitted m = false, 4),
    (k.sync = true ∧ SomeByte ea n fun b => ¬inSlot b ∧ 2 ∈ x.modesAt sp b ∧ scRank sc < s.requiredScope x.place.ctx sp x.place.core b false, 5),
    (SomeByte ea n fun b => inSlot b ∧ (k.sync = true ∨ x.holdsSlotAt sp b.toNat = false), 6),
    (s.jobClash i x k sp ea n = true, 7)]

section
variable (s : State) (i : Nat) (x : Shift) (k : Acc) (sc : Scope) (sp : Space) (ea : Int) (n : Nat)

theorem State.rangeCheck_first : FirstFailure (some ∘ (memFault 0 · ea)) none (s.rangeChecks x sp ea n) (s.rangeCheck x 0 false false sp ea n) :=
  .cons_ite 1 .rfl <| .cons_ite 2 (by simp [someByte_iff]) <| .cons_ite 8 (by simp [someByte_iff]) rfl

theorem State.footCheck_first :
    FirstFailure (some ∘ (memFault 0 · ea)) none (s.footChecks i x k sc sp ea n) (s.footCheck i x 0 k sc false sp ea n false) :=
  .cons_ite 3 (by simp [someByte_iff]) <| .cons_ite 4 (by simp [someByte_iff]) <| .cons_ite 5 (by simp [someByte_iff, and_assoc]) <|
    .cons_ite 6 (by simp [someByte_iff]) <| .cons_ite 7 .rfl rfl

/-- The answer to an access that needs no translation. -/
def localAnswer (o : Option FaultInfo) : Except FaultInfo (Option Tlb) :=
  match o with
  | some f => .error f
  | none => .ok none

theorem State.checkAccess_local (h : sp = .pad ∨ sp = .crew ∨ sp = .chip) :
    s.checkAccess i x 0 0 k sc false false false sp ea n =
      localAnswer ((s.rangeCheck x 0 false false sp ea n).or (s.footCheck i x 0 k sc false sp ea n false)) := by
  rcases h with rfl | rfl | rfl <;> simp only [State.checkAccess] <;> cases s.rangeCheck x 0 false false _ ea n <;> rfl

theorem State.checkAccess_first (h : sp = .pad ∨ sp = .crew ∨ sp = .chip) :
    FirstFailure (.error ∘ (memFault 0 · ea)) (.ok none) (s.rangeChecks x sp ea n ++ s.footChecks i x k sc sp ea n)
      (s.checkAccess i x 0 0 k sc false false false sp ea n) :=
  s.checkAccess_local i x k sc sp ea n h ▸ ((s.rangeCheck_first x sp ea n).append (s.footCheck_first i x k sc sp ea n)).map localAnswer

end

end Sys2Proof.Machine

namespace Sys2Proof.Claims
open Sys2Proof.Machine

/-- Settles O19: the checks of an access to PAD, CREW or CHIP stand in the order of Table 9.7. -/
theorem localChecksNameTheFirstFailure : Obligations.LocalChecksNameTheFirstFailure := by
  intro s i x k sc sp ea n hsp _
  have first := s.checkAccess_first i x k sc sp ea n hsp
  simpa only [State.rangeChecks, State.footChecks, List.cons_append, List.nil_append, FirstFailure, SomeByte, Function.comp, imp_and, and_imp] using first

end Sys2Proof.Claims

/-!
Requests at their homes (R175, R203, R215 to R217, R222): numbers as bytes, what a home where nothing is in the way reads and what a write leaves there,
and the answer that a request takes to its shift.
-/
namespace Sys2Proof.Machine

/-! ## Numbers and bytes (R2) -/

theorem ofLE_eq_number (bs : List Byte) : ofLE bs = Claims.number bs := by
  induction bs with
  | nil => rfl
  | cons b bs ih => rw [ofLE, ih]; rfl

theorem number_lt (bs : List Byte) : Claims.number bs < 2 ^ (8 * bs.length) := by
  induction bs with
  | nil => exact Nat.one_pos
  | cons b bs ih =>
    have := b.isLt
    rw [Claims.number, List.length_cons, Nat.mul_succ, Nat.pow_add]
    omega

theorem leBytes_number (bs : List Byte) : leBytes bs.length (Claims.number bs) = bs := by
  induction bs with
  | nil => rfl
  | cons b bs ih =>
    have head : BitVec.ofNat 8 (b.toNat + 256 * Claims.number bs) = b := BitVec.eq_of_toNat_eq (by simp; omega)
    have tail : (b.toNat + 256 * Claims.number bs) / 256 = Claims.number bs := by omega
    rw [Claims.number, List.length_cons, leBytes, head, tail, ih]

/-- n bytes hold a number modulo 2^(8n). -/
theorem leBytes_mod (n x : Nat) : leBytes n (x % 2 ^ (8 * n)) = leBytes n x := by
  induction n generalizing x with
  | zero => rfl
  | succ n ih =>
    have split : 2 ^ (8 * (n + 1)) = 256 * 2 ^ (8 * n) := by rw [Nat.mul_succ, Nat.pow_add, Nat.mul_comm]
    have head : BitVec.ofNat 8 (x % (256 * 2 ^ (8 * n))) = BitVec.ofNat 8 x := BitVec.eq_of_toNat_eq (by simp)
    rw [leBytes, leBytes, split, head, Nat.mod_mul_right_div_self, ih]

theorem leBytes_mod_word (x : Nat) : leBytes 4 (x % 2 ^ 32) = leBytes 4 x := leBytes_mod 4 x

theorem leBytes_congr {n x y : Nat} (h : x % 2 ^ (8 * n) = y % 2 ^ (8 * n)) : leBytes n x = leBytes n y := by
  rw [← leBytes_mod n x, h, leBytes_mod]

theorem Mem.bytes_eq_map (m : Mem) (a n : Nat) : m.bytes a n = (List.range n).map fun j => m.get (a + j) := by
  induction n generalizing a with
  | zero => rfl
  | succ n ih => simp [Mem.bytes, ih, List.range_succ_eq_map, Nat.add_comm 1, Nat.add_assoc]

theorem sx_eq_signed (n x : Nat) : sx n x = Claims.signed n x := by
  simp [sx, Claims.signed]

theorem loadValue_eq_loaded {n : Nat} {bs : List Byte} (b : Bool) (h : bs.length = n) : loadValue n b bs = Claims.loaded b bs := by
  simp only [loadValue, Claims.loaded, ofLE_eq_number, sx_eq_signed, h]

/-! ## A home with nothing in the way -/

theorem homeBytes_length (s : State) (h : Home) (n : Nat) : (Claims.homeBytes s h n).length = n := by simp [Claims.homeBytes]

section
variable {s : State} {h : Home} (plain : Claims.Plain s h)
include plain

/-- A read meets the bytes as they stand, and no poison. -/
theorem State.homeRead_plain (n : Nat) : s.homeRead h n = (Claims.homeBytes s h n, false, false) := by
  cases h with
  | glob pa key =>
    obtain ⟨-, page, unshut, live, -, tag, clean, -⟩ := plain
    simp [State.homeRead, State.peek, page, unshut, live, tag, clean, Claims.homeBytes, Mem.bytes_eq_map]
  | fab => exact plain.2.elim
  | _ => simp [State.homeRead, Claims.homeBytes, Mem.bytes_eq_map, laneKey, padKey]

/-- The sector of a home in GLOB stands in the home's line, under its key. -/
theorem State.homeRead_sectorBase (n : Nat) : (s.homeRead h.sectorBase n).1 = Claims.homeBytes s h.sectorBase n := by
  cases h with
  | glob pa key =>
    obtain ⟨-, -, -, live, -, tag, -⟩ := plain
    have line : pa / 32 * 32 / 128 = pa / 128 := by omega
    simp [State.homeRead, State.peek, Home.sectorBase, line, live, tag, Claims.homeBytes, Mem.bytes_eq_map]
  | fab => exact plain.2.elim
  | _ => simp [State.homeRead, Claims.homeBytes, Home.sectorBase, Mem.bytes_eq_map, laneKey, padKey]

end

/-! ## Integer atomics (Table 10.4) -/

theorem toNat_natCast_emod (m n : Nat) : ((m : Int) % 2 ^ n).toNat = m % 2 ^ n := by
  rw [show (2 : Int) ^ n = ((2 ^ n : Nat) : Int) by norm_cast, ← Int.natCast_emod, Int.toNat_natCast]

theorem toNat_signed_emod (n x : Nat) : (Claims.signed n x % 2 ^ n).toNat = x % 2 ^ n := by
  have low : ((x % 2 ^ n : Nat) : Int) % 2 ^ n = x % 2 ^ n := by push_cast; exact Int.emod_emod_of_dvd _ (Int.dvd_refl _)
  unfold Claims.signed
  split
  · rw [low, toNat_natCast_emod]
  · rw [Int.sub_emod_right, low, toNat_natCast_emod]

theorem two_pow_dwBytes_le (dw : Bool) : 2 ^ (8 * dwBytes dw) ≤ 2 ^ 64 := by cases dw <;> decide

/-- The new value of an atomic of Table 10.4 on words or dwords, in the bits that it has; it sets no flag. -/
theorem atomNew_eq_atomic {op : AtomOp} {dw : Bool} {old : Nat} {b : Word} {v : Int} (lt : old < 2 ^ (8 * dwBytes dw))
    (hv : Claims.atomic op (8 * dwBytes dw) old (b.toNat % 2 ^ (8 * dwBytes dw)) = some v) :
    (atomNew op dw (w64 old) b).1.toNat % 2 ^ (8 * dwBytes dw) = (v % 2 ^ (8 * dwBytes dw)).toNat ∧ (atomNew op dw (w64 old) b).2 = 0 := by
  have width : (if dw then 64 else 32) = 8 * dwBytes dw := by cases dw <;> rfl
  have fits := two_pow_dwBytes_le dw
  have word {x : Nat} (h : x < 2 ^ (8 * dwBytes dw)) : (w64 x).toNat = x := Nat.mod_eq_of_lt (Nat.lt_of_lt_of_le h fits)
  have first : wbits (w64 old) 0 (8 * dwBytes dw) = old := by rw [wbits, nbits_zero, word lt, Nat.mod_eq_of_lt lt]
  have second : wbits b 0 (8 * dwBytes dw) = b.toNat % 2 ^ (8 * dwBytes dw) := nbits_zero ..
  have lt' : b.toNat % 2 ^ (8 * dwBytes dw) < 2 ^ (8 * dwBytes dw) := Nat.mod_lt _ (Nat.two_pow_pos _)
  simp only [atomNew, width, first, second]
  generalize b.toNat % 2 ^ (8 * dwBytes dw) = y at *
  generalize 8 * dwBytes dw = n at *
  cases op <;> simp only [Claims.atomic, Option.some.injEq, reduceCtorEq] at hv <;> subst hv <;> refine ⟨?_, rfl⟩
  case add => rw [word (Nat.mod_lt _ (Nat.two_pow_pos _)), Nat.mod_mod, ← toNat_natCast_emod]; rfl
  case and => rw [toNat_natCast_emod, BitVec.toNat_and, word lt, word lt']
  case or => rw [toNat_natCast_emod, BitVec.toNat_or, word lt, word lt']
  case xor => rw [toNat_natCast_emod, BitVec.toNat_xor, word lt, word lt']
  case min =>
    simp only [sx_eq_signed]
    split
    · next less => rw [Int.min_eq_right (Int.le_of_lt less), toNat_signed_emod, word lt']
    · next less => rw [Int.min_eq_left (Int.not_lt.1 less), toNat_signed_emod, word lt]
  case max =>
    simp only [sx_eq_signed]
    split
    · next less => rw [Int.max_eq_right (Int.le_of_lt less), toNat_signed_emod, word lt']
    · next less => rw [Int.max_eq_left (Int.not_lt.1 less), toNat_signed_emod, word lt]
  case minz => rw [toNat_natCast_emod, word (Nat.lt_of_le_of_lt (Nat.min_le_left ..) lt)]
  case maxz => rw [toNat_natCast_emod, word (Nat.max_lt.2 ⟨lt, lt'⟩)]
  case swap => rw [toNat_natCast_emod, word lt']

/-- The floating-point addition on words: the bytes of its result, which is rounded once. -/
theorem leBytes_atomNew_fadd {old : Nat} {b : Word} (lt : old < 2 ^ 32) :
    leBytes 4 (atomNew .fadd false (w64 old) b).1.toNat =
      leBytes 4 (roundTo .f32 .rne false 0 (fvAdd .rne (decodeFV .f32 old) (decodeFV .f32 (b.toNat % 2 ^ 32))).1).1 := by
  have first : wbits (w64 old) 0 32 = old := by
    rw [wbits, nbits_zero, BitVec.toNat_ofNat]; omega
  have second : wbits b 0 32 = b.toNat % 2 ^ 32 := nbits_zero ..
  simp only [atomNew, first, second, Bool.false_eq_true, if_false]
  exact leBytes_congr (Nat.mod_mod_of_dvd _ (by decide))

/-! ## Waits for barriers (R219) -/

/-- Where nothing waits for a barrier of its sector, nothing is woken. -/
theorem State.wakeBar_of_not_waited {s : State} {h : Home} (none_waits : s.barWaited h = false) (gen code : Nat) : s.wakeBar h gen code = s := by
  refine congrArg (fun l => { s with waiters := l }) ((List.map_congr_left fun w hw => ?_).trans (List.map_id _))
  have other := List.any_eq_false.1 none_waits w hw
  split
  · next why ans => exact if_neg (by simpa [why, ans] using other)
  · rfl

/-! ## Bytes stored at a home -/

/-- Bytes are stored at a home, and no message comes or goes. -/
def Stored (s t : State) (h : Home) (bs : List Byte) : Prop := Claims.HomeHolds s t h bs ∧ t.msgs = s.msgs

theorem stored_nothing (s : State) (h : Home) : Stored s s h [] := by
  refine ⟨?_, rfl⟩
  cases h <;> exact ⟨rfl, rfl, rfl, rfl, rfl, rfl⟩

section
variable {s : State} {h : Home} (plain : Claims.Plain s h)
include plain

theorem State.storeQuiet_plain (bs : List Byte) : Stored s (s.storeQuiet h bs) h bs ∧ (s.storeQuiet h bs).waiters = s.waiters := by
  cases h with
  | glob pa key =>
    obtain ⟨-, page, unshut, live, -, tag, -, -, -⟩ := plain
    simp only [State.storeQuiet, State.homeWrite, State.drops, State.poke, page, unshut, live, tag, Bool.not_true, Bool.or_self, Bool.false_eq_true, if_false, if_true]
    rw [State.dirtied_frame]
    exact ⟨⟨⟨rfl, rfl, rfl, rfl, rfl, rfl⟩, rfl⟩, rfl⟩
  | fab => exact plain.2.elim
  | _ => exact ⟨⟨⟨rfl, rfl, rfl, rfl, rfl, rfl⟩, rfl⟩, rfl⟩

theorem State.storeQuiet_barWaited (bs : List Byte) : (s.storeQuiet h bs).barWaited h = false := by
  rw [State.barWaited, (State.storeQuiet_plain plain bs).2]; exact plain.1

theorem State.storeAt_plain (bs : List Byte) : s.storeAt h bs = s.storeQuiet h bs := by
  simp [State.storeAt, State.storeQuiet_barWaited plain]

theorem State.deadKey_plain (fn : Option Nat) : s.deadKey h fn = s := by
  cases h with
  | glob pa key =>
    obtain ⟨-, -, -, live, -⟩ := plain
    exact if_pos live
  | _ => rfl

end

/-! ## Barriers (R215 to R217) -/

/-- Word m of the barrier object at a home. -/
def barrierWord (s : State) (h : Home) (m : Nat) : Nat := Claims.number (((Claims.homeBytes s h.sectorBase 32).drop (4 * m)).take 4)

theorem barrierWord_lt (s : State) (h : Home) (m : Nat) : barrierWord s h m < 2 ^ 32 :=
  Nat.lt_of_lt_of_le (number_lt _) (Nat.pow_le_pow_right (by decide) (Nat.mul_le_mul_left 8 (List.length_take_le ..)))

theorem barStatus_eq (gen code : Nat) : barStatus gen code = BitVec.ofNat 64 (gen * 2 ^ 32 + code) := by
  simp [barStatus, fields]

section
variable {s : State} {h : Home} (plain : Claims.Plain s h)
include plain

theorem State.barWord_plain (m : Nat) : s.barWord h m = barrierWord s h m := by
  rw [State.barWord, State.homeRead_sectorBase plain, ofLE_eq_number]; rfl

theorem State.barInit_plain (force : Bool) (c : Nat) :
    s.barInit h force c = (s.storeQuiet h (barBytes c 0 (barrierWord s h 2) (if c = 0 then 0 else 1)), barStatus (barrierWord s h 2) 0) := by
  simp [State.barInit, plain.1, State.barWord_plain plain, State.wakeBar_of_not_waited plain.1]

theorem State.barArr_not_ready (h3 : barrierWord s h 3 ≠ 1) : s.barArr h = (s, barStatus (barrierWord s h 2) 4) := by
  simp [State.barArr, State.barWord_plain plain, h3]

theorem State.barArr_counts (h3 : barrierWord s h 3 = 1) (more : (barrierWord s h 1 + 1) % 2 ^ 32 ≠ barrierWord s h 0) :
    s.barArr h = (s.storeQuiet h (leBytes 4 (barrierWord s h 0) ++ leBytes 4 ((barrierWord s h 1 + 1) % 2 ^ 32)), barStatus (barrierWord s h 2) 0) := by
  simp only [State.barArr, State.barWord_plain plain]
  rw [if_neg (fun other => other h3), if_neg more]

theorem State.barArr_completes (h3 : barrierWord s h 3 = 1) (last : (barrierWord s h 1 + 1) % 2 ^ 32 = barrierWord s h 0) :
    s.barArr h = (s.storeQuiet h (leBytes 4 (barrierWord s h 0) ++ leBytes 4 0 ++ leBytes 4 ((barrierWord s h 2 + 1) % 2 ^ 32)),
      barStatus (barrierWord s h 2) 0) := by
  simp only [State.barArr, State.barWord_plain plain]
  rw [if_neg (fun other => other h3), if_pos last, State.wakeBar_of_not_waited (State.storeQuiet_barWaited plain _)]

end

/-! ## What each request does at its home (R175, R203) -/

/-- A request that is performed at its home stores bytes there and answers a word with flags, and meets no poison. -/
def Performs (s : State) (h : Home) (op : HomeOp) (bs : List Byte) (w : Word) (fl : Flags) : Prop :=
  ∀ fn, ∃ t, s.perform h op fn = (t, { val := w, flags := fl, bad := false }) ∧ Stored s t h bs

section
variable {s : State} {h : Home} (plain : Claims.Plain s h)
include plain

theorem performs_read (n : Nat) (b : Bool) : Performs s h (.read n b) [] (Claims.loaded b (Claims.homeBytes s h n)) 0 := fun fn =>
  ⟨s, by simp [State.perform, State.homeRead_plain plain, loadValue_eq_loaded b (homeBytes_length s h n)], stored_nothing s h⟩

theorem performs_write (bs : List Byte) : Performs s h (.write bs) bs 0 0 := fun fn =>
  ⟨s.storeQuiet h bs, by simp [State.perform, State.deadKey_plain plain, State.storeAt_plain plain, Answer.ok], (State.storeQuiet_plain plain bs).1⟩

theorem performs_atom (op : AtomOp) (dw : Bool) (b : Word) :
    let old := Claims.number (Claims.homeBytes s h (dwBytes dw))
    let new := atomNew op dw (w64 old) b
    Performs s h (.atom op dw b) (leBytes (dwBytes dw) new.1.toNat) (w64 old) new.2 := fun fn =>
  ⟨_, by simp only [State.perform, State.homeRead_plain plain, State.storeAt_plain plain, ofLE_eq_number, Bool.false_eq_true, if_false],
    (State.storeQuiet_plain plain _).1⟩

/-- The integer atomics of Table 10.4. -/
theorem performs_atomic {op : AtomOp} {dw : Bool} {b : Word} {v : Int}
    (hv : Claims.atomic op (8 * dwBytes dw) (Claims.number (Claims.homeBytes s h (dwBytes dw))) (b.toNat % 2 ^ (8 * dwBytes dw)) = some v) :
    Performs s h (.atom op dw b) (Claims.bytesOf (dwBytes dw) (v % 2 ^ (8 * dwBytes dw)).toNat) (w64 (Claims.number (Claims.homeBytes s h (dwBytes dw)))) 0 := by
  have lt := number_lt (Claims.homeBytes s h (dwBytes dw))
  rw [homeBytes_length] at lt
  obtain ⟨value, flags⟩ := atomNew_eq_atomic lt hv
  rw [← leBytes_eq_bytesOf, ← value, leBytes_mod, ← flags]
  exact performs_atom plain op dw b

theorem performs_fadd (b : Word) :
    let old := Claims.number (Claims.homeBytes s h 4)
    Performs s h (.atom .fadd false b)
      (Claims.bytesOf 4 (roundTo .f32 .rne false 0 (fvAdd .rne (decodeFV .f32 old) (decodeFV .f32 (b.toNat % 2 ^ 32))).1).1) (w64 old)
      (atomNew .fadd false (w64 old) b).2 := by
  intro old
  have lt : old < 2 ^ 32 := by simpa [homeBytes_length] using number_lt (Claims.homeBytes s h 4)
  rw [← leBytes_eq_bytesOf, ← leBytes_atomNew_fadd lt]
  exact performs_atom plain .fadd false b

theorem performs_cas (dw : Bool) (e b : Word) :
    let n := dwBytes dw
    let old := Claims.number (Claims.homeBytes s h n)
    Performs s h (.cas dw e b) (Claims.bytesOf n (if old = e.toNat % 2 ^ (8 * n) then b.toNat % 2 ^ (8 * n) else old)) (w64 old) 0 := by
  intro n old fn
  have lt : old < 2 ^ (8 * n) := by simpa only [homeBytes_length] using number_lt (Claims.homeBytes s h n)
  have bytes : leBytes n old = Claims.homeBytes s h n := by simpa only [homeBytes_length] using leBytes_number (Claims.homeBytes s h n)
  have fits : 2 ^ (8 * n) ≤ 2 ^ 64 := two_pow_dwBytes_le dw
  have want : w64 old = w64 (wbits e 0 (8 * n)) ↔ old = e.toNat % 2 ^ (8 * n) := by
    have lt' : e.toNat % 2 ^ (8 * n) < 2 ^ (8 * n) := Nat.mod_lt _ (Nat.two_pow_pos _)
    rw [wbits, nbits_zero, ← BitVec.toNat_inj, BitVec.toNat_ofNat, BitVec.toNat_ofNat, Nat.mod_eq_of_lt (by omega), Nat.mod_eq_of_lt (by omega)]
  have stored : (if w64 old = w64 (wbits e 0 (8 * n)) then leBytes n b.toNat else Claims.homeBytes s h n) =
      Claims.bytesOf n (if old = e.toNat % 2 ^ (8 * n) then b.toNat % 2 ^ (8 * n) else old) := by
    simp only [want]
    rw [← leBytes_eq_bytesOf, apply_ite (leBytes n), leBytes_mod, bytes]
  refine ⟨_, ?_, (State.storeQuiet_plain plain _).1⟩
  rw [← stored]
  simp only [State.perform, State.homeRead_plain plain, State.storeAt_plain plain, ofLE_eq_number, Bool.false_eq_true, if_false]
  rfl

theorem performs_barinit (force : Bool) (c : Word) :
    Performs s h (.barinit force c)
      (Claims.bytesOf 4 c.toNat ++ Claims.bytesOf 4 0 ++ Claims.bytesOf 4 (barrierWord s h 2) ++ Claims.bytesOf 4 (if c.toNat % 2 ^ 32 = 0 then 0 else 1) ++
        List.replicate 16 0) (BitVec.ofNat 64 (barrierWord s h 2 * 2 ^ 32)) 0 := fun fn => by
  have performed : s.perform h (.barinit force c) fn = ((s.barInit h force (wbits c 0 32)).1, Answer.ok (s.barInit h force (wbits c 0 32)).2) := by
    simp [State.perform, State.homeRead_plain plain]
  have count : wbits c 0 32 = c.toNat % 2 ^ 32 := nbits_zero ..
  rw [performed, State.barInit_plain plain, barStatus_eq, count, barBytes, leBytes_mod_word]
  simp only [leBytes_eq_bytesOf, Nat.add_zero]
  exact ⟨_, rfl, (State.storeQuiet_plain plain _).1⟩

theorem State.perform_bararr (fn : Option Nat) : s.perform h .bararr fn = ((s.barArr h).1, Answer.ok (s.barArr h).2) := by
  simp [State.perform, State.homeRead_plain plain]

theorem performs_bararr_not_ready (h3 : barrierWord s h 3 ≠ 1) : Performs s h .bararr [] (BitVec.ofNat 64 (barrierWord s h 2 * 2 ^ 32 + 4)) 0 := fun fn => by
  rw [State.perform_bararr plain, State.barArr_not_ready plain h3, barStatus_eq]
  exact ⟨s, rfl, stored_nothing s h⟩

theorem performs_bararr_counts (h3 : barrierWord s h 3 = 1) (more : (barrierWord s h 1 + 1) % 2 ^ 32 ≠ barrierWord s h 0) :
    Performs s h .bararr (Claims.bytesOf 4 (barrierWord s h 0) ++ Claims.bytesOf 4 (barrierWord s h 1 + 1))
      (BitVec.ofNat 64 (barrierWord s h 2 * 2 ^ 32)) 0 := fun fn => by
  rw [State.perform_bararr plain, State.barArr_counts plain h3 more, barStatus_eq, leBytes_mod_word]
  simp only [leBytes_eq_bytesOf, Nat.add_zero]
  exact ⟨_, rfl, (State.storeQuiet_plain plain _).1⟩

theorem performs_bararr_completes (h3 : barrierWord s h 3 = 1) (last : (barrierWord s h 1 + 1) % 2 ^ 32 = barrierWord s h 0) :
    Performs s h .bararr (Claims.bytesOf 4 (barrierWord s h 0) ++ Claims.bytesOf 4 0 ++ Claims.bytesOf 4 (barrierWord s h 2 + 1))
      (BitVec.ofNat 64 (barrierWord s h 2 * 2 ^ 32)) 0 := fun fn => by
  rw [State.perform_bararr plain, State.barArr_completes plain h3 last, barStatus_eq, leBytes_mod_word]
  simp only [leBytes_eq_bytesOf, Nat.add_zero]
  exact ⟨_, rfl, (State.storeQuiet_plain plain _).1⟩

end

/-! ## A request whose turn has come -/

/-- The state in which request k is performed: it is no longer among the messages, and the shifts may have been changed by what it saw. -/
def State.taken (s : State) (k : Nat) (l : NMap Shift) : State := { s with msgs := Claims.without s.msgs k, shifts := l }

theorem State.dropMsg_modSh (s : State) (k i : Nat) (f : Shift → Shift) : (s.dropMsg k).modSh i f = s.taken k ((s.dropMsg k).modSh i f).shifts := by
  unfold State.modSh; split <;> rfl

theorem State.modSh_dropMsg (s : State) (k i : Nat) (f : Shift → Shift) : (s.modSh i f).dropMsg k = s.taken k (s.modSh i f).shifts := by
  unfold State.modSh; split <;> rfl

section
variable {s : State} {h : Home} (plain : Claims.Plain s h)
include plain

theorem State.pendAt_plain : s.pendAt h = false := by
  cases h with
  | glob pa key =>
    obtain ⟨-, -, -, -, -, -, -, side, -⟩ := plain
    simp [State.pendAt, State.pendLine, side]
  | _ => rfl

/-- A line with no pennant and no version beside it keeps no read waiting, and asks for no fetch (R234, R236). -/
theorem State.seeQuiet_plain (i : Nat) : s.seeQuiet i h = none := by
  cases h with
  | glob pa key =>
    obtain ⟨-, -, -, -, -, -, -, side, pennant⟩ := plain
    unfold State.seeQuiet
    split
    · next pa' key' x at_ _ =>
      cases at_
      simp [State.ownPending, side, State.penOf, pennant, State.seeLine, Shift.viewLine]
    · rfl
  | _ => rfl

end

theorem State.sawQuiet_dropMsg (s : State) (k i : Nat) (h : Home) : ∃ l, (s.sawQuiet i h).dropMsg k = s.taken k l := by
  unfold State.sawQuiet
  split
  · split
    · exact ⟨_, s.modSh_dropMsg ..⟩
    · exact ⟨s.shifts, rfl⟩
  · exact ⟨s.shifts, rfl⟩

section
variable {s : State} {k i : Nat} {x : Shift} {r : Req} (plain : Claims.Plain s r.at_)
include plain

theorem State.window_open {n : Nat} (window : r.window s = some n) : (s.adit n).st = 1 ∧ (s.adit n).closing = false := by
  unfold Req.window at window
  split at window
  · next pa key at_ =>
    rw [at_] at plain
    obtain ⟨-, -, unshut, -⟩ := plain
    split at window
    · cases window
    · next above =>
      rw [State.windowShut, if_neg above, window] at unshut
      cases hw : s.fab.adits[n]? with
      | none => simp [hw] at unshut
      | some w =>
        obtain ⟨⟨up, -⟩, stays⟩ : (w.st = 1 ∧ w.cur = 0) ∧ w.closing = false := by simpa [hw] using unshut
        simpa [State.adit, hw] using ⟨up, stays⟩
  · cases window

/-- Only a window that drains or closes takes a request in another state (R296, R298). -/
theorem State.overWindow_plain (f : State → Option State) : s.overWindow r f = f s := by
  unfold State.overWindow
  split
  · rfl
  · next n window =>
    obtain ⟨up, stays⟩ := State.window_open plain window
    exact if_neg (by simp [Adit.keeps, up, stays])

theorem State.dupWait_plain (single : r.collapse = none) : s.dupWait r = none := by
  unfold State.dupWait
  simp only [single, Option.filter_none]
  split
  · rfl
  · cases at_ : r.at_ with
    | glob pa key =>
      rw [at_] at plain
      obtain ⟨-, -, -, -, alone, -⟩ := plain
      simp [alone]
    | _ => rfl

/-- A read of a line without a bundle is performed at once (R234). -/
theorem State.readGlob_plain {pa key n : Nat} {b : Bool} (at_ : r.at_ = .glob pa key) :
    ∃ l fn, s.readGlob k i x r pa key n b = let y := (s.taken k l).perform r.at_ r.op fn; y.1.answer (some i) r.dst r.va y.2 := by
  rw [at_] at plain
  obtain ⟨-, -, -, -, -, -, -, side, pennant⟩ := plain
  simp only [State.readGlob, State.ownPending, side, State.penOf, pennant, State.seeLine, Shift.viewLine, Option.map_none]
  exact ⟨_, _, by rw [State.dropMsg_modSh]⟩

theorem State.tryReq_plain (ready : s.reqReady k r = true) (single : r.collapse = none) (whole : r.fetch = none) (mine : r.sh = some i) (hx : s.sh? i = some x)
    (store : ∀ b, r.op ≠ .bst b) :
    ∃ l fn, s.tryReq k r = some (let y := (s.taken k l).perform r.at_ r.op fn; y.1.answer (some i) r.dst r.va y.2) := by
  unfold State.tryReq
  rw [if_neg (by simp [whole, ready]), State.dupWait_plain plain single]
  dsimp only
  rw [if_neg (by simp [State.pendAt_plain plain])]
  split
  · next at_ => rw [at_] at plain; exact plain.2.elim
  · next op _ => exact absurd op (store _)
  · next at_ _ sh =>
    obtain rfl := Option.some.inj (mine.symm.trans sh)
    rw [hx]
    dsimp only
    obtain ⟨l, fn, run⟩ := State.readGlob_plain (k := k) (i := i) (x := x) plain at_
    exact ⟨l, fn, congrArg some run⟩
  · have see : (if r.op.takes then s.seeQuiet (r.sh.getD 0) r.at_ else none) = none := by simp [State.seeQuiet_plain plain]
    have saw : ∃ l, (if r.op.takes then s.sawQuiet (r.sh.getD 0) r.at_ else s).dropMsg k = s.taken k l := by
      split
      · exact s.sawQuiet_dropMsg ..
      · exact ⟨s.shifts, rfl⟩
    obtain ⟨l, saw⟩ := saw
    rw [see]
    dsimp only
    rw [saw, mine]
    exact ⟨l, _, rfl⟩

/-- A request whose turn has come, where nothing is in the way, is performed, and its answer goes to its shift. -/
theorem execHomeRequest_plain (listed : s.msgs[k]? = some (.req r)) (ready : s.reqReady k r = true) (single : r.collapse = none) (whole : r.fetch = none)
    (mine : r.sh = some i) (hx : s.sh? i = some x) (store : ∀ b, r.op ≠ .bst b) :
    ∃ l fn, execHomeRequest k s = .next (let y := (s.taken k l).perform r.at_ r.op fn; y.1.answer (some i) r.dst r.va y.2) := by
  obtain ⟨l, fn, taken⟩ := State.tryReq_plain plain ready single whole mine hx store
  refine ⟨l, fn, ?_⟩
  simp only [execHomeRequest, listed]
  rw [State.overWindow_plain plain, taken]; rfl

end

section
variable {s : State} {k i : Nat} {r : Req} {l : NMap Shift} {fn : Option Nat} {bs : List Byte} {w : Word} {fl : Flags}
  (run : execHomeRequest k s = .next (let y := (s.taken k l).perform r.at_ r.op fn; y.1.answer (some i) r.dst r.va y.2))
  (does : Performs (s.taken k l) r.at_ r.op bs w fl)
include run does

/-- A request without a destination leaves no answer. -/
theorem execHomeRequest_stores (dst : r.dst = none) :
    ∃ t, execHomeRequest k s = .next t ∧ Claims.HomeHolds s t r.at_ bs ∧ t.msgs = Claims.without s.msgs k := by
  obtain ⟨t, performed, holds, msgs⟩ := does fn
  rw [performed, dst] at run
  exact ⟨t, run, holds, msgs⟩

theorem execHomeRequest_answers {d : SNum} (dst : r.dst = some d) :
    ∃ t, execHomeRequest k s = .next t ∧ Claims.HomeHolds s t r.at_ bs ∧ Claims.Answered s t k i d w fl := by
  obtain ⟨t, performed, holds, msgs⟩ := does fn
  rw [performed, dst] at run
  exact ⟨_, run, holds, congrArg (· ++ [Msg.arrive i (some d) w fl none]) msgs⟩

end

/-! ## A write of the part that waited for its line (R222) -/

theorem State.writeLine_eq_storeQuiet (s : State) (pa key : Nat) (bs : List Byte) : s.writeLine pa (some key) bs = s.storeQuiet (.glob pa key) bs := rfl

theorem execHomeRequest_own {s : State} {k pa key : Nat} {bs : List Byte} (plain : Claims.Plain s (.glob pa key))
    (listed : s.msgs[k]? = some (.own pa (some key) .put bs none)) (first : ownAhead (s.msgs.take k) pa = false) (bits : bitsAhead (s.msgs.take k) = false) :
    ∃ t, execHomeRequest k s = .next t ∧ Claims.HomeHolds s t (.glob pa key) bs ∧ t.msgs = Claims.without s.msgs k := by
  have free : s.pendLine (pa / 128) = false := State.pendAt_plain plain
  have ⟨_, _, _, _, single, _⟩ := plain
  have plain' : Claims.Plain (s.dropMsg k) (.glob pa key) := plain
  have done : s.tryOwn k pa (some key) .put bs none = some ((s.dropMsg k).storeQuiet (.glob pa key) bs) := by
    simp [State.tryOwn, first, bits, free, single, State.ownAct, State.writeLine_eq_storeQuiet, State.storeQuiet_barWaited plain']
  obtain ⟨holds, msgs⟩ := (State.storeQuiet_plain plain' bs).1
  refine ⟨_, ?_, holds, msgs⟩
  simp [execHomeRequest, listed, done]

end Sys2Proof.Machine

namespace Sys2Proof.Claims
open Sys2Proof.Machine

/-- Settles O44: a request where nothing is in the way is performed, and each operation stores and answers what its lemma above says. -/
theorem requestsArePerformedWholeAtTheirHome : Obligations.RequestsArePerformedWholeAtTheirHome := by
  refine ⟨fun s k i x r _ listed ready single whole mine hx plain => ?_, fun s k pa key bs _ listed plain first bits => execHomeRequest_own plain listed first bits⟩
  have run := execHomeRequest_plain plain listed ready single whole mine hx
  intro h old word
  refine ⟨fun bs op dst => ?write, fun d dst => ⟨fun n sx _ op => ?read, fun a dw b v op => ?atom, fun b op => ?fadd, fun dw e b op => ?cas,
    fun force c op => ?barinit, fun op => ?bararr⟩⟩
  all_goals
    obtain ⟨l, fn, performed⟩ := run (by simp [op])
    have plain' : Plain (s.taken k l) r.at_ := plain
  case write => exact execHomeRequest_stores performed (op ▸ performs_write plain' bs) dst
  case read => exact execHomeRequest_answers performed (op ▸ performs_read plain' n sx) dst
  case atom => exact fun value => execHomeRequest_answers performed (op ▸ performs_atomic plain' value) dst
  case fadd =>
    obtain ⟨t, run, holds, answered⟩ := execHomeRequest_answers performed (op ▸ performs_fadd plain' b) dst
    exact ⟨t, _, run, answered, holds⟩
  case cas => exact execHomeRequest_answers performed (op ▸ performs_cas plain' dw e b) dst
  case barinit =>
    obtain ⟨t, run, holds, answered⟩ := execHomeRequest_answers performed (op ▸ performs_barinit plain' force c) dst
    exact ⟨t, run, answered, fun _ => holds⟩
  case bararr =>
    by_cases h3 : word 3 = 1
    · by_cases last : (word 1 + 1) % 2 ^ 32 = word 0
      · obtain ⟨t, run, holds, answered⟩ := execHomeRequest_answers performed (op ▸ performs_bararr_completes plain' h3 last) dst
        exact ⟨t, run, by rw [if_pos h3, Nat.add_zero]; exact answered, fun other => absurd h3 other, fun _ _ => ⟨fun _ => holds, fun more => absurd last more⟩⟩
      · obtain ⟨t, run, holds, answered⟩ := execHomeRequest_answers performed (op ▸ performs_bararr_counts plain' h3 last) dst
        refine ⟨t, run, by rw [if_pos h3, Nat.add_zero]; exact answered, fun other => absurd h3 other, fun _ _ => ⟨fun full => ?_, fun _ => holds⟩⟩
        exact absurd ((Nat.mod_eq_of_lt (full ▸ barrierWord_lt s h 0)).trans full) last
    · obtain ⟨t, run, holds, answered⟩ := execHomeRequest_answers performed (op ▸ performs_bararr_not_ready plain' h3) dst
      exact ⟨t, run, by rw [if_neg h3]; exact answered, fun _ => holds, fun _ ready => absurd ready h3⟩

end Sys2Proof.Claims

/-!
WAITGE at its home (R205, R193): every waiter looks at its value at the end of a step.
-/
namespace Sys2Proof.Machine

/-- A WAITGE at a home of this package is still unanswered after its look only where its value does not pass. -/
theorem State.wakeGe_unanswered {s : State} {w : Waiter} (listed : w ∈ s.wakeGe.waiters) {h : Home} {d sg : Bool} {thr : Word} (why : w.why = .ge h d sg thr)
    (unanswered : w.answer = none) (here : ∀ pkg pa key, h ≠ .fab pkg pa key) : gePasses d sg (s.geValue w.sh h d) thr = false := by
  unfold State.wakeGe at listed
  split at listed
  · next no_ge => simpa [why] using List.all_eq_true.1 no_ge w listed
  · obtain ⟨v, -, look⟩ := List.mem_map.1 listed
    dsimp only at look
    split at look
    · next why' _ =>
      split at look
      · subst look; cases why'.symm.trans why; exact (here _ _ _ rfl).elim
      · split at look
        · subst look; cases unanswered
        · next stays => subst look; cases why'.symm.trans why; exact Bool.eq_false_iff.2 stays
    · next other => subst look; exact (other _ _ _ _ why unanswered).elim

/-- What a read returns does not depend on who waits. -/
theorem State.geValue_wakeGe (s : State) (i : Nat) (h : Home) (d : Bool) : s.wakeGe.geValue i h d = s.geValue i h d := by
  unfold State.wakeGe
  split <;> rfl

end Sys2Proof.Machine

namespace Sys2Proof.Claims
open Sys2Proof.Machine

theorem noneWaitsPast_wakeGe (s : State) : NoneWaitsPast s.wakeGe := by
  intro w listed h d sg thr why unanswered here
  rw [State.geValue_wakeGe]
  exact State.wakeGe_unanswered listed why unanswered here

/-- Settles O58: whatever a step does, every waiter looks at its value at the end of it. -/
theorem stepLeavesNoWaiterPastItsValue : Obligations.StepLeavesNoWaiterPastItsValue := by
  intro s t _ stepped
  obtain ⟨u, -, woken⟩ := andThen_eq_next stepped
  cases woken
  exact noneWaitsPast_wakeGe u

end Sys2Proof.Claims

/-!
Scalar accesses at issue (R183, R187, R189, R194, R198): the alignment fault that precedes every other check, an access that passes them all, and the
accesses of PAD and LANE that complete with their data.
-/
namespace Sys2Proof.Machine

/-! ## Checks at issue -/

theorem sizeBytes_eq_bytes (sz : Size) : sizeBytes sz = Claims.bytes sz := by cases sz <;> rfl

theorem FirstFailure.passes {α : Type} {fail : Nat → α} {pass r : α} {cs : List (Prop × Nat)} (h : FirstFailure fail pass cs r) (none_fails : ∀ c ∈ cs, ¬c.1) :
    r = pass := by
  induction cs with
  | nil => exact h
  | cons c cs ih => exact ih (h.2 (none_fails c (.head _))) fun d hd => none_fails d (.tail _ hd)

section
variable {s : State} {k : Acc} {sc : Scope} {sp : Space} {ea : Int}

theorem State.issueAccess_misaligned (n : Nat) {align : Nat} (h : ea % (align : Int) ≠ 0) : s.issueAccess k sc sp ea n align = .fault (alignFault 0 ea) :=
  if_pos h

theorem State.issueAccess_go {n align : Nat} {e : Option Tlb} (aligned : ea % (align : Int) = 0)
    (passes : s.checkAccess s.me s.x 0 0 k sc false false false sp ea n = .ok e) (settled : s.accessWaits e ea k.writes = false)
    (acquired : s.acquirePending s.me = false) : s.issueAccess k sc sp ea n align = .go := by
  simp [State.issueAccess, aligned, passes, settled, acquired]

theorem State.plainAccess_misaligned (lane : Nat) {n : Nat} (h : ea % (n : Int) ≠ 0) : s.plainAccess k sc sp lane ea n = .fault (alignFault 0 ea) := by
  rw [State.plainAccess, State.issueAccess_misaligned n h]

theorem State.plainAccess_go {lane n : Nat} (go : s.issueAccess k sc sp ea n n = .go) (free : s.sectorPending s.me (localSector s.myCore sp lane ea) = false) :
    s.plainAccess k sc sp lane ea n = .go := by
  simp [State.plainAccess, go, free]

/-- Only a read of GLOB looks at the table of observed bundles (R234). -/
theorem State.tableCheck_local (v : Verdict) (h : sp ≠ .glob) : s.tableCheck k sp ea v = v := by
  cases v <;> simp [State.tableCheck, h]

theorem State.readKind_local (h : sp ≠ .glob) : s.readKind sp = (.read, .shift) := if_neg fun e => h e.1

end

end Sys2Proof.Machine

namespace Sys2Proof.Claims
open Sys2Proof.Machine

/-- A word of whose checks the first that fails finds a fault is trapped. -/
theorem atIssue_trapped {check : State → Verdict} {effect : State → State} {s : State} {f : FaultInfo} (hc : s.cur.checked = false) (h : check s = .fault f) :
    atIssue check effect s = Trapped s f := by
  unfold Trapped
  split
  · next wait => exact atIssue_wait hc h wait
  · next ready => exact atIssue_fault hc h ready

/-- Settles O21: alignment is the first check of each of the six words. -/
theorem misalignedAccessesTakeTheAlignmentFault : Obligations.MisalignedAccessesTakeTheAlignmentFault := by
  intro s m b r d sz sx dw sc op lane hc trap
  refine ⟨fun odd => ?_, fun odd => ?_⟩
  · have odd' : s.x.eaX m % (sizeBytes sz : Int) ≠ 0 := by rwa [sizeBytes_eq_bytes]
    have plain (k : Acc) (sc : Scope) : s.plainAccess k sc m.sp lane.val (s.x.eaX m) (sizeBytes sz) = .fault (alignFault 0 (s.x.eaX m)) :=
      State.plainAccess_misaligned _ odd'
    have sync (k : Acc) (sc : Scope) : s.issueAccess k sc m.sp (s.x.eaX m) (sizeBytes sz) (sizeBytes sz) = .fault (alignFault 0 (s.x.eaX m)) :=
      State.issueAccess_misaligned _ odd'
    have ld : execLd sz sx d m lane s = trap (s.x.eaX m) := by unfold execLd; exact atIssue_trapped hc (by rw [plain]; rfl)
    have st : execSt sz r m lane s = trap (s.x.eaX m) := by unfold execSt; exact atIssue_trapped hc (plain ..)
    have lda : execLda sz sx sc d m s = trap (s.x.eaX m) := by unfold execLda; exact atIssue_trapped hc (by rw [sync]; rfl)
    have sta : execSta sz sc r m s = trap (s.x.eaX m) := by unfold execSta; exact atIssue_trapped hc (sync ..)
    exact ⟨ld, st, lda, sta⟩
  · have odd' : s.x.eaB b % (dwBytes dw : Int) ≠ 0 := by cases dw <;> exact odd
    have check : s.tableCheck .rmw b.sp (s.x.eaB b) (s.issueAccess .rmw sc b.sp (s.x.eaB b) (dwBytes dw) (dwBytes dw)) = .fault (alignFault 0 (s.x.eaB b)) := by
      rw [State.issueAccess_misaligned _ odd']; rfl
    have atom : execAtom op dw sc d b r s = trap (s.x.eaB b) := atIssue_trapped hc check
    have cas : execCas dw sc d b r s = trap (s.x.eaB b) := atIssue_trapped hc check
    exact ⟨atom, cas⟩

/-! ## PAD and LANE -/

section
variable {s : State} {ea n : Nat}

theorem checkAccess_padFree {k : Acc} (sc : Scope) (plain : k.sync = false) (free : PadFree s k ea n) :
    s.checkAccess s.me s.x 0 0 k sc false false false .pad ea n = .ok none := by
  obtain ⟨fits, -, idle, bytes⟩ := free
  have limit : (spLimit .pad : Int) = 2 ^ 20 := rfl
  have no_byte {p : Int → Prop} (h : ∀ b : Nat, ea ≤ b → b < ea + n → ¬p b) : ¬SomeByte ea n p := by
    rintro ⟨b, lo, hi, hp⟩
    refine h b.toNat (by omega) (by omega) ?_
    rwa [show (b.toNat : Int) = b by omega]
  refine (s.checkAccess_first s.me s.x k sc .pad ea n (.inl rfl)).passes ?_
  simp only [State.rangeChecks, State.footChecks, List.cons_append, List.nil_append, List.forall_mem_cons, List.not_mem_nil, false_implies, implies_true, and_true]
  refine ⟨by omega, fun bad => no_byte (fun b lo hi => ?bank) bad.2, no_byte fun b lo hi => ?header, no_byte fun b lo hi => ?covered,
    no_byte fun b lo hi => ?permitted, fun bad => ?scope, no_byte fun b lo hi => ?slot, by simp [idle]⟩
  case scope => simp [plain] at bad
  all_goals
    obtain ⟨owns, save, header, modes⟩ := bytes b lo hi
    simp only [Int.toNat_natCast]
  case bank => simp [owns]
  case header => rintro (bad | bad) <;> simp_all [State.myCore]
  case covered =>
    rintro ⟨outside, uncovered⟩
    obtain ⟨-, m, hm, -⟩ | ⟨inside, -⟩ := modes
    · simp [uncovered] at hm
    · exact outside inside
  case permitted =>
    rintro ⟨outside, refused⟩
    obtain ⟨-, m, hm, allowed⟩ | ⟨inside, -⟩ := modes
    · simp [refused m hm] at allowed
    · exact outside inside
  case slot =>
    rintro ⟨inside, sync | loose⟩
    · simp [plain] at sync
    · obtain ⟨outside, -⟩ | ⟨-, holds⟩ := modes
      · exact Bool.false_ne_true (outside.symm.trans inside)
      · simp [loose] at holds

theorem checkAccess_laneFree (k : Acc) (sc : Scope) (free : LaneFree s ea n) : s.checkAccess s.me s.x 0 0 k sc false false false .lane ea n = .ok none := by
  have := free.1
  exact if_neg (by omega)

/-- A plain access of PAD or LANE that is aligned, passes its checks, and meets no request of its shift issues. -/
theorem plainAccess_local {k : Acc} {sc : Scope} {sp : Space} {lane : Nat} (aligned : ea % n = 0)
    (passes : s.checkAccess s.me s.x 0 0 k sc false false false sp ea n = .ok none) (acquired : s.acquirePending s.me = false)
    (free : s.sectorPending s.me (localSector s.myCore sp lane ea) = false) : s.plainAccess k sc sp lane ea n = .go :=
  State.plainAccess_go (State.issueAccess_go (by exact_mod_cast aligned) passes rfl acquired) free

end

theorem padBytes_eq (s : State) (ea n : Nat) : s.pad.bytes (padKey s.myCore ea) n = padBytes s ea n := by
  simp [Mem.bytes_eq_map, padBytes, padKey, Nat.add_assoc]

theorem laneBytes_eq (s : State) (lane ea n : Nat) : s.lane.bytes (laneKey s.myCore lane ea) n = laneBytes s lane ea n := by
  simp [Mem.bytes_eq_map, laneBytes, laneKey, Nat.add_assoc]

section
variable {s : State} {sz : Size} {m : MemX} {lane : Fin 64} {ea : Nat} (at_ : s.x.eaX m = ea) (aligned : ea % bytes sz = 0)
  (free : s.sectorPending s.me (localSector s.myCore m.sp lane.val ea) = false) (acquired : s.acquirePending s.me = false) (r : Sys2Proof.SNum)
include at_ aligned free acquired

/-- A load of PAD or LANE lands the bytes as they stand, extended. -/
theorem execLd_local (sx : Bool) (plain : m.sp ≠ .glob)
    (passes : s.checkAccess s.me s.x 0 0 .read .shift false false false m.sp ea (bytes sz) = .ok none) :
    (m.sp = .pad → execLd sz sx r m lane s = .next (s.land 6 0 (.s r (loaded sx (padBytes s ea (bytes sz)))))) ∧
    (m.sp = .lane → execLd sz sx r m lane s = .next (s.land 3 0 (.s r (loaded sx (laneBytes s lane ea (bytes sz)))))) := by
  have go := plainAccess_local aligned passes acquired free
  unfold execLd
  rw [atIssue_go (by rw [State.readKind_local plain, State.tableCheck_local _ plain, at_, sizeBytes_eq_bytes]; exact go)]
  refine ⟨fun sp => ?_, fun sp => ?_⟩
  · simp only [sp, at_, sizeBytes_eq_bytes, Int.toNat_natCast, padBytes_eq]
    rw [loadValue_eq_loaded _ (by simp [padBytes])]
  · simp only [sp, at_, sizeBytes_eq_bytes, Int.toNat_natCast, laneBytes_eq]
    rw [loadValue_eq_loaded _ (by simp [laneBytes])]

/-- A store of PAD or LANE lands the bytes of its register. -/
theorem execSt_local (passes : s.checkAccess s.me s.x 0 0 .write .shift false false false m.sp ea (bytes sz) = .ok none) :
    (m.sp = .pad → execSt sz r m lane s = .next (s.land 6 0 (.pad ea (bytesOf (bytes sz) (s.rs r).toNat)))) ∧
    (m.sp = .lane → execSt sz r m lane s = .next (s.land 3 0 (.lane (some lane.val) [(lane.val, ea, bytesOf (bytes sz) (s.rs r).toNat)]))) := by
  have go := plainAccess_local aligned passes acquired free
  unfold execSt
  rw [atIssue_go (by rw [at_, sizeBytes_eq_bytes]; exact go)]
  refine ⟨fun sp => ?_, fun sp => ?_⟩ <;> simp only [sp, at_, sizeBytes_eq_bytes, Int.toNat_natCast, leBytes_eq_bytesOf]

end

/-- Settles O16: a load and a store of each space complete where the access passes the checks of its space. -/
theorem localLoadsAndStoresComplete : Obligations.LocalLoadsAndStoresComplete := by
  intro s sz sx r m lane ea at_ aligned free
  refine ⟨fun sp pass => ?_, fun sp pass => ?_, fun sp pass => ?_⟩
  · exact (execLd_local at_ aligned free pass.2.1 r sx (by simp [sp]) (by rw [sp]; exact checkAccess_padFree .shift rfl pass)).1 sp
  · exact (execSt_local at_ aligned free pass.2.1 r (by rw [sp]; exact checkAccess_padFree .shift rfl pass)).1 sp
  · have passes (k : Acc) : s.checkAccess s.me s.x 0 0 k .shift false false false m.sp ea (bytes sz) = .ok none := by
      rw [sp]; exact checkAccess_laneFree k .shift pass
    exact ⟨(execLd_local at_ aligned free pass.2 r sx (by simp [sp]) (passes .read)).2 sp, (execSt_local at_ aligned free pass.2 r (passes .write)).2 sp⟩

end Sys2Proof.Claims

/-!
Results that a word's register awaits (R33), and the jobs and tokens of engine words (R186, R199, R201, R202, R220).
-/
namespace Sys2Proof.Machine

/-! ## The executing shift and its interlocks -/

/-- The executing shift after a change, where one is resident. -/
theorem State.bind_sh?_modX (s : State) (f : Shift → Shift) : s.cur.sh.bind (s.modX f).sh? = (s.cur.sh.bind s.sh?).map f := by
  cases h : s.cur.sh with
  | none => rfl
  | some i => rw [State.modX_eq h]; simp [State.sh?_modSh]

/-- A change of the executing shift depends on nothing but which it is and what the shifts hold. -/
theorem State.modX_shifts_congr {s t : State} (cur : t.cur = s.cur) (shifts : t.shifts = s.shifts) (f : Shift → Shift) : (t.modX f).shifts = (s.modX f).shifts := by
  unfold State.modX State.modSh
  rw [cur, shifts]
  split
  · exact shifts
  · split
    · exact shifts
    · rfl

theorem getLsbD_shiftLeft_one (d n : SNum) : ((1 : BitVec 64) <<< d.val).getLsbD n.val = (d == n) := by
  have twoPow : (1 : BitVec 64) <<< d.val = BitVec.twoPow 64 d.val := (BitVec.twoPow_eq ..).symm
  rw [twoPow, BitVec.getLsbD_twoPow, Bool.eq_iff_iff]
  simp [Fin.ext_iff, d.isLt]

/-- A register marked awaits a result, but for s0; the others await what they did. -/
theorem Shift.awaits_markS (x : Shift) (d n : SNum) : (x.markS d).awaits (.s n) = (x.awaits (.s n) || (some d == some n && n != 0)) := by
  unfold Shift.markS
  split
  · next zero =>
    by_cases h : d = n
    · simp [← h, zero]
    · simp [h]
  · simp only [Shift.awaits, BitVec.getLsbD_or, getLsbD_shiftLeft_one, Option.some_beq_some]
    cases n != 0 <;> simp

@[simp] theorem Shift.markS_regs (x : Shift) (d : SNum) : (x.markS d).regs = x.regs := by unfold Shift.markS; split <;> rfl
@[simp] theorem Shift.markS_sp (x : Shift) (d : SNum) : (x.markS d).sp = x.sp := by unfold Shift.markS; split <;> rfl
@[simp] theorem Shift.markS_landings (x : Shift) (d : SNum) : (x.markS d).landings = x.landings := by unfold Shift.markS; split <;> rfl
@[simp] theorem Shift.markS_rings (x : Shift) (d : SNum) : (x.markS d).rings = x.rings := by unfold Shift.markS; split <;> rfl

/-! ## Jobs at issue -/

/-- A job whose footprints pass, with no acquire before it and room in its queue, issues. -/
theorem State.jobCheck_go {s : State} {eng : Nat} {reads writes : List Foot}
    (room : s.jobFeet s.x reads writes = none ∧ s.acquirePending s.me = false ∧ s.engineFull eng = false) : s.jobCheck eng reads writes = .go := by
  obtain ⟨feet, acquired, empty⟩ := room
  simp [State.jobCheck, feet, acquired, empty]

end Sys2Proof.Machine

namespace Sys2Proof.Claims
open Sys2Proof.Machine

/-- The executing shift before and after a change of it. -/
theorem changes_modX {s t : State} {f : Shift → Shift} (shifts : t.shifts = (s.modX f).shifts) : Changes s t fun x y => y = f x := by
  intro x hx
  have same : t.sh? = (s.modX f).sh? := by funext i; unfold State.sh?; rw [shifts]
  exact ⟨f x, by rw [same, State.bind_sh?_modX, hx]; rfl, rfl⟩

/-- A change of the executing shift that keeps its registers and landings, and of what awaits a result changes one register. -/
def OnlyAwaits (d : Option Sys2Proof.SNum) (f : Shift → Shift) : Prop :=
  ∀ x, (f x).regs = x.regs ∧ (f x).sp = x.sp ∧ (f x).landings = x.landings ∧ ∀ n, (f x).awaits (.s n) = (x.awaits (.s n) || (d == some n && n != 0))

theorem awaiting_modX {s t : State} {d : Option Sys2Proof.SNum} {f : Shift → Shift} (cur : t.cur = s.cur) (shifts : t.shifts = (s.modX f).shifts)
    (kept : OnlyAwaits d f) : Awaiting s t d := by
  refine ⟨cur, fun x hx => ?_⟩
  obtain ⟨y, hy, rfl⟩ := changes_modX shifts x hx
  exact ⟨f x, hy, kept x⟩

theorem onlyAwaits_markS (d : Sys2Proof.SNum) : OnlyAwaits (some d) fun x => x.markS d := fun x =>
  ⟨x.markS_regs d, x.markS_sp d, x.markS_landings d, x.awaits_markS d⟩

theorem queued_addJob (s : State) {j : Job} (id : j.id = s.nextJob) (sh : j.sh = s.me) (state : j.state = 1) :
    Queued s (s.addJob j) j.eng j.instr j.tok j.reads j.writes := by
  refine ⟨j, ?_, rfl, rfl, sh, rfl, rfl, rfl, id, state, ?_, ?_, awaiting_modX ?_ (State.modX_shifts_congr ?_ ?_ _) (onlyAwaits_markS j.tok), ?_⟩
  all_goals simp [State.addJob, SameMemory]

/-- A token whose status is known at issue (R202, R220). -/
theorem token_tokenNow (s : State) (d : Sys2Proof.SNum) {st : Nat} (lt : st < 256) :
    let t := s.tokenNow d (tokenWord 0 0 0 st)
    t.msgs = s.msgs ++ [.token s.me d (BitVec.ofNat 64 st) none] ∧ t.jobs = s.jobs ∧ Awaiting s t (some d) := by
  have word : tokenWord 0 0 0 st = BitVec.ofNat 64 st := by simp [tokenWord, fields, Nat.mod_eq_of_lt lt]
  refine ⟨?_, ?_, awaiting_modX ?_ rfl (onlyAwaits_markS d)⟩
  all_goals simp [State.tokenNow, word]

section
variable {s : State} {i : Instr} {src : Space} {d : Sys2Proof.SNum} {m : MemB} {aa : ANum} {opi opx : State → Word}

/-- A copy that its shape refuses gives its status in the token (R202). -/
theorem copyWord_refused {st : Nat} (refused : (copyShape i (opi s) (opx s)).refused src m.sp (s.ra aa).toNat (s.x.eaB m) = some st) :
    copyWord i src d m aa opi opx s = .next (s.tokenNow d (tokenWord 0 0 0 st)) := by
  unfold copyWord
  rw [atIssue_go (by simp only [refused])]
  simp only [refused]

theorem copyWord_queued (refused : (copyShape i (opi s) (opx s)).refused src m.sp (s.ra aa).toNat (s.x.eaB m) = none)
    (go : s.jobCheck 0 ((copyShape i (opi s) (opx s)).srcFoot src (s.ra aa).toNat) ((copyShape i (opi s) (opx s)).dstFoot m.sp (s.x.eaB m)) = .go) :
    ∃ t, copyWord i src d m aa opi opx s = .next t ∧
      Queued s t 0 i d ((copyShape i (opi s) (opx s)).srcFoot src (s.ra aa).toNat) ((copyShape i (opi s) (opx s)).dstFoot m.sp (s.x.eaB m)) := by
  unfold copyWord
  rw [atIssue_go (by simp only [refused, go])]
  simp only [refused]
  exact ⟨_, rfl, queued_addJob s rfl rfl rfl⟩

end

theorem refused_lt {c : CopyShape} {ssp dsp : Space} {src dst : Int} {st : Nat} (h : c.refused ssp dsp src dst = some st) : st < 256 := by
  unfold CopyShape.refused at h
  split at h
  · cases h; decide
  · split at h
    · cases h; decide
    · cases h

theorem execXld_queued {s : State} {mode : XMode} {e1 : Bool} {q : QNum} {d : Sys2Proof.SNum} {m : MemX} (ring : (s.ring q).v = true)
    (stage : (s.ring q).prod.getLsbD s.x.place.stage = true) (go : s.jobCheck (if e1 then 2 else 1) (s.accessFeetOf mode q d m) [] = .go) :
    ∃ t, execXld mode e1 q d m s = .next t ∧ Queued s t (if e1 then 2 else 1) (.xld mode e1 q d m) d (s.accessFeetOf mode q d m) [] := by
  have check : s.accessCheck true mode e1 q d m = .go := by simp [State.accessCheck, ring, stage, go]
  exact ⟨_, atIssue_go check, queued_addJob s rfl rfl rfl⟩

theorem execXst_queued {s : State} {mode : XMode} {e1 : Bool} {q : QNum} {d : Sys2Proof.SNum} {m : MemX} (ring : (s.ring q).v = true)
    (stage : (s.ring q).cons.getLsbD s.x.place.stage = true) (go : s.jobCheck (if e1 then 2 else 1) [] (s.accessFeetOf mode q d m) = .go) :
    ∃ t, execXst mode e1 q d m s = .next t ∧ Queued s t (if e1 then 2 else 1) (.xst mode e1 q d m) d [] (s.accessFeetOf mode q d m) := by
  have check : s.accessCheck false mode e1 q d m = .go := by simp [State.accessCheck, ring, stage, go]
  exact ⟨_, atIssue_go check, queued_addJob s rfl rfl rfl⟩

section
variable {s : State} {op : ScanOp} {fmt : ScanFmt} {d b c : Sys2Proof.SNum} {m : MemB}

theorem execMscan_queued (good : scanBad fmt (s.x.eaB m) (s.rs c) = false)
    (go : s.jobCheck 0 (scanFeet op fmt (s.x.eaB m) (s.rs b) (s.rs c)).1 (scanFeet op fmt (s.x.eaB m) (s.rs b) (s.rs c)).2 = .go) :
    ∃ t, execMscan op fmt d m b c s = .next t ∧ Queued s t 0 (.mscan op fmt d m b c) d (scanFeet op fmt (s.x.eaB m) (s.rs b) (s.rs c)).1
      (scanFeet op fmt (s.x.eaB m) (s.rs b) (s.rs c)).2 := by
  unfold execMscan
  rw [atIssue_go (by simp only [good, go, Bool.false_eq_true, if_false])]
  simp only [good, Bool.false_eq_true, if_false]
  exact ⟨_, rfl, queued_addJob s rfl rfl rfl⟩

/-- A misaligned scan gives BADDESC in its token (R220). -/
theorem execMscan_misaligned (bad : scanBad fmt (s.x.eaB m) (s.rs c) = true) : execMscan op fmt d m b c s = .next (s.tokenNow d (tokenWord 0 0 0 5)) := by
  unfold execMscan
  rw [atIssue_go (by simp only [bad, if_true])]
  simp only [bad, if_true]

end

/-- Settles O25: each word queues its job where its checks pass, and gives its status where its shape or its operands refuse it. -/
theorem engineWordsQueueTheirJob : Obligations.EngineWordsQueueTheirJob := by
  intro s d a b c q m mb aa e1 mode src op fmt room eng feet shape shape2 from_ token
  refine ⟨fun ring stage ok => execXld_queued ring stage (State.jobCheck_go ok), fun ring stage ok => execXst_queued ring stage (State.jobCheck_go ok),
    fun ok go => copyWord_queued (opi := fun s => s.rs a) (opx := fun _ => 0) ok (State.jobCheck_go go), fun long => ?long,
    fun ok go => copyWord_queued (opi := fun s => s.rs a) (opx := fun s => s.rs (nextNum a)) ok (State.jobCheck_go go), fun st refused => ?refused,
    fun good ok => execMscan_queued good (State.jobCheck_go ok), fun bad => ⟨_, execMscan_misaligned bad, token_tokenNow s d (by decide)⟩⟩
  case long =>
    have refused : shape.refused src mb.sp from_ (s.x.eaB mb) = some 2 := if_pos (by simp [shape, copyShape, CopyShape.total]; omega)
    exact ⟨_, copyWord_refused (opi := fun s => s.rs a) (opx := fun _ => 0) refused, token_tokenNow s d (by decide)⟩
  case refused => exact ⟨_, copyWord_refused (opi := fun s => s.rs a) (opx := fun s => s.rs (nextNum a)) refused, token_tokenNow s d (refused_lt refused)⟩

end Sys2Proof.Claims

/-!
Rings at issue (R193, R211, R212): the bytes of a ring's object read and written, then RINIT, the words that take a slot and those that give one up.
-/
namespace Sys2Proof.Machine

/-! ## Bytes of PAD, CREW and CHIP -/

section
variable (s : State) (sp : Space) (dom off : Nat) (bs : List Byte)

@[simp] theorem State.putSpace_cur : (s.putSpace sp dom off bs).cur = s.cur := by cases sp <;> rfl
@[simp] theorem State.putSpace_msgs : (s.putSpace sp dom off bs).msgs = s.msgs := by cases sp <;> rfl
@[simp] theorem State.putSpace_shifts : (s.putSpace sp dom off bs).shifts = s.shifts := by cases sp <;> rfl

theorem State.putSpace_memories (h : Safety.Memories s) : Safety.Memories (s.putSpace sp dom off bs) := by
  obtain ⟨glob, pad, lane, crew, chip, host⟩ := h
  cases sp
  case crew => exact ⟨glob, pad, lane, Mem.put_wf _ _ crew, chip, host⟩
  case chip => exact ⟨glob, pad, lane, crew, Mem.put_wf _ _ chip, host⟩
  all_goals exact ⟨glob, Mem.put_wf _ _ pad, lane, crew, chip, host⟩

end

/-- A byte of a shared space after bytes are written there. -/
theorem State.spaceByte_putSpace {s : State} (h : Safety.Memories s) {sp : Space} (hsp : sp = .pad ∨ sp = .crew ∨ sp = .chip) (dom off : Nat) (bs : List Byte)
    (a : Nat) : (s.putSpace sp dom off bs).spaceByte sp dom a =
      if off ≤ a ∧ a < off + bs.length then (bs.getD (a - off) 0).toNat else s.spaceByte sp dom a := by
  have get {m : Mem} (hm : m.wf = true) (base : Nat) : (Mem.get (m.put (base + off) bs) (base + a)).toNat =
      if off ≤ a ∧ a < off + bs.length then (bs.getD (a - off) 0).toNat else (m.get (base + a)).toNat := by
    split
    · next within =>
      have here := Mem.get_put_in (base + off) (a - off) bs hm (by omega)
      rw [show base + off + (a - off) = base + a by omega] at here
      rw [here]
    · next outside => rw [Mem.get_put_out _ _ _ hm (by omega)]
  obtain ⟨-, pad, -, crew, chip, -⟩ := h
  rcases hsp with rfl | rfl | rfl
  · exact get pad _
  · exact get crew _
  · exact get chip _

@[simp] theorem State.putRing_cur (s : State) (q : Ring) (core off : Nat) (bs : List Byte) : (s.putRing q core off bs).cur = s.cur := s.putSpace_cur ..
@[simp] theorem State.putRing_msgs (s : State) (q : Ring) (core off : Nat) (bs : List Byte) : (s.putRing q core off bs).msgs = s.msgs := s.putSpace_msgs ..
@[simp] theorem State.putRing_shifts (s : State) (q : Ring) (core off : Nat) (bs : List Byte) : (s.putRing q core off bs).shifts = s.shifts := s.putSpace_shifts ..

/-! ## The object of a ring -/

section
variable {s : State} (h : Safety.Memories s) {q : Ring} (hsp : q.sp = .pad ∨ q.sp = .crew ∨ q.sp = .chip) (core off : Nat)
include h hsp

theorem State.ringByte_putRing_in {bs : List Byte} {j : Nat} (lt : j < bs.length) : (s.putRing q core off bs).ringByte q core (off + j) = (bs.getD j 0).toNat := by
  rw [State.ringByte, State.putRing, State.spaceByte_putSpace h hsp, if_pos (by omega), show q.base + (off + j) - (q.base + off) = j by omega]

theorem State.ringByte_putRing_out {bs : List Byte} {a : Nat} (outside : a < off ∨ off + bs.length ≤ a) :
    (s.putRing q core off bs).ringByte q core a = s.ringByte q core a := by
  rw [State.ringByte, State.putRing, State.spaceByte_putSpace h hsp, if_neg (by omega)]; rfl

end

/-- A ring is read of the memories alone. -/
theorem State.ringByte_congr {s t : State} (same : Claims.SameMemory .pad s t) (q : Ring) (core off : Nat) : t.ringByte q core off = s.ringByte q core off := by
  obtain ⟨lane, pad, crew, chip, -, glob⟩ := same
  have mem : t.spaceMem q.sp (spDom q.sp core) = s.spaceMem q.sp (spDom q.sp core) := by
    unfold State.spaceMem; rw [lane, pad, crew, chip, glob (by decide)]
  simp only [State.ringByte, State.spaceByte, mem]

section
variable {s : State} (h : Safety.Memories s) {q : Ring} (hsp : q.sp = .pad ∨ q.sp = .crew ∨ q.sp = .chip) (core : Nat) (claim : Bool)
include h hsp

/-- A slot taken changes state, and the pointer to it moves on (Table 10.8). -/
theorem State.ringByte_takeSlot :
    (s.takeSlot q core claim).ringByte q core (0x40 + s.nextSlot q core claim) = (if claim then 1 else 3) ∧
    (s.takeSlot q core claim).ringByte q core (slotPtr claim) = (s.nextSlot q core claim + 1) % s.slotsOf q core := by
  have h' : Safety.Memories (s.putRing q core (0x40 + s.nextSlot q core claim) [if claim then 1 else 3]) := State.putSpace_memories _ _ _ _ _ h
  have ptr : slotPtr claim < 0x40 := by cases claim <;> decide
  have slots : (s.nextSlot q core claim + 1) % s.slotsOf q core < 256 :=
    Nat.lt_trans (Nat.mod_lt _ (Nat.succ_pos _)) (by simp only [State.slotsOf]; omega)
  refine ⟨?_, ?_⟩
  · rw [State.takeSlot, State.ringByte_putRing_out h' hsp _ _ (.inr (by simp; omega))]
    refine (State.ringByte_putRing_in h hsp core _ (j := 0) (by simp)).trans ?_
    cases claim <;> rfl
  · refine (State.ringByte_putRing_in h' hsp core (slotPtr claim) (j := 0) (by simp)).trans ?_
    simpa using slots

end

/-! ## The state that a ring word replies from -/

@[simp] theorem Shift.setRing_get (x : Shift) (n : QNum) (q : Ring) : (x.setRing n q).rings[n] = q := by simp [Shift.setRing]

/-- The state in which RINIT has made a ring, where these rings are listed (R211). -/
def State.ringMade (s : State) (n : QNum) (m : MemB) (geo : Word) (rings : List RingObj) : State :=
  { (s.putRing (s.x.newRing n m) s.myCore 0 (ringHeader geo (s.x.newRing n m))).modX fun x => x.setRing n (s.x.newRing n m) with rings := rings }

/-- The ring register of a shift that has taken slot k. -/
def Ring.holding (q : Ring) (claim : Bool) (k log2sz : Nat) : Ring := { q with hc := claim, hw := !claim, hk := k, log2sz := log2sz }

/-- The ring register of a shift that has given up its slot. -/
def Ring.givenUp (q : Ring) (claim : Bool) : Ring := if claim then { q with hc := false } else { q with hw := false }

/-- The state in which RCLAIM (claim) or RWAIT has taken its slot (Table 10.8). -/
def State.slotTaken (s : State) (n : QNum) (claim : Bool) : State :=
  ((s.takeSlot (s.ring n) s.myCore claim).dropWaiter s.me 0).modX fun x =>
    x.setRing n ((s.ring n).holding claim (s.nextSlot (s.ring n) s.myCore claim) (s.ringByte (s.ring n) s.myCore 1))

theorem State.takeRing_eq (s : State) (d : SNum) (n : QNum) (claim : Bool) :
    s.takeRing d n claim = (s.slotTaken n claim).reply d (w64 (s.slotAt (s.ring n) s.myCore (s.nextSlot (s.ring n) s.myCore claim))) := rfl

section
variable (s : State) (n : QNum)

@[simp] theorem State.ringMade_cur (m : MemB) (geo : Word) (rings : List RingObj) : (s.ringMade n m geo rings).cur = s.cur := by simp [State.ringMade]
@[simp] theorem State.ringMade_msgs (m : MemB) (geo : Word) (rings : List RingObj) : (s.ringMade n m geo rings).msgs = s.msgs := by simp [State.ringMade]
@[simp] theorem State.slotTaken_cur (claim : Bool) : (s.slotTaken n claim).cur = s.cur := by simp [State.slotTaken, State.takeSlot, State.dropWaiter]
@[simp] theorem State.slotTaken_msgs (claim : Bool) : (s.slotTaken n claim).msgs = s.msgs := by simp [State.slotTaken, State.takeSlot, State.dropWaiter]

theorem State.ringMade_shifts (m : MemB) (geo : Word) (rings : List RingObj) :
    (s.ringMade n m geo rings).shifts = (s.modX fun x => x.setRing n (s.x.newRing n m)).shifts := State.modX_shifts_congr (by simp) (by simp) _

theorem State.slotTaken_shifts (claim : Bool) : (s.slotTaken n claim).shifts = (s.modX fun x =>
    x.setRing n ((s.ring n).holding claim (s.nextSlot (s.ring n) s.myCore claim) (s.ringByte (s.ring n) s.myCore 1))).shifts :=
  State.modX_shifts_congr (by simp [State.takeSlot, State.dropWaiter]) (by simp [State.takeSlot, State.dropWaiter]) _

theorem State.giveRing_shifts (claim : Bool) : (s.giveRing n claim).shifts = (s.modX fun x => x.setRing n ((s.ring n).givenUp claim)).shifts := by
  refine State.modX_shifts_congr ?_ ?_ _ <;> rfl

end

end Sys2Proof.Machine

namespace Sys2Proof.Claims
open Sys2Proof.Machine

/-! ## Replies -/

/-- A change that leaves the interlocks too, and then a register marked. -/
theorem onlyAwaits_markS_comp {f : Shift → Shift} (kept : ∀ x, (f x).regs = x.regs ∧ (f x).sp = x.sp ∧ (f x).landings = x.landings ∧ (f x).pend = x.pend)
    (d : Sys2Proof.SNum) : OnlyAwaits (some d) fun x => (f x).markS d := by
  intro x
  obtain ⟨regs, sp, landings, pend⟩ := kept x
  have awaits (n : Sys2Proof.SNum) : (f x).awaits (.s n) = x.awaits (.s n) := by simp only [Shift.awaits, pend]
  simp [Shift.awaits_markS, awaits, regs, sp, landings]

section
variable {s u : State} (cur : u.cur = s.cur) (d : Sys2Proof.SNum) (w : Word)
include cur

theorem shifts_reply {f : Shift → Shift} (shifts : u.shifts = (s.modX f).shifts) : (u.reply d w).shifts = (s.modX fun x => (f x).markS d).shifts :=
  calc (u.reply d w).shifts
    _ = ((s.modX f).modX fun x => x.markS d).shifts := State.modX_shifts_congr (by simp [cur]) shifts _
    _ = _ := by rw [State.modX_modX]

/-- A reply from a state that differs from that of the word in what its shift keeps beside its registers. -/
theorem replied_reply (msgs : u.msgs = s.msgs) {f : Shift → Shift} (shifts : u.shifts = (s.modX f).shifts)
    (kept : ∀ x, (f x).regs = x.regs ∧ (f x).sp = x.sp ∧ (f x).landings = x.landings ∧ (f x).pend = x.pend) : Replied s (u.reply d w) d w := by
  have me : u.me = s.me := by simp only [State.me, cur]
  exact ⟨by simp [State.reply, me, msgs], awaiting_modX (by simp [State.reply, cur]) (shifts_reply cur d w shifts) (onlyAwaits_markS_comp kept d)⟩

end

theorem sameMemory_reply (s : State) (d : Sys2Proof.SNum) (w : Word) : SameMemory .pad s (s.reply d w) := by simp [SameMemory, State.reply]

/-- A reply that does nothing else. -/
theorem replied_alone (s : State) (d : Sys2Proof.SNum) (w : Word) : Replied s (s.reply d w) d w ∧ SameMemory .pad s (s.reply d w) ∧ (s.reply d w).rings = s.rings := by
  refine ⟨⟨by simp [State.reply], awaiting_modX (by simp [State.reply]) rfl (onlyAwaits_markS d)⟩, sameMemory_reply .., by simp [State.reply]⟩

/-! ## RINIT (R211) -/

section
variable {s : State} {d g : Sys2Proof.SNum} {q : QNum} {b : MemB} (aligned : s.x.eaB b % 128 = 0)
include aligned

theorem execRinit_refused (bad : s.x.badGeom q b (s.rs g) = true) : execRinit d q b g s = .next (s.reply d 5) := by
  unfold execRinit
  rw [atIssue_go (by simp [aligned, bad])]
  simp only [bad, if_true]

variable (good : s.x.badGeom q b (s.rs g) = false)
  (passes : ∃ e, s.checkAccess s.me s.x 0 0 .rmw (ringScope b.sp) true false false b.sp (s.x.eaB b) (ringSize (s.rs g)) = .ok e)
  (quiet : s.accessPending s.me = false) (landed : s.x.localDue s.x.tim.seq = false)
include good passes quiet landed

theorem execRinit_busy (busy : s.ringBusy (s.x.newRing q b) s.myCore = true) : execRinit d q b g s = .next (s.reply d 1) := by
  obtain ⟨e, passes⟩ := passes
  unfold execRinit
  rw [atIssue_go (by simp [aligned, good, passes, quiet, landed])]
  simp only [good, busy, Bool.false_eq_true, if_false, if_true]

/-- RINIT of a free place writes the header, names the ring in its register, and lists the ring. -/
theorem execRinit_made (free : s.ringBusy (s.x.newRing q b) s.myCore = false) :
    ∃ rings, execRinit d q b g s = .next ((s.ringMade q b (s.rs g) rings).reply d 0) := by
  obtain ⟨e, passes⟩ := passes
  unfold execRinit
  rw [atIssue_go (by simp [aligned, good, passes, quiet, landed])]
  simp only [good, free, Bool.false_eq_true, if_false]
  exact ⟨_, rfl⟩

end

/-- The bytes of a ring's header (Table 10.6). -/
theorem ringHeader_getD (geo : Word) (r : Ring) {j : Nat} (lt : j < 128) : ((ringHeader geo r).getD j 0).toNat =
    if j = 0 then geo.toNat % 64 else if j = 1 then geo.toNat / 2 ^ 8 % 32 else if j = 2 then r.prod.toNat + 16 * r.cons.toNat else 0 := by
  have header : ringHeader geo r =
      BitVec.ofNat 8 (wbits geo 0 6) :: BitVec.ofNat 8 (wbits geo 8 5) :: BitVec.ofNat 8 (r.prod.toNat + 16 * r.cons.toNat) :: List.replicate 125 0 := rfl
  rw [header]
  match j with
  | 0 => simp [wbits, nbits]; omega
  | 1 => simp [wbits, nbits]; omega
  | 2 => simp; omega
  | j + 3 =>
    have rest : (List.replicate 125 (0 : Byte)).getD j 0 = 0 := by
      rw [List.getD_eq_getElem?_getD, List.getElem?_replicate, if_pos (by omega)]
      exact Option.getD_some
    exact congrArg BitVec.toNat rest

/-- The ring that RINIT names where its geometry is good lies where the operand says, in a shared space. -/
theorem newRing_base {x : Shift} {q : QNum} {b : MemB} {geo : Word} (good : x.badGeom q b geo = false) : ((x.newRing q b).base : Int) = x.eaB b := by
  have inside : 0 ≤ x.eaB b := by simp only [Shift.badGeom, Bool.or_eq_false_iff, decide_eq_false_iff_not] at good; omega
  exact Int.toNat_of_nonneg inside

theorem newRing_sp (x : Shift) (q : QNum) (b : MemB) : (x.newRing q b).sp = b.sp := by
  show spaceOfNum (spNum b.sp) = b.sp
  cases b.sp <;> rfl

/-- What a made ring leaves: its reply, its header, and its register. -/
theorem ringMade_makes (s : State) (d g : Sys2Proof.SNum) (q : QNum) {b : MemB} (rings : List RingObj) (good : s.x.badGeom q b (s.rs g) = false) :
    let r := s.x.newRing q b
    let t := (s.ringMade q b (s.rs g) rings).reply d 0
    Replied s t d 0 ∧
    (Safety.Memories s → b.sp = .pad ∨ b.sp = .crew ∨ b.sp = .chip → ∀ j, j < 128 → t.ringByte r s.myCore j =
      if j = 0 then (s.rs g).toNat % 64 else if j = 1 then (s.rs g).toNat / 2 ^ 8 % 32 else if j = 2 then r.prod.toNat + 16 * r.cons.toNat else 0) ∧
    Changes s t fun _ y => y.rings[q].v = true ∧ (y.rings[q].base : Int) = s.x.eaB b ∧ y.rings[q].hc = false ∧ y.rings[q].hw = false := by
  intro r t
  have shifts := s.ringMade_shifts q b (s.rs g) rings
  refine ⟨replied_reply (s.ringMade_cur ..) d 0 (s.ringMade_msgs ..) shifts fun x => ⟨rfl, rfl, rfl, rfl⟩, fun mem hsp j lt => ?header, fun x hx => ?register⟩
  case header =>
    have same : SameMemory .pad (s.putRing r s.myCore 0 (ringHeader (s.rs g) r)) t := by simp [SameMemory, t, State.reply, State.ringMade, r]
    have written := State.ringByte_putRing_in mem (q := r) (newRing_sp s.x q b ▸ hsp) s.myCore 0 (bs := ringHeader (s.rs g) r) (j := j) (padTo_length 0x80 _ ▸ lt)
    rw [State.ringByte_congr same, ← ringHeader_getD (s.rs g) r lt, ← written, Nat.zero_add]
  case register =>
    obtain ⟨y, hy, rfl⟩ := changes_modX (shifts_reply (s.ringMade_cur ..) d 0 shifts) x hx
    refine ⟨_, hy, ?_⟩
    simp only [Shift.markS_rings, Shift.setRing_get]
    exact ⟨rfl, newRing_base good, rfl, rfl⟩

/-! ## Slots taken and given up (R212) -/

section
variable {s : State} {d : Sys2Proof.SNum} {q : QNum} {claim : Bool}

theorem takeCheck_go (ring : (s.ring q).v = true) (stage : (if claim then (s.ring q).prod else (s.ring q).cons).getLsbD s.x.place.stage = true)
    (unclaimed : (s.ring q).hc = false) (untaken : (s.ring q).hw = false) (acquired : s.acquirePending s.me = false) (released : s.syncPending s.me = false)
    (quiet : s.ringPending s.me (s.ring q) s.myCore = false)
    (open_ : s.ringByte (s.ring q) s.myCore (0x40 + s.nextSlot (s.ring q) s.myCore claim) % 4 = (if claim then 0 else 2))
    (first : ∀ w ∈ s.waiters, w.why ≠ (s.ring q).why s.myCore claim) : s.takeCheck q claim = .go := by
  have alone : s.waiters.find? (fun w => w.why == (s.ring q).why s.myCore claim) = none := List.find?_eq_none.2 fun w hw => by simpa using first w hw
  have turn : s.ringTurn s.me 0 (s.ring q) s.myCore claim = true := by
    unfold Ring.why at alone
    simp only [State.ringTurn, State.slotOpen, open_, alone]
    simp
  simp [State.takeCheck, ring, stage, unclaimed, untaken, acquired, released, quiet, turn]

/-- What a slot taken leaves: the reply of its address, its state and the pointer to the next, and the register that holds it. -/
theorem takeRing_takes (s : State) (d : Sys2Proof.SNum) (q : QNum) (claim : Bool) (mem : Safety.Memories s)
    (hsp : (s.ring q).sp = .pad ∨ (s.ring q).sp = .crew ∨ (s.ring q).sp = .chip) :
    let r := s.ring q
    let k := s.nextSlot r s.myCore claim
    let t := s.takeRing d q claim
    Replied s t d (BitVec.ofNat 64 (r.base + 0x80 + k * 2 ^ s.ringByte r s.myCore 1)) ∧
    t.ringByte r s.myCore (0x40 + k) = (if claim then 1 else 3) ∧
    t.ringByte r s.myCore (if claim then 4 else 5) = (k + 1) % (s.ringByte r s.myCore 0 % 64 + 1) ∧
    Changes s t fun _ y => y.rings[q].hk = k ∧ y.rings[q].hc = claim ∧ y.rings[q].hw = !claim := by
  intro r k t
  have shifts := s.slotTaken_shifts q claim
  have same : SameMemory .pad (s.takeSlot r s.myCore claim) t := by simp [SameMemory, t, State.takeRing_eq, State.reply, State.slotTaken, State.dropWaiter, r]
  obtain ⟨taken, next⟩ := State.ringByte_takeSlot mem hsp s.myCore claim
  refine ⟨replied_reply (s.slotTaken_cur ..) d _ (s.slotTaken_msgs ..) shifts fun x => ⟨rfl, rfl, rfl, rfl⟩,
    (State.ringByte_congr same ..).trans taken, (State.ringByte_congr same ..).trans next, fun x hx => ?_⟩
  obtain ⟨y, hy, rfl⟩ := changes_modX (shifts_reply (s.slotTaken_cur ..) d _ shifts) x hx
  refine ⟨_, hy, ?_⟩
  simp only [Shift.markS_rings, Shift.setRing_get]
  exact ⟨rfl, rfl, rfl⟩

theorem giveCheck_go (ring : (s.ring q).v = true) (holds : (if claim then (s.ring q).hc else (s.ring q).hw) = true) (acquired : s.acquirePending s.me = false) :
    s.giveCheck q claim = .go := by
  simp [State.giveCheck, ring, holds, acquired]

theorem giveCheck_held (loose : (s.ring q).v = false ∨ (if claim then (s.ring q).hc else (s.ring q).hw) = false) : s.giveCheck q claim = .fault heldFault := by
  rcases loose with h | h <;> simp [State.giveCheck, h]

/-- A slot given up sends one release to the home of its state byte. -/
theorem giveRing_gives (s : State) (q : QNum) (claim : Bool) :
    let t := s.giveRing q claim
    ∃ r, t.msgs = s.msgs ++ [.req r] ∧ r.op = (if claim then .rpub else .rrel) ∧ r.at_ = slotHome s q ∧ r.rel = true ∧
      Changes s t fun x y => (if claim then y.rings[q].hc else y.rings[q].hw) = false ∧ y.regs = x.regs := by
  refine ⟨_, State.modX_msgs _ _, rfl, rfl, rfl, fun x hx => ?_⟩
  obtain ⟨y, hy, rfl⟩ := changes_modX (s.giveRing_shifts q claim) x hx
  refine ⟨_, hy, ?_, rfl⟩
  rw [Shift.setRing_get]
  cases claim <;> rfl

end

/-- Settles O24: RINIT answers as its geometry and the place say, a slot is taken where its turn has come, and given up with one release. -/
theorem ringWordsAnswerAndTakeTheirSlots : Obligations.RingWordsAnswerAndTakeTheirSlots := by
  refine ⟨fun s d g q b aligned => ?init, fun s d q claim mem => ?take, fun s q => ?give⟩
  case init =>
    intro bad busy
    refine ⟨fun refused => ⟨_, execRinit_refused aligned refused, replied_alone s d 5⟩, fun good passes quiet landed => ?_⟩
    cases hb : busy with
    | true =>
      obtain ⟨replied, memory, rings⟩ := replied_alone s d 1
      exact ⟨_, execRinit_busy aligned good passes quiet landed hb, replied, fun _ => ⟨memory, rings⟩, nofun, nofun⟩
    | false =>
      obtain ⟨rings, run⟩ := execRinit_made aligned good passes quiet landed hb
      obtain ⟨replied, header, register⟩ := ringMade_makes s d g q rings good
      exact ⟨_, run, replied, nofun, fun _ => header, fun _ => register⟩
  case take =>
    intro r k hsp ring stage unclaimed untaken acquired released quiet open_ first
    have go := takeCheck_go ring stage unclaimed untaken acquired released quiet open_ first
    obtain ⟨replied, taken, next, register⟩ := takeRing_takes s d q claim mem hsp
    refine ⟨s.takeRing d q claim, ?_, replied, taken, next, register⟩
    cases claim
    · exact atIssue_go (check := fun s => s.takeCheck q false) (effect := fun s => s.takeRing d q false) go
    · exact atIssue_go (check := fun s => s.takeCheck q true) (effect := fun s => s.takeRing d q true) go
  case give =>
    have given (claim : Bool) (ring : (s.ring q).v = true) (holds : (if claim then (s.ring q).hc else (s.ring q).hw) = true)
        (acquired : s.acquirePending s.me = false) : atIssue (fun s => s.giveCheck q claim) (fun s => s.giveRing q claim) s = .next (s.giveRing q claim) := atIssue_go (giveCheck_go ring holds acquired)
    refine ⟨fun ring holds acquired => ?_, fun ring holds acquired => ?_, fun hc => ⟨fun loose => ?_, fun loose => ?_⟩⟩
    · obtain ⟨r, gives⟩ := giveRing_gives s q true
      exact ⟨_, r, given true ring holds acquired, gives⟩
    · obtain ⟨r, gives⟩ := giveRing_gives s q false
      exact ⟨_, r, given false ring holds acquired, gives⟩
    · have rpub : execRpub q s = Trapped s heldFault := atIssue_trapped hc (giveCheck_held loose)
      exact rpub
    · have rrel : execRrel q s = Trapped s heldFault := atIssue_trapped hc (giveCheck_held loose)
      exact rrel

end Sys2Proof.Claims

/-!
Three statements about GLOB that fail in a state whose memory is not in canonical form, which they do not ask for (Safety.Memories): there the translation of
the operand can send a message of its own beside that of the word.
-/
namespace Sys2Proof.Claims
open Sys2Proof.Machine

/-! ## A byte that a write of another uncovers -/

/-- A translation of the page at 0, cached with AC set, whose walk went through the entry at 0x2000 to a group of leaves at 0x1000: an access has yet to set
AC of the entries (R338). -/
def grouped : Tlb :=
  { unit := 0, ctx := 0, va := 0, size := 0x10000, pa := 0, gpa := 0, key := 0, fab := none, wr := true, nx := false, rsh := 0,
    path := [{ stage := 1, level := 1, at_ := 0x2000, value := 2 ^ 63, addr := 0 }], leaves := [0x1000], group1 := true, group2 := false, dup := none,
    dupPage := (0, 0x10000), logged := [], acSet := true, dtSet := true }

/-- A shift that may read the first bytes of GLOB. -/
def globReader : Shift := { Shift.zero with img := { Image.zero with feet := [⟨.glob, 0, false, 0, 0x1000, 1, 0⟩] } }

def pendingVersion : Side :=
  { pending := true, name := 0, version := 0, index := 0, anchor := 0, key := 0, data := [], poison := 0, pennant := none, since := 0, settled := none }

/-- Memory lists a 0 at 0x2000 ahead of the byte at 0x1007, which therefore reads 0: the leaf at 0x1000 is invalid, and no access waits for its line, which
holds a pending version (R222). Writing the entry at 0x2000 takes the 0 off the list, and the leaf is valid, without AC. -/
def covered : State :=
  { State.reset with
    glob := [(0x2000, 0), (0x1007, 0x80), (0x2007, 0x80)], lines := [(0x20, { Line.zero with side := some pendingVersion })], tlb := [grouped],
    shifts := [(0, globReader)], cur := { Cur.zero with sh := some 0 } }

def globX : MemX := { sp := .glob, xa := 0, xi := 0, sc := 0, disp := 0 }

def globB : MemB := { sp := .glob, xa := 0, disp := 0 }

theorem clear_covered_read : Clear covered .read .shift .glob 0 1 := ⟨rfl, ⟨some grouped, rfl, by decide +kernel⟩, by decide +kernel⟩

theorem clear_covered_lock : Clear covered .acq .sys .glob 0 1 := ⟨rfl, ⟨some grouped, rfl, by decide +kernel⟩, by decide +kernel⟩

theorem clear_covered_wait : Clear covered .acq .sys .glob 0 8 := ⟨rfl, ⟨some grouped, rfl, by decide +kernel⟩, by decide +kernel⟩

/-- Whether an instruction leaves two messages, in a state that has none. -/
def postsTwo (i : Instr) (s : State) : Bool :=
  match Sys2Proof.Machine.exec i s with
  | .next t => s.msgs.isEmpty && t.msgs.length == 2
  | _ => false

/-- An instruction that leaves two messages does not leave the one of its word alone. -/
theorem not_one_message {i : Instr} {s t : State} {m : Msg} (two : postsTwo i s = true) (run : Sys2Proof.Machine.exec i s = .next t) : t.msgs ≠ s.msgs ++ [m] := by
  intro one
  simp only [postsTwo, run, one, Bool.and_eq_true, List.isEmpty_iff] at two
  obtain ⟨empty, two⟩ := two
  simp [empty] at two

/-- Refutes O20: a load from the covered state sends the write of AC to the line with a pending version ahead of its own request. -/
theorem not_homeAccessesSendTheirRequest : ¬ Obligations.HomeAccessesSendTheirRequest := by
  intro h
  obtain ⟨load, -⟩ := h covered globX globB 0 1 .b false false false .sys .add
  obtain ⟨t, run, ⟨q, msgs, -⟩, -⟩ := load ⟨by decide, by decide, clear_covered_read⟩ fun _ => by decide +kernel
  exact not_one_message (i := .ld .b false 1 globX 0) (by decide +kernel) run msgs

/-- Refutes O22: a WAITGE of 0 in the covered state sends the write of AC to the line with a pending version ahead of its answer. -/
theorem not_waitsThatAreOverComplete : ¬ Obligations.WaitsThatAreOverComplete := by
  intro h
  obtain ⟨wait, -⟩ := h covered globB 1 0 true false .sys (fun p a k at_ => by cases at_) (by decide +kernel) (by decide +kernel) rfl rfl
  obtain ⟨t, w, f, bad, run, msgs, -⟩ := wait clear_covered_wait (by decide +kernel) (by decide +kernel)
  exact not_one_message (i := .waitge true false .sys 1 globB 0) (by decide +kernel) run msgs

/-- Refutes O23: LOCKL in the covered state sends the write of AC to the line with a pending version ahead of its answer. -/
theorem not_lineLocksFencesAndPrefetchesComplete : ¬ Obligations.LineLocksFencesAndPrefetchesComplete := by
  intro h
  obtain ⟨⟨t, w, run, ⟨msgs, -⟩, -⟩, -⟩ := h.1 covered globX 1 rfl clear_covered_lock
  exact not_one_message (i := .lockl 1 globX) (by decide +kernel) run msgs

end Sys2Proof.Claims

/-!
Lines of bundles (R228 to R233, R236): maps whose keys rise, what a change of a line's metadata leaves, manifests read after they are written, promotion and
acknowledgement; then one lemma per event of the statement.
-/
namespace Sys2Proof.Machine

/-! ## Maps whose keys rise -/

theorem NMap.mem_of_mem_set {α : Type} {m : NMap α} {a : Nat} {x : α} {p : Nat × α} (hp : p ∈ NMap.set m a x) : p = (a, x) ∨ p ∈ m := by
  induction m with
  | nil => exact .inl (List.mem_singleton.1 hp)
  | cons e m ih =>
    simp only [NMap.set] at hp
    grind

theorem NMap.del_sublist {α : Type} (m : NMap α) (a : Nat) : (NMap.del m a).Sublist m := by
  induction m with
  | nil => exact .slnil
  | cons e m ih =>
    simp only [NMap.del]
    split
    · exact List.sublist_cons_self ..
    · exact ih.cons_cons _

section
variable {α : Type} {m : NMap α} (h : Safety.Rises m) (a : Nat)
include h

theorem NMap.rises_set (x : α) : Safety.Rises (NMap.set m a x) := by
  induction m with
  | nil => exact List.pairwise_singleton ..
  | cons e m ih =>
    obtain ⟨k, v⟩ := e
    obtain ⟨first, rest⟩ := List.pairwise_cons.1 h
    simp only [NMap.set]
    split
    · next same => exact List.pairwise_cons.2 ⟨same ▸ first, rest⟩
    · next ne =>
      split
      · next lt =>
        refine List.pairwise_cons.2 ⟨fun p hp => ?_, h⟩
        rcases List.mem_cons.1 hp with rfl | hp
        · exact lt
        · exact Nat.lt_trans lt (first p hp)
      · next nlt =>
        refine List.pairwise_cons.2 ⟨fun p hp => ?_, ih rest⟩
        rcases NMap.mem_of_mem_set hp with rfl | hp
        · show k < a; omega
        · exact first p hp

theorem NMap.rises_del : Safety.Rises (NMap.del m a) := List.Pairwise.sublist (NMap.del_sublist m a) h

theorem NMap.get?_del_other {b : Nat} (ne : b ≠ a) : NMap.get? (NMap.del m a) b = NMap.get? m b := by
  induction m with
  | nil => rfl
  | cons e m ih =>
    obtain ⟨k, v⟩ := e
    obtain ⟨first, rest⟩ := List.pairwise_cons.1 h
    simp only [NMap.del]
    split
    · next same =>
      subst same
      simp only [NMap.get?, if_neg ne]
      split
      · next lt => exact NMap.get?_below fun p hp => Nat.lt_trans lt (first p hp)
      · rfl
    · simp only [NMap.get?, ih rest]

variable [DecidableEq α]

theorem NMap.rises_put (d x : α) : Safety.Rises (NMap.put m a d x) := by
  unfold NMap.put
  split
  · exact NMap.rises_del h a
  · exact NMap.rises_set h a x

theorem NMap.getD_put (b : Nat) (d x : α) : NMap.getD (NMap.put m a d x) b d = if b = a then x else NMap.getD m b d := by
  split
  · next same => rw [same, NMap.getD_put_same h]
  · next ne =>
    unfold NMap.put NMap.getD
    split
    · rw [NMap.get?_del_other h a ne]
    · rw [NMap.get?_set_other _ _ ne]

end

/-! ## The metadata of a line -/

/-- A line is held, and its metadata found, by the windows and the map of lines. -/
theorem State.line_congr {s t : State} (lines : t.lines = s.lines) (adits : t.fab.adits = s.fab.adits) (n : Nat) : t.line n = s.line n := by
  simp only [State.line, State.lineKey, State.globAt, State.windowOf, lines, adits]

theorem State.line_modLine {s : State} (h : Safety.Rises s.lines) (n : Nat) (f : Line → Line) (m : Nat) :
    (s.modLine n f).line m = if s.lineKey m = s.lineKey n then f (s.line n) else s.line m := NMap.getD_put h ..

theorem State.line_modLine_same {s : State} (h : Safety.Rises s.lines) (n : Nat) (f : Line → Line) : (s.modLine n f).line n = f (s.line n) := by
  rw [State.line_modLine h, if_pos rfl]

theorem State.rises_modLine {s : State} (h : Safety.Rises s.lines) (n : Nat) (f : Line → Line) : Safety.Rises (s.modLine n f).lines := NMap.rises_put h ..

/-- A field that a change leaves alone reads as before at every line. -/
theorem State.line_modLine_field {α : Type} {s : State} (h : Safety.Rises s.lines) (n : Nat) {f : Line → Line} (g : Line → α) (kept : ∀ l, g (f l) = g l) (m : Nat) :
    g ((s.modLine n f).line m) = g (s.line m) := by
  rw [State.line_modLine h]
  split
  · next same => rw [kept, State.line, State.line, same]
  · rfl

/-! ## Manifests (Table 11.1) -/

theorem ofLE_leBytes (n x : Nat) : ofLE (leBytes n x) = x % 2 ^ (8 * n) := by
  induction n generalizing x with
  | zero => simp [leBytes, ofLE, Nat.mod_one]
  | succ n ih =>
    rw [leBytes, ofLE, ih, BitVec.toNat_ofNat, show 8 * (n + 1) = 8 + 8 * n by omega, Nat.pow_add, Nat.mod_mul]

theorem Mem.bytes_put {m : Mem} (h : m.wf = true) (a : Nat) (bs : List Byte) : (m.put a bs).bytes a bs.length = bs := by
  rw [Mem.bytes_eq_map]
  refine List.ext_getElem (by simp) fun j _ lt => ?_
  rw [List.getElem_map, List.getElem_range, Mem.get_put_in a j bs h lt, List.getD_eq_getElem?_getD, List.getElem?_eq_getElem lt, Option.getD_some]

@[simp] theorem State.dropMsg_line (s : State) (k n : Nat) : (s.dropMsg k).line n = s.line n := rfl

/-- The part can read a line: it bears no poison, its page is not retired, and its memory carries traffic. -/
def State.Reads (s : State) (line : Nat) : Prop := (s.line line).poison = 0 ∧ s.retiredAt (line * 128) = false ∧ s.windowShut (line * 128) = false

theorem State.peek_clean_iff (s : State) (line n : Nat) : (s.peek (line * 128) n none).2.1 = false ↔ s.Reads line := by
  simp [State.peek, State.Reads, and_assoc]

theorem State.manifest_reads {s : State} {line : Nat} (h : s.Reads line) : s.manifest line = s.glob.num (s.globAt (line * 128)) 8 := by
  simp [State.manifest, State.partDword, State.walkDword, (s.peek_clean_iff line 8).2 h, State.physDword]

/-- A manifest whose STATE is not 0 is one that the part reads (log 93). -/
theorem State.reads_of_manState {s : State} {line : Nat} (h : manState (s.manifest line) ≠ 0) : s.Reads line := by
  rw [← s.peek_clean_iff line 8, ← Bool.not_eq_true]
  refine fun bad => h ?_
  rw [State.manifest, State.partDword, State.walkDword, if_pos bad]
  rfl

theorem State.manifest_lt (s : State) (line : Nat) : s.manifest line < 2 ^ 64 := by
  unfold State.manifest State.partDword State.walkDword
  split
  · decide
  · rw [Option.getD_some, State.physDword, Mem.num, ofLE_eq_number]
    exact Nat.lt_of_lt_of_eq (number_lt _) (by rw [Mem.bytes_length])

/-- A field of three bits at bit 25 set in a dword. -/
theorem manState_set {d st : Nat} (lt : st < 8) : manState (d - manState d * 2 ^ 25 + st * 2 ^ 25) = st := by
  simp only [manState, nbits]; omega

theorem dword_set_lt {d st : Nat} (hd : d < 2 ^ 64) (lt : st < 8) : d - manState d * 2 ^ 25 + st * 2 ^ 25 < 2 ^ 64 := by
  simp only [manState, nbits]; omega

/-- The metadata of a line whose first dword is written. -/
def Line.dwordWritten (l : Line) : Line := { l with poison := l.poison &&& ~~~byteMask 0 8 }

/-- Dword 0 of a manifest written where the part reads it. -/
theorem State.putManifest_eq {s : State} {line : Nat} (h : s.Reads line) (d : Nat) :
    ∃ c, s.putManifest line d = { s.modLine line Line.dwordWritten with glob := s.glob.put (s.globAt (line * 128)) (leBytes 8 d), cache := c } := by
  obtain ⟨-, page, unshut⟩ := h
  have div : line * 128 / 128 = line := by omega
  have off : line * 128 % 128 = 0 := by omega
  simp only [State.putManifest, State.poke, page, unshut, div, off, leBytes_length, Bool.false_eq_true, if_false]
  rw [State.dirtied_frame]
  exact ⟨_, rfl⟩

/-- A manifest reads as before where a change of metadata leaves the poison of lines. -/
theorem State.manifest_modLine {s : State} (rises : Safety.Rises s.lines) (n : Nat) {f : Line → Line} (kept : ∀ l, (f l).poison = l.poison) (line : Nat) :
    (s.modLine n f).manifest line = s.manifest line := by
  have poison := State.line_modLine_field rises n Line.poison kept (line * 128 / 128)
  simp only [State.manifest, State.partDword, State.walkDword, State.peek, poison]
  rfl

section
variable {s : State} (rises : Safety.Rises s.lines) {line : Nat} (held : s.Reads line)
include rises held

/-- Writing a manifest leaves the side entry of every line. -/
theorem State.side_putManifest (d n : Nat) : ((s.putManifest line d).line n).side = (s.line n).side := by
  obtain ⟨c, eq⟩ := State.putManifest_eq held d
  rw [eq]
  exact State.line_modLine_field rises line (f := Line.dwordWritten) Line.side (fun _ => rfl) n

theorem State.rises_putManifest (d : Nat) : Safety.Rises (s.putManifest line d).lines := by
  obtain ⟨c, eq⟩ := State.putManifest_eq held d
  rw [eq]
  exact State.rises_modLine rises line Line.dwordWritten

theorem State.manifest_putManifest (mem : s.glob.wf = true) {d : Nat} (lt : d < 2 ^ 64) : (s.putManifest line d).manifest line = d := by
  obtain ⟨c, eq⟩ := State.putManifest_eq held d
  obtain ⟨poison, page, unshut⟩ := held
  have clean : ((s.modLine line Line.dwordWritten).line line).poison = 0 := by
    rw [State.line_modLine_same rises]
    exact (congrArg (· &&& ~~~byteMask 0 8) poison).trans BitVec.zero_and
  have bytes : (s.glob.put (s.globAt (line * 128)) (leBytes 8 d)).bytes (s.globAt (line * 128)) 8 = leBytes 8 d := by
    simpa only [leBytes_length] using Mem.bytes_put mem (s.globAt (line * 128)) (leBytes 8 d)
  have reads : (s.putManifest line d).Reads line := by rw [eq]; exact ⟨clean, page, unshut⟩
  have dword : (s.putManifest line d).manifest line = (s.glob.put (s.globAt (line * 128)) (leBytes 8 d)).num (s.globAt (line * 128)) 8 := by
    rw [State.manifest_reads reads, eq]; rfl
  rw [dword, Mem.num, bytes, ofLE_leBytes, Nat.mod_eq_of_lt lt]

end

/-- The STATE of a manifest that the part reads, set (R229 to R232). -/
theorem State.manState_setManState {s : State} (mem : s.glob.wf = true) (rises : Safety.Rises s.lines) {line : Nat} (held : s.Reads line) {st : Nat} (lt : st < 8) :
    manState ((s.setManState line st).manifest line) = st := by
  rw [State.setManState, State.manifest_putManifest rises held mem (dword_set_lt (s.manifest_lt line) lt), manState_set lt]

theorem State.msgs_setManState (s : State) (line st : Nat) : (s.setManState line st).msgs = s.msgs := congrArg Traffic.msgs (s.traffic_poke ..)

/-! ## Versions made current and acknowledged (R232, R233) -/

/-- The version that a pending one replaces, retained beside its line (Table 11.4). -/
def State.retainedSide (s : State) (line : Nat) (e : Side) : Side :=
  { e with
    pending := false, key := (s.line line).tag, data := s.glob.bytes (s.globAt (line * 128)) 128, poison := (s.line line).poison,
    pennant := (s.line line).pennant, since := s.dcc, settled := none }

/-- The metadata of a line whose pending version has become current. -/
def State.promotedLine (s : State) (line : Nat) (e : Side) (count : Nat) : Line :=
  { tag := e.key, poison := e.poison, side := some (s.retainedSide line e),
    pennant := some { name := e.name, version := e.version, index := e.index, count := count, anchor := e.anchor } }

/-- Steps that each change the waiters alone change the waiters alone. -/
theorem State.foldl_waiters {f : State → Nat → State} (step : ∀ t k, f t k = { t with waiters := (f t k).waiters }) (l : List Nat) (s : State) :
    l.foldl f s = { s with waiters := (l.foldl f s).waiters } := by
  induction l generalizing s with
  | nil => rfl
  | cons k l ih =>
    rw [List.foldl_cons, ih, step s k]

theorem State.promote_eq {s : State} {line : Nat} {e : Side} (page : s.retiredAt (line * 128) = false) (unshut : s.windowShut (line * 128) = false)
    (side : (s.line line).side = some e) (pending : e.pending = true) (count : Nat) :
    ∃ w c, s.promote line e.name e.version count =
      { s.modLine line fun _ => s.promotedLine line e count with glob := s.glob.put (s.globAt (line * 128)) e.data, cache := c, waiters := w } := by
  simp only [State.promote, side, pending, page, unshut, and_self, if_true, Bool.or_self, Bool.false_eq_true, if_false]
  rw [State.foldl_waiters fun t k => by split <;> rfl, State.dirtied_frame]
  exact ⟨_, _, rfl⟩

/-- A version made current, as the events below use it. -/
theorem State.promote_promotes {s : State} {line : Nat} {e : Side} (page : s.retiredAt (line * 128) = false) (unshut : s.windowShut (line * 128) = false)
    (side : (s.line line).side = some e) (pending : e.pending = true) (count : Nat) :
    let t := s.promote line e.name e.version count
    t.glob = s.glob.put (s.globAt (line * 128)) e.data ∧ t.msgs = s.msgs ∧ t.mg = s.mg ∧
      (Safety.Rises s.lines → t.line line = s.promotedLine line e count) := by
  obtain ⟨w, c, promoted⟩ := State.promote_eq page unshut side pending count
  intro t
  rw [show t = _ from promoted]
  exact ⟨rfl, rfl, rfl, fun rises => (State.line_congr rfl rfl line).trans (State.line_modLine_same rises line fun _ => s.promotedLine line e count)⟩

/-- An acknowledgement is a message to the anchor of this package, and nothing here to one of another (log 71). -/
theorem State.ackSeal_frame (s : State) (anchor name version member : Nat) :
    let t := s.ackSeal anchor name version member
    t.msgs = s.msgs ++ (if linePkg anchor = s.mg.idpkg then [.sealAck anchor name version member] else []) ∧ t.glob = s.glob ∧ t.shifts = s.shifts ∧
      ∀ n, t.line n = s.line n := by
  unfold State.ackSeal
  split
  · exact ⟨rfl, rfl, rfl, fun _ => rfl⟩
  · exact ⟨(List.append_nil _).symm, rfl, rfl, fun _ => rfl⟩

/-! ## Stores and discards of versions (R228 to R230) -/

/-- Bytes put into a list are found there. -/
theorem putAt_stored {l : List Byte} {off : Nat} (bs : List Byte) (h : off ≤ l.length) : ((putAt l off bs).drop off).take bs.length = bs := by
  simp [putAt, List.length_take, Nat.min_eq_left h]

/-- A bundle store whose turn has come, at a line with no side entry, opens a pending version there. -/
theorem execHomeLineBst_opens {s : State} (rises : Safety.Rises s.lines) {k pa key : Nat} {r : Req} {b : BunAct} (listed : s.msgs[k]? = some (.req r))
    (at_ : r.at_ = .glob pa key) (op : r.op = .bst b) (ready : s.reqReady k r = true) (bits : bitsAhead (s.msgs.take k) = false) (single : r.collapse = none)
    (none_open : s.collapses = []) (fits : b.off + b.data.length ≤ 128) (takes : s.drops (pa / 128 * 128) key = false) (side : (s.line (pa / 128)).side = none)
    (room : s.sideUsed (pa / 128) < 2048) :
    ∃ t v, execHomeLineBst k s = .next t ∧ t.msgs = Claims.without s.msgs k ∧ t.glob = s.glob ∧ (t.line (pa / 128)).side = some v ∧ v.pending = true ∧
      v.name = b.name ∧ v.version = b.version ∧ v.anchor = b.anchor ∧ (v.data.drop b.off).take b.data.length = b.data ∧
      (t.line (pa / 128)).pennant = (s.line (pa / 128)).pennant := by
  have apart (a : Nat) : s.collapsing a = false := by simp [State.collapsing, none_open]
  have alone : s.dupWait r = none := by simp [State.dupWait, single, at_, apart]
  have opens : ∃ v : Side, (s.dropMsg k).bstAt (pa / 128) b key ((r.sh.bind s.ctxOf).bind s.deviceOf) =
        .inl ((s.dropMsg k).modLine (pa / 128) fun l => { l with side := some v }) ∧
      v.pending = true ∧ v.name = b.name ∧ v.version = b.version ∧ v.anchor = b.anchor ∧
      v.data = putAt ((s.dropMsg k).peek (pa / 128 * 128) 128 (some key)).1 b.off b.data := by
    have taken : (s.dropMsg k).drops (pa / 128 * 128) key = false := takes
    have whole : (s.dropMsg k).collapsing (pa / 128 * 128) = false := apart _
    have free : ((s.dropMsg k).line (pa / 128)).side = none := side
    have slots : (s.dropMsg k).sideUsed (pa / 128) < 2048 := room
    simp only [State.bstAt, taken, whole, free, slots, Bool.false_eq_true, if_false, if_true]
    exact ⟨_, rfl, rfl, rfl, rfl, rfl, rfl⟩
  obtain ⟨v, stored, pending, name, version, anchor, data⟩ := opens
  have run : execHomeLineBst k s = .next ((s.dropMsg k).modLine (pa / 128) fun l => { l with side := some v }) := by
    simp [execHomeLineBst, State.tryBst, listed, at_, op, ready, bits, alone, stored]
  have line : ((s.dropMsg k).modLine (pa / 128) fun l => { l with side := some v }).line (pa / 128) = { s.line (pa / 128) with side := some v } :=
    State.line_modLine_same (s := s.dropMsg k) rises ..
  refine ⟨_, v, run, rfl, rfl, by rw [line], pending, name, version, anchor, ?_, by rw [line]⟩
  rw [data, putAt_stored]
  rw [State.peek_length]; omega

/-- The side entry of a line freed. -/
theorem State.side_freed {s : State} (rises : Safety.Rises s.lines) {line : Nat} {f : Line → Line} (frees : (f (s.line line)).side = none) :
    ((s.modLine line f).line line).side = none := by
  rw [State.line_modLine_same rises, frees]

/-- A pending version discarded is gone, and nothing but the metadata of its line changes. -/
theorem State.side_discardAt {s : State} (rises : Safety.Rises s.lines) {line : Nat} {e : Side} (side : (s.line line).side = some e) (pending : e.pending = true) :
    ((s.discardAt line e.name e.version).line line).side = none :=
  State.side_freed rises (by simp [side, pending])

/-- A manifest reads as before where a version is discarded. -/
theorem State.manifest_discardAt {s : State} (rises : Safety.Rises s.lines) (line name version n : Nat) : (s.discardAt line name version).manifest n = s.manifest n :=
  State.manifest_modLine rises line (fun l => by split <;> [rfl; (split <;> rfl)]) n

theorem execHomeLineDiscard_drops {s : State} (rises : Safety.Rises s.lines) {k fl : Nat} {e : Side} (here : linePkg fl = s.mg.idpkg)
    (listed : s.msgs[k]? = some (.discard fl e.name e.version)) (ready : s.discardReady k = true) (side : (s.line (localLine fl)).side = some e)
    (pending : e.pending = true) :
    ∃ t, execHomeLineDiscard k s = .next t ∧ t.glob = s.glob ∧ (t.line (localLine fl)).side = none := by
  refine ⟨(s.dropMsg k).discardAt (localLine fl) e.name e.version, ?_, rfl, State.side_discardAt (s := s.dropMsg k) rises side pending⟩
  simp [execHomeLineDiscard, listed, ready, here]

/-! ## Seals and fetches (R233, R236) -/

section
variable {s : State} {k line : Nat} {e : Side} (page : s.retiredAt (line * 128) = false) (unshut : s.windowShut (line * 128) = false)
  (side : (s.line line).side = some e) (pending : e.pending = true)
include page unshut side pending

theorem execHomeLineSeal_promotes (rises : Safety.Rises s.lines) {fl count anchor : Nat} (here : linePkg fl = s.mg.idpkg) (local_ : localLine fl = line)
    (listed : s.msgs[k]? = some (.seal fl e.name e.version count anchor)) :
    ∃ t v, execHomeLineSeal k s = .next t ∧ t.glob = s.glob.put (s.globAt (line * 128)) e.data ∧ (t.line line).side = some v ∧ v.pending = false ∧
      v.data = s.glob.bytes (s.globAt (line * 128)) 128 ∧
      (t.line line).pennant = some { name := e.name, version := e.version, index := e.index, count := count, anchor := e.anchor } ∧
      t.msgs = Claims.without s.msgs k ++ (if linePkg anchor = s.mg.idpkg then [.sealAck anchor e.name e.version fl] else []) := by
  have run : execHomeLineSeal k s = .next (((s.dropMsg k).promote line e.name e.version count).ackSeal anchor e.name e.version fl) := by
    simp [execHomeLineSeal, listed, local_, here]
  obtain ⟨glob, msgs, mg, current⟩ := State.promote_promotes (s := s.dropMsg k) page unshut side pending count
  obtain ⟨msgsA, globA, -, lines⟩ := ((s.dropMsg k).promote line e.name e.version count).ackSeal_frame anchor e.name e.version fl
  refine ⟨_, s.retainedSide line e, run, globA.trans glob, ?side, rfl, rfl, ?pennant, ?msgs⟩
  case side => rw [lines, current rises]; rfl
  case pennant => rw [lines, current rises]; rfl
  case msgs => rw [msgsA, msgs, mg]; rfl

/-- A version made current beyond a seal, and acknowledged to the anchor that its side entry names. -/
theorem State.promoteAck_promotes (count : Nat) :
    let t := s.promoteAck line e.name e.version count
    t.glob = s.glob.put (s.globAt (line * 128)) e.data ∧
      t.msgs = s.msgs ++ (if linePkg e.anchor = s.mg.idpkg then [.sealAck e.anchor e.name e.version (s.fabLine line)] else []) := by
  obtain ⟨glob, msgs, mg, -⟩ := State.promote_promotes page unshut side pending count
  obtain ⟨msgsA, globA, -, -⟩ := (s.promote line e.name e.version count).ackSeal_frame e.anchor e.name e.version (s.fabLine line)
  simp only [State.promoteAck, side, pending, and_self, if_true]
  rw [globA, msgsA, glob, msgs, mg]
  exact ⟨rfl, rfl⟩

end

/-- An answer of bytes read is one message, and touches neither memory nor shifts. -/
theorem State.answerBytes_eq (s : State) (i : Nat) (d : SNum) (va : Addr) (n : Nat) (sx : Bool) (r : List Byte × Bool × Bool) :
    let t := s.answerBytes i (some d) va n sx r
    t.glob = s.glob ∧ t.shifts = s.shifts ∧ t.msgs = s.msgs ++ [.arrive i (some d) (loadValue n sx r.1) 0 (if r.2.1 then some (poisonFault va) else none)] := by
  have missed (fn : Option Nat) : (s.kmiss fn).glob = s.glob ∧ (s.kmiss fn).shifts = s.shifts ∧ (s.kmiss fn).msgs = s.msgs := by
    unfold State.kmiss State.kmissBy
    split
    · exact ⟨rfl, rfl, rfl⟩
    · split <;> exact ⟨rfl, rfl, rfl⟩
  unfold State.answerBytes
  split
  · obtain ⟨glob, shifts, msgs⟩ := missed ((s.sh? i).bind fun x => s.deviceOf x.place.ctx)
    exact ⟨glob, shifts, congrArg (· ++ _) msgs⟩
  · exact ⟨rfl, rfl, rfl⟩

section
variable {s : State} {k i pa key n : Nat} {r : Req} {f : Fetch} {d : SNum} {sx : Bool} (listed : s.msgs[k]? = some (.req r)) (at_ : r.at_ = .glob pa key)
  (op : r.op = .read n sx) (fetch : r.fetch = some f) (sh : r.sh = some i) (dst : r.dst = some d)
include listed at_ op fetch

theorem State.repairing_eq : s.repairing k f.fwd = some (r, f, pa, key, n, sx) := by
  simp [State.repairing, listed, fetch, at_, op]

include sh dst

theorem execBackwardFetch_answers {e : Side} (back : f.fwd = false) (kept : s.retainedFor (pa / 128) f.name f.version = some e) (own : e.key = key)
    (live : s.keyLive key = true) (clean : e.poison = 0) (inside : pa % 128 + n ≤ e.data.length) :
    ∃ t, execBackwardFetch k s = .next t ∧ Claims.Answered s t k i d (Claims.loaded sx ((e.data.drop (pa % 128)).take n)) 0 ∧ t.glob = s.glob := by
  have repair := State.repairing_eq listed at_ op fetch
  rw [back] at repair
  have read : s.sideRead e (pa % 128) n key = ((e.data.drop (pa % 128)).take n, false, false) := by simp [State.sideRead, own, live, clean]
  obtain ⟨glob, -, msgs⟩ := (s.dropMsg k).answerBytes_eq i d r.va n sx ((e.data.drop (pa % 128)).take n, false, false)
  refine ⟨(s.dropMsg k).answerBytes i (some d) r.va n sx ((e.data.drop (pa % 128)).take n, false, false), ?_, ?_, glob⟩
  · simp [execBackwardFetch, repair, kept, sh, dst, read]
  · rw [Claims.Answered, msgs, loadValue_eq_loaded sx (by rw [List.length_take, List.length_drop]; omega)]; rfl

theorem execBackwardFetch_expires {x : Shift} (hx : s.sh? i = some x) (back : f.fwd = false) (gone : s.retainedFor (pa / 128) f.name f.version = none)
    (viewed : x.view.v = true) :
    ∃ t y, execBackwardFetch k s = .next t ∧ t.sh? i = some y ∧ y.view.expired = true ∧ t.glob = s.glob := by
  have repair := State.repairing_eq listed at_ op fetch
  rw [back] at repair
  let u := (s.dropMsg k).modSh i Shift.expireView
  obtain ⟨glob, shifts, -⟩ := u.answerBytes_eq i d r.va n sx (s.peek pa n (some key))
  have expired : u.sh? i = some x.expireView := by
    rw [State.sh?_modSh, if_pos rfl, show (s.dropMsg k).sh? i = some x from hx]; rfl
  refine ⟨u.answerBytes i (some d) r.va n sx (s.peek pa n (some key)), x.expireView, ?_, ?_, ?_, ?_⟩
  · simp [execBackwardFetch, repair, gone, sh, dst, u]
  · rw [State.sh?, shifts]; exact expired
  · simp [Shift.expireView, viewed]
  · rw [glob]; exact State.modSh_glob ..

theorem execForwardFetch_promotes {e : Side} (fwd : f.fwd = true) (page : s.retiredAt (pa / 128 * 128) = false) (unshut : s.windowShut (pa / 128 * 128) = false)
    (side : (s.line (pa / 128)).side = some e) (pending : e.pending = true) (name : e.name = f.name) (version : e.version = f.version) :
    ∃ t m, execForwardFetch k s = .next t ∧ t.glob = s.glob.put (s.globAt (pa / 128 * 128)) e.data ∧
      t.msgs = Claims.without s.msgs k ++ (if linePkg e.anchor = s.mg.idpkg then [.sealAck e.anchor e.name e.version (s.fabLine (pa / 128))] else []) ++ [m] := by
  have repair := State.repairing_eq listed at_ op fetch
  rw [fwd] at repair
  let u := (s.dropMsg k).promoteAck (pa / 128) e.name e.version ((s.dropMsg k).bunCount e.anchor e.name e.version)
  have fetched : (s.dropMsg k).fetchForward (pa / 128) f.name f.version = u := by
    simp only [State.fetchForward, show ((s.dropMsg k).line (pa / 128)).side = some e from side, ← name, ← version, u]
  obtain ⟨glob, msgs⟩ := State.promoteAck_promotes (s := s.dropMsg k) page unshut side pending ((s.dropMsg k).bunCount e.anchor e.name e.version)
  obtain ⟨globA, -, msgsA⟩ := u.answerBytes_eq i d r.va n sx (u.peek pa n (some key))
  refine ⟨u.answerBytes i (some d) r.va n sx (u.peek pa n (some key)), _, ?_, globA.trans glob, msgsA.trans (congrArg (· ++ _) msgs)⟩
  simp [execForwardFetch, repair, fetched, sh, dst]

end

/-! ## Acknowledgements and notices (R232) -/

/-- The acknowledgements that are noted, with that of one more member of the bundle at an anchor. -/
def State.acksWith (s : State) (anchor member : Nat) : List (Nat × Nat) :=
  if s.acks.contains (anchor, member) then s.acks else s.acks ++ [(anchor, member)]

theorem State.mem_acksWith (s : State) (anchor member : Nat) (p : Nat × Nat) : p ∈ s.acksWith anchor member ↔ p = (anchor, member) ∨ p ∈ s.acks := by
  unfold State.acksWith
  split
  · next noted => exact ⟨.inr, fun h => h.elim (fun e => e ▸ List.contains_iff_mem.1 noted) id⟩
  · simp [or_comm]

/-- The anchor of message k set SETTLED, and the acknowledgements that it has had forgotten. -/
def State.anchorSettled (s : State) (k anchor member : Nat) : State :=
  { s.dropMsg k with acks := (s.acksWith anchor member).filter fun a => a.1 != anchor }.setManState (localLine anchor) 3

/-- Notices on their way to the member homes of a manifest. -/
def State.tellMembers (s : State) (line name version : Nat) : State := { s with msgs := s.msgs ++ (s.membersOf line).map fun m => .settle m name version }

theorem State.tellMembers_msgs (s : State) (line name version : Nat) : (s.tellMembers line name version).msgs =
    s.msgs ++ ((s.tellMembers line name version).membersOf line).map fun m => .settle m name version := rfl

section
variable {s : State} {k fl n : Nat} (here : linePkg fl = s.mg.idpkg)
  (listed : s.msgs[k]? = some (.sealAck fl (manName (s.manifest (localLine fl))) (manVersion (s.manifest (localLine fl))) n))
  (committed : manState (s.manifest (localLine fl)) = 2)
include here listed committed

/-- An acknowledgement at a committed bundle settles it where every member's is noted, and is noted otherwise. -/
theorem execSealAck_eq : execSealAck k s = .next (
    if (s.membersOf (localLine fl)).all fun m => (s.acksWith fl n).contains (fl, m) then
      (s.anchorSettled k fl n).tellMembers (localLine fl) (manName (s.manifest (localLine fl))) (manVersion (s.manifest (localLine fl)))
    else { s.dropMsg k with acks := s.acksWith fl n }) := by
  have goes : ¬(linePkg fl ≠ s.mg.idpkg ∨ manName (s.manifest (localLine fl)) ≠ manName (s.manifest (localLine fl)) ∨
      manVersion (s.manifest (localLine fl)) ≠ manVersion (s.manifest (localLine fl)) ∨ manState (s.manifest (localLine fl)) ≠ 2) := by
    simp [here, committed]
  simp only [execSealAck, listed]
  refine (if_neg goes).trans ?_
  show (if (s.membersOf (localLine fl)).all (fun m => (s.acksWith fl n).contains (fl, m)) = true then _ else _) = _
  split <;> rfl

theorem execSealAck_settles (mem : s.glob.wf = true) (rises : Safety.Rises s.lines) (all : ∀ m ∈ s.membersOf (localLine fl), m = n ∨ (fl, m) ∈ s.acks) :
    ∃ t, execSealAck k s = .next t ∧ manState (t.manifest (localLine fl)) = 3 ∧
      t.msgs = Claims.without s.msgs k ++ (t.membersOf (localLine fl)).map fun m =>
        .settle m (manName (s.manifest (localLine fl))) (manVersion (s.manifest (localLine fl))) := by
  have acked : ((s.membersOf (localLine fl)).all fun m => (s.acksWith fl n).contains (fl, m)) = true := by
    refine List.all_eq_true.2 fun m hm => List.contains_iff_mem.2 ((s.mem_acksWith ..).2 ?_)
    exact (all m hm).imp_left fun e => by rw [e]
  have reads : s.Reads (localLine fl) := State.reads_of_manState (by rw [committed]; decide)
  have settled : manState ((s.anchorSettled k fl n).manifest (localLine fl)) = 3 :=
    State.manState_setManState (s := { s.dropMsg k with acks := (s.acksWith fl n).filter fun a => a.1 != fl }) mem rises reads (by decide)
  have msgs : (s.anchorSettled k fl n).msgs = Claims.without s.msgs k := State.msgs_setManState ..
  exact ⟨_, (execSealAck_eq here listed committed).trans (congrArg _ (if_pos acked)), settled, by rw [State.tellMembers_msgs, msgs]⟩

theorem execSealAck_counts {m : Nat} (member : m ∈ s.membersOf (localLine fl)) (other : m ≠ n) (missing : (fl, m) ∉ s.acks) :
    ∃ t, execSealAck k s = .next t ∧ t.glob = s.glob ∧ t.msgs = Claims.without s.msgs k ∧ (fl, n) ∈ t.acks ∧ ∀ p ∈ s.acks, p ∈ t.acks := by
  have awaited : ¬((s.membersOf (localLine fl)).all fun m => (s.acksWith fl n).contains (fl, m)) = true := fun all => by
    have noted := (s.mem_acksWith ..).1 (List.contains_iff_mem.1 (List.all_eq_true.1 all m member))
    exact noted.elim (fun e => other (Prod.mk.inj e).2) missing
  exact ⟨_, (execSealAck_eq here listed committed).trans (congrArg _ (if_neg awaited)), rfl, rfl, (s.mem_acksWith ..).2 (.inl rfl),
    fun p hp => (s.mem_acksWith ..).2 (.inr hp)⟩

end

theorem execSettleNotice_starts {s : State} (rises : Safety.Rises s.lines) {k fl : Nat} {e : Side} (here : linePkg fl = s.mg.idpkg)
    (listed : s.msgs[k]? = some (.settle fl e.name e.version)) (side : (s.line (localLine fl)).side = some e) (retained : e.pending = false)
    (unsettled : e.settled = none) :
    ∃ t, execSettleNotice k s = .next t ∧ (t.line (localLine fl)).side = some { e with settled := some s.dcc } ∧ t.glob = s.glob := by
  simp only [execSettleNotice, listed, here, ne_eq, not_true, if_false]
  refine ⟨_, rfl, ?_, rfl⟩
  rw [State.line_modLine_same (s := s.dropMsg k) rises]
  simp [side, retained, unsettled]

/-! ## Resolution and retention (R231, R232) -/

section
variable {s : State} {line : Nat} {e : Side} (side : (s.line line).side = some e) (pending : e.pending = true) (late : e.since + 1048576 ≤ s.dcc)
  (here : linePkg e.anchor = s.mg.idpkg)
include side pending late here

/-- A pending version that is due is resolved at its anchor in this package. -/
theorem execPendingResolution_eq : execPendingResolution line s =
    .next ((s.resolveAt (localLine e.anchor) e.name e.version).1.resolved line e.name e.version (s.resolveAt (localLine e.anchor) e.name e.version).2) := by
  simp [execPendingResolution, side, State.resolutionDue, pending, late, here]

theorem execPendingResolution_promotes (page : s.retiredAt (line * 128) = false) (unshut : s.windowShut (line * 128) = false)
    (same : manName (s.manifest (localLine e.anchor)) = e.name ∧ manVersion (s.manifest (localLine e.anchor)) = e.version)
    (committed : manState (s.manifest (localLine e.anchor)) = 2 ∨ manState (s.manifest (localLine e.anchor)) = 3) :
    ∃ t, execPendingResolution line s = .next t ∧ t.glob = s.glob.put (s.globAt (line * 128)) e.data ∧
      t.msgs = s.msgs ++ [.sealAck e.anchor e.name e.version (s.fabLine line)] := by
  have shut : manState (s.manifest (localLine e.anchor)) ≠ 1 := by omega
  have resolved : s.resolveAt (localLine e.anchor) e.name e.version = (s, some (nbits (s.manifest (localLine e.anchor)) 28 4)) := by
    simp [State.resolveAt, same, shut, committed]
  obtain ⟨glob, msgs⟩ := State.promoteAck_promotes page unshut side pending (nbits (s.manifest (localLine e.anchor)) 28 4)
  rw [if_pos here] at msgs
  refine ⟨s.promoteAck line e.name e.version (nbits (s.manifest (localLine e.anchor)) 28 4), ?_, glob, msgs⟩
  rw [execPendingResolution_eq side pending late here, resolved]; rfl

theorem execPendingResolution_discards (rises : Safety.Rises s.lines)
    (given_up : ¬(manName (s.manifest (localLine e.anchor)) = e.name ∧ manVersion (s.manifest (localLine e.anchor)) = e.version) ∨
      manState (s.manifest (localLine e.anchor)) ≠ 1 ∧ manState (s.manifest (localLine e.anchor)) ≠ 2 ∧ manState (s.manifest (localLine e.anchor)) ≠ 3) :
    ∃ t, execPendingResolution line s = .next t ∧ t.glob = s.glob ∧ (t.line line).side = none := by
  have resolved : s.resolveAt (localLine e.anchor) e.name e.version = (s, none) := by
    unfold State.resolveAt
    dsimp only
    rw [if_neg (by tauto), if_neg (by tauto)]
  refine ⟨s.discardAt line e.name e.version, ?_, rfl, State.side_discardAt rises side pending⟩
  rw [execPendingResolution_eq side pending late here, resolved]; rfl

theorem execPendingResolution_aborts (mem : s.glob.wf = true) (rises : Safety.Rises s.lines)
    (same : manName (s.manifest (localLine e.anchor)) = e.name ∧ manVersion (s.manifest (localLine e.anchor)) = e.version)
    (still : manState (s.manifest (localLine e.anchor)) = 1) :
    ∃ t, execPendingResolution line s = .next t ∧ manState (t.manifest (localLine e.anchor)) = 4 ∧ (t.line line).side = none := by
  have reads : s.Reads (localLine e.anchor) := State.reads_of_manState (by rw [still]; decide)
  have resolved : s.resolveAt (localLine e.anchor) e.name e.version = (s.setManState (localLine e.anchor) 4, none) := by
    simp [State.resolveAt, same, still]
  have rises' : Safety.Rises (s.setManState (localLine e.anchor) 4).lines := State.rises_putManifest rises reads _
  have side' : ((s.setManState (localLine e.anchor) 4).line line).side = some e := (State.side_putManifest rises reads _ line).trans side
  refine ⟨(s.setManState (localLine e.anchor) 4).discardAt line e.name e.version, ?_, ?_, State.side_discardAt rises' side' pending⟩
  · rw [execPendingResolution_eq side pending late here, resolved]; rfl
  · rw [State.manifest_discardAt rises', State.manState_setManState mem rises reads (by decide)]

end

theorem execRetentionEnd_frees {s : State} (rises : Safety.Rises s.lines) {line c : Nat} {e : Side} (side : (s.line line).side = some e) (retained : e.pending = false)
    (settled : e.settled = some c) (late : c + 65536 ≤ s.dcc) :
    ∃ t, execRetentionEnd line s = .next t ∧ t.glob = s.glob ∧ (t.line line).side = none ∧ t.msgs = s.msgs := by
  refine ⟨s.freeSide line, ?_, rfl, State.side_freed rises rfl, rfl⟩
  simp [execRetentionEnd, State.retentionDue, side, retained, settled, late]

end Sys2Proof.Machine

namespace Sys2Proof.Claims
open Sys2Proof.Machine

/-- Settles O45, event by event from the lemma about each. -/
theorem bundleLinesKeepTheirVersions : Obligations.BundleLinesKeepTheirVersions := by
  unfold Obligations.BundleLinesKeepTheirVersions
  intro s k i fl line name version anchor pa key n count x e r b f dst sx mems rises here local_ hx place takes
  have mem : s.glob.wf = true := mems.1
  have number : s.fabLine line = fl := by
    rw [State.fabLine, ← here, ← local_]
    exact Nat.div_add_mod' fl _
  refine ⟨fun listed at_ of_line => ⟨?store, ?fetch⟩, ?sealed, ?discard, ?ack, ?settle, ?resolve, ?retain⟩
  case store =>
    rintro op ready bits single apart fits kept side room
    subst of_line
    exact execHomeLineBst_opens rises listed at_ op ready bits single apart fits kept side room
  case fetch =>
    intro op sh dst_ fetch
    subst of_line
    refine ⟨fun back => ⟨fun kept own live clean _ inside => ?_, fun gone viewed => ?_⟩, fun fwd memory side pending hname hversion => ?_⟩
    · exact execBackwardFetch_answers listed at_ op fetch sh dst_ back kept own live clean inside
    · exact execBackwardFetch_expires listed at_ op fetch sh dst_ hx back gone viewed
    · exact number ▸ execForwardFetch_promotes listed at_ op fetch sh dst_ fwd memory.1 memory.2 side pending hname hversion
  case sealed =>
    rintro listed ⟨page, unshut⟩ side pending rfl rfl
    exact execHomeLineSeal_promotes page unshut side pending rises here local_ listed
  case discard =>
    rintro listed ready side pending rfl rfl
    subst local_
    exact execHomeLineDiscard_drops rises here listed ready side pending
  case ack =>
    rintro listed rfl rfl committed
    subst local_
    exact ⟨execSealAck_settles here listed committed mem rises, fun m member other missing => execSealAck_counts here listed committed member other missing⟩
  case settle =>
    rintro listed side retained rfl rfl unsettled
    subst local_
    exact execSettleNotice_starts rises here listed side retained unsettled
  case resolve =>
    intro side pending late at_anchor d same
    refine ⟨fun committed memory => ?_, execPendingResolution_discards side pending late at_anchor rises, fun still => ?_⟩
    · exact number ▸ execPendingResolution_promotes side pending late at_anchor memory.1 memory.2 committed.1 committed.2
    · exact execPendingResolution_aborts side pending late at_anchor mem rises still.1 still.2
  case retain => exact fun side retained c settled late => execRetentionEnd_frees rises side retained settled late

end Sys2Proof.Claims

/-!
Two statements about bundles that fail where the map of lines is not in canonical form, which they do not ask for (Safety.Rises): there a write of the part to
the anchor's dword uncovers another entry of its line. Where keys rise, that write is read back (State.manState_setManState).
-/
namespace Sys2Proof.Claims
open Sys2Proof.Machine

/-! ## A line's entry that a write uncovers -/

/-- An empty bundle 7 of version 1 is open; its anchor is line 0 of this package (IDPKG is 0xFFF at reset). -/
def anchorBundle : Bundle := { Bundle.zero with v := true, version := 1, name := 7, manifest := 0xFFF * 2 ^ 45 }

/-- Line 0 holds the manifest of that bundle, OPEN under its name and version. The map of lines lists line 0 twice, clean and then poisoned: the line reads
clean until a write leaves out its first entry, which is the default, and poisoned from then on. -/
def uncovered : State :=
  { State.reset with
    glob := [(3, 0x02), (4, 0x01), (5, 0x70)], lines := [(0, Line.zero), (0, { Line.zero with poison := 1 })],
    shifts := [(0, { Shift.zero with bundle := anchorBundle })], cur := { Cur.zero with sh := some 0 } }

theorem memories_uncovered : Safety.Memories uncovered := by
  refine ⟨?_, rfl, rfl, rfl, rfl, rfl⟩
  decide +kernel

/-- The manifest stands OPEN as its bundle left it. -/
theorem opened_uncovered :
    manState (uncovered.manifest 0) = 1 ∧ manName (uncovered.manifest 0) = anchorBundle.name ∧ manVersion (uncovered.manifest 0) = anchorBundle.version := by
  decide +kernel

/-- The STATE of the manifest in line 0 after an instruction. -/
def stateAfter (i : Instr) (s : State) : Option Nat :=
  match Sys2Proof.Machine.exec i s with
  | .next t => some (manState (t.manifest 0))
  | _ => none

theorem stateAfter_of_run {i : Instr} {s t : State} (run : Sys2Proof.Machine.exec i s = .next t) : stateAfter i s = some (manState (t.manifest 0)) := by
  rw [stateAfter, run]

/-- Refutes O28: BABORT writes ABORTED to the anchor, whose line then reads poisoned, so that the manifest reads 0 (log 93). -/
theorem not_adapterPinsViewsAndAbortsLandTheirStatus : ¬ Obligations.AdapterPinsViewsAndAbortsLandTheirStatus := by
  intro h
  obtain ⟨-, views⟩ := h
  obtain ⟨-, -, aborts⟩ := views uncovered .shift 5
  obtain ⟨t, run, -, inside⟩ := aborts (by decide +kernel)
  obtain ⟨-, anchor, -⟩ := inside rfl
  obtain ⟨isOpen, named, versioned⟩ := opened_uncovered
  obtain ⟨aborted, -⟩ := anchor rfl memories_uncovered isOpen named versioned
  have lost : stateAfter (.babort 5) uncovered = some 0 := by decide +kernel
  rw [stateAfter_of_run run, Option.some.injEq] at lost
  exact absurd (aborted.symm.trans lost) (by decide)

/-- Refutes O29: BSEAL commits the bundle at its anchor, whose line then reads poisoned, so that the manifest reads 0 (log 93). -/
theorem not_bundleWordsComplete : ¬ Obligations.BundleWordsComplete := by
  intro h
  obtain ⟨seals, -⟩ := h
  obtain ⟨-, inside⟩ := seals uncovered .sys 5
  obtain ⟨-, committing⟩ := inside rfl rfl (by decide +kernel) (by decide +kernel) (by decide +kernel) (by decide +kernel)
  obtain ⟨commits, -⟩ := committing rfl rfl
  obtain ⟨t, run, -, settled⟩ := commits opened_uncovered memories_uncovered
  have lost : stateAfter (.bseal .sys 5) uncovered = some 0 := by decide +kernel
  rw [stateAfter_of_run run, Option.some.injEq] at lost
  exact absurd (settled.symm.trans lost) (by decide)

end Sys2Proof.Claims

/-!
Control and progress: the transfers of LOOP (R262), the ends and safe points of shifts (R263, R264, R268), events (R265 to R267), and the delivery of
traps at a boundary (R269, R366).
-/
namespace Sys2Proof.Machine

/-! ## A list with one entry replaced -/

theorem setAt_eq_set {α : Type} (l : List α) (k : Nat) (x : α) : setAt l k x = l.set k x := by
  induction l generalizing k with
  | nil => simp [setAt]
  | cons a l ih =>
    cases k with
    | zero => rfl
    | succ k => simpa [setAt] using ih k

/-! ## Changes of one shift -/

theorem State.modSh_frame (s : State) (i : Nat) (f : Shift → Shift) : s.modSh i f = { s with shifts := (s.modSh i f).shifts } := by
  unfold State.modSh
  split <;> rfl

theorem State.modX_frame (s : State) (f : Shift → Shift) : s.modX f = { s with shifts := (s.modX f).shifts } := by
  unfold State.modX
  split
  · rfl
  · exact s.modSh_frame ..

/-! ## Nodes of a resident table -/

/-- A node of a table that has changed, by what the change makes of its nodes. -/
theorem State.node?_modTable (s : State) (t n : Nat) (f : GTable → GTable) :
    (s.modTable t f).node? t n = (s.table? t).bind fun T => (f T).nodes[n]? := by
  unfold State.node? State.modTable State.table?
  cases h : NMap.get? s.tables t with
  | none => simp [h]
  | some T => simp

/-! ## The end of a shift (R253, R263) -/

/-- Bytes of landings are written to PAD and LANE alone. -/
theorem LandTo.toMem_frame (d : LandTo) (core : Nat) (s : State) : d.toMem core s = { s with pad := (d.toMem core s).pad, lane := (d.toMem core s).lane } := by
  have fold {α : Type} (f : State → α → State) (step : ∀ s a, f s a = { s with pad := (f s a).pad, lane := (f s a).lane }) (l : List α) (s : State) :
      l.foldl f s = { s with pad := (l.foldl f s).pad, lane := (l.foldl f s).lane } := by
    induction l generalizing s with
    | nil => rfl
    | cons a l ih => rw [List.foldl_cons, ih, step]
  cases d with
  | padElems w els => exact fold _ (fun _ _ => rfl) els s
  | lane single els => exact fold _ (fun _ _ => rfl) els s
  | partn base arms counts idx => exact fold _ (fun _ _ => rfl) _ s
  | _ => rfl

/-- The writes of a shift that ends reach PAD and LANE alone. -/
theorem State.flushMem_frame (s : State) (i : Nat) : s.flushMem i = { s with pad := (s.flushMem i).pad, lane := (s.flushMem i).lane } := by
  have fold (core : Nat) (l : List Landing) (s : State) :
      let t := l.foldl (fun s l => l.dst.toMem core s) s
      t = { s with pad := t.pad, lane := t.lane } := by
    induction l generalizing s with
    | nil => rfl
    | cons a l ih => rw [List.foldl_cons, ih, LandTo.toMem_frame]
  unfold State.flushMem
  split
  · rfl
  · exact fold ..

/-- A shift of a node that has not failed leaves its core; no other shift, no job, and nothing of GLOB or of the host changes. -/
theorem State.raiseHalt_running {s : State} {i : Nat} {x : Shift} (hx : s.sh? i = some x)
    (runs : ∀ n, s.node? x.place.table x.place.node = some n → n.state ≠ 5) :
    (s.raiseHalt i).shifts = NMap.del s.shifts i ∧ (s.raiseHalt i).jobs = s.jobs ∧ (s.raiseHalt i).glob = s.glob ∧ (s.raiseHalt i).host = s.host ∧
      (s.raiseHalt i).cur = s.cur := by
  unfold State.raiseHalt
  simp only [hx]
  split
  · simp
  · next n hn =>
    have alive : n.state ≠ 5 := by
      rw [State.node?_modTable, Option.bind_eq_some_iff] at hn
      obtain ⟨T, hT, hn⟩ := hn
      have node (m : Node) (hm : T.nodes[x.place.node]? = some m) : m.state ≠ 5 := runs m (by
        unfold State.node?
        rw [show s.table? x.place.table = some T from hT]
        exact hm)
      cases hm : T.nodes[x.place.node]? with
      | none => simp [hm] at hn
      | some m =>
        have lt := (List.getElem?_eq_some_iff.1 hm).1
        simp only [hm, setAt_eq_set, List.getElem?_set_self lt, Option.some.injEq] at hn
        subst hn
        exact node m hm
    simp [alive]

/-- A shift of a running node halts: it leaves its core, and nothing of GLOB or of the host changes. -/
theorem State.haltEnd_running {s : State} {i : Nat} {x : Shift} (hx : s.sh? i = some x)
    (runs : ∀ n, s.node? x.place.table x.place.node = some n → n.state ≠ 5) :
    (s.haltEnd i).shifts = NMap.del s.shifts i ∧ (s.haltEnd i).jobs = s.jobs ∧ (s.haltEnd i).glob = s.glob ∧ (s.haltEnd i).host = s.host ∧
      (s.haltEnd i).cur = s.cur := by
  unfold State.haltEnd
  rw [State.flushMem_frame]
  exact State.raiseHalt_running (s := State.detach _ _) hx runs

end Sys2Proof.Machine

namespace Sys2Proof.Claims
open Sys2Proof.Machine

/-! ## LOOP (R262) -/

theorem loop_count (n : Word) : BitVec.ofInt 64 (n.toNat - 1) = n - 1 := by
  apply BitVec.eq_of_toInt_eq
  rw [BitVec.toInt_sub, BitVec.toInt_ofInt, BitVec.toInt_eq_toNat_bmod n]
  simp

/-- LOOP lands its count less one, and transfers unless that is 0. -/
theorem execLoop_checked {s : State} (checked : s.cur.checked = true) (d : Sys2Proof.SNum) (imm : BitVec 32) :
    execLoop d imm s = .next (if s.rs d - 1 = 0 then s.land 1 0 (.s d (s.rs d - 1)) else (s.land 1 0 (.s d (s.rs d - 1))).goTo (s.rel imm)) :=
  atIssue_checked checked

/-- A bundle that has taken a transfer continues at its target, and owes two stall cycles or more. -/
theorem endBundle_taken {s : State} {i a : Nat} {x y : Shift} (hx : s.sh? i = some x) (taken : s.cur.taken = some a) (hy : (s.endBundle i).sh? i = some y) :
    y.regs.pc = a ∧ 2 ≤ y.tim.owed := by
  unfold State.endBundle at hy
  rw [State.sh?_modSh, if_pos rfl, hx, taken] at hy
  cases hy
  exact ⟨rfl, le_max_right _ _⟩

/-- Settles O54: the count, the landing in s0 that is discarded, and the stall of a taken transfer. -/
theorem loopsCountDownAndTransfer : Obligations.LoopsCountDownAndTransfer := by
  refine ⟨fun d imm s checked => ?_, fun x n => ⟨rfl, rfl⟩, fun s i a x y => endBundle_taken⟩
  intro n
  have count : n = s.rs d - 1 := loop_count (s.rs d)
  refine ⟨_, execLoop_checked checked d imm, ?_, ?_, fun zero => ?_, fun zero => ?_⟩
  · rw [← count]; split <;> rfl
  · rw [← count]
    by_cases last : n = 0
    · simp [last]
    · rw [if_neg last, if_pos last]
      rfl
  · rw [count, zero]; rfl
  · rw [count, zero, State.rs, Shift.rs_zero]; decide

/-! ## HALT, SAFEPT, YIELD and CONT (R263, R264, R268) -/

theorem heldFault_eq : heldFault = { code := 0x0B, cause := 6 } := rfl

theorem holdsAny_iff (x : Shift) : x.holdsAny = true ↔ (∃ q ∈ x.rings.toList, q.hc = true ∨ q.hw = true) ∨ x.bundle.v = true ∨ x.view.v = true := by
  simp only [Shift.holdsAny, Bool.or_eq_true, List.any_eq_true, or_assoc]

theorem drained_of {s : State} {i : Nat} {x : Shift} (units : x.conts = [] ∧ x.lane.v = false ∧ x.tim.laneBusy = 0) (queue : x.mx.queue = [])
    (active : x.mx.active = []) (jobs : ∀ j ∈ s.jobs, j.sh ≠ i) : s.drained i x = true := by
  obtain ⟨conts, lane, busy⟩ := units
  simpa [State.drained, conts, lane, busy, queue, active] using jobs

section
variable {s : State}

/-- HALT of a shift that holds nothing and has drained ends it. -/
theorem execHalt_ends (loose : s.x.holdsAny = false) (own : s.x.place.serves = none) (drained : s.drained s.me s.x = true) :
    execHalt s = .next (s.haltEnd s.me) := by
  unfold execHalt
  rw [atIssue_go (by simp [loose, own, drained])]
  simp [State.haltWork, own, drained]

/-- A safe point at which nothing is in flight completes; one whose bundle has results in flight waits for them (R37). -/
theorem safePoint_frame (idx : Nat) (yields : Bool) : s.safePoint idx yields = { s with shifts := (s.safePoint idx yields).shifts } :=
  s.modX_frame _

theorem changes_safePoint (idx : Nat) (yields : Bool) : Changes s (s.safePoint idx yields) fun x y =>
    y = if x.landings.isEmpty then x.atSafe idx yields else { x with tim := { x.tim with safeWait := some (idx, yields) } } :=
  changes_modX rfl

variable (idx : BitVec 32) (yields : Bool)

/-- SAFEPT and YIELD make one check, and reach one safe point. -/
theorem exec_point : Sys2Proof.Machine.exec (if yields then .yield idx else .safept idx) s = atIssue State.safeCheck (fun s => s.safePoint idx.toNat yields) s := by
  cases yields <;> rfl

theorem exec_point_go (go : s.safeCheck = .go ∨ s.cur.checked = true) :
    Sys2Proof.Machine.exec (if yields then .yield idx else .safept idx) s = .next (s.safePoint idx.toNat yields) := by
  rw [exec_point]
  obtain go | checked := go
  · exact atIssue_go go
  · exact atIssue_checked checked

end

/-- The executing shift, where one is resident, is the one that is read. -/
theorem x_of_bind {s : State} {x : Shift} (hx : s.cur.sh.bind s.sh? = some x) : s.x = x := by simp [State.x, hx]

/-- Settles O33: each word by what its check finds. -/
theorem progressWordsCompleteWhereNothingIsHeld : Obligations.ProgressWordsCompleteWhereNothingIsHeld := by
  intro s idx yields
  refine ⟨fun loose own units queue active jobs runs resident => ?_, fun loose landed => ?_, fun loose flying checked => ?_, fun held unchecked => ?_,
    fun units ops jobs => ?_⟩
  · have loose : s.x.holdsAny = false := Bool.eq_false_iff.2 (mt (holdsAny_iff s.x).1 loose)
    obtain ⟨x, hx⟩ := Option.isSome_iff_exists.1 resident
    obtain ⟨i, hi, hx⟩ := Option.bind_eq_some_iff.1 hx
    have me : s.me = i := by simp [State.me, hi]
    have same := State.x_eq hi hx
    refine ⟨_, execHalt_ends loose own (drained_of units queue active jobs), ?_⟩
    exact State.haltEnd_running (me ▸ hx) (same ▸ runs)
  · have loose : s.x.holdsAny = false := Bool.eq_false_iff.2 (mt (holdsAny_iff s.x).1 loose)
    refine ⟨_, exec_point_go idx yields (.inl (by simp [State.safeCheck, loose, landed])), safePoint_frame .., fun x hx => ?_⟩
    obtain ⟨y, hy, rfl⟩ := changes_safePoint idx.toNat yields x hx
    exact ⟨_, hy, if_pos (by rw [← x_of_bind hx, landed]; rfl)⟩
  · refine ⟨_, exec_point_go idx yields (.inr checked), safePoint_frame .., fun x hx => ?_⟩
    obtain ⟨y, hy, rfl⟩ := changes_safePoint idx.toNat yields x hx
    exact ⟨_, hy, if_neg (by rw [← x_of_bind hx, List.isEmpty_iff]; exact flying)⟩
  · have held : s.x.holdsAny = true := (holdsAny_iff s.x).2 held
    rw [exec_point, ← heldFault_eq]
    have halt : execHalt s = Trapped s heldFault := by unfold execHalt; exact atIssue_trapped unchecked (if_pos held)
    exact ⟨halt, atIssue_trapped unchecked (if_pos held)⟩
  · obtain ⟨conts, lane, busy⟩ := units
    have no_routine (o : MOp) (ho : o ∈ s.x.mx.queue ++ s.x.mx.active) :
        (match o.instr with | .tenantM _ _ _ _ _ _ _ _ => true | _ => false) = false := by
      split
      · next e => exact (ops o ho _ _ _ _ _ _ _ _ e).elim
      · rfl
    have no_job (j : Job) (hj : j ∈ s.jobs) (mine : j.sh = s.me) : (match j.instr with | .tenantX _ _ _ _ _ => true | _ => false) = false := by
      split
      · next e => exact (jobs j hj mine _ _ _ _ _ e).elim
      · rfl
    show execCont s = .next s
    unfold execCont
    refine atIssue_go (if_neg ?_)
    simp only [conts, lane, busy, Bool.or_eq_true, List.any_eq_true, Bool.and_eq_true, beq_iff_eq]
    rintro ((held | ⟨j, hj, mine, tenant⟩) | ⟨o, ho, tenant⟩)
    · exact absurd held (by decide)
    · exact Bool.false_ne_true ((no_job j hj mine).symm.trans tenant)
    · exact Bool.false_ne_true ((no_routine o ho).symm.trans tenant)

end Sys2Proof.Claims

namespace Sys2Proof.Claims
open Sys2Proof.Machine

/-! ## Events (R265 to R267) -/

section
variable {s : State} {d r : Sys2Proof.SNum}

/-- A WAITEV that finds an event of its mask, or whose timeout has passed, lands the bits that it finds and clears them. -/
theorem execWaitev_lands {mask : BitVec 16} (some_mask : mask ≠ 0) (due : s.x.evl &&& mask ≠ 0 ∨ s.x.tim.timedOut = true) :
    execWaitev d r mask s = .next (s.modX fun x =>
      { x.post 1 0 (.s d ((s.x.evl &&& mask).setWidth 64)) with evl := x.evl &&& ~~~(s.x.evl &&& mask) }) := by
  unfold execWaitev
  rw [atIssue_go (by rw [if_neg some_mask, if_pos]; exact due)]
  exact congrArg Host.Outcome.next (State.modX_modX ..)

theorem and_not_and (a b : BitVec 16) : a &&& ~~~(a &&& b) = a &&& ~~~b := by
  ext i
  cases h : a[i] <;> simp [h]

theorem waitev_changes {mask : BitVec 16} : Changes s (s.modX fun x =>
      { x.post 1 0 (.s d ((s.x.evl &&& mask).setWidth 64)) with evl := x.evl &&& ~~~(s.x.evl &&& mask) }) fun x y =>
    y.evl = x.evl &&& ~~~mask ∧ y.regs = x.regs ∧
      ∃ l, y.landings = x.landings ++ [l] ∧ l.left = 1 ∧ l.flags = 0 ∧ l.dst = .s d (BitVec.ofNat 64 (x.evl &&& mask).toNat) := by
  intro x hx
  obtain ⟨y, hy, rfl⟩ := changes_modX rfl x hx
  have same := x_of_bind hx
  refine ⟨_, hy, by rw [same]; exact and_not_and .., rfl, _, rfl, rfl, rfl, ?_⟩
  rw [same, BitVec.ofNat_toNat]

/-- The shifts that a SIGEV names. -/
theorem signalled_eq_reached (s : State) (w : Word) : s.signalled w = reached s w := by
  unfold State.signalled reached
  refine congrArg (List.map _) (List.filter_congr fun p _ => ?_)
  simp only [wbits, nbits, Nat.pow_zero, Nat.div_one, Nat.reducePow, Bool.decide_and, Bool.decide_or, Bool.decide_eq_true, Bool.and_assoc]
  rfl

/-- Messages posted one after another. -/
theorem foldl_post {α : Type} (m : α → Msg) (l : List α) (s : State) : l.foldl (fun (t : State) a => t.post (m a)) s = { s with msgs := s.msgs ++ l.map m } := by
  induction l generalizing s with
  | nil => simp
  | cons a l ih => rw [List.foldl_cons, ih]; simp [State.post]

/-- SIGEV posts its event to each shift that its register names, and answers their number, or NOSHIFT. -/
theorem execSigev_posts (e : BitVec 4) : let told := reached s (s.rs r)
    execSigev d r e s = .next (State.reply { s with msgs := s.msgs ++ told.map fun i => .event s.me s.x.tim.seq i (1 <<< e.toNat) } d
      (BitVec.ofNat 64 (if told.length = 0 then 0x10 else told.length * 2 ^ 32))) := by
  unfold execSigev
  rw [atIssue_go rfl]
  simp only [signalled_eq_reached, foldl_post, w64, List.isEmpty_iff, ← List.length_eq_zero_iff]
  congr 3
  split
  · next none_told => rw [none_told]; rfl
  · exact Nat.add_zero _

end

/-- Settles O34: each word and event by what it does to the latch. -/
theorem eventsReachTheirLatch : Obligations.EventsReachTheirLatch := by
  intro s d r mask e k i seq src bits x
  refine ⟨fun some_mask due => ?_, fun no_mask unchecked => ?_, ?_, fun listed performed hx => ?_, fun hx wait timed late => ?_⟩
  · exact ⟨_, execWaitev_lands some_mask due, s.modX_frame _, waitev_changes⟩
  · show execWaitev d r mask s = _
    unfold execWaitev
    exact atIssue_trapped unchecked (if_pos no_mask)
  · refine ⟨_, execSigev_posts e, awaiting_modX ?_ (State.modX_shifts_congr ?_ ?_ _) (onlyAwaits_markS d), ?_, ?_⟩
    all_goals simp [State.reply, SameMemory]
    rfl
  · have run : execEventLatchSet k s = .next (({ s with msgs := dropAt s.msgs k }).modSh i fun x =>
        { x with evl := x.evl ||| bits, tim := { x.tim with evlSince := x.tim.evlSince ||| bits } }) := by
      simp [execEventLatchSet, listed, performed]
    have latched : (({ s with msgs := dropAt s.msgs k }).modSh i fun x =>
        { x with evl := x.evl ||| bits, tim := { x.tim with evlSince := x.tim.evlSince ||| bits } }).sh? i =
        some { x with evl := x.evl ||| bits, tim := { x.tim with evlSince := x.tim.evlSince ||| bits } } := by
      rw [State.sh?_modSh, if_pos rfl]
      exact congrArg (Option.map _) hx
    exact ⟨_, _, run, by simp [dropAt], latched, rfl, rfl⟩
  · refine ⟨_, _, rfl, by rw [State.sh?_modSh, if_pos rfl, hx]; rfl, ?_⟩
    simp [wait, timed, late]

/-! ## Traps at a boundary (R269, R366) -/

/-- A resident shift changed, by its own record. -/
theorem modSh_eq_placed {s : State} {i : Nat} {x : Shift} (hx : s.sh? i = some x) (f : Shift → Shift) : s.modSh i f = Placed s i (f x) := by
  unfold State.modSh
  rw [show NMap.get? s.shifts i = some x from hx]
  rfl

section
variable {s : State} {i : Nat} {x : Shift} (hx : s.sh? i = some x)
include hx

theorem modSh_noteFaults (rest : List FaultInfo) (f : Shift → Shift) :
    (s.noteFaults i rest).modSh i f = Placed s i (f { x with pend := { x.pend with faults := rest } }) := by
  rw [State.noteFaults, State.modSh_modSh, modSh_eq_placed hx]

/-- A boundary takes the first fault that is pending, and keeps the others. -/
theorem execTrapDelivery_takes {f : FaultInfo} {rest : List FaultInfo} (pending : s.pendingFaults i x = f :: rest) (ready : s.trapWait i = none) :
    execTrapDelivery i f s = .next
      ((Placed s i { x with pend := { x.pend with faults := rest, trap := if f.code = 0x11 then none else x.pend.trap } }).takeTrap i f) := by
  simp only [execTrapDelivery, hx, pending, ready, ne_eq, not_true_eq_false, if_false, modSh_noteFaults hx]
  split <;> rfl

theorem execTrapDelivery_waits {f : FaultInfo} {rest : List FaultInfo} {t : State} (pending : s.pendingFaults i x = f :: rest) (wait : s.trapWait i = some t) :
    execTrapDelivery i f s = .next t := by
  simp [execTrapDelivery, hx, pending, wait]

/-- The overrun of a safe point is a fault, and the count returns to 0 (R256). -/
theorem execSafePointOverrun_takes (bound : x.img.spbound ≤ x.tim.spc) (ready : s.trapWait i = none) :
    execSafePointOverrun i s = .next
      ((Placed s i { x with pend := { x.pend with faults := [] }, tim := { x.tim with spc := 0 } }).takeTrap i { code := 0x0F }) := by
  simp only [execSafePointOverrun, hx, ready, Nat.not_lt.2 bound, if_false, modSh_noteFaults hx]

theorem execSafePointOverrun_waits {t : State} (bound : x.img.spbound ≤ x.tim.spc) (wait : s.trapWait i = some t) : execSafePointOverrun i s = .next t := by
  simp [execSafePointOverrun, hx, wait, Nat.not_lt.2 bound]

/-- A register whose result failed gives its fault at the bundle that meets it (R285, R364). -/
theorem execDelayedFaultDelivery_takes {r : Sys2Proof.SNum} {d : Delayed} (failed : x.pend.delayed.find? (fun e => e.reg == r) = some d)
    (ready : s.trapWait i = none) :
    execDelayedFaultDelivery i r s = .next
      ((Placed s i { x with pend := { x.pend with delayed := x.pend.delayed.filter fun e => e.reg != r } }).takeTrap i { d.info with word := s.cur.word }) := by
  simp only [execDelayedFaultDelivery, hx, Option.bind_some, failed, ready, modSh_eq_placed hx]
  rfl

end

/-- Settles O35: each trap, and each fault of a boundary, where its frame waits and where it does not. -/
theorem trapsAreDeliveredAtABoundary : Obligations.TrapsAreDeliveredAtABoundary := by
  intro s n i x f rest r d
  have brk (unchecked : s.cur.checked = false) : execBrk n s = Trapped s { code := 0x12, num := n.toNat } := atIssue_trapped unchecked rfl
  refine ⟨?_, brk, fun t wait => ⟨fun hx pending => execTrapDelivery_waits hx pending wait,
    fun hx bound => execSafePointOverrun_waits hx bound wait⟩, fun hx ready => ⟨fun pending => execTrapDelivery_takes hx pending ready,
    fun bound => execSafePointOverrun_takes hx bound ready, fun failed => execDelayedFaultDelivery_takes hx failed ready⟩⟩
  have run : execTrap n s = .next (s.modX fun x => { x with pend := { x.pend with trap := some n.toNat } }) := atIssue_go rfl
  exact ⟨_, run, s.modX_frame _, changes_modX rfl⟩

end Sys2Proof.Claims

/-!
What the part's own writes and the uses of translations leave alone (R222, R338, R348, R351), said once; then traps and their return (R366 to R375).
-/
namespace Sys2Proof.Machine

/-! ## What the part writes on its own -/

/-- The second state is the first but for memory and what stands beside its lines, the writes that wait, the caches of translations, and the counts of
dropped writes and of missed keys. -/
def PartOnly (s t : State) : Prop :=
  t = { s with glob := t.glob, lines := t.lines, cache := t.cache, msgs := t.msgs, tlb := t.tlb, uppers := t.uppers, funcs := t.funcs,
               mg := { s.mg with drop := t.mg.drop }, fab := { s.fab with adits := t.fab.adits } }

theorem PartOnly.refl (s : State) : PartOnly s s := rfl

theorem PartOnly.trans {s t u : State} (h : PartOnly s t) (g : PartOnly t u) : PartOnly s u := by
  unfold PartOnly at *
  rw [h] at g
  exact g

/-- Operations of the part, one after another. -/
theorem PartOnly.foldl {α : Type} {f : State → α → State} (h : ∀ s a, PartOnly s (f s a)) (l : List α) (s : State) : PartOnly s (l.foldl f s) :=
  List.foldlRecOn (motive := PartOnly s) l f (.refl s) fun t ht a _ => ht.trans (h t a)

section
variable {s t : State} (h : PartOnly s t)
include h

theorem PartOnly.shifts : t.shifts = s.shifts := by rw [h]
theorem PartOnly.jobs : t.jobs = s.jobs := by rw [h]
theorem PartOnly.cur : t.cur = s.cur := by rw [h]
theorem PartOnly.dcc : t.dcc = s.dcc := by rw [h]
theorem PartOnly.sh? (i : Nat) : t.sh? i = s.sh? i := by unfold State.sh?; rw [h.shifts]

end

theorem partOnly_dirtied (s : State) (line : Nat) (m : BitVec 128) : PartOnly s (s.dirtied line m) := by
  unfold State.dirtied
  split <;> rfl

theorem partOnly_modLine (s : State) (n : Nat) (f : Line → Line) : PartOnly s (s.modLine n f) := rfl

theorem partOnly_countPoison (s : State) (n : Nat) : PartOnly s (s.countPoison n) := by
  unfold State.countPoison State.modFab PartOnly
  dsimp only
  split <;> rfl

theorem partOnly_poke (s : State) (pa : Nat) (bs : List Byte) (key : Option Nat) : PartOnly s (s.poke pa bs key) := by
  have stored (m : Mem) (line : Nat) (mask : BitVec 128) (f : Line → Line) : PartOnly s ((State.dirtied { s with glob := m } line mask).modLine line f) :=
    (show PartOnly s { s with glob := m } from rfl).trans ((partOnly_dirtied ..).trans (partOnly_modLine ..))
  unfold State.poke
  dsimp only
  split
  · rfl
  split
  · split
    · rfl
    · exact partOnly_countPoison ..
  split
  · exact stored ..
  split
  · rfl
  split <;> exact stored ..

theorem partOnly_writeLine (s : State) (pa : Nat) (key : Option Nat) (bs : List Byte) : PartOnly s (s.writeLine pa key bs) := by
  unfold State.writeLine
  split
  · exact partOnly_poke ..
  · exact (partOnly_poke ..).trans (partOnly_modLine ..)

theorem partOnly_ownAct (s : State) (pa : Nat) (key : Option Nat) (op : OwnOp) (bs : List Byte) : PartOnly s (s.ownAct pa key op bs) := by
  have bits (f : Byte → Byte → Byte) : PartOnly s (s.bitsAt pa key f bs) := by
    unfold State.bitsAt
    dsimp only
    split
    · rfl
    · exact partOnly_writeLine ..
  unfold State.ownAct
  split
  · exact partOnly_writeLine ..
  · exact bits _
  · exact bits _

theorem partOnly_ownWrite (s : State) (pa : Nat) (key : Option Nat) (op : OwnOp) (bs : List Byte) : PartOnly s (s.ownWrite pa key op bs) := by
  unfold State.ownWrite
  split
  · rfl
  · exact partOnly_ownAct ..

theorem partOnly_touchEntry (s : State) (write : Bool) (leaves : List Nat) (pa : Nat) : PartOnly s (s.touchEntry write leaves pa) := by
  unfold State.touchEntry
  split
  · rfl
  · exact partOnly_ownWrite ..

theorem partOnly_useEntry (s : State) (e : Tlb) (va : Nat) (write : Bool) : PartOnly s (s.useEntry e va write) := by
  have touched : PartOnly s (if e.settled write then s else (e.entriesAt va).foldl (fun s p => s.touchEntry write (e.leavesAt va) p) s) := by
    split
    · rfl
    · exact .foldl (fun t p => partOnly_touchEntry t ..) _ s
  have logged (t : State) (g : Option Nat) :
      PartOnly t (match g with | some n => if e.logged.contains n then t else t.logGranule e.ctx n | none => t) := by
    split
    · split
      · rfl
      · exact partOnly_ownWrite ..
    · rfl
  exact (touched.trans (logged _ _)).trans (show PartOnly _ (State.cacheTlb _ _) from rfl)

theorem partOnly_kmissBy (s : State) (fn : Option Nat) (n : Nat) : PartOnly s (s.kmissBy fn n) := by
  unfold State.kmissBy
  split
  · rfl
  · split <;> rfl

theorem partOnly_touchVirt (s : State) (unit ctx va n : Nat) (write : Bool) : PartOnly s (s.touchVirt unit ctx va n write) :=
  .foldl (fun t j => by
    dsimp only
    split
    · split
      · refine PartOnly.trans ?_ (partOnly_useEntry ..)
        split
        · rfl
        · exact partOnly_kmissBy ..
      · rfl
    · rfl) _ s

theorem partOnly_ownLine (s : State) (e : Tlb) (va : Nat) (bs : List Byte) : PartOnly s (s.ownLine e va bs) := by
  have missed : PartOnly s (if s.keyLive e.key then s else s.kmiss (s.deviceOf e.ctx)) := by
    split
    · rfl
    · exact partOnly_kmissBy ..
  unfold State.ownLine
  dsimp only
  generalize (if s.keyLive e.key then s else s.kmiss (s.deviceOf e.ctx)) = t at missed ⊢
  refine missed.trans ?_
  split
  · rfl
  · exact partOnly_ownWrite ..

/-- Bytes that the part writes through a translation. -/
theorem partOnly_virtPut {s t : State} {unit ctx va : Nat} {bs : List Byte} (put : s.virtPut unit ctx va bs = .ok t) : PartOnly s t := by
  unfold State.virtPut at put
  generalize bs.length / 128 + 2 = fuel at put
  induction fuel generalizing s va bs with
  | zero => cases put; rfl
  | succ fuel ih =>
    unfold State.virtPutFrom at put
    split at put
    · cases put; rfl
    split at put
    · cases put
    split at put
    · cases put
    split at put
    · cases put
    split at put
    · cases put
    · exact ((partOnly_useEntry ..).trans (partOnly_ownLine ..)).trans (ih put)

/-! ## The frame of a trap written (R335, R368) -/

/-- Shift i is x but for its handles. -/
def State.HandlesOnly (i : Nat) (x : Shift) (s : State) : Prop := ∃ h, s.sh? i = some { x with handles := h }

section
variable {i : Nat} {x : Shift} {s t : State}

theorem State.HandlesOnly.partOnly (h : s.HandlesOnly i x) (g : PartOnly s t) : t.HandlesOnly i x := by
  obtain ⟨r, hr⟩ := h
  exact ⟨r, (g.sh? i).trans hr⟩

theorem State.HandlesOnly.noteRoute (h : s.HandlesOnly i x) (n : Nat) : (s.noteRoute i n).HandlesOnly i x := by
  obtain ⟨r, hr⟩ := h
  unfold State.HandlesOnly State.noteRoute
  rw [State.sh?_modSh, if_pos rfl, hr]
  exact ⟨_, rfl⟩

/-- The frame written over the fabric changes nothing of its shift but the generations of its handles (R278). -/
theorem State.HandlesOnly.farPut (h : s.HandlesOnly i x) {y : Shift} {fuel va : Nat} {bs : List Byte} (put : s.farPut i y fuel va bs = .ok t) :
    t.HandlesOnly i x := by
  induction fuel generalizing s va bs with
  | zero => cases put; exact h
  | succ fuel ih =>
    unfold State.farPut at put
    split at put
    · cases put; exact h
    dsimp only at put
    split at put
    · cases put
    · next u line =>
      refine ih ?_ put
      split at line
      · exact h.partOnly (partOnly_virtPut line)
      split at line
      · cases line
      have used (e : Tlb) (n : Nat) : ((s.useEntry e va true).noteRoute i n).HandlesOnly i x := (h.partOnly (partOnly_useEntry ..)).noteRoute n
      split at line
      · cases line
        exact (used ..).partOnly (partOnly_ownWrite ..)
      · cases line
        exact used ..

theorem State.HandlesOnly.framePut (hx : s.sh? i = some x) {va : Nat} {bs : List Byte} (put : s.framePut i x va bs = .ok t) : t.HandlesOnly i x := by
  have start : s.HandlesOnly i x := ⟨x.handles, hx⟩
  unfold State.framePut at put
  split at put
  · exact start.farPut put
  · exact start.partOnly (partOnly_virtPut put)

end

end Sys2Proof.Machine

namespace Sys2Proof.Machine
/-! ## The handler of a trap (R367, R368) -/

/-- A handler finds the code of its trap in s1 and the frame's address in a1, and serves the shift that trapped. -/
theorem State.handlerFor_starts {s : State} {i code : Nat} {x h : Shift} {frame : Addr} (starts : s.handlerFor i x code frame = some h) :
    h.rs 1 = BitVec.ofNat 64 code ∧ h.ra 1 = frame ∧ h.place.serves = some i := by
  have body : State.handlerFor = State.handlerFor := rfl
  conv at body => rhs; delta State.handlerFor
  rw [body] at starts
  -- The reading of the header stays a variable: the kernel would otherwise evaluate it to compare the branches.
  obtain ⟨readHeader, named⟩ : ∃ H, State.hdrAt = H := ⟨_, rfl⟩
  rw [named] at starts
  dsimp only at starts
  split at starts
  · cases starts
  split at starts
  · split at starts
    · cases starts
    · cases starts
      refine ⟨?_, ?_, rfl⟩
      · simp [Shift.rs, startRegs, w64]
      · simp [Shift.ra, startRegs]
  · cases starts

/-- A trap of a context without a handler, or of a handler, is a system fault (R367). -/
theorem State.takeTrap_no_handler {s : State} {i : Nat} {x : Shift} (f : FaultInfo) (hx : s.sh? i = some x)
    (none_here : 4 ≤ i % 8 ∨ (s.ctx x.place.ctx).tvctl.getLsbD 63 = false) : s.takeTrap i f = s.systemFault i f := by
  have unhandled : 4 ≤ i % 8 ∨ !(s.ctx x.place.ctx).tvctl.getLsbD 63 := by simpa using none_here
  have body : State.takeTrap = State.takeTrap := rfl
  conv at body => rhs; delta State.takeTrap
  rw [body]
  clear body
  obtain ⟨putFrame, named⟩ : ∃ P, State.framePut = P := ⟨_, rfl⟩
  obtain ⟨handler, named'⟩ : ∃ P, State.handlerFor = P := ⟨_, rfl⟩
  rw [named, named']
  simp only [hx, if_pos unhandled]

section
variable {s s' : State} {i : Nat} {x h : Shift} {f : FaultInfo} (hx : s.sh? i = some x) (slot : i % 8 < 4)
  (on : (s.ctx x.place.ctx).tvctl.getLsbD 63 = true)
  (put : s.framePut i x (s.ctx x.place.ctx).frame.toNat
    (frameBytes x f (s.jobs.filter fun j => j.sh == i && decide (j.state < 4)) s.dcc (s.pendShown i x).1 (s.pendShown i x).2 s.dcc s.free) = .ok s')
  (starts : s'.handlerFor i x f.code (s.ctx x.place.ctx).frame = some h)
include hx slot on put starts

/-- A trap writes its frame, reads the header of its handler, stops its shift with its registers as they are, and starts the handler beside it. -/
theorem State.takeTrap_starts :
    (s.takeTrap i f).glob = (s'.sawHeader x.place.ctx h.img.base).glob ∧
    (∃ y, (s.takeTrap i f).sh? i = some y ∧ y.regs = x.regs ∧ y.sp = x.sp ∧ y.tim.stopped = some s.dcc) ∧
    (s.takeTrap i f).sh? (i + 4) = some h := by
  obtain ⟨r, hr⟩ : (s'.sawHeader x.place.ctx h.img.base).HandlesOnly i x := (State.HandlesOnly.framePut hx put).partOnly (partOnly_touchVirt ..)
  have enters : ¬(4 ≤ i % 8 ∨ !(s.ctx x.place.ctx).tvctl.getLsbD 63) := by rw [on]; simpa using slot
  have body : State.takeTrap = State.takeTrap := rfl
  conv at body => rhs; delta State.takeTrap
  rw [body]
  clear body
  obtain ⟨putFrame, named⟩ : ∃ P, State.framePut = P := ⟨_, rfl⟩
  obtain ⟨handler, named'⟩ : ∃ P, State.handlerFor = P := ⟨_, rfl⟩
  rw [named] at put
  rw [named'] at starts
  rw [named, named']
  simp only [hx, if_neg enters, put, starts]
  refine ⟨by simp, ?_, ?_⟩
  · unfold State.sh? State.modSh
    rw [show NMap.get? (s'.sawHeader x.place.ctx h.img.base).shifts i = some { x with handles := r } from hr]
    simp only [State.modCtx_shifts]
    rw [NMap.get?_set_other _ _ (by omega), NMap.get?_set_same]
    exact ⟨_, rfl, rfl, rfl, rfl⟩
  · simp [State.sh?]

end

end Sys2Proof.Machine

namespace Sys2Proof.Machine
/-! ## TRET (R374, R375) -/

/-- A value read of a map is still read where another key is deleted. -/
theorem NMap.get?_del_of_some {α : Type} {m : NMap α} {a b : Nat} {x : α} (h : NMap.get? m a = some x) (ne : a ≠ b) : NMap.get? (NMap.del m b) a = some x := by
  induction m with
  | nil => cases h
  | cons e m ih =>
    simp only [NMap.get?, NMap.del] at h ⊢
    split at h
    · next here => rw [if_neg (by omega)]; simpa [NMap.get?, here] using h
    · next ne' =>
      split at h
      · cases h
      · next le =>
        split
        · exact h
        · rw [NMap.get?, if_neg ne', if_neg le]; exact ih h

/-- What its engines and its lane sequencer show of a unit that is not at work is that it has not halted. -/
theorem State.unitAction_idle {s : State} {i : Nat} {bs : List Byte} {n : Nat} {x : Shift} (hx : s.sh? i = some x) (lane : x.lane.v = false)
    (jobs : ∀ j ∈ s.jobs, j.sh ≠ i) : s.unitAction i bs n = s := by
  have no_job : (s.jobs.find? fun j => j.sh == i && j.eng == n && j.unit.v) = none := by
    rw [List.find?_eq_none]
    intro j hj bad
    simp only [Bool.and_eq_true, beq_iff_eq] at bad
    exact jobs j hj bad.1.1
  have idle : (s.unitsShown i x n).v = false := by
    unfold State.unitsShown
    split
    · exact lane
    · rw [no_job]; rfl
  unfold State.unitAction
  simp only [hx, idle]
  rfl

theorem State.endHandler_shifts (s : State) (h : Nat) : (s.endHandler h).shifts = NMap.del s.shifts h := by
  unfold State.endHandler
  rw [State.flushMem_frame]
  rfl

theorem State.me_eq {s : State} {i : Nat} (cur : s.cur.sh = some i) : s.me = i := by simp [State.me, cur]

section
variable {s : State} {i : Nat} {x : Shift} (cur : s.cur.sh = some i) (hx : s.sh? i = some x) (d : SNum)
include cur hx

section
variable (serves : x.place.serves ≠ none) (jobs : ∀ j ∈ s.jobs, j.sh ≠ i)
include serves jobs

/-- A TRET that waits for nothing takes effect. -/
theorem execTret_go (fin : Bool) (performed : fin = true ∨ s.accessPending i = false) (here : s.tretAsks fin = none) :
    execTret fin d s = .next (if fin then s.tretEnd else s.tretResume d (baseOf i)) := by
  have me : s.me = i := State.me_eq cur
  have idle : s.tretWaits fin = false := by
    have no_job : (s.jobs.any fun j => j.sh == i) = false := by simpa using jobs
    obtain rfl | performed := performed
    · simp [State.tretWaits, me, no_job]
    · simp [State.tretWaits, me, no_job, performed]
  have handler : s.x.place.serves.isNone = false := by
    rw [State.x_eq cur hx]
    exact Option.isNone_eq_false_iff.2 (Option.isSome_iff_ne_none.2 serves)
  unfold execTret
  rw [atIssue_go (by simp [handler, idle, here])]
  simp [State.tretWork, idle, here, me]

/-- tret.end ends its shift. -/
theorem execTret_ends : execTret true d s = .next (s.endShift i 0x0F) := by
  have me : s.me = i := State.me_eq cur
  rw [execTret_go cur hx d serves jobs true (.inl rfl) (by unfold State.tretAsks; split <;> simp), if_pos rfl, State.tretEnd, me]

end

section
variable {y : Shift} {bs : List Byte} (hy : s.sh? (baseOf i) = some y) (read : s.frameRead i y x.place.frame.toNat = .ok bs)
include hy read

theorem execTret_resumes (serves : x.place.serves ≠ none) (jobs : ∀ j ∈ s.jobs, j.sh ≠ i) (performed : s.accessPending i = false) :
    execTret false d s = .next (s.tretResume d (baseOf i)) := by
  have me : s.me = i := State.me_eq cur
  refine (execTret_go cur hx d serves jobs false (.inr performed) ?_).trans (by simp)
  unfold State.tretAsks
  simp only [me, hy, State.x_eq cur hx, read]
  split <;> rfl

/-- A frame that fails a check gives the offset of its first bad dword, and its handler goes on. -/
theorem State.tretResume_bad {off : Nat} (bad : badFrame y bs (s.unitsShown (baseOf i) y) = some off) :
    s.tretResume d (baseOf i) = (s.dropWaiter i frameWait).land 1 0 (.s d (BitVec.ofNat 64 (off * 2 ^ 32 + 0x20))) := by
  have me : s.me = i := State.me_eq cur
  have bad' : badFrame y bs ((s.dropWaiter i frameWait).unitsShown (baseOf i) y) = some off := bad
  unfold State.tretResume
  simp only [me, hy, State.x_eq cur hx, read, bad']

/-- A good frame gives its shift back the registers that the frame holds, and ends the handler. -/
theorem State.tretResume_good (good : badFrame y bs (s.unitsShown (baseOf i) y) = none) (handler : 4 ≤ i % 8) (lane : y.lane.v = false)
    (idle : ∀ j ∈ s.jobs, j.sh ≠ baseOf i) :
    ∃ z, NMap.get? (s.tretResume d (baseOf i)).shifts (baseOf i) = some z ∧ z.regs = (y.fromFrame bs y.tim.shownS.toNat y.tim.shownV.toNat).regs := by
  have me : s.me = i := State.me_eq cur
  have good' : badFrame y bs ((s.dropWaiter i frameWait).unitsShown (baseOf i) y) = none := good
  have other : baseOf i ≠ i := by unfold baseOf; split <;> omega
  unfold State.tretResume
  simp only [me, hy, State.x_eq cur hx, read, good']
  generalize hu : (s.dropWaiter i frameWait).modSh (baseOf i) _ = u
  have restored : ∃ z, u.sh? (baseOf i) = some z ∧ z.regs = (y.fromFrame bs y.tim.shownS.toNat y.tim.shownV.toNat).regs ∧ z.lane = y.lane := by
    rw [← hu, State.sh?_modSh, if_pos rfl, show (s.dropWaiter i frameWait).sh? (baseOf i) = some y from hy]
    exact ⟨_, rfl, rfl, rfl⟩
  have same_me : u.me = i := by rw [← hu]; unfold State.me; rw [State.modSh_cur]; exact me
  have idle' : ∀ j ∈ u.jobs, j.sh ≠ baseOf i := by rw [← hu, State.modSh_jobs]; exact idle
  obtain ⟨z, hz, regs, unit⟩ := restored
  have still (n : Nat) : u.unitAction (baseOf i) bs n = u := State.unitAction_idle hz (unit ▸ lane) idle'
  rw [still, still, still, same_me, State.endHandler_shifts]
  exact ⟨z, NMap.get?_del_of_some hz other, regs⟩

end

end

end Sys2Proof.Machine

namespace Sys2Proof.Claims
open Sys2Proof.Machine

/-- Settles O36: the trap into its handler, and both forms of the return. -/
theorem trapsEnterAndLeaveTheirHandler : Obligations.TrapsEnterAndLeaveTheirHandler := by
  intro s i x f d hx
  refine ⟨⟨fun none_here => State.takeTrap_no_handler f hx none_here, fun s' h slot on put starts => ?_⟩, fun cur serves jobs =>
    ⟨execTret_ends cur hx d serves jobs, fun y bs hy performed read => ⟨fun off bad => ?_, fun good => ?_⟩⟩⟩
  · obtain ⟨glob, stopped, beside⟩ := State.takeTrap_starts hx slot on put starts
    exact ⟨glob, stopped, beside, State.handlerFor_starts starts⟩
  · exact (execTret_resumes cur hx d hy read serves jobs performed).trans (congrArg _ (State.tretResume_bad cur hx d hy read bad))
  · exact ⟨_, execTret_resumes cur hx d hy read serves jobs performed, State.tretResume_good cur hx d hy read good⟩

end Sys2Proof.Claims

/-!
Link words and fabric words at issue (R278, R283 to R291).
-/
namespace Sys2Proof.Machine

theorem wbits_eq (w : Word) (lo n : Nat) : wbits w lo n = w.toNat / 2 ^ lo % 2 ^ n := by
  simp [wbits, nbits]

theorem wbits_zero (w : Word) (n : Nat) : wbits w 0 n = w.toNat % 2 ^ n := by simp [wbits_eq]

theorem State.noteRoute_frame (s : State) (i h : Nat) : s.noteRoute i h = { s with shifts := (s.noteRoute i h).shifts } := s.modSh_frame ..

/-- The routes noted in the handles of one shift change only that shift's handles. -/
theorem State.noteRoutes_frame (i : Nat) (hs : List Nat) (s : State) :
    hs.foldl (fun t h => t.noteRoute i h) s = { s with shifts := (hs.foldl (fun t h => t.noteRoute i h) s).shifts } :=
  List.foldlRecOn (motive := fun t : State => t = { s with shifts := t.shifts }) hs _ rfl fun t ht h _ => by
    rw [State.noteRoute_frame, ht]

theorem State.HandlesOnly.noteRoutes {i : Nat} {x : Shift} {s : State} (here : s.HandlesOnly i x) (hs : List Nat) :
    (hs.foldl (fun t h => t.noteRoute i h) s).HandlesOnly i x :=
  List.foldlRecOn (motive := State.HandlesOnly i x) hs _ here fun _ ht h _ => ht.noteRoute h

end Sys2Proof.Machine

namespace Sys2Proof.Claims
open Sys2Proof.Machine

/-! ## Link words (R283, R286, R287, R289, R291) -/

/-- A job queued after a change of its shift's handles alone. -/
theorem queued_of_handles {s t u : State} {eng : Nat} {i : Instr} {d : SNum} {reads writes : List Foot} (frame : t = { s with shifts := t.shifts })
    (handles : ∀ x, s.sh? s.me = some x → t.HandlesOnly s.me x) (h : Queued t u eng i d reads writes) : Queued s u eng i d reads writes := by
  rw [frame] at h
  obtain ⟨j, jobs, instr, engine, sh, tok, rd, wr, id, state, next, msgs, ⟨cur, awaits⟩, mem⟩ := h
  refine ⟨j, jobs, instr, engine, sh, tok, rd, wr, id, state, next, msgs, ⟨cur, fun x hx => ?_⟩, mem⟩
  obtain ⟨k, hk, hs⟩ := Option.bind_eq_some_iff.1 hx
  have me : s.me = k := State.me_eq hk
  obtain ⟨r, hr⟩ := handles x (me.symm ▸ hs)
  exact awaits { x with handles := r } (Option.bind_eq_some_iff.2 ⟨k, hk, me ▸ hr⟩)

section
variable {s : State} {i : Instr} {d : SNum} {late limits : State → Bool} {feet : State → List Foot × List Foot} {route : State → Option Nat}
  {hs : State → List Nat} {job : State → Job} (acquired : s.acquirePending s.me = false) (here : late s = false)
include acquired here

theorem linkWord_queued (sound : limits s = false) (pass : s.jobFeet s.x (feet s).1 (feet s).2 = none) (routed : route s = none)
    (as : ∀ t : State, (job t).id = t.nextJob ∧ (job t).sh = t.me ∧ (job t).state = 1 ∧ (job t).eng = 3 ∧ (job t).instr = i ∧ (job t).tok = d) :
    ∃ t, linkWord d late limits feet route hs job s = .next t ∧ Queued s t 3 i d (feet s).1 (feet s).2 := by
  unfold linkWord
  rw [atIssue_go (by simp [here, sound, pass, routed, acquired])]
  simp only [sound, pass, routed, Bool.false_eq_true, if_false]
  refine ⟨_, rfl, ?_⟩
  have frame := s.noteRoutes_frame s.me (hs s)
  have handles (x : Shift) (hx : s.sh? s.me = some x) := State.HandlesOnly.noteRoutes ⟨x.handles, hx⟩ (hs s)
  generalize (hs s).foldl (fun t h => t.noteRoute s.me h) s = t at frame handles ⊢
  obtain ⟨id, sh, state, eng, instr, tok⟩ := as t
  have queued := queued_addJob t (j := { job t with reads := (feet s).1, writes := (feet s).2 }) id sh state
  rw [eng, instr, tok] at queued
  exact queued_of_handles frame handles queued

/-- A link word whose operands break its limits gives BADDESC in its token (R283). -/
theorem linkWord_refused (bad : limits s = true) : linkWord d late limits feet route hs job s = .next (s.tokenNow d badDescToken) := by
  unfold linkWord
  rw [atIssue_go (by simp [here, bad, acquired])]
  simp only [bad, if_true]

end

section
variable {s : State} {h : HNum} {q : QNum} {d a : SNum} {m : MemX} {b : MemB} {k : BitVec 6} (acquired : s.acquirePending s.me = false)
include acquired

theorem execRldq_queued (ring : (s.ring q).v = true) (stage : (s.ring q).prod.getLsbD s.x.place.stage = true) (aligned : s.x.eaX m % 8 = 0)
    (pass : s.jobFeet s.x (if descN (s.rs d) = 0 then [] else [runFoot .glob (s.x.eaX m) (descN (s.rs d) * s.slotSize q) 1 0]) [] = none)
    (routed : s.routeAt (s.handle h) (s.x.eaX m) = none) :
    ∃ t, execRldq h q d m s = .next t ∧
      Queued s t 3 (.rldq h q d m) d (if descN (s.rs d) = 0 then [] else [runFoot .glob (s.x.eaX m) (descN (s.rs d) * s.slotSize q) 1 0]) [] := by
  unfold execRldq
  simp only [ring, stage, Bool.not_true, Bool.or_self, Bool.false_eq_true, if_false]
  exact linkWord_queued acquired rfl (by simp [aligned]) pass routed fun t => ⟨rfl, rfl, rfl, rfl, rfl, rfl⟩

theorem execRstn_queued (late : s.padLate (wbits (s.rs a) 0 20) 128 = false) (sound : s.rstnBad (s.rs d) (s.rs a) = false)
    {reads writes : List Foot}
    (hr : reads = [runFoot b.sp (s.x.eaB b) (descN (s.rs d)) 1 0, runFoot .pad (wbits (s.rs a) 0 20 : Nat) (16 * (s.rstnTargets (s.rs d) (s.rs a)).length) 1 0])
    (hw : writes = (s.rstnTargets (s.rs d) (s.rs a)).map fun t => runFoot .glob t.1 (descN (s.rs d)) 1 0)
    (pass : s.jobFeet s.x reads writes = none) (region : s.regionRoute b.sp (s.x.eaB b) = none)
    (routed : ∀ t ∈ s.rstnTargets (s.rs d) (s.rs a), s.routeAt ((s.x.handles[t.2.1]?).getD Handle.zero) t.1 = none) :
    ∃ t, execRstn d b a s = .next t ∧ Queued s t 3 (.rstn d b a) d reads writes := by
  subst hr hw
  have targets : (s.rstnTargets (s.rs d) (s.rs a)).findSome? (fun t => s.routeAt ((s.x.handles[t.2.1]?).getD Handle.zero) t.1) = none := by
    rw [List.findSome?_eq_none_iff]
    exact routed
  unfold execRstn
  exact linkWord_queued acquired late sound pass (by simp only [region, targets, Option.or]) fun t => ⟨rfl, rfl, rfl, rfl, rfl, rfl⟩

theorem execRsend_queued (some_ : wbits (s.rs a) 0 24 ≠ 0) (words : wbits (s.rs a) 0 24 % 4 = 0) (aligned : wbits (s.rs a) 24 20 % 4 = 0)
    (pass : s.jobFeet s.x [runFoot b.sp (s.x.eaB b) (wbits (s.rs a) 0 24) 1 0] [] = none) (region : s.regionRoute b.sp (s.x.eaB b) = none)
    (routed : s.routeCheck (s.handle h) (s.myCore / 64) = none) :
    ∃ t, execRsend h d b a s = .next t ∧ Queued s t 3 (.rsend h d b a) d [runFoot b.sp (s.x.eaB b) (wbits (s.rs a) 0 24) 1 0] [] := by
  unfold execRsend
  exact linkWord_queued acquired rfl (by simp [sendFields, some_, words, aligned]) pass (by simp only [region, routed, Option.or])
    fun t => ⟨rfl, rfl, rfl, rfl, rfl, rfl⟩

/-- Nothing to send is a bad descriptor (R289). -/
theorem execRsend_nothing (none_ : wbits (s.rs a) 0 24 = 0) : execRsend h d b a s = .next (s.tokenNow d badDescToken) := by
  unfold execRsend
  exact linkWord_refused acquired rfl (by simp [sendFields, none_])

theorem execColl_queued (entry : (s.collEntry k).isSome = true)
    (pass : s.jobFeet s.x (if wbits (s.rs a) 0 32 = 0 then [] else [runFoot b.sp (s.x.eaB b) (wbits (s.rs a) 0 32) 1 0])
      (if wbits (s.rs a) 0 32 = 0 then [] else [runFoot b.sp (s.x.eaB b) (wbits (s.rs a) 0 32) 1 0]) = none)
    (region : s.regionRoute b.sp (s.x.eaB b) = none) :
    ∃ t, execColl k d b a s = .next t ∧
      Queued s t 3 (.coll k d b a) d (if wbits (s.rs a) 0 32 = 0 then [] else [runFoot b.sp (s.x.eaB b) (wbits (s.rs a) 0 32) 1 0])
        (if wbits (s.rs a) 0 32 = 0 then [] else [runFoot b.sp (s.x.eaB b) (wbits (s.rs a) 0 32) 1 0]) := by
  obtain ⟨⟨l, first, steps⟩, found⟩ := Option.isSome_iff_exists.1 entry
  unfold execColl
  simp only [found]
  exact linkWord_queued acquired rfl rfl pass region fun t => ⟨rfl, rfl, rfl, rfl, rfl, rfl⟩

end

/-- Settles O26: each link word queues its job where its operands, its bytes and its route pass. -/
theorem linkWordsQueueTheirJob : Obligations.LinkWordsQueueTheirJob := by
  intro s h q d a m b k acquired
  have len (r : SNum) : descN (s.rs r) = (s.rs r).toNat % 2 ^ 24 := wbits_zero _ 24
  have list : wbits (s.rs a) 0 20 = (s.rs a).toNat % 2 ^ 20 := wbits_zero _ 20
  have count : wbits (s.rs a) 0 24 = (s.rs a).toNat % 2 ^ 24 := wbits_zero _ 24
  have bytes : wbits (s.rs a) 0 32 = (s.rs a).toNat % 2 ^ 32 := wbits_zero _ 32
  refine ⟨fun ring stage aligned pass routed => ?rldq, fun sound late pass region routed => ?rstn,
    ⟨fun some_ words aligned pass region routed => ?rsend, fun none_ => ⟨_, execRsend_nothing acquired (count.trans none_), ?nothing⟩⟩, fun entry pass region => ?coll⟩
  case rldq => rw [← len] at pass ⊢; exact execRldq_queued acquired ring stage aligned pass routed
  case rstn =>
    exact execRstn_queued acquired (list ▸ late) sound (by rw [len, list]) (by rw [len]) pass region routed
  case rsend =>
    rw [← count] at some_ words pass ⊢
    exact execRsend_queued acquired some_ words (by rw [wbits_eq]; exact aligned) pass region routed
  case nothing =>
    obtain ⟨msgs, jobs, -⟩ := token_tokenNow s d (st := 5) (by decide)
    exact ⟨msgs, jobs⟩
  case coll => rw [← bytes] at pass ⊢; exact execColl_queued acquired entry pass region

end Sys2Proof.Claims

/-!
RECVADD in a context that stands (R288, R429): the port that it arms takes no packet there, so that the statement that finds the port armed fails.
-/
namespace Sys2Proof.Claims
open Sys2Proof.Machine

/-- A shift that may write the first bytes of its first bank of PAD, and names in s2 a window of 4 bytes and one element. -/
def receiver : Shift :=
  { Shift.zero with
    regs := { Regs.zero with s := Regs.zero.s.set 2 0x100004 }, img := { Image.zero with feet := [⟨.pad, 1, false, 0, 0x100, 1, 0⟩] },
    place := { Shift.zero.place with banks := 1 } }

/-- The receiver alone in a context that is frozen, whose engines stand (R429). -/
def frozenReceiver : State :=
  { State.reset with ctxs := [(0, { Ctx.zero with frzState := 2 })], shifts := [(0, receiver)], cur := { Cur.zero with sh := some 0 } }

/-- Whether a port of the executing core takes packets after an instruction. -/
def portAfter (i : Instr) (s : State) (n : Nat) : Option Port :=
  match Sys2Proof.Machine.exec i s with
  | .next t => t.port? s.myCore n
  | _ => none

theorem portAfter_of_run {i : Instr} {s t : State} (run : Sys2Proof.Machine.exec i s = .next t) (n : Nat) : portAfter i s n = t.port? s.myCore n := by
  rw [portAfter, run]

/-- Refutes O27: a RECVADD in a frozen context arms its port, but a port of a context that stands takes no packet (R429). -/
theorem not_fabricAndReceiveWordsComplete : ¬ Obligations.FabricAndReceiveWordsComplete := by
  intro h
  obtain ⟨receive, -⟩ := h
  obtain ⟨-, -, arms⟩ := receive frozenReceiver .f32 false 0 1 2 { sp := .pad, xa := 0, disp := 0 }
  obtain ⟨t, j, o, run, -, -, -, armed, -⟩ := arms (by decide +kernel) (by decide +kernel) (by decide +kernel) (by decide +kernel) nofun
  have shut : portAfter (.recvadd .f32 false 0 1 { sp := .pad, xa := 0, disp := 0 } 2) frozenReceiver 0 = none := Option.isNone_iff_eq_none.1 (by decide +kernel)
  rw [portAfter_of_run run] at shut
  exact absurd (armed.symm.trans shut) (by simp)

end Sys2Proof.Claims

/-!
The fabric's events (R271 to R280, R289): receive ports, the topology map, links, packets and operations.
-/
namespace Sys2Proof.Machine

/-! ## The adits under the part's own writes -/

/-- No adit differs but in the count of its poisoned writes. -/
def AditsKept (s t : State) : Prop := ∀ n, Claims.aditNow t n = { Claims.aditNow s n with poisoned := (Claims.aditNow t n).poisoned }

theorem AditsKept.of_adits {s t : State} (h : t.fab.adits = s.fab.adits) : AditsKept s t := fun n => by
  unfold Claims.aditNow
  rw [h]

theorem AditsKept.trans {s t u : State} (h : AditsKept s t) (g : AditsKept t u) : AditsKept s u := fun n => by rw [g n, h n]

theorem AditsKept.foldl {α : Type} {f : State → α → State} (h : ∀ s a, AditsKept s (f s a)) (l : List α) (s : State) : AditsKept s (l.foldl f s) :=
  List.foldlRecOn (motive := AditsKept s) l f (.of_adits rfl) fun t ht a _ => ht.trans (h t a)

theorem aditsKept_countPoison (s : State) (a : Nat) : AditsKept s (s.countPoison a) := by
  intro n
  unfold Claims.aditNow State.countPoison
  rw [State.modFab_fab]
  split
  · rfl
  · next w hw =>
    obtain ⟨lt, rfl⟩ := Vector.getElem?_eq_some_iff.1 hw
    by_cases same : a = n.val
    · subst same; simp
    · simp [same]

theorem dirtied_adits (s : State) (line : Nat) (m : BitVec 128) : (s.dirtied line m).fab = s.fab := by
  unfold State.dirtied
  split <;> rfl

theorem aditsKept_poke (s : State) (pa : Nat) (bs : List Byte) (key : Option Nat) : AditsKept s (s.poke pa bs key) := by
  have stored (m : Mem) (line : Nat) (mask : BitVec 128) (f : Line → Line) : AditsKept s ((State.dirtied { s with glob := m } line mask).modLine line f) :=
    .of_adits (congrArg Fabric.adits (dirtied_adits ..))
  unfold State.poke
  dsimp only
  split
  · exact .of_adits rfl
  split
  · split
    · exact .of_adits rfl
    · exact aditsKept_countPoison s _
  split
  · exact stored _ _ _ _
  split
  · exact .of_adits rfl
  split <;> exact stored _ _ _ _

theorem aditsKept_writeLine (s : State) (pa : Nat) (key : Option Nat) (bs : List Byte) : AditsKept s (s.writeLine pa key bs) := by
  unfold State.writeLine
  split
  · exact aditsKept_poke s pa bs key
  · exact (aditsKept_poke s pa bs key).trans (.of_adits rfl)

theorem aditsKept_ownWrite (s : State) (pa : Nat) (key : Option Nat) (op : OwnOp) (bs : List Byte) : AditsKept s (s.ownWrite pa key op bs) := by
  have bits (f : Byte → Byte → Byte) : AditsKept s (s.bitsAt pa key f bs) := by
    unfold State.bitsAt
    dsimp only
    split
    · exact .of_adits rfl
    · exact aditsKept_writeLine s pa key _
  unfold State.ownWrite State.ownAct
  split
  · exact .of_adits rfl
  split
  · exact aditsKept_writeLine s pa key _
  · exact bits _
  · exact bits _

/-! ## The topology map (R271 to R273) -/

theorem partOnly_putMapUp (s : State) (k : Nat) (e : MapEnt) : PartOnly s (s.putMapUp k e) := partOnly_ownWrite ..

theorem aditsKept_putMapUp (s : State) (k : Nat) (e : MapEnt) : AditsKept s (s.putMapUp k e) := aditsKept_ownWrite s _ _ _ _

/-- The state with another snapshot, of the next generation. -/
def State.snapped (s : State) (l : List MapEnt) : State := s.modFab fun f => { f with snapshot := l, tgen := (f.tgen + 1) % 2 ^ 64 }

/-- A direction that changes is written to the snapshot and to the map in memory (R273). -/
theorem State.dirChanged_part (s : State) (die exit : Nat) (lanes : Bool) :
    ∃ l, PartOnly (s.snapped l) (s.dirChanged die exit lanes) ∧ AditsKept (s.snapped l) (s.dirChanged die exit lanes) := by
  unfold State.dirChanged
  dsimp only
  split
  · exact ⟨_, .refl (s.snapped _), .of_adits rfl⟩
  split
  · exact ⟨_, .refl (s.snapped _), .of_adits rfl⟩
  split
  · exact ⟨_, (partOnly_putMapUp (s.snapped _) ..).trans (partOnly_ownWrite ..), (aditsKept_putMapUp (s.snapped _) _ _).trans (aditsKept_ownWrite _ _ _ _ _)⟩
  · exact ⟨_, partOnly_putMapUp (s.snapped _) .., aditsKept_putMapUp (s.snapped _) _ _⟩

theorem State.dirChanged_aditNow (s : State) (die exit : Nat) (lanes : Bool) (n : Fin 36) :
    ∃ p, Claims.aditNow (s.dirChanged die exit lanes) n = { Claims.aditNow s n with poisoned := p } := by
  obtain ⟨l, -, adits⟩ := s.dirChanged_part die exit lanes
  exact ⟨_, adits n⟩

end Sys2Proof.Machine

namespace Sys2Proof.Machine

/-! ## Receive ports (R288, R289) -/

theorem State.port?_eq_some {s : State} {core n : Nat} {q : Port} :
    s.port? core n = some q ↔
      NMap.get? (s.core core).ports n = some q ∧ q.armed = true ∧ (s.jobs.any fun j => j.id == q.job) = true ∧ s.enginesStand q.ctx = false := by
  unfold State.port?
  split
  · next none_ => simp [none_]
  · next p here =>
    rw [here]
    split
    · next h =>
      obtain ⟨armed, job, stands⟩ := h
      simp only [Bool.not_eq_true'] at stands
      constructor
      · rintro ⟨⟩; exact ⟨rfl, armed, job, stands⟩
      · rintro ⟨e, -⟩; exact e
    · next h =>
      simp only [reduceCtorEq, false_iff]
      rintro ⟨⟨⟩, rest⟩
      simp only [Bool.not_eq_true'] at h
      exact h rest

theorem State.core_modCore {s : State} {c : Nat} {f : Core → Core} (new : f (s.core c) ≠ Core.zero) (d : Nat) :
    (s.modCore c f).core d = if d = c then f (s.core c) else s.core d := by
  split
  · next same => rw [same, State.core_modCore_new new]
  · next ne =>
    unfold State.core
    rw [State.modCore_cores, NMap.put, if_neg new, NMap.getD, NMap.getD, NMap.get?_set_other _ _ ne]

/-- A change of a core that keeps which shift issues keeps which shift issues on every core. -/
theorem State.issuer_modCore {s : State} {c : Nat} {f : Core → Core} (new : f (s.core c) ≠ Core.zero) (issuing : (f (s.core c)).issuing = (s.core c).issuing)
    (d : Nat) : (s.modCore c f).issuer d = s.issuer d := by
  have same : ((s.modCore c f).core d).issuing = (s.core d).issuing := by
    rw [State.core_modCore new]
    split
    · next h => rw [issuing, h]
    · rfl
  unfold State.issuer
  rw [same]
  rfl

theorem State.enginesStand_congr {s t : State} (ctxs : t.ctxs = s.ctxs) (shifts : t.shifts = s.shifts) (issuer : ∀ d, t.issuer d = s.issuer d) (c : Nat) :
    t.enginesStand c = s.enginesStand c := by
  simp only [State.enginesStand, State.ctx, ctxs, shifts, issuer]
  rfl

/-- A core with a port is not as at reset. -/
theorem Core.ne_zero_of_port (c : Core) (n : Nat) (q : Port) : { c with ports := NMap.set c.ports n q } ≠ Core.zero := by
  intro h
  have : NMap.get? (NMap.set c.ports n q) n = NMap.get? Core.zero.ports n := congrArg (fun c => NMap.get? c.ports n) h
  rw [NMap.get?_set_same] at this
  cases this

section
variable {s : State} {rx : RxPacket}

/-- Without a port that takes it, or without an adit that carries traffic, a packet changes nothing (R289, R292). -/
theorem execReceivePacket_shut (h : s.port? rx.core rx.port = none ∨ ∀ m, m < 36 → s.lemOpen m = false) : execReceivePacket rx s = .next s := by
  unfold execReceivePacket
  split
  · next carried =>
    obtain ⟨m, hm, open_⟩ := List.any_eq_true.1 carried
    obtain none_ | shut := h
    · simp [State.takeRx, none_]
    · exact absurd open_ (by simp [shut m (by have := mem_upto.1 hm; omega)])
  · rfl

theorem execReceivePacket_open {n : Nat} (hn : n < 36) (open_ : s.lemOpen n = true) : execReceivePacket rx s = .next (s.takeRx rx).1 := by
  unfold execReceivePacket
  rw [if_pos (List.any_eq_true.2 ⟨n, mem_upto.2 ⟨Nat.zero_le _, by omega⟩, open_⟩)]

variable {q : Port} (port : s.port? rx.core rx.port = some q)
include port

theorem State.takeRx_refused (h : q.ctx ≠ rx.ctx ∨ q.wlen < rx.off + rx.data.length ∨ q.elen < q.received + rx.data.length) : (s.takeRx rx).1 = s := by
  unfold State.takeRx
  simp only [port]
  split
  · rfl
  · next same => rw [if_pos (h.resolve_left (not_not_intro (not_not.1 same)))]

/-- The bytes of a port's window after a packet that it takes. -/
def State.windowAfter (s : State) (rx : RxPacket) (q : Port) : List Byte × Flags :=
  recvBytes q.fmt (((s.sh? q.sh).map fun x => ftzOf x.sp.stat).getD false) (s.pad.bytes (padKey rx.core (q.window + rx.off)) rx.data.length) rx.data

/-- The port after a packet that it takes. -/
def Port.after (q : Port) (n : Nat) (fl : Flags) : Port :=
  { q with received := q.received + n, flags := q.flags ||| fl, armed := !decide (q.received + n = q.elen) }

/-- The state with the packet's bytes in the window and the port counted on, before its job is taken. -/
def State.received (s : State) (rx : RxPacket) (q : Port) : State :=
  (s.putPad rx.core (q.window + rx.off) (s.windowAfter rx q).1).modCore rx.core fun c =>
    { c with ports := NMap.set c.ports rx.port (q.after rx.data.length (s.windowAfter rx q).2) }

variable (ctx : q.ctx = rx.ctx) (fits : rx.off + rx.data.length ≤ q.wlen) (counts : q.received + rx.data.length ≤ q.elen) (uncounted : q.cnten = false)
include ctx fits counts uncounted

theorem State.takeRx_taken :
    (s.takeRx rx).1 = if q.received + rx.data.length = q.elen then
      ({ s.received rx q with jobs := s.jobs.filter fun j => j.id != q.job }).modSh q.sh fun x =>
        x.orStat ((s.received rx q).flagCycle (q.sh / 8)) (q.after rx.data.length (s.windowAfter rx q).2).flags
      else s.received rx q := by
  unfold State.takeRx
  have plain : ¬q.cnten = true := by simp [uncounted]
  simp only [port, if_neg (not_not_intro ctx), if_neg plain]
  rw [if_neg (by omega)]
  split <;> rfl

omit port ctx fits counts uncounted in
theorem State.port_received : NMap.get? ((s.received rx q).core rx.core).ports rx.port = some (q.after rx.data.length (s.windowAfter rx q).2) := by
  unfold State.received
  rw [State.core_modCore_new (Core.ne_zero_of_port _ _ _), NMap.get?_set_same]

/-- A packet that leaves room is counted, and the port stays armed (R289). -/
theorem State.takeRx_partial (room : q.received + rx.data.length < q.elen) :
    (s.takeRx rx).1 = s.received rx q ∧ (s.received rx q).port? rx.core rx.port = some (q.after rx.data.length (s.windowAfter rx q).2) := by
  obtain ⟨-, -, job, stands⟩ := State.port?_eq_some.1 port
  refine ⟨by rw [State.takeRx_taken port ctx fits counts uncounted, if_neg (by omega)], State.port?_eq_some.2 ⟨State.port_received, ?_, job, ?_⟩⟩
  · simp [Port.after]; omega
  · refine (State.enginesStand_congr (t := s.received rx q) (s := s) rfl rfl (fun d => ?_) q.ctx).trans stands
    exact State.issuer_modCore (Core.ne_zero_of_port _ _ _) rfl d

/-- The last packet takes the port's job, and the port is no longer armed (R289). -/
theorem State.takeRx_full (full : q.received + rx.data.length = q.elen) :
    (s.takeRx rx).1.port? rx.core rx.port = none ∧ (s.takeRx rx).1.pad = (s.received rx q).pad ∧
      (s.takeRx rx).1.jobs = (s.jobs.filter fun j => j.id != q.job) ∧ (s.takeRx rx).1.glob = s.glob := by
  rw [State.takeRx_taken port ctx fits counts uncounted, if_pos full, State.modSh_frame]
  refine ⟨?_, rfl, rfl, rfl⟩
  rw [Option.eq_none_iff_forall_ne_some]
  intro z hz
  obtain ⟨there, armed, -⟩ := State.port?_eq_some.1 hz
  have same : some z = some (q.after rx.data.length (s.windowAfter rx q).2) := there.symm.trans State.port_received
  cases same
  simp [Port.after, full] at armed

end

end Sys2Proof.Machine

namespace Sys2Proof.Machine

/-! ## The topology map and the die links (R271 to R273) -/

theorem execTmapcmtGo_starts {s : State} (idle : s.fab.tbusy = false) :
    execTmapcmtGo 64 1 s = .next { s with fab := { s.fab with tbusy := true, terr := false } } := by
  have sound : ¬wbits 1 3 61 ≠ 0 := by decide
  have go : (1 : Word).getLsbD 0 = true := by decide
  unfold execTmapcmtGo State.writeTmapcmt
  rw [if_pos rfl, if_neg sound, go, idle]
  rfl

section
variable {s : State} (busy : s.fab.tbusy = true)
include busy

theorem execTmapCommitDone_bad (bad : s.readMap = none) : execTmapCommitDone s = .next { s with fab := { s.fab with tbusy := false, terr := true } } := by
  unfold execTmapCommitDone
  simp only [busy, bad]
  rfl

/-- The map as it is read, with UP of this package's own directions from its links (R272). -/
def State.withLive (s : State) (l : List MapEnt) : List MapEnt := l.map fun e => if s.ownDir e then { e with up := s.liveUp e.die e.exit } else e

theorem execTmapCommitDone_good {l : List MapEnt} (good : s.readMap = some l) :
    ∃ t, execTmapCommitDone s = .next t ∧ t.fab.tbusy = false ∧ t.fab.tgen = (s.fab.tgen + 1) % 2 ^ 64 ∧ t.fab.snapshot = s.withLive l := by
  unfold execTmapCommitDone
  simp only [busy, good]
  have part (l : List MapEnt) : PartOnly s ((l.zip (upto 0 l.length)).foldl (fun (t : State) p => if s.ownDir p.1 then t.putMapUp p.2 p.1 else t) s) :=
    .foldl (fun t p => by split; exacts [partOnly_putMapUp .., .refl t]) _ s
  refine ⟨_, rfl, rfl, ?_, rfl⟩
  rw [State.modFab_fab, part]

end

theorem State.liveUp_inner {s : State} {die exit : Nat} (inner : 9 ≤ exit) :
    s.liveUp die exit = (!s.mg.off.contains (28 + die) && !s.mg.off.contains (28 + (exit - 9)) && s.fab.links.getLsbD (4 * die + (exit - 9))) :=
  if_neg (by omega)

/-- The bit of a link. -/
def linkBit (die exit : Nat) : BitVec 16 := 1 <<< (4 * die + (exit - 9))

theorem getLsbD_link {w : BitVec 16} {die exit : Nat} (lt : 4 * die + (exit - 9) < 16) (up : Bool) :
    (if up then w ||| linkBit die exit else w &&& ~~~linkBit die exit).getLsbD (4 * die + (exit - 9)) = up := by
  have set : (linkBit die exit).getLsbD (4 * die + (exit - 9)) = true := by
    simp [linkBit, BitVec.natCast_eq_ofNat, BitVec.getLsbD_ofNat, lt, Nat.testBit_shiftLeft]
  cases up <;> simp [lt, set]

/-- A link between dies that comes up or goes down shows in the live links (R273). -/
theorem execLinkStateChange_inner {s : State} {die exit : Nat} {up : Bool} (hd : die < 4) (inner : 9 ≤ exit) (hx : exit < 13)
    (powered : ∀ z : Fin 4, 28 + z.val ∉ s.mg.off) :
    ∃ t, execLinkStateChange die exit up s = .next t ∧ t.liveUp die exit = up ∧
      t.fab.tgen = (if s.liveUp die exit = up then s.fab.tgen else (s.fab.tgen + 1) % 2 ^ 64) ∧ t.shifts = s.shifts := by
  have on (k : Nat) (hk : k < 4) : s.mg.off.contains (28 + k) = false := by simpa using powered ⟨k, hk⟩
  let t := s.modFab fun f => { f with links := if up then f.links ||| linkBit die exit else f.links &&& ~~~linkBit die exit }
  have live : t.liveUp die exit = up := by
    rw [State.liveUp_inner inner, show t.mg.off = s.mg.off from rfl, on die hd, on (exit - 9) (by omega)]
    exact getLsbD_link (by omega) up
  have run : execLinkStateChange die exit up s = .next (if s.liveUp die exit = t.liveUp die exit then t else t.dirChanged die exit false) := by
    unfold execLinkStateChange
    rw [if_neg (by omega : ¬(4 ≤ die ∨ 13 ≤ exit)), if_neg (by omega : ¬exit < 9)]
    rfl
  rw [live] at run
  refine ⟨_, run, ?_⟩
  split
  · exact ⟨live, rfl, rfl⟩
  · obtain ⟨l, part, -⟩ := t.dirChanged_part die exit false
    refine ⟨?_, by rw [part]; rfl, by rw [part]; rfl⟩
    rw [State.liveUp_inner inner] at live ⊢
    rw [part]
    exact live

end Sys2Proof.Machine

namespace Sys2Proof.Machine

/-! ## Packets (R276, R279, R280) -/

/-- A request whose next exit is a live link of its die is a hop further, in its place (R279). -/
theorem execPacketForward_hop {s : State} {k : Nat} {p : Packet} {h : Byte} {rest : List Byte} (here : s.fab.pkts[k]? = some p) (request : p.resp = false)
    (turn : s.pktBefore k p = false) (hops : p.hops = h :: rest) (low : 9 ≤ h.toNat / 16) (high : h.toNat / 16 ≤ 12) (live : s.liveUp p.die (h.toNat / 16) = true) :
    ∃ t, execPacketForward k none s = .next t ∧
      t.fab.pkts[k]? = some { p with die := h.toNat / 16 - 9, hops := rest, path := p.die :: p.path, fresh := false } ∧
      t.fab.pkts.length = s.fab.pkts.length := by
  have moved : s.movePkt k p = (s.serveExit p).setPkt k { p with die := h.toNat / 16 - 9, hops := rest, path := p.die :: p.path, fresh := false } := by
    unfold State.movePkt
    simp only [request, Bool.false_eq_true, if_false, hops]
    rw [if_neg (by omega), if_neg (by simp [live]; omega), if_neg (by omega)]
  have pkts : (s.serveExit p).fab.pkts = s.fab.pkts := by
    unfold State.serveExit
    split <;> rfl
  have lt := (List.getElem?_eq_some_iff.1 here).1
  have run : execPacketForward k none s = .next (s.movePkt k p) := by
    unfold execPacketForward
    simp only [here, turn, Bool.false_eq_true, if_false]
  refine ⟨_, run, ?_⟩
  rw [moved, State.setPkt, State.modFab_fab, pkts]
  dsimp only
  rw [setAt_eq_set]
  simp [lt]

/-- A packet of another node is taken in where its adit carries traffic (R292, R296). -/
theorem execPacketForward_in {s : State} {k : Nat} {i : InPacket} (request : ∀ a b c e, i.act ≠ .resp a b c e) (hn : i.adit < 36) :
    (s.lemOpen i.adit = true → execPacketForward k (some i) s = .next (s.addPkt { Packet.ofAdit i.adit i.act with hops := i.hops, key := i.key })) ∧
    (s.lemOpen i.adit = false → execPacketForward k (some i) s = .next s) := by
  constructor <;> intro carried
  · show Host.Outcome.next (s.takeIn i) = _
    unfold State.takeIn
    rw [if_neg (by simp [carried]; omega)]
    split
    · next act => exact absurd act (request _ _ _ _)
    · rfl
  · show Host.Outcome.next (s.takeIn i) = _
    unfold State.takeIn
    rw [if_pos (.inr (by simp [carried]))]

/-! ## Operations that fail (R278, R280, R285) -/

theorem length_dropAt {α : Type} {l : List α} {k : Nat} {x : α} (here : l[k]? = some x) : (dropAt l k).length + 1 = l.length := by
  have lt := (List.getElem?_eq_some_iff.1 here).1
  simp [dropAt]
  omega

section
variable {s : State} {o : FabOp} {i cause : Nat} {d : SNum} (read : o.kind = 1) (sh : o.sh = some i) (dst : o.dst = some d) (small : cause < 16)
include read sh dst small

/-- An operation with a register that fails is over, and its route fault goes to the register. -/
theorem State.opFailed_read : s.opFailed o cause = (s.dropOp o.id).post (.arrive i (some d) 0 0 (some { o.info with code := 0x0E, cause := cause })) := by
  unfold State.opFailed
  simp only [read, if_pos small]
  unfold State.endOp
  simp only [read, sh, dst]
  rfl

theorem State.opFailed_effect : (∀ a ∈ (s.opFailed o cause).fab.ops, a.id ≠ o.id) ∧ (s.opFailed o cause).fab.pkts = s.fab.pkts ∧
    (s.opFailed o cause).msgs = s.msgs ++ [.arrive i (some d) 0 0 (some { o.info with code := 0x0E, cause := cause })] := by
  rw [State.opFailed_read read sh dst small]
  refine ⟨fun a ha => ?_, rfl, by simp [State.dropOp]⟩
  have kept : a ∈ s.fab.ops.filter fun o' => o'.id != o.id := ha
  simpa using (List.mem_filter.1 kept).2

end

/-- A notice at its end delivers its route fault at its operation (R280). -/
theorem execPacketForward_notice {s : State} {o : FabOp} {cause k : Nat} {p : Packet} (here : s.fab.pkts[k]? = some p) (resp : p.resp = true) (path : p.path = []) (src : p.src = none)
    (op : p.op = some o.id) (note : p.note = some cause) (known : s.op? o.id = some o) :
    execPacketForward k none s = .next ((s.dropPkt k).opFailed o cause) := by
  have exit : p.exit = none := by simp [Packet.exit, resp, path, src]
  have turn : s.pktBefore k p = false := by unfold State.pktBefore; rw [exit]
  have served : s.serveExit p = s := by unfold State.serveExit; rw [exit]
  have known' : (some o.id).bind (s.dropPkt k).op? = some o := known
  unfold execPacketForward
  simp only [here, turn, Bool.false_eq_true, if_false, State.movePkt, resp, if_true, served, State.moveBack, path, State.landPkt, src, op, known', note]

/-- A notice from another node comes in over the adit by which its request left, and retraces the dies that it crossed (R276). -/
theorem execFailureNotice_in {s : State} {k cause n : Nat} {o : FabOp} (known : s.op? k = some o) (adit : o.adit = some n) (carried : s.lemOpen n = true) :
    execFailureNotice k cause s =
      .next (s.addPkt { Packet.ofAdit n o.act with op := some k, src := none, resp := true, path := o.path, note := some cause }) := by
  unfold execFailureNotice
  simp only [known, adit, carried, if_true]

theorem execFailureNotice_unrouted {s : State} {k cause : Nat} {o : FabOp} (known : s.op? k = some o) (adit : o.adit = none) (kind : o.kind ≠ 6) :
    execFailureNotice k cause s = .next s := by
  unfold execFailureNotice
  simp only [known, adit, if_neg kind]

theorem execFabricTimeout_late {s : State} {k : Nat} {o : FabOp} (known : s.op? k = some o) (late : o.since + 2 ^ 24 ≤ s.dcc) (first : o.late = none) :
    execFabricTimeout k s = .next (s.opFailed o 9) := by
  unfold execFabricTimeout
  simp only [known]
  rw [if_pos ⟨late, by simp [first]⟩]

theorem execFabricTimeout_early {s : State} {k : Nat} {o : FabOp} (known : s.op? k = some o) (early : s.dcc < o.since + 2 ^ 24) : execFabricTimeout k s = .next s := by
  unfold execFabricTimeout
  simp only [known]
  rw [if_neg (by omega)]

end Sys2Proof.Machine

namespace Sys2Proof.Claims
open Sys2Proof.Machine

/-- Settles O46: each event of the fabric, by what it takes or refuses. -/
theorem fabricEventsTakeEffect : Obligations.FabricEventsTakeEffect := by
  intro s k p rx q o cause i n d up die exit inp
  refine ⟨execReceivePacket_shut, fun port hn open_ => ?receive, execTmapcmtGo_starts, fun busy => ⟨execTmapCommitDone_bad busy, fun l good => ?map⟩,
    fun inner hx powered => execLinkStateChange_inner die.isLt inner hx powered,
    fun h rest here request turn hops low high live => execPacketForward_hop here request turn hops low high live,
    fun request hn => ?inPacket, fun here resp path src op note small known read sh dst => ?notice, fun known read sh dst => ?ops⟩
  case receive =>
    have run := execReceivePacket_open (rx := rx) hn open_
    refine ⟨fun refused => by rw [State.takeRx_refused port refused] at run; exact run, fun ctx fits uncounted => ⟨fun room => ?_, fun full => ?_⟩⟩
    · obtain ⟨taken, armed⟩ := State.takeRx_partial port ctx fits room.le uncounted room
      rw [taken] at run
      exact ⟨_, _, run, armed, rfl, rfl, rfl, rfl⟩
    · obtain ⟨shut, pad, jobs, glob⟩ := State.takeRx_full port ctx fits full.le uncounted full
      exact ⟨_, run, shut, pad, jobs, glob⟩
  case map =>
    obtain ⟨t, run, idle, gen, snapshot⟩ := execTmapCommitDone_good busy good
    refine ⟨t, run, idle, gen, snapshot.trans ?_⟩
    simp [State.withLive, State.ownDir]
  case inPacket =>
    obtain ⟨taken, shut⟩ := execPacketForward_in (s := s) (k := k) request hn
    exact ⟨fun carried => ⟨_, _, taken carried, rfl, rfl, rfl, rfl, rfl, rfl, rfl⟩, shut⟩
  case notice =>
    obtain ⟨over_, pkts, msgs⟩ := State.opFailed_effect (s := s.dropPkt k) read sh dst small
    refine ⟨_, execPacketForward_notice here resp path src op note known, over_, ?_, msgs⟩
    rw [pkts]
    exact length_dropAt here
  case ops =>
    have id : o.id = k := by simpa using List.find?_some known
    refine ⟨fun adit carried => ⟨_, _, execFailureNotice_in known adit carried, rfl, rfl, rfl, rfl, rfl, rfl, rfl, rfl⟩,
      fun adit => execFailureNotice_unrouted known adit (by omega), fun late first => ⟨_, execFabricTimeout_late known late first, ?_⟩, execFabricTimeout_early known⟩
    obtain ⟨over_, -, msgs⟩ := State.opFailed_effect (s := s) read sh dst (cause := 9) (by decide)
    exact ⟨id ▸ over_, msgs⟩

end Sys2Proof.Claims

/-!
Adits (R279, R281, R282, R292 to R299): one adit changed, the lanes of a link, the switch of a personality, windows and the requests of a UALink peer.
-/
namespace Sys2Proof.Machine
open Sys2Proof.Claims

/-! ## One adit -/

theorem State.adit_eq (s : State) (n : Fin 36) : s.adit n.val = aditNow s n := by
  simp [State.adit, aditNow]

theorem State.modAdit_eq (s : State) (n : Fin 36) (f : Adit → Adit) : s.modAdit n.val f = { s with fab := { s.fab with adits := s.fab.adits.set n (f (aditNow s n)) } } := by
  have set (l : Vector Adit 36) (a : Adit) : l.setIfInBounds n.val a = l.set n a := by
    ext k hk
    simp [Vector.getElem_setIfInBounds, Vector.getElem_set]
  unfold State.modAdit State.modFab
  simp [aditNow, set]

theorem aditBecomes_modAdit (s : State) (n : Fin 36) {f : Adit → Adit} {a : Adit} (h : f (aditNow s n) = a) : AditBecomes s (s.modAdit n.val f) n a := by
  rw [AditBecomes, State.modAdit_eq, h]

theorem aditNow_modAdit (s : State) (n : Fin 36) (f : Adit → Adit) : aditNow (s.modAdit n.val f) n = f (aditNow s n) := by
  rw [State.modAdit_eq]
  simp [aditNow]

/-- A direction that may have changed leaves its adit as it is, but for the count of poisoned writes. -/
theorem aditNow_dirChanged_if (c : Prop) [Decidable c] (s : State) (die exit : Nat) (lanes : Bool) (n : Fin 36) :
    ∃ p, aditNow (if c then s.dirChanged die exit lanes else s) n = { aditNow s n with poisoned := p } := by
  split
  · exact s.dirChanged_aditNow die exit lanes n
  · exact ⟨_, rfl⟩

section
variable {s : State} {n : Fin 36}

/-! ## Lanes (R281, R282) -/

theorem execLaneOutOfService_good {lane : Fin 8} (good : (aditNow s n).good.getLsbD lane.val = true) :
    ∃ t, execLaneOutOfService n.val lane.val s = .next t ∧ (aditNow t n).good.getLsbD lane.val = false ∧ (aditNow t n).st = (aditNow s n).st := by
  unfold execLaneOutOfService
  simp only [State.adit_eq]
  rw [if_neg (by simp [good])]
  obtain ⟨p, hp⟩ := aditNow_dirChanged_if (((aditNow s n).inLem && (aditNow s n).lcur.getLsbD lane.val) = true)
    ((s.modAdit n.val fun a => { a with good := a.good &&& ~~~((1 : BitVec 8) <<< lane.val), ports := a.ports &&& ~~~((1 : BitVec 4) <<< (lane.val % 4)) }.agree).log
      5 n.val 0 (BitVec.ofNat 128 lane.val)) (n.val / 9) (n.val % 9) true n
  refine ⟨_, rfl, ?_⟩
  rw [hp]
  have now := aditNow_modAdit s n fun a =>
    { a with good := a.good &&& ~~~((1 : BitVec 8) <<< lane.val), ports := a.ports &&& ~~~((1 : BitVec 4) <<< (lane.val % 4)) }.agree
  constructor
  · show (aditNow (s.modAdit n.val _) n).good.getLsbD lane.val = false
    rw [now]
    simp [Adit.agree]
  · show (aditNow (s.modAdit n.val _) n).st = _
    rw [now]
    rfl

theorem execLaneOutOfService_gone {lane : Fin 8} (gone : (aditNow s n).good.getLsbD lane.val = false) : execLaneOutOfService n.val lane.val s = .next s := by
  unfold execLaneOutOfService
  simp only [State.adit_eq]
  rw [if_pos (.inr (.inr (by rw [gone]; rfl)))]

theorem execLemlnWrite_own {v : Word} (small : v.toNat < 2 ^ 25) (up : (aditNow s n).st = 1) (lem : (aditNow s n).cur = 3)
    (out : (aditNow s n).good &&& v.extractLsb' 0 8 ≠ 0) (inn : (aditNow s n).good &&& ~~~v.extractLsb' 0 8 ≠ 0) :
    execLemlnWrite 64 n.val v s = .next (s.modAdit n.val fun a => { a with dir := v.extractLsb' 0 8 }.agree) := by
  have high : wbits v 25 39 = 0 := by rw [wbits_eq, Nat.div_eq_of_lt small]; rfl
  unfold execLemlnWrite State.writeLemln
  simp only [State.adit_eq]
  rw [if_neg (by omega), if_pos trivial, if_neg]
  simp only [high, Adit.inLem, up, lem]
  rintro (h | h | h | h)
  exacts [h rfl, absurd h (by decide), out h, inn h]

theorem execLemlnWrite_peer (v : Word) :
    execLemlnWrite 65 n.val v s = .next (s.modAdit n.val fun a => { a with peerDir := v.extractLsb' 0 8, peerGood := v.extractLsb' 16 8 }.agree) := by
  unfold execLemlnWrite State.peerLemln
  rw [if_neg (by omega), if_neg (by decide), if_pos rfl]

/-- Whether the two ends agree on another set of lanes (R282). -/
theorem Adit.agrees_iff (a : Adit) : a.agrees = true ↔
    a.st = 1 ∧ a.cur = 3 ∧ a.dir ≠ a.lcur ∧ a.dir &&& (a.good &&& a.peerGood) = ~~~a.peerDir &&& (a.good &&& a.peerGood) := by
  simp [Adit.agrees, Adit.inLem, and_assoc]

theorem execLaneTurnDone_agreed (turns : (aditNow s n).turn = true) (agreed : (aditNow s n).agrees = true) :
    ∃ t, execLaneTurnDone n.val s = .next t ∧ (aditNow t n).lcur = (aditNow s n).dir ∧ (aditNow t n).turn = false ∧ (aditNow t n).st = (aditNow s n).st := by
  unfold execLaneTurnDone
  simp only [State.adit_eq]
  rw [if_pos ⟨turns, agreed⟩]
  obtain ⟨p, hp⟩ := (s.modAdit n.val fun a => { a with lcur := a.dir, turn := false }).dirChanged_aditNow (n.val / 9) (n.val % 9) true n
  refine ⟨_, rfl, ?_⟩
  rw [hp, aditNow_modAdit]
  exact ⟨rfl, rfl, rfl⟩

theorem execLaneTurnDone_not (h : (aditNow s n).turn = false ∨ (aditNow s n).agrees = false) : execLaneTurnDone n.val s = .next s := by
  unfold execLaneTurnDone
  simp only [State.adit_eq]
  rw [if_neg]
  rintro ⟨turns, agreed⟩
  obtain h | h := h
  · exact absurd (turns.symm.trans h) (by decide)
  · exact absurd (agreed.symm.trans h) (by decide)

/-! ## The switch (R295, R296) -/

section
variable {v : Word} (small : v.toNat < 2 ^ 13) (reserved : v.toNat / 8 % 32 = 0) (low : 10 ≤ v.toNat / 256 % 32) (high : v.toNat / 256 % 32 ≤ 24)
include small reserved low high

/-- A write of ADCTL of sound fields sets the drain limit and the personality, and its GO starts the switch of an adit that is not in one. -/
theorem execAdctlGo_sound (idle : v.toNat % 2 = 1 → (aditNow s n).st ≤ 1) :
    execAdctlGo 64 n.val v s = .next
      (let t := s.modAdit n.val fun a => { a with drainlg := v.toNat / 256 % 32, pers := v.toNat / 2 % 4 }
       if v.toNat % 2 = 1 then t.aditGo n.val else t) := by
  have go : v.getLsbD 0 = decide (v.toNat % 2 = 1) := by simp [BitVec.getLsbD, Nat.testBit_zero]
  unfold execAdctlGo State.writeAdctl
  simp only [State.adit_eq, wbits_eq, go, decide_eq_true_eq]
  rw [if_pos ⟨trivial, n.isLt⟩, if_neg (by omega)]
  rfl

end

/-- A stop notes the cycle at which the drain begins. -/
theorem aditNow_aditStop (s : State) (n : Fin 36) : ∃ p, aditNow (s.aditStop n.val) n = { aditNow s n with st := 3, drainFrom := s.dcc, poisoned := p } := by
  unfold State.aditStop
  dsimp only
  obtain ⟨p, hp⟩ := aditNow_dirChanged_if ((s.liveUp (n.val / 9) (n.val % 9) || ((s.adit n.val).st == 2 && (s.adit n.val).cur == 3)) = true)
    (s.modAdit n.val fun a => { a with st := 3, drainFrom := s.dcc }) (n.val / 9) (n.val % 9) false n
  refine ⟨p, hp.trans ?_⟩
  rw [aditNow_modAdit]

/-- A switch that nothing refuses stops its adit at once where no lane turns. -/
theorem State.aditGo_stops (named : (aditNow s n).pers = 3 → s.mg.idpkg ≠ 0xFFF)
    (shut : (aditNow s n).st = 1 → (aditNow s n).cur = 0 → (aditNow s n).winEn = true → (aditNow s n).pers = 0) (still : (aditNow s n).turn = false) :
    s.aditGo n.val = s.aditStop n.val := by
  unfold State.aditGo
  simp only [State.adit_eq]
  rw [if_neg (fun h => named h.1 h.2), if_neg (fun h => h.2.2.2 (shut h.1 h.2.1 h.2.2.1)), if_neg (by simp [still])]

/-- A drained adit fences, and trains where no write that it took in is open (R295, R296). -/
theorem State.aditStep_drained {s : State} {n : Fin 36} (fence : (aditNow s n).st = 4) :
    (s.aditStep n.val).getD s = if s.fab.pkts.any fun p => p.writeOf n.val then s else s.modAdit n.val fun a => { a with st := 5 } := by
  unfold State.aditStep
  simp only [State.adit_eq, fence]
  rw [if_neg (by simp)]
  cases s.fab.pkts.any fun p => p.writeOf n.val <;> simp

section
variable (drains : (aditNow s n).st = 3)
include drains

theorem execAditDrainEnd_done (idle : s.aditBusy n.val = false) : ∃ t, execAditDrainEnd n.val s = .next t ∧
    AditBecomes s t n { aditNow s n with st := if !(s.fab.pkts.any fun p => p.writeOf n.val) then 5 else 4 } := by
  have run : execAditDrainEnd n.val s =
      .next (((s.modAdit n.val fun a => { a with st := 4 }).aditStep n.val).getD (s.modAdit n.val fun a => { a with st := 4 })) := by
    unfold execAditDrainEnd
    simp only [State.adit_eq]
    rw [if_pos ⟨drains, by simp [idle]⟩]
  refine ⟨_, run, ?_⟩
  rw [State.aditStep_drained (by rw [aditNow_modAdit])]
  have same : (s.modAdit n.val fun a => { a with st := 4 }).fab.pkts = s.fab.pkts := by rw [State.modAdit_eq]
  rw [same]
  cases s.fab.pkts.any fun p => p.writeOf n.val
  · simp [AditBecomes, State.modAdit_eq, aditNow]
  · exact aditBecomes_modAdit s n rfl

theorem execAditDrainLimit_past (past : (aditNow s n).drainFrom + 2 ^ (aditNow s n).drainlg ≤ s.dcc) : ∃ t, execAditDrainLimit n.val s = .next t ∧
    (aditNow t n).st = if t.fab.pkts.any (fun p => p.writeOf n.val) then 4 else 5 := by
  have run : execAditDrainLimit n.val s = .next
      ((((s.aditCut n.val).modAdit n.val fun a => { a with st := 4 }).aditStep n.val).getD ((s.aditCut n.val).modAdit n.val fun a => { a with st := 4 })) := by
    unfold execAditDrainLimit
    simp only [State.adit_eq]
    rw [if_pos ⟨drains, past⟩]
  refine ⟨_, run, ?_⟩
  generalize s.aditCut n.val = c
  rw [State.aditStep_drained (by rw [aditNow_modAdit])]
  have same (u : State) (f : Adit → Adit) : (u.modAdit n.val f).fab.pkts = u.fab.pkts := by rw [State.modAdit_eq]
  split
  · rw [aditNow_modAdit]
  · next none_ => rw [same, if_neg none_, aditNow_modAdit]

end

theorem execAditDrainEnd_busy (busy : s.aditBusy n.val = true) : execAditDrainEnd n.val s = .next s := by
  unfold execAditDrainEnd
  rw [if_neg (by simp [busy])]

theorem execAditDrainLimit_early (early : s.dcc < (aditNow s n).drainFrom + 2 ^ (aditNow s n).drainlg) : execAditDrainLimit n.val s = .next s := by
  unfold execAditDrainLimit
  simp only [State.adit_eq]
  rw [if_neg (by omega)]

end

end Sys2Proof.Machine

namespace Sys2Proof.Machine
open Sys2Proof.Claims

section
variable {s : State} {n : Fin 36} {devGib : Nat}

/-! ## Training (R295, R297, R299) -/

theorem aditBecomes_failed (s : State) (n : Fin 36) (err : Nat) : AditBecomes s (s.aditErr n.val err true) n { aditNow s n with err := err, st := 0 } :=
  aditBecomes_modAdit s n rfl

section
variable (trained : (aditNow s n).st = 5)
include trained

theorem execAditTrainDone_failed {ok : Bool} (bad : ok = false ∨ (aditNow s n).trains = false ∨ 65 + n.val ∈ s.mg.off) :
    execAditTrainDone n.val ok devGib s = .next (s.aditErr n.val 3 true) := by
  unfold execAditTrainDone
  simp only [State.adit_eq]
  rw [if_neg (not_not_intro trained), if_pos (by simpa using bad)]

variable (trains : (aditNow s n).trains = true) (powered : 65 + n.val ∉ s.mg.off)
include trains powered

theorem execAditTrainDone_trained :
    execAditTrainDone n.val true devGib s = .next
      (let a := aditNow s n
       if a.pers = 0 ∧ devGib = 0 then s.aditErr n.val 4 true
       else if a.pers = 0 ∧ !s.windowFits n.val devGib then s.aditErr n.val 5 true
       else
        let t := s.modAdit n.val fun a =>
          { a with
            st := 1, cur := a.pers, err := 0, winEn := a.winEn || a.pers == 0, width := if a.pers = 0 then a.memWidth else 0,
            ports := if a.pers = 1 ∨ a.pers = 2 then a.pairs else 0 }.agree
        if a.pers = 3 then t.dirChanged (n.val / 9) (n.val % 9) false else t) := by
  have good : ¬((!true) = true ∨ (!(aditNow s n).trains) = true ∨ s.mg.off.contains (65 + n.val) = true) := by simp [trains, powered]
  unfold execAditTrainDone
  simp only [State.adit_eq]
  rw [if_neg (not_not_intro trained), if_neg good]
  split
  · rfl
  split <;> rfl

theorem execAditTrainDone_up (opens : (aditNow s n).pers = 0 → devGib ≠ 0 ∧ s.windowFits n.val devGib = true) :
    ∃ t, execAditTrainDone n.val true devGib s = .next t ∧ (aditNow t n).st = 1 ∧ (aditNow t n).cur = (aditNow s n).pers ∧ (aditNow t n).err = 0 ∧
      (aditNow t n).winEn = ((aditNow s n).winEn || (aditNow s n).pers == 0) ∧
      (aditNow t n).width = (if (aditNow s n).pers = 0 then (aditNow s n).memWidth else 0) ∧
      (aditNow t n).ports = (if (aditNow s n).pers = 1 ∨ (aditNow s n).pers = 2 then (aditNow s n).pairs else 0) := by
  refine ⟨_, execAditTrainDone_trained trained trains powered, ?_⟩
  dsimp only
  rw [if_neg (fun h => (opens h.1).1 h.2), if_neg (by rintro ⟨mem, unfit⟩; simp [(opens mem).2] at unfit)]
  obtain ⟨p, hp⟩ := aditNow_dirChanged_if ((aditNow s n).pers = 3)
    (s.modAdit n.val fun a =>
      { a with
        st := 1, cur := a.pers, err := 0, winEn := a.winEn || a.pers == 0, width := if a.pers = 0 then a.memWidth else 0,
        ports := if a.pers = 1 ∨ a.pers = 2 then a.pairs else 0 }.agree) (n.val / 9) (n.val % 9) false n
  rw [hp, aditNow_modAdit]
  exact ⟨rfl, rfl, rfl, rfl, rfl, rfl⟩

end

/-! ## Windows (R297, R298) -/

theorem execAdwinOff_closes {v : Word} (fields : v.toNat = 2 ^ 62 + (aditNow s n).winBase * 2 ^ 30 + (aditNow s n).winSize) (base : (aditNow s n).winBase < 2 ^ 22)
    (size : (aditNow s n).winSize < 2 ^ 16) (open_ : (aditNow s n).winEn = true) (closing : (aditNow s n).closing = false) :
    ∃ t, execAdwinOff 64 n.val v s = .next t ∧ AditBecomes s t n { aditNow s n with closing := true, offFrom := s.dcc } := by
  have high : wbits v 52 10 = 0 := by rw [wbits_eq]; omega
  have middle : wbits v 16 14 = 0 := by rw [wbits_eq]; omega
  have hb : wbits v 30 22 = (aditNow s n).winBase := by rw [wbits_eq]; omega
  have hs : wbits v 0 16 = (aditNow s n).winSize := by rw [wbits_eq]; omega
  have off : v.getLsbD 62 = true := by
    rw [BitVec.getLsbD, Nat.testBit_eq_decide_div_mod_eq]
    simp
    omega
  have run : execAdwinOff 64 n.val v s = .next (s.modAdit n.val fun a => { a with
      winBase := (aditNow s n).winBase, winSize := (aditNow s n).winSize, closing := a.closing || true, offFrom := s.dcc }) := by
    unfold execAdwinOff State.writeAdwin
    simp only [State.adit_eq, high, middle, hb, hs, off, open_, closing]
    rw [if_pos ⟨trivial, n.isLt⟩, if_neg (by simp)]
    rfl
  exact ⟨_, run, aditBecomes_modAdit s n (by simp)⟩

/-- Nothing that an adit's window has to end is on its way. -/
theorem State.cutWindow_none {limit : Nat} (none_ : ∀ m ∈ s.msgs, m.overAdit s n.val limit = false) : s.cutWindow n.val limit = s := by
  have all : (s.msgs.filter fun m => !m.overAdit s n.val limit) = s.msgs := List.filter_eq_self.2 fun m hm => by simp [none_ m hm]
  unfold State.cutWindow
  rw [all]
  refine List.foldlRecOn (motive := fun t => t = s) s.msgs _ rfl fun t ht m hm => ?_
  split
  · rw [none_ _ hm, ht]; rfl
  · exact ht

section
variable (closing : (aditNow s n).closing = true)
include closing

theorem execAdwinCloseDone_closes (h : (∀ m ∈ s.msgs, m.overAdit s n.val (aditNow s n).offFrom = false) ∨ (aditNow s n).offFrom + 2 ^ (aditNow s n).drainlg ≤ s.dcc) :
    execAdwinCloseDone n.val s = .next ((s.cutWindow n.val (aditNow s n).offFrom).modAdit n.val fun a => { a with closing := false, winEn := false }) := by
  unfold execAdwinCloseDone
  simp only [State.adit_eq]
  rw [if_pos ⟨closing, h.imp_left fun none_ => by simpa using none_⟩]

end

theorem execAdwinCloseDone_waits (early : s.dcc < (aditNow s n).offFrom + 2 ^ (aditNow s n).drainlg)
    (out : ∃ m ∈ s.msgs, m.overAdit s n.val (aditNow s n).offFrom = true) : execAdwinCloseDone n.val s = .next s := by
  have any : (s.msgs.any fun m => m.overAdit s n.val (aditNow s n).offFrom) = true := List.any_eq_true.2 out
  unfold execAdwinCloseDone
  simp only [State.adit_eq, any]
  rw [if_neg (by simp; omega)]

/-! ## Requests of a UALink peer (R292) -/

theorem execUalRequest_down (r : UalReq) (down : (aditNow s n).st ≠ 1 ∨ (aditNow s n).cur ≠ 1) : execUalRequest n.val r s = .next { s with replies := s.replies ++ [[1]] } := by
  unfold execUalRequest
  simp only [State.adit_eq]
  rw [if_pos (by tauto)]

theorem execUalRequest_up (up : (aditNow s n).st = 1) (ual : (aditNow s n).cur = 1) (r : UalReq) : execUalRequest n.val r s =
    .next (if s.ualWaits s.fab.uals n.val r then s.modFab fun f => { f with uals := f.uals ++ [(n.val, r)] } else s.ualAnswer r) := by
  unfold execUalRequest
  simp only [State.adit_eq]
  rw [if_neg (by simp [up, ual])]
  split <;> rfl

/-- A read of one sector is one piece. -/
theorem sectors_one {pa : Nat} (aligned : pa % 32 = 0) : sectors pa 32 = [((pa : Int), 32)] := by
  have start : ((pa : Int) % 32).toNat = 0 := by omega
  simp [sectors, sectorsFrom, start]

/-- A peer's read of a sector that is there is answered with its bytes. -/
theorem State.ualAnswer_read {pa : Nat} (aligned : pa % 32 = 0) (there : s.ualThere pa 32 = true) (good : (s.homeRead (.glob pa ualKey) 32).2.1 = false) :
    s.ualAnswer (.read pa 32) = { s with replies := s.replies ++ [0 :: (s.homeRead (.glob pa ualKey) 32).1] } := by
  have one := sectors_one aligned
  simp [State.ualAnswer, State.ualServe, one, there, good]

end

end Sys2Proof.Machine

namespace Sys2Proof.Claims
open Sys2Proof.Machine

/-- Settles O47: each event of the adits, by what it changes of the one that it names. -/
theorem aditEventsTakeEffect : Obligations.AditEventsTakeEffect := by
  intro s n lane v devGib pa a
  refine ⟨execLaneOutOfService_good, execLaneOutOfService_gone, ?own, ?peer, ?turn, ?adctl, ?drain, fun trained => ?train,
    fun fields base size open_ closing => execAdwinOff_closes fields base size open_ closing, fun closing => ?close, fun up ual => ?ual, fun down => execUalRequest_down _ down,
    fun fn other => ?refused⟩
  case own =>
    intro dir both small up lem out inn
    refine ⟨_, execLemlnWrite_own small up lem out inn, aditBecomes_modAdit s n ?_⟩
    simp [Adit.agree, Adit.agrees, Adit.inLem, a, up, lem, dir, both]
  case peer =>
    refine ⟨_, execLemlnWrite_peer v, ?_⟩
    rw [aditNow_modAdit]
    exact ⟨rfl, rfl, rfl⟩
  case turn =>
    intro agree
    have iff : a.agrees = true ↔ agree := a.agrees_iff
    exact ⟨fun turns agreed => execLaneTurnDone_agreed turns (iff.2 agreed),
      fun not => execLaneTurnDone_not (not.imp_right fun h => Bool.eq_false_iff.2 (mt iff.1 h))⟩
  case adctl =>
    intro lg pers small reserved low high
    refine ⟨fun even => ?_, fun odd idle named shut still => ?_⟩
    · have run := execAdctlGo_sound (s := s) (n := n) small reserved low high (by omega)
      rw [if_neg (by omega)] at run
      exact ⟨_, run, aditBecomes_modAdit s n rfl⟩
    · have run := execAdctlGo_sound (s := s) (n := n) small reserved low high fun _ => idle
      have now := aditNow_modAdit s n fun a => { a with drainlg := lg, pers := pers }
      rw [if_pos odd, State.aditGo_stops (by rw [now]; exact named) (by rw [now]; exact shut) (by rw [now]; exact still)] at run
      obtain ⟨p, stopped⟩ := aditNow_aditStop (s.modAdit n.val fun a => { a with drainlg := lg, pers := pers }) n
      refine ⟨_, run, ?_⟩
      rw [stopped, now]
      exact ⟨rfl, rfl, rfl, rfl⟩
  case drain =>
    intro fenced drains
    exact ⟨execAditDrainEnd_done drains, execAditDrainEnd_busy, execAditDrainLimit_past drains, execAditDrainLimit_early⟩
  case train =>
    refine ⟨⟨_, execAditTrainDone_failed trained (.inl rfl), aditBecomes_failed s n 3⟩,
      fun bad => ⟨_, execAditTrainDone_failed trained (.inr bad), aditBecomes_failed s n 3⟩, fun powered trains mem => ?_,
      fun powered trains mem device => ⟨fun unfit => ?_, fun fit => ?_⟩, fun powered trains other => ?_⟩
    · refine ⟨_, execAditTrainDone_trained trained trains powered, ?_⟩
      dsimp only
      rw [if_pos ⟨mem, rfl⟩]
      exact aditBecomes_failed s n 4
    · refine ⟨_, execAditTrainDone_trained trained trains powered, ?_⟩
      dsimp only
      rw [if_neg (fun h => device h.2), if_pos ⟨mem, by simp [unfit]⟩]
      exact aditBecomes_failed s n 5
    · obtain ⟨t, run, st, cur, err, window, width, -⟩ := execAditTrainDone_up trained trains powered fun _ => ⟨device, fit⟩
      exact ⟨t, run, st, cur.trans mem, err, by rw [window]; simp [show (aditNow s n).pers = 0 from mem], width.trans (if_pos mem)⟩
    · obtain ⟨t, run, st, cur, err, -, -, ports⟩ := execAditTrainDone_up (devGib := devGib) trained trains powered fun mem => absurd mem other
      exact ⟨t, run, st, cur, err, ports⟩
  case close =>
    refine ⟨fun none_ => ⟨_, execAdwinCloseDone_closes closing (.inl none_), ?_⟩, fun past => ⟨_, execAdwinCloseDone_closes closing (.inr past), ?_⟩,
      execAdwinCloseDone_waits⟩
    · rw [State.cutWindow_none none_]
      exact aditBecomes_modAdit s n rfl
    · rw [aditNow_modAdit]
      exact ⟨rfl, rfl⟩
  case ual =>
    have run := execUalRequest_up (s := s) (n := n) up ual (.read pa 32)
    refine ⟨fun waits => ?_, fun serves aligned there good => ?_⟩
    · rw [waits] at run
      exact run
    · rw [serves, State.ualAnswer_read aligned there good] at run
      exact run
  case refused =>
    have refused := s.refused_regErr
    refine ⟨fun other' => ⟨_, ?_, refused⟩, ⟨_, ?_, refused⟩, ⟨_, ?_, refused⟩, ⟨_, ?_, refused⟩⟩
    · show execLemlnWrite fn n.val v s = _
      unfold execLemlnWrite
      rw [if_neg (by omega), if_neg other, if_neg other']
    · show execAdctlGo fn n.val v s = _
      unfold execAdctlGo
      rw [if_neg (fun h => other h.1)]
    · show execAdwinOff fn n.val v s = _
      unfold execAdwinOff
      rw [if_neg (fun h => other h.1)]
    · show execTmapcmtGo fn v s = _
      unfold execTmapcmtGo
      rw [if_neg other]

end Sys2Proof.Claims

/-!
Translations cached and given up (R337, R341, R343 to R347).
-/
namespace Sys2Proof.Machine
open Sys2Proof.Claims

/-! ## Walks (R337) -/

theorem mem_keepRoom_head (u n : Nat) (e : Tlb) (l : List Tlb) (room : 0 < n) : e ∈ keepRoom u n (e :: l) := by
  obtain ⟨k, rfl⟩ : ∃ k, n = k + 1 := ⟨n - 1, by omega⟩
  rw [keepRoom]
  split <;> exact List.mem_cons_self

theorem State.mem_cacheTlb (s : State) (e : Tlb) : e ∈ (s.cacheTlb e).tlb := by
  unfold State.cacheTlb
  dsimp only
  split
  · exact List.mem_cons_self
  · next n room => exact mem_keepRoom_head _ _ _ _ (by unfold tlbRoom at room; split at room <;> grind)

section
variable {s : State} {unit ctx : Nat} {va : Addr} {kind : AccKind}

theorem execPageWalk_ok {e : Tlb} (walk : s.walk unit ctx va.toNat (kind == .write) (kind == .fetch) = .ok e) : execPageWalk unit ctx va kind s = .next (s.cacheTlb e) := by
  unfold execPageWalk
  rw [walk]

theorem execPageWalk_fault {f : WalkFault} (walk : s.walk unit ctx va.toNat (kind == .write) (kind == .fetch) = .error f) : execPageWalk unit ctx va kind s = .next s := by
  unfold execPageWalk
  rw [walk]

end

/-! ## Functions -/

theorem State.func_modFunc {s : State} (rises : Safety.Rises s.funcs) (n : Nat) (g : Func → Func) : (s.modFunc n g).func n = g (s.func n) :=
  NMap.getD_put_same rises ..

theorem State.func_modFunc_new {s : State} {n : Nat} {g : Func → Func} (new : g (s.func n) ≠ Func.zero n) : (s.modFunc n g).func n = g (s.func n) :=
  NMap.getD_put_new _ _ new

/-! ## Invalidations (R343, R344) -/

/-- A GO at the physical function's port opens an invalidation where none is open (R343). -/
theorem State.tlbi_go {s : State} {k c : Nat} {v : Word} (kind : k ≤ 5) (hc : c < 4096) (hv : v.toNat = c * 2 ^ 20 + k * 256 + 1) :
    s.tlbi 64 64 v = if (s.func 64).topen.isSome then s.regErr
      else s.modFunc 64 fun x => { x with tlbic := w64 (k * 256 + c * 2 ^ 20), topen := some (k, c, x.tlbia.toNat) } := by
  have go : v.getLsbD 0 = true := by
    rw [BitVec.getLsbD, Nat.testBit_eq_decide_div_mod_eq]
    simp
    omega
  have hk : wbits v 8 4 = k := by rw [wbits_eq]; omega
  have ctx : wbits v 20 12 = c := by rw [wbits_eq]; omega
  have r1 : wbits v 17 3 = 0 := by rw [wbits_eq]; omega
  have r2 : wbits v 12 4 = 0 := by rw [wbits_eq]; omega
  have r3 : wbits v 1 7 = 0 := by rw [wbits_eq]; omega
  unfold State.tlbi State.writeTlbic
  rw [if_pos (by decide)]
  simp only [go, hk, ctx, r1, r2, r3]
  cases (s.func 64).topen.isSome
  · rw [if_neg (by simp; omega)]
    rfl
  · rw [if_pos (by simp)]
    rfl

/-- The six words of an invalidation write the same register. -/
theorem exec_tlbi {s : State} {i : Instr} {k : Nat} {v : Word}
    (hi : (i, k) ∈ [(.tlbiPage 64 64 v, 0), (.tlbiRegion 64 64 v, 1), (.tlbiContext 64 64 v, 2), (.tlbiS2Page 64 64 v, 3), (.tlbiS2Context 64 64 v, 4), (.tlbiAll 64 64 v, 5)]) :
    Sys2Proof.Machine.exec i s = .next (s.tlbi 64 64 v) ∧ k ≤ 5 := by
  simp only [List.mem_cons, Prod.mk.injEq, List.not_mem_nil, or_false] at hi
  obtain ⟨rfl, rfl⟩ | ⟨rfl, rfl⟩ | ⟨rfl, rfl⟩ | ⟨rfl, rfl⟩ | ⟨rfl, rfl⟩ | ⟨rfl, rfl⟩ := hi
  all_goals exact ⟨rfl, by decide⟩

theorem Tlb.covered_iff (e : Tlb) {k c a : Nat} (kind : k ≤ 5) : e.covered k c a = true ↔
    k = 5 ∨ e.ctx = c ∧ (k = 2 ∨ k = 1 ∧ e.va / 2 ^ 57 = a / 2 ^ 45 % 2 ^ 15 ∨ k = 0 ∧ e.va / e.firstSize = a * 4096 / e.firstSize ∨
      (k = 3 ∨ k = 4) ∧ ∃ p ∈ e.path, p.stage = 2) := by
  obtain rfl | rfl | rfl | rfl | rfl | rfl : k = 0 ∨ k = 1 ∨ k = 2 ∨ k = 3 ∨ k = 4 ∨ k = 5 := by omega
  all_goals simp [Tlb.covered, nbits]

theorem Upper.covered_iff (u : Upper) {k c a : Nat} (kind : k ≤ 5) : u.covered k c a = true ↔
    k = 5 ∨ u.ctx = c ∧ (2 ≤ k ∨ u.stage = 1 ∧ (k = 1 ∨ k = 0 ∧ u.base = a * 4096 % 2 ^ 57 / levelSize (u.level + 1) * levelSize (u.level + 1))) := by
  obtain rfl | rfl | rfl | rfl | rfl | rfl : k = 0 ∨ k = 1 ∨ k = 2 ∨ k = 3 ∨ k = 4 ∨ k = 5 := by omega
  all_goals simp [Upper.covered, and_assoc]

section
variable {s : State} {unit k c a : Nat} (opened : (s.func unit).topen = some (k, c, a))
include opened

theorem execInvalidationComplete_waits (uses : s.usesOpen k c = true) : execInvalidationComplete unit s = .next s := by
  unfold execInvalidationComplete
  simp only [opened, uses, if_true]

theorem execInvalidationComplete_done (quiet : s.usesOpen k c = false) :
    execInvalidationComplete unit s = .next ((s.invalidate k c a).modFunc unit fun x => { x with topen := none, tdone := x.tdone + 1 }) := by
  unfold execInvalidationComplete
  simp only [opened, quiet, Bool.false_eq_true, if_false]

end

/-! ## Collapses (R347) -/

@[simp] theorem State.dirtied_tlb (s : State) (line : Nat) (m : BitVec 128) : (s.dirtied line m).tlb = s.tlb := by rw [State.dirtied_frame]

@[simp] theorem State.poke_tlb (s : State) (pa : Nat) (bs : List Byte) (key : Option Nat) : (s.poke pa bs key).tlb = s.tlb := by
  unfold State.poke
  simp only
  split
  · rfl
  split
  · split <;> rfl
  split
  · exact State.dirtied_tlb ..
  split
  · rfl
  split <;> exact State.dirtied_tlb ..

@[simp] theorem State.writeLine_tlb (s : State) (pa : Nat) (key : Option Nat) (bs : List Byte) : (s.writeLine pa key bs).tlb = s.tlb := by
  unfold State.writeLine
  split
  · exact State.poke_tlb ..
  · exact State.poke_tlb ..

@[simp] theorem State.ownAct_tlb (s : State) (pa : Nat) (key : Option Nat) (op : OwnOp) (bs : List Byte) : (s.ownAct pa key op bs).tlb = s.tlb := by
  cases op <;> simp only [State.ownAct, State.bitsAt]
  · exact State.writeLine_tlb ..
  all_goals split <;> simp

/-- The clear of a duplicated leaf ends its records and the translations that it gave. -/
theorem State.clearDup_clears {s : State} {leaf : Nat} (free : s.pendLine (leaf / 128) = false) (alone : ownAhead s.msgs leaf = false) :
    (∀ x ∈ (s.clearDup leaf).collapses, x.leaf ≠ leaf) ∧ ∀ x ∈ (s.clearDup leaf).tlb, x.dupBy leaf = false := by
  let t : State := { s with tlb := s.tlb.filter fun t => !t.dupBy leaf, collapses := s.collapses.filter fun c => c.leaf != leaf }
  have cleared : (s.clearDup leaf).collapses = t.collapses ∧ (s.clearDup leaf).tlb = t.tlb := by
    unfold State.clearDup
    rw [free, alone]
    simp only [Bool.or_self, Bool.false_eq_true, if_false]
    split
    · exact ⟨by rw [partOnly_ownAct t leaf none .clear _], State.ownAct_tlb ..⟩
    · exact ⟨rfl, rfl⟩
  obtain ⟨collapses, tlb⟩ := cleared
  rw [collapses, tlb]
  exact ⟨fun x hx => by simpa using (List.mem_filter.1 hx).2, fun x hx => by simpa using (List.mem_filter.1 hx).2⟩

section
variable {s : State} {k die : Nat} {r : Collapse} (here : s.collapses[k]? = some r) (waits : r.dies.contains die = true) (read : s.replicaRead r die = false)
include here waits read

/-- A die's acknowledgement is struck from the record; the last one ends it. -/
theorem execCollapseAck_acked (last : (r.dies.filter fun d => d != die) = [] → (∀ d < 4, s.replicaRead r d = false) ∧ s.pendLine (r.leaf / 128) = false ∧
      ownAhead s.msgs r.leaf = false) :
    execCollapseAck k die s = .next
      (let t := { s with tlb := s.tlb.filter fun e => !(e.dupBy r.leaf && e.unit / 512 == die),
                         collapses := setAt s.collapses k { r with dies := r.dies.filter fun d => d != die } }
       if (r.dies.filter fun d => d != die).isEmpty then t.clearDup r.leaf else t) := by
  have ready : ((r.dies.filter fun d => d != die).isEmpty && ((upto 0 4).any (s.replicaRead r) || s.pendLine (r.leaf / 128) || ownAhead s.msgs r.leaf)) = false := by
    cases empty : (r.dies.filter fun d => d != die).isEmpty with
    | false => rfl
    | true =>
      obtain ⟨reads, free, alone⟩ := last (List.isEmpty_iff.1 empty)
      have none_ : (upto 0 4).any (s.replicaRead r) = false := by
        rw [List.any_eq_false]
        intro d hd
        rw [reads d (by have := mem_upto.1 hd; omega)]
        decide
      simp [none_, free, alone]
  unfold execCollapseAck
  simp only [here]
  rw [if_neg (by simp only [waits, read, ready]; decide)]

end

end Sys2Proof.Machine

namespace Sys2Proof.Claims
open Sys2Proof.Machine

/-- Settles O48: walks, the six invalidations and their completion, and the acknowledgements of a collapse. -/
theorem translationEventsTakeEffect : Obligations.TranslationEventsTakeEffect := by
  intro s unit ctx k die a c va kind v e f r
  refine ⟨fun walk => ⟨_, execPageWalk_ok walk, s.cacheTlb_frame e, s.mem_cacheTlb e, fun x hx ne => (s.cacheTlb_subset e hx).resolve_left ne⟩,
    execPageWalk_fault, fun i hi hc hv => ?go, fun opened uses => execInvalidationComplete_waits opened uses, fun rises opened kind quiet => ?done,
    fun here waits read => ⟨fun more => ?acked, fun last reads free alone => ?closed⟩⟩
  case go =>
    obtain ⟨run, kind⟩ := exec_tlbi (s := s) hi
    rw [State.tlbi_go kind hc hv] at run
    refine ⟨fun idle => ?_, fun busy => ?_⟩
    · rw [if_neg (by simp [idle])] at run
      refine ⟨_, run, ?_, rfl, rfl⟩
      have new {x : Func} : { x with tlbic := w64 (k * 256 + c * 2 ^ 20), topen := some (k, c, x.tlbia.toNat) } ≠ Func.zero 64 :=
        fun h => by simpa [Func.zero] using congrArg Func.topen h
      rw [State.func_modFunc_new new]
    · rw [if_pos (Option.isSome_iff_ne_none.2 busy)] at run
      exact ⟨_, run, s.refused_regErr⟩
  case done =>
    have now := State.func_modFunc (s := s.invalidate k c a) rises unit fun x => { x with topen := none, tdone := x.tdone + 1 }
    refine ⟨_, execInvalidationComplete_done opened quiet, by rw [now], by rw [now]; rfl, rfl, fun x => ?_, fun u => ?_⟩
    · rw [← x.covered_iff kind, Bool.not_eq_true]
      simp [State.invalidate]
    · dsimp only
      rw [← u.covered_iff kind, Bool.not_eq_true]
      simp [State.invalidate]
  case acked =>
    have run := execCollapseAck_acked here waits read fun none_ => absurd none_ more
    rw [if_neg (by simpa using more)] at run
    have lt := (List.getElem?_eq_some_iff.1 here).1
    refine ⟨_, run, ?_, rfl⟩
    rw [setAt_eq_set]
    simp [lt]
  case closed =>
    have run := execCollapseAck_acked here waits read fun _ => ⟨reads, free, alone⟩
    rw [if_pos (List.isEmpty_iff.2 last)] at run
    exact ⟨_, run, State.clearDup_clears (by exact free) alone⟩

end Sys2Proof.Claims

/-!
Keys, virtual devices, adapters and attestation (R342, R350 to R360).
-/
namespace Sys2Proof.Machine
open Sys2Proof.Claims

/-! ## Keys (R350 to R352) -/

section
variable {s : State} {id : Nat} {v : Word} (hid : id < 256)
include hid

/-- A load of a free slot with a whole pair makes it LIVE (R352). -/
theorem State.writeKeycmd_load (hv : v.toNat = id * 256 + 1) (free : s.keyState id = 0) (whole : s.keys.seq.length = 8) :
    s.writeKeycmd v = s.clearKeyd.modKeys fun k => { k with id := id, slots := NMap.set k.slots id { st := 1, pair := pairOf s.keys.seq } } := by
  have hk : wbits v 8 8 = id := by rw [wbits_eq]; omega
  have r1 : wbits v 26 38 = 0 := by rw [wbits_eq]; omega
  have r2 : wbits v 16 8 = 0 := by rw [wbits_eq]; omega
  have r3 : wbits v 2 6 = 0 := by rw [wbits_eq]; omega
  have cmd : wbits v 0 2 = 1 := by rw [wbits_eq]; omega
  unfold State.writeKeycmd
  simp only [hk, r1, r2, r3, cmd]
  rw [if_neg (by decide), if_pos ⟨free, whole⟩]

/-- A retirement of a LIVE slot other than 0 makes it RETIRING (R352). -/
theorem State.writeKeycmd_retire (pos : 0 < id) (hv : v.toNat = id * 256 + 2) (live : s.keyState id = 1) :
    s.writeKeycmd v = s.clearKeyd.modKeys fun k => { k with id := id, slots := NMap.set k.slots id { st := 2, pair := ((NMap.get? s.keys.slots id).map (·.pair)).getD 0 } } := by
  have hk : wbits v 8 8 = id := by rw [wbits_eq]; omega
  have r1 : wbits v 26 38 = 0 := by rw [wbits_eq]; omega
  have r2 : wbits v 16 8 = 0 := by rw [wbits_eq]; omega
  have r3 : wbits v 2 6 = 0 := by rw [wbits_eq]; omega
  have cmd : wbits v 0 2 = 2 := by rw [wbits_eq]; omega
  unfold State.writeKeycmd
  simp only [hk, r1, r2, r3, cmd]
  rw [if_neg (by decide), if_pos ⟨live, by omega⟩]

end

theorem State.keyState_set (s : State) (id : Nat) {e : KeySlot} (f : Keys → Keys) (h : (f s.keys).slots = NMap.set s.keys.slots id e) :
    (s.modKeys f).keyState id = e.st := by
  unfold State.keyState State.modKeys
  rw [h, NMap.get?_set_same]
  rfl

/-- The sweep clears a line of its slot, and its pennant, and zeroes its bytes (R352). -/
theorem State.sweepLine_own {s : State} {id line : Nat} (rises : Safety.Rises s.lines) (tag : (s.line line).tag = id) :
    ((s.sweepLine id line).line line).tag = 0 ∧ ((s.sweepLine id line).line line).pennant = none ∧
      (s.sweepLine id line).glob = s.glob.put (s.globAt (line * 128)) (List.replicate 128 0) := by
  unfold State.sweepLine
  dsimp only
  rw [if_pos tag]
  generalize (s.line line).side.map (fun e => if e.key = id then { e with key := 0, data := zeros 128, poison := 0 } else e) = side
  have now := State.line_modLine_same (s := { s with glob := s.glob.put (s.globAt (line * 128)) (zeros 128), cache := NMap.del s.cache line }) rises line
    fun l => { l with tag := 0, poison := 0, pennant := none, side := side }
  refine ⟨congrArg Line.tag now, congrArg Line.pennant now, ?glob⟩
  case glob => rw [State.modLine_glob]

theorem execKeySweepEnd_frees {s : State} {id : Nat} (retiring : s.keyState id = 2) (swept : ∀ l ∈ s.lines, l.2.bears id = false) :
    execKeySweepEnd id s = .next (s.modKeys fun k => { k with slots := NMap.del k.slots id }) := by
  have none_ : (s.lines.any fun l => l.2.bears id) = false := by simpa using swept
  unfold execKeySweepEnd
  rw [if_pos ⟨retiring, by simp [none_]⟩]

/-! ## Virtual devices (R353) -/

theorem State.writeVfctl_enable {s : State} {vf : Nat} {v : Word} (hv : v.toNat = 1) (off : (s.func vf).vst = 0) :
    s.writeVfctl vf v = s.modFunc vf fun x => { x with en := true, vst := if x.vst = 2 then 2 else 1 } := by
  obtain rfl : v = 1 := BitVec.eq_of_toNat_eq hv
  have reserved : wbits 1 2 62 = 0 := by decide
  have en : (1 : Word).getLsbD 0 = true := by decide
  have rst : (1 : Word).getLsbD 1 = false := by decide
  unfold State.writeVfctl
  simp only [reserved, en, rst, off]
  rw [if_neg (by decide), if_neg (by decide)]
  rfl

theorem State.writeVfctl_reset {s : State} {vf : Nat} {v : Word} (hv : v.toNat = 2) (on : (s.func vf).vst = 1) :
    s.writeVfctl vf v =
      let t := s.modFunc vf fun x => { x with en := false, vst := 2 }
      { t with queues := t.queues.map fun q => if q.2.fn = vf ∧ (q.2.st = 1 ∨ q.2.st = 2) then (q.1, { q.2 with st := 3 }) else q } := by
  obtain rfl : v = 2 := BitVec.eq_of_toNat_eq hv
  have reserved : wbits 2 2 62 = 0 := by decide
  have en : (2 : Word).getLsbD 0 = false := by decide
  have rst : (2 : Word).getLsbD 1 = true := by decide
  unfold State.writeVfctl
  simp only [reserved, en, rst, on]
  rw [if_neg (by decide), if_pos trivial]

/-! ## Adapters (R357, R359) -/

theorem State.ctx_modCtx {s : State} (rises : Safety.Rises s.ctxs) (c : Nat) (f : Ctx → Ctx) : (s.modCtx c f).ctx c = f (s.ctx c) :=
  NMap.getD_put_same rises ..

theorem State.pin_setPin {s : State} {ctx : Nat} (rises : Safety.Rises s.ctxs) (pins : Safety.Rises (s.ctx ctx).pins) (i : Nat) (p : Pin) :
    ((s.setPin ctx i p).ctx ctx).pin i = p := by
  unfold State.setPin
  rw [State.ctx_modCtx rises]
  exact NMap.getD_put_same pins ..

section
variable {s : State} {ctx idx : Nat} {v : Word} (hidx : idx < 65536) (rises : Safety.Rises s.ctxs) (pins : Safety.Rises (s.ctx ctx).pins)
include hidx

/-- A write of ADREV names its adapter, and with its top bit revokes it or releases it (R359). -/
theorem State.writeAdrev_eq (clear : Bool) (hv : v.toNat = 2 ^ 63 + (if clear then 2 ^ 62 else 0) + idx) :
    s.writeAdrev ctx v =
      let t := s.modCtx ctx fun c => { c with adrev := w64 idx }
      let p := (t.ctx ctx).pin idx
      t.setPin ctx idx (if clear then { p with revoked := false } else if p.count = 0 then { p.drop with revoked := true } else { p with revoked := true }) := by
  have hi : wbits v 0 16 = idx := by rw [wbits_eq]; split at hv <;> omega
  have reserved : wbits v 16 46 = 0 := by rw [wbits_eq]; split at hv <;> omega
  have top : v.getLsbD 63 = true := by
    rw [BitVec.getLsbD, Nat.testBit_eq_decide_div_mod_eq]
    split at hv <;> simp <;> omega
  have next : v.getLsbD 62 = clear := by
    rw [BitVec.getLsbD, Nat.testBit_eq_decide_div_mod_eq]
    cases clear <;> simp at hv ⊢ <;> omega
  unfold State.writeAdrev
  simp only [hi, reserved, top, next]
  rw [if_neg (by decide), if_neg (by decide)]
  split <;> rfl

include rises pins

theorem State.writeAdrev_pin (clear : Bool) (hv : v.toNat = 2 ^ 63 + (if clear then 2 ^ 62 else 0) + idx) :
    (((s.writeAdrev ctx v).ctx ctx).pin idx).revoked = !clear ∧ (((s.writeAdrev ctx v).ctx ctx).pin idx).count = ((s.ctx ctx).pin idx).count := by
  have now : (s.modCtx ctx fun c => { c with adrev := w64 idx }).ctx ctx = { s.ctx ctx with adrev := w64 idx } := State.ctx_modCtx rises ..
  rw [State.writeAdrev_eq hidx clear hv]
  dsimp only
  rw [State.pin_setPin (NMap.rises_put rises ..) (by rw [now]; exact pins), now]
  cases clear
  · simp only [Bool.false_eq_true, if_false]
    split <;> exact ⟨rfl, rfl⟩
  · simp only [if_true]
    exact ⟨rfl, rfl⟩

end

theorem execAdapterEviction_drops {s : State} {ctx idx : Nat} (rises : Safety.Rises s.ctxs) (pins : Safety.Rises (s.ctx ctx).pins) (unpinned : ((s.ctx ctx).pin idx).count = 0) :
    ∃ t, execAdapterEviction ctx idx s = .next t ∧ ((t.ctx ctx).pin idx).copy = none ∧ t.glob = s.glob := by
  refine ⟨_, rfl, ?_⟩
  split
  · rw [State.pin_setPin rises pins]
    exact ⟨rfl, rfl⟩
  · next h =>
    refine ⟨Option.not_isSome_iff_eq_none.1 fun some_ => h ⟨unpinned, some_⟩, rfl⟩

/-! ## Attestation (R360) -/

theorem State.writeAttctl_go {s : State} {a : Nat} {v : Word} (ha : a < 2 ^ 43) (hv : v.toNat = a * 2 ^ 9 + 64 * 4 + 1) (idle : (s.func 64).attReq = none) :
    s.writeAttctl 64 v = s.modFunc 64 fun x => { x with attctl := v &&& ~~~1, attReq := some (a * 512, 64, x.nonce, s.attNext), attDone := false } := by
  have hf : wbits v 2 7 = 64 := by rw [wbits_eq]; omega
  have hat : wbits v 9 43 = a := by rw [wbits_eq]; omega
  have r1 : wbits v 52 12 = 0 := by rw [wbits_eq]; omega
  have r2 : wbits v 1 1 = 0 := by rw [wbits_eq]; omega
  have go : v.getLsbD 0 = true := by
    rw [BitVec.getLsbD, Nat.testBit_eq_decide_div_mod_eq]
    simp
    omega
  unfold State.writeAttctl
  simp only [hf, hat, r1, r2, go, idle]
  rw [if_neg (by decide)]
  rfl

theorem NMap.mem_of_get? {α : Type} {m : NMap α} {a : Nat} {x : α} (h : NMap.get? m a = some x) : (a, x) ∈ m := by
  induction m with
  | nil => cases h
  | cons e m ih =>
    rw [NMap.get?] at h
    split at h
    · next here => cases h; rw [here]; exact List.mem_cons_self
    split at h
    · cases h
    · exact List.mem_cons_of_mem _ (ih h)

/-- A line whose map of side entries is empty holds no pending version. -/
theorem State.pendLine_of_no_sides {s : State} (none_ : ∀ l ∈ s.lines, l.2.side = none) (n : Nat) : s.pendLine n = false := by
  have side : (s.line n).side = none := by
    unfold State.line NMap.getD
    cases here : NMap.get? s.lines (s.lineKey n) with
    | none => rfl
    | some l => exact none_ _ (NMap.mem_of_get? here)
  unfold State.pendLine
  rw [side]

theorem execAttestDone_served {s : State} {vf : Nat} {r : Nat × Nat × List Word × Nat} (asked : (s.func vf).attReq = some r)
    (oldest : ∀ f ∈ s.funcs, ∀ q, f.2.attReq = some q → r.2.2.2 ≤ q.2.2.2) (sides : ∀ l ∈ s.lines, l.2.side = none) (single : s.collapses = []) :
    ∃ t : State, execAttestDone vf s = .next (t.modFunc vf fun x => { x with attReq := none, attDone := true }) := by
  obtain ⟨at_, fn, nonce, rank⟩ := r
  have first : (s.funcs.all fun f => match f.2.attReq with | some r => decide (rank ≤ r.2.2.2) | none => true) = true := by
    rw [List.all_eq_true]
    intro f hf
    split
    · next q hq => simpa using oldest f hf q hq
    · rfl
  have free : (linesOf at_ 512).any (fun l => s.pendLine (l.1 / 128) || s.collapsing l.1) = false := by
    rw [List.any_eq_false]
    intro l _
    simp [State.pendLine_of_no_sides sides, State.collapsing, single]
  unfold execAttestDone
  simp only [asked]
  rw [if_neg]
  · exact ⟨_, rfl⟩
  · rintro (later | held)
    · rw [Bool.not_eq_true'] at later
      exact absurd (later.symm.trans first) (by decide)
    · exact absurd (held.symm.trans free) (by decide)

end Sys2Proof.Machine

namespace Sys2Proof.Claims
open Sys2Proof.Machine

theorem next_if_pos {c : Prop} [Decidable c] {t u : State} (h : c) : (.next (if c then t else u) : Out) = .next t := by rw [if_pos h]

theorem next_if_neg {c : Prop} [Decidable c] {t u : State} (h : ¬c) : (.next (if c then t else u) : Out) = .next u := by rw [if_neg h]

/-- Settles O49: keys, virtual devices, adapters and attestation, each by the register or the slot that it changes. -/
theorem keysAndTenantsTakeEffect : Obligations.KeysAndTenantsTakeEffect := by
  intro s id line vf ctx idx a v r
  refine ⟨fun room => ?keyd, fun hid hv free whole => ?load, fun pos hid hv live => ?retire, fun retiring tag rises => ?sweep, fun retiring swept rises => ?sweepEnd,
    fun hvf hv off => ?enable, fun hvf hv on => ?reset, fun hctx hidx rises pins => ⟨fun hv => ?revoke, fun hv => ?clear⟩,
    fun rises pins unpinned => execAdapterEviction_drops rises pins unpinned, fun hvf rises => ?attn, fun ha hv idle => ?go,
    fun asked oldest sides single => ?done, fun fn other i hi => ?refused⟩
  case keyd =>
    show execKeydWrite 64 v s = _
    unfold execKeydWrite State.writeKeyd State.modKeys
    simp only [if_pos room]
    rfl
  case load =>
    refine ⟨_, next_if_pos rfl, ?_⟩
    rw [State.writeKeycmd_load hid hv free whole]
    exact ⟨State.keyState_set s.clearKeyd id (e := { st := 1, pair := pairOf s.keys.seq }) _ rfl, rfl, rfl⟩
  case retire =>
    refine ⟨_, next_if_pos rfl, ?_⟩
    rw [State.writeKeycmd_retire hid pos hv live]
    exact ⟨State.keyState_set s.clearKeyd id (e := { st := 2, pair := ((NMap.get? s.keys.slots id).map (·.pair)).getD 0 }) _ rfl, rfl, rfl⟩
  case sweep => exact ⟨_, next_if_pos retiring, State.sweepLine_own rises tag⟩
  case sweepEnd =>
    refine ⟨_, execKeySweepEnd_frees retiring swept, ?_, rfl⟩
    unfold State.keyState State.modKeys
    rw [NMap.get?_del_same rises]
    rfl
  case enable =>
    have new {x : Func} : { x with en := true, vst := if x.vst = 2 then 2 else 1 } ≠ Func.zero vf := fun h => by simpa [Func.zero] using congrArg Func.en h
    refine ⟨_, next_if_pos (by simp [reachesVf, hvf]), ?_⟩
    rw [State.writeVfctl_enable hv off, State.func_modFunc_new new]
    exact ⟨by simp [off], rfl, rfl⟩
  case reset =>
    have new {x : Func} : { x with en := false, vst := 2 } ≠ Func.zero vf := fun h => by simpa [Func.zero] using congrArg Func.vst h
    have now := State.func_modFunc_new (s := s) (n := vf) (g := fun x => { x with en := false, vst := 2 }) new
    refine ⟨_, next_if_pos (by simp [reachesVf, hvf]), ?_⟩
    rw [State.writeVfctl_reset hv on]
    refine ⟨congrArg Func.vst now, fun q hq mine => ?_⟩
    obtain ⟨p, -, rfl⟩ := List.mem_map.1 hq
    by_cases resets : p.2.fn = vf ∧ (p.2.st = 1 ∨ p.2.st = 2)
    · rw [if_pos resets]
      exact ⟨by simp, by simp⟩
    · rw [if_neg resets] at mine ⊢
      exact ⟨fun h => resets ⟨mine, .inl h⟩, fun h => resets ⟨mine, .inr h⟩⟩
  case revoke =>
    refine ⟨_, next_if_pos (by exact ⟨rfl, hctx⟩), ?_⟩
    exact State.writeAdrev_pin hidx rises pins false hv
  case clear =>
    refine ⟨_, next_if_pos (by exact ⟨rfl, hctx⟩), ?_⟩
    exact (State.writeAdrev_pin hidx rises pins true hv).1
  case attn =>
    refine ⟨_, next_if_pos (by simp [reachesPort, hvf]), ?_⟩
    rw [State.writeAttn, State.func_modFunc rises]
    exact ⟨rfl, rfl⟩
  case go =>
    have new {x : Func} : { x with attctl := v &&& ~~~1, attReq := some (a * 512, 64, x.nonce, s.attNext), attDone := false } ≠ Func.zero 64 :=
      fun h => by simpa [Func.zero] using congrArg Func.attReq h
    refine ⟨_, s.attNext, next_if_pos (by decide), ?_⟩
    rw [State.writeAttctl_go ha hv idle, State.func_modFunc_new new]
    exact ⟨rfl, rfl⟩
  case done =>
    have new {x : Func} : { x with attReq := none, attDone := true } ≠ Func.zero vf := fun h => by simpa [Func.zero] using congrArg Func.attDone h
    obtain ⟨t, run⟩ := execAttestDone_served asked oldest sides single
    refine ⟨_, run, ?_⟩
    rw [State.func_modFunc_new new]
    exact ⟨rfl, rfl⟩
  case refused =>
    refine ⟨s.regErr, ?_, s.refused_regErr⟩
    simp only [List.mem_cons, List.not_mem_nil, or_false] at hi
    obtain rfl | rfl | rfl | rfl | rfl | rfl | rfl | rfl | rfl := hi
    case inr.inr.inr.inl => exact next_if_neg (c := fn = 64 ∧ ctx < 4096) fun h => other h.1
    case inr.inr.inr.inr.inl => exact next_if_neg (c := fn = 64 ∧ ctx < 4096) fun h => other h.1
    all_goals exact next_if_neg other

end Sys2Proof.Claims

/-!
Host queues, their packets and completions, and the lines of device caches (R388 to R400).
-/
namespace Sys2Proof.Machine
open Sys2Proof.Claims

theorem State.queue_modQueue {s : State} (rises : Safety.Rises s.queues) (q : Nat) (f : HQueue → HQueue) : (s.modQueue q f).queue q = f (s.queue q) :=
  NMap.getD_put_same rises ..

section
variable {s : State} {q : Nat} {v : Word}

/-! ## Queue registers (R388 to R390) -/

section
variable (hq : q < 65536) (r1 : v.toNat / 2 ^ 55 % 2 ^ 7 = 0) (r2 : v.toNat / 2 ^ 47 % 2 = 0) (r3 : v.toNat / 2 ^ 5 % 2 ^ 23 = 0)
include hq r1 r2 r3

theorem execQcfgEnable_runs (off : (s.queue q).st = 0) (en : v.getLsbD 63 = true) (may : s.queueMayRun (s.queue q) v = true) :
    execQcfgEnable 64 q v s = .next (s.modQueue q fun Q => { Q with cfg := v, head := 0, tail := 0, cwrite := 0, chead := 0, st := 1 }) := by
  have b1 : wbits v 55 7 = 0 := by rw [wbits_eq]; exact r1
  have b2 : wbits v 47 1 = 0 := by rw [wbits_eq]; exact r2
  have b3 : wbits v 5 23 = 0 := by rw [wbits_eq]; exact r3
  unfold execQcfgEnable State.writeQcfg
  simp only [b1, b2, b3, off, en, may]
  rw [if_pos ⟨trivial, hq⟩, if_neg (by decide), if_pos trivial, if_neg (by decide), if_pos trivial]

theorem execQcfgDisable_drains (on : (s.queue q).st ≠ 0) (en : (s.queue q).cfg.getLsbD 63 = true) (hv : v = (s.queue q).cfg &&& 0x7FFFFFFFFFFFFFFF) :
    execQcfgDisable 64 q v s = .next (s.modQueue q fun Q => { Q with cfg := v, st := 3 }) := by
  have b1 : wbits v 55 7 = 0 := by rw [wbits_eq]; exact r1
  have b2 : wbits v 47 1 = 0 := by rw [wbits_eq]; exact r2
  have b3 : wbits v 5 23 = 0 := by rw [wbits_eq]; exact r3
  have same : v = (s.queue q).cfg &&& ~~~((1 : Word) <<< 63) := hv
  unfold execQcfgDisable State.writeQcfg
  simp only [b1, b2, b3]
  rw [if_pos ⟨trivial, hq⟩, if_neg (by decide), if_neg on, if_pos ⟨en, same⟩]

end

theorem execQueueDrainEnd_empty (drains : (s.queue q).st = 3) (pkts : (s.queue q).pkts = []) (cpls : (s.queue q).cpls = []) :
    execQueueDrainEnd q s = .next (s.modQueue q fun Q => { Q with st := 0 }) := by
  unfold execQueueDrainEnd
  simp only [drains, pkts, cpls]
  rw [if_pos ⟨trivial, rfl, rfl⟩]

theorem reachesQueue_physical (hq : q < 65536) : s.reachesQueue 64 q = true := by simp [State.reachesQueue, hq]

theorem execQtailWrite_takes (hq : q < 65536) (small : v.toNat < 2 ^ 32) (fw : s.mg.fwState = 1) (on : (s.queue q).st = 1)
    (room : (v.setWidth 32 - (s.queue q).head).toNat ≤ (s.queue q).slots) (ahead : (v.setWidth 32 - (s.queue q).tail).toNat ≤ (s.queue q).slots) :
    execQtailWrite 64 q v s = .next (s.modQueue q fun Q => { Q with tail := v.setWidth 32 }) := by
  have high : wbits v 32 32 = 0 := by rw [wbits_eq, Nat.div_eq_of_lt small]; rfl
  have field : v.extractLsb' 0 32 = v.setWidth 32 := by ext k hk; simp
  unfold execQtailWrite State.writeQtail
  simp only [field, high, fw, on]
  rw [if_pos (reachesQueue_physical hq), if_neg (by omega)]

theorem execQcheadWrite_takes (hq : q < 65536) : execQcheadWrite 64 q v s = .next (s.modQueue q fun Q => { Q with chead := v.setWidth 32 }) := by
  have field : v.extractLsb' 0 32 = v.setWidth 32 := by ext k hk; simp
  unfold execQcheadWrite State.writeQchead
  rw [if_pos (reachesQueue_physical hq), field]

/-! ## Packets (R391 to R396) -/

section
variable {readable : Bool} (turn : s.parseTurn q = true)
include turn

theorem execPacketParse_accepts {bufs : List (Nat × Nat × Nat)} (ok : s.checkPacket (!(s.queue q).cfg.getLsbD 62) (s.headPacket (s.queue q)) readable = .ok bufs) :
    ∃ x : Pkt, execPacketParse q readable s = .next ((s.noteServed q).modQueue q fun Q => { Q with head := Q.head + 1, pkts := Q.pkts ++ [x] }) ∧
      x.idx = (s.queue q).head.toNat ∧ x.bufs = bufs ∧ x.started = false := by
  unfold execPacketParse
  simp only [turn, ok]
  exact ⟨_, rfl, rfl, rfl, rfl⟩

theorem execPacketParse_rejects {st d : Nat} (bad : s.checkPacket (!(s.queue q).cfg.getLsbD 62) (s.headPacket (s.queue q)) readable = .error (st, d)) :
    ∃ x : Cpl, execPacketParse q readable s = .next ((s.noteServed q).modQueue q fun Q => { Q with st := 2, errst := st, cpls := Q.cpls ++ [x] }) ∧
      x.status = st ∧ x.detail = BitVec.ofNat 64 d := by
  unfold execPacketParse
  simp only [turn, bad]
  exact ⟨_, rfl, rfl, rfl⟩

end

section
variable {idx : Nat} {p : Pkt} (here : (s.queue q).pkts.find? (fun x => x.idx == idx) = some p)
include here

theorem execPacketStart_ready (ready : s.startReady (s.queue q) p = true) :
    execPacketStart q idx s = .next (s.modQueue q fun Q => { Q with pkts := Q.pkts.map fun (x : Pkt) => if x.idx = idx then { x with started := true } else x }) := by
  unfold execPacketStart
  simp only [here]
  rw [if_pos ready]

theorem execCmo_walks (op : p.hd % 256 = 2) (started : p.started = true) (thawed : (s.ctx (s.queue q).ctx).frzState = 0) :
    execCmo q idx s = match s.walkRange (s.queue q).ctx ((p.bufs.headD (0, 0, 0)).2.1 / 4096 + 2) (p.bufs.headD (0, 0, 0)).1 (p.bufs.headD (0, 0, 0)).2.1 with
      | .error f => .next (s.finishPkt q idx 2 (f.code * 256 + tokenCause f * 65536))
      | .ok t => .next ((t.cacheRange (((p.dw[2]?).getD 0).toNat / 256 % 4 == 2) (s.queue q).ctx ((p.bufs.headD (0, 0, 0)).2.1 / 4096 + 2) (p.bufs.headD (0, 0, 0)).1
          (p.bufs.headD (0, 0, 0)).2.1).finishPkt q idx 0 0) := by
  have code : nbits p.hd 0 8 = 2 := by rw [nbits_zero]; exact op
  unfold execCmo
  simp only [here]
  rw [if_neg (by simp [code, started, thawed])]
  rfl

/-- A transfer over an adit that carries none ends with status 3 (R393). -/
theorem execAditx_none (op : p.hd % 256 = 3) (started : p.started = true) (thawed : (s.ctx ((s.queue q).cfg.toNat / 2 ^ 28 % 4096)).frzState = 0)
    (cur : (s.adit p.aditx.2.1).cur ≠ 1 ∧ (s.adit p.aditx.2.1).cur ≠ 2) (data : List Byte) :
    execAditx q idx data s = .next (s.finishPkt q idx 3 (p.moved.getD 0)) := by
  have code : nbits p.hd 0 8 = 3 := by rw [nbits_zero]; exact op
  have ctx : wbits (s.queue q).cfg 28 12 = (s.queue q).cfg.toNat / 2 ^ 28 % 4096 := wbits_eq ..
  unfold execAditx
  simp only [here, ctx]
  rw [if_neg (by rw [code, started, thawed]; decide), if_neg (by omega)]

/-- A transfer over a port that is up moves the next piece (R393). -/
theorem execAditx_moves (op : p.hd % 256 = 3) (started : p.started = true) (thawed : (s.ctx ((s.queue q).cfg.toNat / 2 ^ 28 % 4096)).frzState = 0)
    (cur : (s.adit p.aditx.2.1).cur = 1 ∨ (s.adit p.aditx.2.1).cur = 2) (up : (s.adit p.aditx.2.1).st = 1)
    (port : (s.adit p.aditx.2.1).ports.getLsbD p.aditPort = true) (data : List Byte) : execAditx q idx data s = .next (s.aditxPiece q p data) := by
  have code : nbits p.hd 0 8 = 3 := by rw [nbits_zero]; exact op
  have ctx : wbits (s.queue q).cfg 28 12 = (s.queue q).cfg.toNat / 2 ^ 28 % 4096 := wbits_eq ..
  unfold execAditx
  simp only [here, ctx]
  rw [if_neg (by rw [code, started, thawed]; decide), if_pos ⟨cur, port, .inl up⟩]

end

/-- The packet after a piece: over with its last byte, or with the bytes moved. -/
def State.pieceMoved (s : State) (q idx total moved : Nat) : State :=
  if moved = total then s.finishPkt q idx 0 0
  else s.modQueue q fun Q => { Q with pkts := Q.pkts.map fun (x : Pkt) => if x.idx = idx then { x with moved := some moved } else x }

section
variable {p : Pkt} {data : List Byte} (some_ : 0 < data.length) (fits : p.moved.getD 0 + data.length ≤ p.aditx.2.2.2)
  (sector : data.length ≤ 32 - (p.aditx.1 + p.moved.getD 0) % 32)
include some_ fits sector

theorem State.aditxPiece_in {t : State} (receives : p.aditx.2.2.1 = true)
    (free : s.virtPend ((s.queue q).cfg.toNat / 2 ^ 28 % 4096) (p.aditx.1 + p.moved.getD 0) = false)
    (put : s.virtPut partUnit ((s.queue q).cfg.toNat / 2 ^ 28 % 4096) (p.aditx.1 + p.moved.getD 0) data = .ok t) :
    s.aditxPiece q p data = t.pieceMoved q p.idx p.aditx.2.2.2 (p.moved.getD 0 + data.length) := by
  have ctx : wbits (s.queue q).cfg 28 12 = (s.queue q).cfg.toNat / 2 ^ 28 % 4096 := wbits_eq ..
  have whole : min (min data.length (p.aditx.2.2.2 - p.moved.getD 0)) (32 - (p.aditx.1 + p.moved.getD 0) % 32) = data.length := by omega
  unfold State.aditxPiece
  simp only [ctx, whole, receives, free, List.take_length, put]
  rw [if_neg (by omega), if_neg (by omega)]
  rfl

theorem State.aditxPiece_out {bs : List Byte} (sends : p.aditx.2.2.1 = false)
    (read : s.virtBytes partUnit ((s.queue q).cfg.toNat / 2 ^ 28 % 4096) (p.aditx.1 + p.moved.getD 0) data.length false = .ok bs) :
    s.aditxPiece q p data =
      State.pieceMoved { (s.touchVirt partUnit ((s.queue q).cfg.toNat / 2 ^ 28 % 4096) (p.aditx.1 + p.moved.getD 0) data.length false) with replies := s.replies ++ [bs] }
        q p.idx p.aditx.2.2.2 (p.moved.getD 0 + data.length) := by
  have ctx : wbits (s.queue q).cfg 28 12 = (s.queue q).cfg.toNat / 2 ^ 28 % 4096 := wbits_eq ..
  have whole : min (min data.length (p.aditx.2.2.2 - p.moved.getD 0)) (32 - (p.aditx.1 + p.moved.getD 0) % 32) = data.length := by omega
  unfold State.aditxPiece
  simp only [ctx, whole, sends, read]
  rw [if_neg (by omega), if_neg (by omega)]
  rfl

end

/-! ## Completions and interrupts (R397 to R400) -/

theorem State.msixSend_none {fn vec : Nat} (unset : NMap.get? (s.func fn).msix vec = none) : s.msixSend fn vec = s := by
  unfold State.msixSend
  rw [unset]

theorem State.msixSend_sent {fn vec : Nat} {m : Msix} (set : NMap.get? (s.func fn).msix vec = some m) (open_ : m.masked = false) :
    s.msixSend fn vec = { s with host := s.host.put m.addr.toNat (leBytes 4 m.data.toNat) } := by
  unfold State.msixSend
  simp only [set, open_]
  rfl

/-- The queue with its interrupt noted as sent. -/
def State.irqNoted (s : State) (q : Nat) : State :=
  { s.modQueue q (fun Q => { Q with counted := 0, oldest := none, sent := some s.dcc }) with
    irqs := s.irqs ++ [((s.queue q).fn, wbits (s.queue q).live 32 11)] }

theorem State.irqNoted_queue (rises : Safety.Rises s.queues) :
    (s.irqNoted q).queue q = { s.queue q with counted := 0, oldest := none, sent := some s.dcc } :=
  State.queue_modQueue rises q fun Q => { Q with counted := 0, oldest := none, sent := some s.dcc }

theorem State.irqNoted_host : (s.irqNoted q).host = s.host := rfl

/-- An interrupt of a vector without a message is noted alone. -/
theorem State.sendIrq_unset (unset : NMap.get? (s.func (s.queue q).fn).msix (wbits (s.queue q).live 32 11) = none) : s.sendIrq q = s.irqNoted q :=
  State.msixSend_none (s := s.irqNoted q) unset

theorem execInterruptTimer_due {n : Nat} (oldest : (s.queue q).oldest = some n) (en : (s.queue q).live.getLsbD 63 = true) (counted : 0 < (s.queue q).counted)
    (timed : (s.queue q).live.toNat / 2 ^ 16 % 2 ^ 16 ≠ 0) (due : n + (s.queue q).live.toNat / 2 ^ 16 % 2 ^ 16 * 1024 ≤ s.dcc) :
    execInterruptTimer q s = .next (s.sendIrq q) := by
  have time : wbits (s.queue q).live 16 16 = (s.queue q).live.toNat / 2 ^ 16 % 2 ^ 16 := wbits_eq ..
  unfold execInterruptTimer
  simp only [oldest, time]
  rw [if_pos ⟨en, counted, timed, due⟩]

/-- A queue after its oldest completion is written in a cycle; the completions left are `rest`. -/
def HQueue.written (Q : HQueue) (cycle : Nat) (rest : List Cpl) : HQueue :=
  let counts : Bool := Q.int.getLsbD 63 && !(Q.sent == some cycle)
  { Q with cpls := rest, cwrite := Q.cwrite + 1, live := Q.int, counted := if counts then Q.counted + 1 else 0,
           oldest := if counts then some (Q.oldest.getD cycle) else none }

/-- The state with a completion written to the host at the next place of its ring. -/
def State.cplPut (s : State) (q : Nat) (c : Cpl) : State :=
  let Q := s.queue q
  { s with host := s.host.put (wbits Q.cpl 6 58 * 64 + 16 * (Q.cwrite.toNat % Q.entries)) (cplBytes c (Q.cwrite.toNat / Q.entries % 2 == 0)) }

/-- The state with the oldest completion of a queue written to its ring. -/
def State.cplWritten (s : State) (q : Nat) (c : Cpl) (rest : List Cpl) : State := (s.cplPut q c).modQueue q fun Q => Q.written s.dcc rest

@[simp] theorem State.cplPut_queues (c : Cpl) : (s.cplPut q c).queues = s.queues := rfl
@[simp] theorem State.cplPut_funcs (c : Cpl) : (s.cplPut q c).funcs = s.funcs := rfl

theorem State.cplPut_queue (c : Cpl) : (s.cplPut q c).queue q = s.queue q := by simp only [State.queue, State.cplPut_queues]

theorem State.rises_cplPut (rises : Safety.Rises s.queues) (c : Cpl) : Safety.Rises (s.cplPut q c).queues := by
  rw [State.cplPut_queues]
  exact rises

theorem State.cplWritten_queue (rises : Safety.Rises s.queues) (c : Cpl) (rest : List Cpl) : (s.cplWritten q c rest).queue q = (s.queue q).written s.dcc rest := by
  rw [State.cplWritten, State.queue_modQueue (State.rises_cplPut rises c), State.cplPut_queue]

theorem State.cplWritten_host (c : Cpl) (rest : List Cpl) : (s.cplWritten q c rest).host = (s.cplPut q c).host := by
  rw [State.cplWritten, State.modQueue_host]

theorem State.cplWritten_func (c : Cpl) (rest : List Cpl) (n : Nat) : (s.cplWritten q c rest).func n = s.func n := by
  rw [State.func, State.cplWritten, State.modQueue_funcs, State.cplPut_funcs, State.func]

theorem State.rises_cplWritten (rises : Safety.Rises s.queues) (c : Cpl) (rest : List Cpl) : Safety.Rises (s.cplWritten q c rest).queues := by
  rw [State.cplWritten, State.modQueue_queues]
  exact NMap.rises_put (State.rises_cplPut rises c) ..

theorem execCompletionWrite_room {c : Cpl} {rest : List Cpl} (cpls : (s.queue q).cpls = c :: rest)
    (room : ((s.queue q).cwrite - (s.queue q).chead).toNat < (s.queue q).entries) (quiet : s.strayWrites = false) :
    execCompletionWrite q s = .next (s.cplWritten q c rest) ∨ execCompletionWrite q s = .next ((s.cplWritten q c rest).sendIrq q) := by
  have writes : ¬((s.queue q).entries ≤ ((s.queue q).cwrite - (s.queue q).chead).toNat ∨ s.strayWrites = true) := by
    rw [quiet]
    rintro (full | stray)
    · omega
    · cases stray
  have either (b : Prop) [Decidable b] (t u : State) : (.next (if b then u else t) : Out) = .next t ∨ (.next (if b then u else t) : Out) = .next u := by
    split
    · exact .inr rfl
    · exact .inl rfl
  unfold execCompletionWrite State.cplWritten State.cplPut HQueue.written
  simp only [cpls, if_neg writes]
  generalize s.host.put _ _ = host
  exact either _ _ _

/-! ## Lines of device caches (R393; log 60) -/

/-- What a line's home holds once its dirty bytes have gone back. -/
theorem mergeLine_get (m : BitVec 128) (a b : List Byte) {j : Nat} (hj : j < 128) :
    ((mergeLine m a b)[j]?).getD 0 = if m.getLsbD j then (a[j]?).getD 0 else (b[j]?).getD 0 := by
  simp [mergeLine, upto_zero, hj]

section
variable {line : Nat} {c : Held} (held : NMap.get? s.cache line = some c)
include held

/-- The bytes of a cached line given back to its home. -/
def State.lineBack (s : State) (line : Nat) (c : Held) : List Byte := mergeLine c.dirty (s.glob.bytes (s.globAt (line * 128)) 128) c.home

theorem State.cacheBack_drop : s.cacheBack true line = { s with glob := s.glob.put (s.globAt (line * 128)) (s.lineBack line c), cache := NMap.del s.cache line } := by
  unfold State.cacheBack
  simp only [held]
  rfl

theorem State.cacheBack_keep : s.cacheBack false line = { s with cache := NMap.set s.cache line { home := s.lineBack line c, dirty := 0 } } := by
  unfold State.cacheBack
  simp only [held]
  rfl

end

theorem State.lineBack_get (s : State) (line : Nat) (c : Held) {j : Nat} (hj : j < 128) :
    ((s.lineBack line c)[j]?).getD 0 = if c.dirty.getLsbD j then s.glob.get (s.globAt (line * 128) + j) else (c.home[j]?).getD 0 := by
  rw [State.lineBack, mergeLine_get _ _ _ hj]
  simp [Mem.bytes_eq_map, hj]

theorem mergeLine_length (m : BitVec 128) (a b : List Byte) : (mergeLine m a b).length = 128 := by simp [mergeLine, upto_length]

end

end Sys2Proof.Machine

namespace Sys2Proof.Claims
open Sys2Proof.Machine

/-- Settles O52: the registers of a queue, its packets, its completions and interrupts, and the lines of device caches. -/
theorem hostQueuesTakeEffect : Obligations.HostQueuesTakeEffect := by
  intro s q idx st d v readable p t' f c rest data bufs Q hq rises
  have now (f : HQueue → HQueue) := State.queue_modQueue rises q f
  refine ⟨fun off en r1 r2 r3 may => ?enable, fun on en hv r1 r2 r3 => ?disable, fun drains pkts cpls => ?drained, fun small fw on room ahead => ?tail, ?chead,
    fun turn => ⟨fun ok => ?accept, fun bad => ?reject⟩, fun here => ⟨fun ready => ?start, fun op started thawed => ?cmo, ?none_, ?piece⟩, fun cpls room quiet unset => ?cpl,
    fun n unset oldest en counted timed due => ?timer, fun n m set oldest en counted timed due open_ => ?message, fun line c held mem rises => ?cache⟩
  case enable => exact ⟨_, execQcfgEnable_runs hq r1 r2 r3 off en may, by rw [now], by rw [now], by rw [now], by rw [now], rfl⟩
  case disable => exact ⟨_, execQcfgDisable_drains hq r1 r2 r3 on en hv, by rw [now], by rw [now], rfl⟩
  case drained => exact ⟨_, execQueueDrainEnd_empty drains pkts cpls, by rw [now], by rw [now]⟩
  case tail => exact ⟨_, execQtailWrite_takes hq small fw on room ahead, by rw [now], by rw [now]⟩
  case chead => exact ⟨_, execQcheadWrite_takes hq, by rw [now], by rw [now]⟩
  case accept =>
    obtain ⟨x, run, number, buffers, fresh⟩ := execPacketParse_accepts turn ok
    have after := State.queue_modQueue (s := s.noteServed q) rises q fun Q => { Q with head := Q.head + 1, pkts := Q.pkts ++ [x] }
    exact ⟨_, x, run, by rw [after]; rfl, by rw [after]; rfl, number, buffers, fresh⟩
  case reject =>
    obtain ⟨x, run, status, detail⟩ := execPacketParse_rejects turn bad
    have after := State.queue_modQueue (s := s.noteServed q) rises q fun Q => { Q with st := 2, errst := st, cpls := Q.cpls ++ [x] }
    exact ⟨_, x, run, by rw [after], by rw [after], by rw [after]; rfl, status, detail, by rw [after]; rfl⟩
  case start => exact ⟨_, execPacketStart_ready here ready, by rw [now]⟩
  case cmo =>
    have run := execCmo_walks here op started thawed
    refine ⟨fun walked => ?_, fun fault => ?_⟩
    · rw [walked] at run
      exact run
    · rw [fault] at run
      exact run
  case none_ => exact fun op started thawed cur1 cur2 => execAditx_none here op started thawed ⟨cur1, cur2⟩ data
  case piece =>
    intro ctx f done va n op started thawed cur up port some_ fits sector more
    have idx_ : p.idx = idx := by simpa using List.find?_some here
    have run := execAditx_moves here op started thawed cur up port data
    refine ⟨fun receives free put => ?_, fun bs sends read => ?_⟩
    · rw [State.aditxPiece_in some_ fits sector receives free put, idx_] at run
      exact run
    · rw [State.aditxPiece_out some_ fits sector sends read, idx_] at run
      exact run
  case cpl =>
    have ring : wbits Q.cpl 6 58 * 64 = Q.cpl.toNat / 64 * 64 := by rw [wbits_eq]; omega
    have vector : wbits Q.int 32 11 = Q.int.toNat / 2 ^ 32 % 2 ^ 11 := wbits_eq ..
    have written := State.cplWritten_queue (q := q) rises c rest
    have set_ : NMap.get? ((s.cplWritten q c rest).func ((s.cplWritten q c rest).queue q).fn).msix (wbits ((s.cplWritten q c rest).queue q).live 32 11) = none := by
      rw [written, State.cplWritten_func]
      exact vector ▸ unset
    have sent : (s.cplWritten q c rest).sendIrq q = (s.cplWritten q c rest).irqNoted q := State.sendIrq_unset set_
    have host := State.cplWritten_host (s := s) (q := q) c rest
    rw [State.cplPut, ring] at host
    obtain run | run := execCompletionWrite_room cpls room quiet
    · exact ⟨_, run, by rw [written]; rfl, by rw [written]; rfl, host⟩
    · rw [sent] at run
      have noted := State.irqNoted_queue (q := q) (State.rises_cplWritten (q := q) rises c rest)
      refine ⟨_, run, ?_, ?_, State.irqNoted_host.trans host⟩
      · rw [noted, written]; rfl
      · rw [noted, written]; rfl
  case timer =>
    have vector : wbits Q.live 32 11 = Q.live.toNat / 2 ^ 32 % 2 ^ 11 := wbits_eq ..
    have sent : s.sendIrq q = s.irqNoted q := State.sendIrq_unset (by rw [vector]; exact unset)
    refine ⟨_, execInterruptTimer_due oldest en counted timed due, ?_⟩
    rw [sent]
    exact ⟨by rw [State.irqNoted, vector], by rw [State.irqNoted_queue rises], by rw [State.irqNoted_queue rises], rfl⟩
  case message =>
    have vector : wbits Q.live 32 11 = Q.live.toNat / 2 ^ 32 % 2 ^ 11 := wbits_eq ..
    have sent : s.sendIrq q = { s.irqNoted q with host := s.host.put m.addr.toNat (leBytes 4 m.data.toNat) } :=
      State.msixSend_sent (s := s.irqNoted q) (by rw [vector]; exact set) open_
    refine ⟨_, execInterruptTimer_due oldest en counted timed due, ?_⟩
    rw [sent, leBytes_eq_bytesOf]
    exact ⟨by rw [State.irqNoted, vector], rfl⟩
  case cache =>
    obtain ⟨glob, -⟩ := mem
    intro home
    rw [State.cacheBack_drop held, State.cacheBack_keep held]
    refine ⟨fun j hj => ?_, NMap.get?_del_same rises line, rfl, _, NMap.get?_set_same .., rfl, fun j hj => s.lineBack_get line c hj⟩
    have within : j < (s.lineBack line c).length := by rw [State.lineBack, mergeLine_length]; exact hj
    rw [Mem.get_put_in _ _ _ glob within, List.getD_eq_getElem?_getD]
    exact s.lineBack_get line c hj

end Sys2Proof.Claims

/-!
The unit that steps: its record after a change, and the sequencing of its words (R308 to R317).
-/
namespace Sys2Proof.Machine
open Sys2Proof.Claims

/-! ## Lanes as numbers -/

theorem el_eq_laneGet (v : VReg) (i : Nat) : el v 32 i 0 = (laneGet v i).toNat := by
  rw [el, laneGet, BitVec.extractLsb'_toNat, Nat.shiftRight_eq_div_pow, Nat.mul_zero, Nat.add_zero]

theorem lanesFrom_eq (f : Nat → Lane) (n : Nat) : lanesFrom f n = joinElems 32 (fun i => (f i).toNat) n := by
  induction n with
  | zero => rfl
  | succ n ih => rw [lanesFrom, ih, joinElems_succ, Nat.mod_eq_of_lt (f n).isLt]

theorem laneGet_ofLanes (f : Nat → Lane) {i : Nat} (h : i < 64) : laneGet (ofLanes f) i = f i :=
  BitVec.eq_of_toNat_eq <| by
    rw [laneGet, ofLanes, toNat_extractLsb'_ofNat _ (by omega), lanesFrom_eq, nbits_joinElems _ _ h, Nat.mod_eq_of_lt (f i).isLt]

theorem el_laneMerge (old v : VReg) (n : Nat) {i : Nat} (h : i < 64) : el (laneMerge old v 0 n) 32 i 0 = if i < n then el v 32 i 0 else el old 32 i 0 := by
  rw [el_eq_laneGet, laneMerge, laneGet_ofLanes _ h]
  simp only [Nat.zero_le, true_and, Nat.zero_add, el_eq_laneGet]
  split <;> rfl

/-! ## The record of the unit that steps -/

theorem State.job?_modJob (s : State) (k : Nat) {f : Job → Job} (keeps : ∀ e, (f e).id = e.id) : (s.modJob k f).job? k = (s.job? k).map f := by
  simp only [State.job?, State.modJob_jobs]
  induction s.jobs with
  | nil => rfl
  | cons e l ih =>
    by_cases he : e.id = k
    · simp [he, keeps]
    · simpa [he] using ih

@[simp] theorem State.modUnit_cur (s : State) (f : MicroUnit → MicroUnit) : (s.modUnit f).cur = s.cur := by
  unfold State.modUnit
  split
  · simp
  · split <;> rfl

@[simp] theorem State.onLane_modUnit (s : State) (f : MicroUnit → MicroUnit) : (s.modUnit f).onLane = s.onLane := by
  simp only [State.onLane, State.modUnit_cur]

end Sys2Proof.Machine

namespace Sys2Proof.Claims
open Sys2Proof.Machine

section
variable {s : State}

theorem OnLane.sh {x : Shift} (h : OnLane s x) : ∃ i, s.cur.sh = some i ∧ s.sh? i = some x := by
  obtain ⟨_, hx⟩ := h
  exact Option.bind_eq_some_iff.1 hx

theorem OnLane.x_eq {x : Shift} (h : OnLane s x) : s.x = x := x_of_bind h.2

theorem OnLane.unit_eq {x : Shift} (h : OnLane s x) : s.unit = x.lane := by
  rw [State.unit, if_pos h.1, h.x_eq]

theorem OnLane.onLane {x : Shift} (h : OnLane s x) : s.onLane = true := beq_iff_eq.2 h.1

theorem OnEngine.onLane {j : Job} (h : OnEngine s j) : s.onLane = false := beq_eq_false_iff_ne.2 h.1

theorem OnEngine.unit_eq {j : Job} (h : OnEngine s j) : s.unit = j.unit := by
  obtain ⟨ne, k, hk, hj⟩ := h
  simp [State.unit, ne, hk, hj]

theorem OnLane.modX {x : Shift} (h : OnLane s x) (f : Shift → Shift) : OnLane (s.modX f) (f x) := by
  obtain ⟨i, hi, hx⟩ := h.sh
  refine ⟨(congrArg Cur.unit (State.modX_cur s f)).trans h.1, ?_⟩
  rw [State.modX_cur, hi, State.modX_eq hi]
  simp [State.sh?_modSh, hx]

theorem OnLane.modUnit_eq {x : Shift} (h : OnLane s x) (f : MicroUnit → MicroUnit) : s.modUnit f = s.modX fun x => { x with lane := f x.lane } := if_pos h.1

theorem OnLane.modUnit {x : Shift} (h : OnLane s x) (f : MicroUnit → MicroUnit) : OnLane (s.modUnit f) { x with lane := f x.lane } := by
  rw [h.modUnit_eq]
  exact h.modX _

theorem OnEngine.modUnit_eq {j : Job} {k : Nat} (h : OnEngine s j) (hk : s.cur.job = some k) (f : MicroUnit → MicroUnit) :
    s.modUnit f = s.modJob k fun e => { e with unit := f e.unit } := by
  rw [State.modUnit, if_neg h.1, hk]

theorem OnEngine.modUnit {j : Job} (h : OnEngine s j) (f : MicroUnit → MicroUnit) : OnEngine (s.modUnit f) { j with unit := f j.unit } := by
  obtain ⟨k, hk, hj⟩ := h.2
  rw [h.modUnit_eq hk]
  exact ⟨h.1, k, hk, (State.job?_modJob (f := fun e => { e with unit := f e.unit }) s k fun _ => rfl).trans (by rw [hj]; rfl)⟩

/-- The record changed, and nothing else. -/
theorem Stands.becomes (h : Stands s) (f : MicroUnit → MicroUnit) : Becomes s (s.modUnit f) (f s.unit) := by
  rcases h with ⟨x, hx⟩ | ⟨j, hj⟩
  · refine ⟨by rw [(hx.modUnit f).unit_eq, hx.unit_eq], ?_, fun y hy => ?_⟩
    · rw [hx.modUnit_eq, State.modX_frame]
    · obtain rfl := Option.some.inj (hx.2.symm.trans hy)
      have same : (s.modUnit f).cur = s.cur := by rw [hx.modUnit_eq, State.modX_cur]
      have after := (hx.modUnit f).2
      rw [same] at after
      exact ⟨_, after, rfl⟩
  · obtain ⟨k, hk, _⟩ := hj.2
    refine ⟨by rw [(hj.modUnit f).unit_eq, hj.unit_eq], ?_, fun y hy => ?_⟩
    · rw [hj.modUnit_eq hk]; rfl
    · rw [hj.modUnit_eq hk]
      exact ⟨y, hy, rfl⟩

theorem Stands.modUnit (h : Stands s) (f : MicroUnit → MicroUnit) : Stands (s.modUnit f) := by
  rcases h with ⟨x, hx⟩ | ⟨j, hj⟩
  · exact .inl ⟨_, hx.modUnit f⟩
  · exact .inr ⟨_, hj.modUnit f⟩

theorem Stands.unit_modUnit (h : Stands s) (f : MicroUnit → MicroUnit) : (s.modUnit f).unit = f s.unit := (h.becomes f).1

end
end Sys2Proof.Claims

namespace Sys2Proof.Machine
open Sys2Proof.Claims

/-! ## Writing a temporary (R306) -/

/-- What a write of n lanes puts into temporary k of a record. -/
def MicroUnit.putTemp (onLane : Bool) (k : Fin 16) (v : VReg) (n : Nat) (u : MicroUnit) : MicroUnit :=
  { u with m := u.m.set k (if onLane then laneMerge u.m[k] v 0 n else (v.setWidth 72).setWidth 2048) }

theorem putSel_temp (s : State) (k : Fin 16) (v : VReg) (n : Nat) : s.putSel (.m k) v n = s.modUnit (MicroUnit.putTemp s.onLane k v n) := rfl

section
variable (u : MicroUnit) (k : Fin 16) (v : VReg) (n : Nat)

theorem putTemp_same (b : Bool) : (u.putTemp b k v n).m[k] = if b then laneMerge u.m[k] v 0 n else (v.setWidth 72).setWidth 2048 := by
  simp [MicroUnit.putTemp]

theorem putTemp_other (b : Bool) {l : Fin 16} (ne : l ≠ k) : (u.putTemp b k v n).m[l] = u.m[l] := by
  have : k.val ≠ l.val := fun e => ne (Fin.ext e.symm)
  simp [MicroUnit.putTemp, this]

theorem el_putTemp {j : Nat} (h : j < 64) : el (u.putTemp true k v n).m[k] 32 j 0 = if j < n then el v 32 j 0 else el u.m[k] 32 j 0 := by
  rw [putTemp_same, if_pos rfl, el_laneMerge _ _ _ h]

theorem toNat_putTemp : (u.putTemp false k v n).m[k].toNat = v.toNat % 2 ^ 72 := by
  rw [putTemp_same, if_neg Bool.false_ne_true, BitVec.toNat_setWidth_of_le (by decide), BitVec.toNat_setWidth]

end
end Sys2Proof.Machine

/-!
The sequencing of micro-words and the ends of routines (R308 to R317).
-/
namespace Sys2Proof.Machine
open Sys2Proof.Claims

section
variable {s : State}

/-! ## The next word (Table 16.8) -/

theorem laneGet_ne_zero_iff (v : VReg) (i : Nat) : (laneGet v i != 0) = true ↔ el v 32 i 0 ≠ 0 := by
  rw [bne_iff_ne, el_eq_laneGet]
  exact not_congr (BitVec.toNat_inj (y := 0)).symm

theorem nonzero_onLane (lane : s.onLane = true) (k : Fin 16) : s.nonzero k = true ↔ ∃ i, i < s.unit.vl ∧ el s.unit.m[k] 32 i 0 ≠ 0 := by
  rw [State.nonzero, if_pos lane, List.any_eq_true]
  simp only [mem_upto, laneGet_ne_zero_iff, Nat.zero_le, true_and, Nat.zero_add]

theorem nonzero_onEngine (engine : s.onLane = false) (k : Fin 16) : s.nonzero k = true ↔ s.unit.m[k].toNat % 2 ^ 72 ≠ 0 := by
  rw [State.nonzero, if_neg (Bool.eq_false_iff.1 engine), bne_iff_ne]
  rfl

theorem nonzero_iff (k : Fin 16) :
    s.nonzero k = true ↔ if s.onLane then ∃ i, i < s.unit.vl ∧ el s.unit.m[k] 32 i 0 ≠ 0 else s.unit.m[k].toNat % 2 ^ 72 ≠ 0 := by
  split
  · next lane => exact nonzero_onLane lane k
  · next engine => exact nonzero_onEngine (Bool.eq_false_iff.2 engine) k

/-- The state with the next word set. -/
theorem becomes_goto (h : Stands s) (mpc : Nat) : Becomes s (s.goto mpc) { s.unit with mpc := mpc } := h.becomes fun u => { u with mpc := mpc }

/-! ## The count of a loop -/

/-- The count of a loop, in m15. -/
def MicroUnit.count (u : MicroUnit) : VReg := u.m[(15 : Fin 16)]

/-- What m15 takes as a loop counts down. -/
def State.countDown (s : State) : VReg :=
  if s.onLane then ofLanes fun i => laneGet s.unit.m[(15 : Fin 16)] i - 1 else ((s.unit.m[(15 : Fin 16)].setWidth 72 : Addr) - 1).setWidth 2048

/-- The state whose m15 has counted down. -/
def State.counted (s : State) : State := s.modUnit (MicroUnit.putTemp s.onLane 15 s.countDown s.before.vl)

theorem execMicroLoop_eq (tgt : BitVec 12) : execMicroLoop tgt s = .next (s.counted.goto (if s.counted.nonzero 15 then tgt.toNat else s.before.mpc + 1)) := rfl

theorem counted_unit (h : Stands s) : s.counted.unit = s.unit.putTemp s.onLane 15 s.countDown s.before.vl := h.unit_modUnit _

theorem counted_onLane : s.counted.onLane = s.onLane := State.onLane_modUnit ..

theorem counted_goto_unit (h : Stands s) (mpc : Nat) : (s.counted.goto mpc).unit = { s.counted.unit with mpc := mpc } :=
  (h.modUnit _).unit_modUnit _

theorem toNat_ne_zero {v : VReg} (h : v ≠ 0) : v.toNat ≠ 0 := fun e => h (BitVec.eq_of_toNat_eq (e.trans BitVec.toNat_zero.symm))

theorem count_onEngine {j : Job} (h : OnEngine s j) (lt : s.unit.count.toNat < 2 ^ 72) (pos : s.unit.count ≠ (0 : VReg)) :
    s.counted.unit.count.toNat = s.unit.count.toNat - 1 := by
  have ne := toNat_ne_zero pos
  rw [MicroUnit.count, counted_unit (.inr ⟨j, h⟩), h.onLane, toNat_putTemp, State.countDown, h.onLane, if_neg Bool.false_ne_true,
    BitVec.toNat_setWidth_of_le (by decide), BitVec.toNat_sub, BitVec.toNat_setWidth, ← MicroUnit.count, Nat.mod_eq_of_lt lt]
  have one : (1 : Addr).toNat = 1 := rfl
  omega

theorem loop_onEngine {j : Job} (h : OnEngine s j) (lt : s.unit.count.toNat < 2 ^ 72) (pos : s.unit.count ≠ (0 : VReg)) (tgt : BitVec 12) :
    ∃ t, Sys2Proof.Machine.exec (.microLoop tgt) s = .next t ∧ t.unit.count.toNat = s.unit.count.toNat - 1 ∧
      t.unit.mpc = if s.unit.count.toNat = 1 then s.before.mpc + 1 else tgt.toNat := by
  have count := count_onEngine h lt pos
  have ne := toNat_ne_zero pos
  have again : s.counted.nonzero 15 = true ↔ ¬s.unit.count.toNat = 1 := by
    rw [nonzero_onEngine (counted_onLane.trans h.onLane), ← MicroUnit.count, count, Nat.mod_eq_of_lt (by omega)]
    omega
  refine ⟨_, execMicroLoop_eq tgt, ?_, ?_⟩ <;> rw [counted_goto_unit (.inr ⟨j, h⟩)]
  · exact count
  · simp only [again, ite_not]

theorem loop_onLane {x : Shift} (h : OnLane s x) (tgt : BitVec 12) :
    ∃ t, Sys2Proof.Machine.exec (.microLoop tgt) s = .next t ∧ (s.before = s.unit → s.unit.vl ≤ 64 →
      (∀ j, j < s.unit.vl → el t.unit.m[(15 : Fin 16)] 32 j 0 = (el s.unit.m[(15 : Fin 16)] 32 j 0 + (2 ^ 32 - 1)) % 2 ^ 32) ∧
      t.unit.mpc = if ∀ j, j < s.unit.vl → el s.unit.m[(15 : Fin 16)] 32 j 0 = 1 then s.unit.mpc + 1 else tgt.toNat) := by
  have st : Stands s := .inl ⟨x, h⟩
  refine ⟨_, execMicroLoop_eq tgt, fun before le => ?_⟩
  have count (j : Nat) (hj : j < s.unit.vl) :
      el s.counted.unit.m[(15 : Fin 16)] 32 j 0 = (el s.unit.m[(15 : Fin 16)] 32 j 0 + (2 ^ 32 - 1)) % 2 ^ 32 := by
    rw [counted_unit st, h.onLane, el_putTemp _ _ _ _ (by omega), before, if_pos hj, State.countDown, if_pos h.onLane, el_eq_laneGet,
      laneGet_ofLanes _ (by omega), BitVec.toNat_sub, ← el_eq_laneGet, Nat.add_comm]
    rfl
  have again : s.counted.nonzero 15 = true ↔ ¬∀ j, j < s.unit.vl → el s.unit.m[(15 : Fin 16)] 32 j 0 = 1 := by
    have vl : s.counted.unit.vl = s.unit.vl := (congrArg MicroUnit.vl (counted_unit st)).trans rfl
    rw [nonzero_onLane (counted_onLane.trans h.onLane), vl]
    push Not
    refine exists_congr fun j => and_congr_right fun hj => ?_
    have lt : el s.unit.m[(15 : Fin 16)] 32 j 0 < 2 ^ 32 := Nat.mod_lt _ (by decide)
    rw [count j hj]
    omega
  rw [counted_goto_unit st]
  exact ⟨count, by simp only [again, ite_not, before]⟩

/-! ## The ends of routines -/

@[simp] theorem Shift.unmarkV_regs (x : Shift) (n : VNum) : (x.unmarkV n).regs = x.regs := rfl
@[simp] theorem Shift.unmarkV_sp (x : Shift) (n : VNum) : (x.unmarkV n).sp = x.sp := rfl
@[simp] theorem Shift.unmarkV_lane (x : Shift) (n : VNum) : (x.unmarkV n).lane = x.lane := rfl

theorem awaits_unmarkV (x : Shift) (n k : VNum) : (x.unmarkV n).awaits (.v k) = (x.awaits (.v k) && k != n) := by
  have bit : ((1 : BitVec 64) <<< n.val).getLsbD k.val = (k == n) := by
    rw [show (1 : BitVec 64) <<< n.val = BitVec.twoPow 64 n.val from (BitVec.twoPow_eq ..).symm, BitVec.getLsbD_twoPow]
    by_cases e : k = n
    · simp [e]
    · simp [e, show n.val ≠ k.val from fun same => e (Fin.ext same.symm)]
  rw [Shift.awaits, Shift.awaits, Shift.unmarkV, BitVec.getLsbD_and, BitVec.getLsbD_not, bit]
  simp [bne]

/-- What a V routine leaves when it ends (R313). -/
theorem laneDone_tenantV {x : Shift} {opc : BitVec 6} {vt : BitVec 2} {d a b : VNum} (hi : x.lane.instr = .tenantV opc vt d a b) (now code : Nat) :
    x.laneDone now code = (((({ x with lane := MicroUnit.zero }).unmarkV d).unmarkV a).unmarkV b).orStat now x.lane.flags := by
  simp only [Shift.laneDone, hi, classOf, laneRegs, List.foldl_cons, List.foldl_nil]

theorem endRoutine_onLane {x : Shift} (h : OnLane s x) :
    s.cur.sh.bind s.endRoutine.sh? = some (x.laneDone (s.flagCycle s.myCore) 0) := by
  rw [State.endRoutine, if_pos h.onLane]
  have after := (h.modX fun x => x.laneDone (s.flagCycle s.myCore) 0).2
  rwa [State.modX_cur] at after

theorem end_tenantV {x : Shift} {opc : BitVec 6} {vt : BitVec 2} {d a b : VNum} (h : OnLane s x) (hi : x.lane.instr = .tenantV opc vt d a b) :
    ∃ t y, Sys2Proof.Machine.exec .microEnd s = .next t ∧ s.cur.sh.bind t.sh? = some y ∧ y.lane = MicroUnit.zero ∧ y.regs = x.regs ∧
      y.sp.stat = x.sp.stat ||| x.lane.flags.setWidth 64 ∧ y.awaits (.v d) = false ∧ y.awaits (.v a) = false ∧ y.awaits (.v b) = false := by
  refine ⟨s.endRoutine, _, rfl, endRoutine_onLane h, ?_⟩
  have awaits (z : Shift) (now : Nat) (f : Flags) (k : VNum) : (z.orStat now f).awaits (.v k) = z.awaits (.v k) := rfl
  rw [laneDone_tenantV hi]
  refine ⟨rfl, rfl, rfl, ?_, ?_, ?_⟩ <;> simp [awaits, awaits_unmarkV]

theorem cont_tenantV {x : Shift} {opc : BitVec 6} {vt : BitVec 2} {d a b : VNum} (h : OnLane s x) (hi : x.lane.instr = .tenantV opc vt d a b)
    (tgt : BitVec 12) :
    ∃ t y k, Sys2Proof.Machine.exec (.microCont tgt) s = .next t ∧ s.cur.sh.bind t.sh? = some y ∧ y.lane = MicroUnit.zero ∧ y.conts = x.conts ++ [k] ∧
      k.tgt = tgt.toNat ∧ k.m = x.lane.m ∧ k.instr = x.lane.instr := by
  let k : Cont := { tgt := tgt.toNat, m := x.lane.m, instr := x.lane.instr, vl := x.lane.vl, tag := x.lane.tag, stat := x.lane.stat }
  have left := h.modX fun y => { y with conts := y.conts ++ [k] }
  have run : execMicroCont tgt s = .next (s.modX fun y => { y with conts := y.conts ++ [k] }).endRoutine := by
    have base : (classOf x.lane.instr == .m) = false := by rw [hi]; rfl
    simp only [execMicroCont, h.unit_eq, base, Bool.and_false, Bool.false_eq_true, if_false, k]
  have after := endRoutine_onLane left
  rw [State.modX_cur] at after
  refine ⟨_, _, k, run, after, ?_, ?_, rfl, rfl, rfl⟩ <;> rw [laneDone_tenantV (x := { x with conts := x.conts ++ [k] }) hi] <;> rfl

/-- The lane sequencer of shift i as the unit that steps. -/
theorem onLane_asUnit {i : Nat} {x : Shift} (hx : s.sh? i = some x) : OnLane (s.asUnit i 1) x := ⟨rfl, hx⟩

theorem stepBound_tenantV {i : Nat} {x : Shift} {opc : BitVec 6} {vt : BitVec 2} {d a b : VNum} (hx : s.sh? i = some x)
    (hi : x.lane.instr = .tenantV opc vt d a b) (v : x.lane.v = true) (runs : x.lane.halt = false) (ten : x.lane.ten = true)
    (bound : x.lane.bound ≤ x.lane.steps) :
    ∃ t y, Sys2Proof.Machine.exec (.stepBoundFault i 1) s = .next t ∧ t.sh? i = some y ∧ y.lane.halt = true ∧ y.lane.code = 9 ∧ y.lane.mpc = x.lane.mpc ∧
      y.regs = x.regs := by
  have unit := onLane_asUnit hx
  have run : execStepBoundFault i 1 s = .next ((s.asUnit i 1).unitFault { code := 0x09 }) := by
    simp [execStepBoundFault, unit.unit_eq, v, runs, ten, bound]
  have halts := unit.modUnit fun u => { u with halt := true, code := 0x09, cause := 0, tstg := 0, tlvl := 0, faddr := 0 }
  have fault : (s.asUnit i 1).unitFault { code := 0x09 } =
      (s.asUnit i 1).modUnit fun u => { u with halt := true, code := 0x09, cause := 0, tstg := 0, tlvl := 0, faddr := 0 } := by
    simp only [State.unitFault, unit.unit_eq, hi, classOf]
  have after := halts.2
  rw [State.modUnit_cur] at after
  exact ⟨_, _, run.trans (congrArg _ fault), after, rfl, rfl, rfl, rfl⟩

end

/-- Settles O40: each sequencing operation changes the record of the unit that steps and nothing else; a V routine that ends or leaves a continuation frees
the lane sequencer of its shift. -/
theorem microSequencingSetsTheNextWord : Obligations.MicroSequencingSetsTheNextWord := by
  unfold Obligations.MicroSequencingSetsTheNextWord
  intro s c tgt st
  refine ⟨fun _ => ⟨⟨_, rfl, becomes_goto st _⟩, ⟨_, rfl, becomes_goto st _⟩, fun some_ => ?_, fun none_ => ?_⟩,
    fun j hj lt pos => loop_onEngine hj lt pos tgt, fun lane => ?_, fun x opc vt d a b hx hi => ⟨end_tenantV hx hi, cont_tenantV hx hi tgt, ?_⟩⟩
  · have yes := (nonzero_iff c).2 some_
    exact ⟨⟨_, congrArg (Host.Outcome.next <| s.goto ·) (if_pos yes), becomes_goto st _⟩, _, congrArg (Host.Outcome.next <| s.goto ·) (if_pos yes), becomes_goto st _⟩
  · have no := mt (nonzero_iff c).1 none_
    exact ⟨⟨_, congrArg (Host.Outcome.next <| s.goto ·) (if_neg no), becomes_goto st _⟩, _, congrArg (Host.Outcome.next <| s.goto ·) (if_neg no), becomes_goto st _⟩
  · rcases st with ⟨x, hx⟩ | ⟨j, hj⟩
    · exact loop_onLane hx tgt
    · exact absurd (hj.onLane.symm.trans lane) Bool.false_ne_true
  · intro i hi' v runs ten bound
    obtain ⟨k, hk, hxk⟩ := hx.sh
    obtain rfl := Option.some.inj (hk.symm.trans hi')
    exact stepBound_tenantV hxk hi v runs ten bound

end Sys2Proof.Machine

/-!
The rounding of a finite value to F32 gives a code of 32 bits (R91, R92), and what an F32 code decodes to.
-/
namespace Sys2Proof.Machine
open Sys2Proof.Claims

/-! ## Magnitudes -/

/-- The value of a shifted fraction. -/
theorem shiftN_ratio (n d : Nat) (e : Int) : ((shiftN n d e).1 : ℚ) / (shiftN n d e).2 = n / d * 2 ^ e := by
  unfold shiftN
  split
  · next neg =>
    obtain ⟨k, rfl⟩ : ∃ k : Nat, e = -k := ⟨(-e).toNat, by omega⟩
    simp [div_eq_mul_inv, mul_assoc, mul_comm]
  · next pos =>
    obtain ⟨k, rfl⟩ : ∃ k : Nat, e = k := ⟨e.toNat, by omega⟩
    simp [div_mul_eq_mul_div]

theorem shiftN_snd_pos {n d : Nat} (hd : 0 < d) (e : Int) : 0 < (shiftN n d e).2 := by
  unfold shiftN
  split
  · exact Nat.mul_pos hd (Nat.two_pow_pos _)
  · exact hd

theorem shiftN_snd_zero (n : Nat) (e : Int) : (shiftN n 0 e).2 = 0 := by
  unfold shiftN
  split <;> simp

theorem shiftN_fst_zero (d : Nat) (e : Int) : (shiftN 0 d e).1 = 0 := by
  unfold shiftN
  split <;> simp

theorem log2_bounds {n : Nat} (hn : 0 < n) : (2 : ℚ) ^ (n.log2 : Int) ≤ n ∧ (n : ℚ) < 2 ^ ((n.log2 : Int) + 1) := by
  refine ⟨?_, ?_⟩
  · exact_mod_cast Nat.log2_self_le (by omega)
  · exact_mod_cast Nat.lt_log2_self

theorem floorLog2_bounds {n d : Nat} (hn : 0 < n) (hd : 0 < d) : (2 : ℚ) ^ floorLog2 n d ≤ n / d ∧ (n : ℚ) / d < 2 ^ (floorLog2 n d + 1) := by
  obtain ⟨nlo, nhi⟩ := log2_bounds hn
  obtain ⟨dlo, dhi⟩ := log2_bounds hd
  have dpos : (0 : ℚ) < d := by exact_mod_cast hd
  have two (k : Int) : (0 : ℚ) < 2 ^ k := zpow_pos two_pos k
  have upper : (n : ℚ) / d < 2 ^ ((n.log2 : Int) - d.log2 + 1) := by
    rw [div_lt_iff₀ dpos, show (n.log2 : Int) - d.log2 + 1 = (n.log2 + 1) - d.log2 by ring, zpow_sub₀ two_ne_zero]
    calc (n : ℚ) < 2 ^ ((n.log2 : Int) + 1) := nhi
      _ = 2 ^ ((n.log2 : Int) + 1) / 2 ^ (d.log2 : Int) * 2 ^ (d.log2 : Int) := (div_mul_cancel₀ _ (two _).ne').symm
      _ ≤ _ := mul_le_mul_of_nonneg_left dlo (div_pos (two _) (two _)).le
  have lower : (2 : ℚ) ^ ((n.log2 : Int) - d.log2 - 1) ≤ n / d := by
    rw [le_div_iff₀ dpos, show (n.log2 : Int) - d.log2 - 1 = n.log2 - (d.log2 + 1) by ring, zpow_sub₀ two_ne_zero]
    calc (2 : ℚ) ^ (n.log2 : Int) / 2 ^ ((d.log2 : Int) + 1) * d ≤ 2 ^ (n.log2 : Int) / 2 ^ ((d.log2 : Int) + 1) * 2 ^ ((d.log2 : Int) + 1) :=
          mul_le_mul_of_nonneg_left dhi.le (div_pos (two _) (two _)).le
      _ = 2 ^ (n.log2 : Int) := div_mul_cancel₀ _ (two _).ne'
      _ ≤ n := nlo
  have turn : n * (shiftN 1 1 ((n.log2 : Int) - d.log2)).2 < d * (shiftN 1 1 ((n.log2 : Int) - d.log2)).1 ↔ (n : ℚ) / d < 2 ^ ((n.log2 : Int) - d.log2) := by
    have ratio := shiftN_ratio 1 1 ((n.log2 : Int) - d.log2)
    have pos : (0 : ℚ) < (shiftN 1 1 ((n.log2 : Int) - d.log2)).2 := by exact_mod_cast shiftN_snd_pos Nat.one_pos _
    rw [Nat.cast_one, div_one, one_mul] at ratio
    rw [← ratio, div_lt_div_iff₀ dpos pos, mul_comm (Nat.cast (shiftN 1 1 _).1)]
    exact_mod_cast Iff.rfl
  unfold floorLog2
  simp only [turn]
  split
  · next below => exact ⟨lower, by rwa [sub_add_cancel]⟩
  · next above => exact ⟨not_lt.1 above, upper⟩

/-! ## Codes of F32 -/

section
variable {x : Ex} (hn : 0 < x.n) (hd : 0 < x.d)
include hn hd

/-- The magnitude of a value in steps of 2^q. -/
theorem magnitude_lt {q : Int} (h : floorLog2 x.n x.d + x.e - 23 ≤ q) : (shiftN x.n x.d (x.e - q)).1 / (shiftN x.n x.d (x.e - q)).2 < 2 ^ 24 := by
  have pos := shiftN_snd_pos (n := x.n) hd (x.e - q)
  have ratio := shiftN_ratio x.n x.d (x.e - q)
  have upper := (floorLog2_bounds hn hd).2
  rw [Nat.div_lt_iff_lt_mul pos]
  have real : ((shiftN x.n x.d (x.e - q)).1 : ℚ) < 2 ^ 24 * (shiftN x.n x.d (x.e - q)).2 := by
    rw [← div_lt_iff₀ (by exact_mod_cast pos), ratio]
    calc (x.n : ℚ) / x.d * 2 ^ (x.e - q) < 2 ^ (floorLog2 x.n x.d + 1) * 2 ^ (x.e - q) := mul_lt_mul_of_pos_right upper (zpow_pos two_pos _)
      _ = 2 ^ (floorLog2 x.n x.d + 1 + (x.e - q)) := (zpow_add₀ two_ne_zero _ _).symm
      _ ≤ 2 ^ (24 : Int) := zpow_le_zpow_right₀ one_le_two (by omega)
      _ = 2 ^ 24 := by norm_num
  exact_mod_cast real

/-- A value of 2^128 or more lies beyond the largest number. -/
theorem beyond_of_large (h : 128 ≤ floorLog2 x.n x.d + x.e) : (2 ^ 24 - 1) * (shiftN x.n x.d (x.e - 104)).2 < (shiftN x.n x.d (x.e - 104)).1 := by
  have pos := shiftN_snd_pos (n := x.n) hd (x.e - 104)
  have ratio := shiftN_ratio x.n x.d (x.e - 104)
  have lower := (floorLog2_bounds hn hd).1
  have real : (2 : ℚ) ^ 24 * (shiftN x.n x.d (x.e - 104)).2 ≤ (shiftN x.n x.d (x.e - 104)).1 := by
    rw [← le_div_iff₀ (by exact_mod_cast pos), ratio]
    calc (2 : ℚ) ^ 24 = 2 ^ (24 : Int) := by norm_num
      _ ≤ 2 ^ (floorLog2 x.n x.d + (x.e - 104)) := zpow_le_zpow_right₀ one_le_two (by omega)
      _ = 2 ^ floorLog2 x.n x.d * 2 ^ (x.e - 104) := zpow_add₀ two_ne_zero _ _
      _ ≤ x.n / x.d * 2 ^ (x.e - 104) := mul_le_mul_of_nonneg_right lower (zpow_pos two_pos _).le
  have nat : 2 ^ 24 * (shiftN x.n x.d (x.e - 104)).2 ≤ (shiftN x.n x.d (x.e - 104)).1 := by exact_mod_cast real
  omega

end

/-- The steps of a rounded value: its place, and its magnitude there. -/
def roundedSteps (rm : RMode) (draw : Nat) (x : Ex) (q : Int) : Nat :=
  let p := shiftN x.n x.d (x.e - q)
  if roundUp rm x.neg (p.1 / p.2) (p.1 % p.2) p.2 draw then p.1 / p.2 + 1 else p.1 / p.2

theorem roundedSteps_le (rm : RMode) (draw : Nat) (x : Ex) (q : Int) :
    roundedSteps rm draw x q ≤ (shiftN x.n x.d (x.e - q)).1 / (shiftN x.n x.d (x.e - q)).2 + 1 := by
  unfold roundedSteps
  dsimp only
  split <;> omega

theorem roundedSteps_degenerate (rm : RMode) (draw : Nat) {x : Ex} (h : x.n = 0 ∨ x.d = 0) (q : Int) : roundedSteps rm draw x q ≤ 1 := by
  refine (roundedSteps_le rm draw x q).trans ?_
  rcases h with h | h <;> simp [h, shiftN_fst_zero, shiftN_snd_zero]

/-- The steps of a value, and its quantum where it is not beyond the largest number of F32. -/
theorem roundedSteps_f32 (rm : RMode) (draw : Nat) (x : Ex) :
    let q := max (floorLog2 x.n x.d + x.e) (-126) - 23
    roundedSteps rm draw x q ≤ 2 ^ 24 ∧
      (¬(2 ^ 24 - 1) * (shiftN x.n x.d (x.e - 104)).2 < (shiftN x.n x.d (x.e - 104)).1 → roundedSteps rm draw x q < 2 ^ 23 ∨ q ≤ 104) := by
  intro q
  by_cases proper : 0 < x.n ∧ 0 < x.d
  · obtain ⟨hn, hd⟩ := proper
    refine ⟨(roundedSteps_le rm draw x q).trans (magnitude_lt hn hd (by omega)), fun within => .inr ?_⟩
    have small := mt (beyond_of_large hn hd) within
    omega
  · have le := roundedSteps_degenerate rm draw (x := x) (by omega) q
    exact ⟨le.trans (by decide), fun _ => .inl (le.trans_lt (by decide))⟩

/-- The code of a magnitude that is not beyond the largest number. -/
theorem roundedCode_lt {m : Nat} {q : Int} (hm : m ≤ 2 ^ 24) (hq : m < 2 ^ 23 ∨ q ≤ 104) :
    (if m < 2 ^ 23 then m else m + (q - (-126 - 23)).toNat * 2 ^ 23) < 2 ^ 31 := by
  split
  · omega
  · have : (q - (-126 - 23)).toNat ≤ 253 := by omega
    omega

theorem fst_ite_lt {c : Prop} [Decidable c] {a b : Nat × Flags} {n : Nat} (ha : c → a.1 < n) (hb : ¬c → b.1 < n) : (if c then a else b).1 < n := by
  split
  · next h => exact ha h
  · next h => exact hb h

theorem roundFloat_f32_lt (rm : RMode) (ftz : Bool) (draw : Nat) (x : Ex) : (roundFloat .f32 rm ftz draw x).1 < 2 ^ 32 := by
  obtain ⟨small, within⟩ := roundedSteps_f32 rm draw x
  have sign : (if x.neg then 2 ^ (32 - 1) else 0) ≤ 2 ^ 31 := by split <;> omega
  have withSign {m : Nat} (h : m < 2 ^ 31) : (if x.neg then 2 ^ (32 - 1) else 0) + m < 2 ^ 32 := by omega
  have maxQ : ((nbits 0x7F7FFFFF 23 8 : Nat) : Int) - 127 - (23 : Nat) = 104 := rfl
  have maxM : 2 ^ 23 + nbits 0x7F7FFFFF 0 23 = 2 ^ 24 - 1 := rfl
  unfold roundFloat
  simp only [layout, Fmt.width, maxQ, maxM, Bool.true_and, Bool.not_true, Bool.false_and, Bool.false_eq_true, if_false, decide_eq_true_eq]
  exact fst_ite_lt (fun _ => fst_ite_lt (fun _ => withSign (by decide)) fun _ => withSign (by decide))
    fun inside => fst_ite_lt (fun _ => withSign (Nat.two_pow_pos 31)) fun _ => withSign (roundedCode_lt small (within inside))

/-- A result of F32 has 32 bits (R92). -/
theorem roundTo_f32_lt (rm : RMode) (ftz : Bool) (draw : Nat) (v : FV) : (roundTo .f32 rm ftz draw v).1 < 2 ^ 32 := by
  have isFloat : (Fmt.f32).isInt = false := rfl
  have sign (neg : Bool) : (if neg then 2 ^ ((Fmt.f32).width - 1) else 0) ≤ 2 ^ 31 := by cases neg <;> decide
  simp only [roundTo, isFloat, Bool.false_eq_true, if_false, reduceCtorEq]
  cases v with
  | nan s => exact (by decide : 0x7FC00000 < 2 ^ 32)
  | inf neg => exact (Nat.add_lt_add_of_le_of_lt (sign neg) (by decide : (2 ^ 8 - 1) * 2 ^ 23 < 2 ^ 31)).trans_le (by decide)
  | zero neg => exact (sign neg).trans_lt (by decide)
  | fin x => exact roundFloat_f32_lt rm ftz draw x

end Sys2Proof.Machine

/-!
The tile ports of a micro-word (Table 16.7).
-/
namespace Sys2Proof.Machine
open Sys2Proof.Claims

/-! ## Rows of a tile -/

theorem el_eq_nbits (v : VReg) (n : Nat) : el v 32 n 0 = nbits v.toNat (32 * n) 32 := rfl

/-- Element n of a row made of a list of values. -/
theorem rowGet_rowOfList (l : List (Nat × Flags)) {n : Nat} (h : n < 128) : rowGet (rowOfList l).1 n = (l.getD n (0, 0)).1 % 2 ^ 32 := by
  have number : l.foldr (fun p acc => p.1 % 2 ^ 32 + acc * 2 ^ 32) 0 =
      (l.map fun p => BitVec.ofNat 32 p.1).foldr (fun x acc => x.toNat + acc * 2 ^ 32) 0 := by
    rw [List.foldr_map]; rfl
  have at_ : (l.map fun p => BitVec.ofNat 32 p.1).getD n 0 = BitVec.ofNat 32 (l.getD n (0, 0)).1 := by
    simp only [List.getD_eq_getElem?_getD, List.getElem?_map]
    cases l[n]? <;> rfl
  rw [rowGet, rowOfList, BitVec.toNat_ofNat, nbits_mod_two_pow _ (by omega), number, nbits_foldr_lanes, at_, BitVec.toNat_ofNat]

/-- A lane of half a row. -/
theorem el_rowLanes (r : TileRow) (k : Nat) {n : Nat} (h : n < 64) : el (rowLanes r k) 32 n 0 = rowGet r (k + n) := by
  rw [el_eq_nbits, rowLanes, BitVec.extractLsb'_toNat, nbits_mod_two_pow _ (by omega), rowGet, nbits, nbits, Nat.shiftRight_eq_div_pow, Nat.div_div_eq_div_mul,
    ← Nat.pow_add, Nat.mul_add]

/-- Element n of a row made of two halves. -/
theorem rowGet_append (hi lo : VReg) {n : Nat} (h : n < 128) :
    rowGet (hi ++ lo : TileRow) n = if n < 64 then el lo 32 n 0 else el hi 32 (n - 64) 0 := by
  have value : (hi ++ lo : TileRow).toNat = lo.toNat + hi.toNat * 2 ^ 2048 := by
    rw [BitVec.toNat_append, ← Nat.shiftLeft_add_eq_or_of_lt lo.isLt, Nat.shiftLeft_eq, Nat.add_comm]
  rw [rowGet, value]
  split
  · next low => exact nbits_low _ lo.isLt (by omega)
  · next high =>
    obtain ⟨k, rfl⟩ : ∃ k, n = 64 + k := ⟨n - 64, by omega⟩
    rw [Nat.mul_add, Nat.add_sub_cancel_left]
    exact nbits_high _ _ _ lo.isLt

/-! ## Rows written -/

theorem Shift.row_setRow {x : Shift} (rises : RowsRise x) (ct : TNum) (i j : Nat) (r : TileRow) :
    (x.setRow ct i r).mx.row ct j = if j = i then r else x.mx.row ct j := by
  rw [Matrix.row, Shift.setRow, Shift.modMx, NMap.getD_put rises]
  simp only [Nat.add_left_cancel_iff]
  rfl

theorem Shift.rises_setRow {x : Shift} (rises : RowsRise x) (ct : TNum) (i : Nat) (r : TileRow) : RowsRise (x.setRow ct i r) := NMap.rises_put rises ..

theorem row_ofNum (x : Shift) (ct : TNum) (i n : Nat) : (NMap.getD x.mx.tiles (ct.val * 128 + i) 0).toNat / 2 ^ (32 * n) % 2 ^ 32 = rowGet (x.mx.row ct i) n := rfl

theorem OnlyTiles.trans {x y z : Shift} (h : OnlyTiles x y) (g : OnlyTiles y z) : OnlyTiles x z := by
  unfold OnlyTiles at *
  rw [h] at g
  exact g

theorem OnlyTiles.fields {x y : Shift} (h : OnlyTiles x y) : y.regs = x.regs ∧ y.sp = x.sp ∧ y.lane = x.lane := by
  rw [h]
  exact ⟨rfl, rfl, rfl⟩

theorem onlyTiles_setRow (x : Shift) (ct : TNum) (i : Nat) (r : TileRow) : OnlyTiles x (x.setRow ct i r) := rfl

/-! ## The outer product -/

/-- Element n of row i of the tile once the products of the inputs are added to it. -/
def MicroUnit.outerElem (u : MicroUnit) (row : TileRow) (i n : Nat) : Nat × Flags :=
  let v := fvFma .rne (decodeFV .bf16 (nbits u.ain.toNat (16 * i) 16)) (u.bElem n) (decodeFtz (ftzOf u.stat) .f32 (rowGet row n))
  let c := roundTo .f32 .rne (ftzOf u.stat) 0 v.1
  (c.1, v.2 ||| c.2)

/-- Row i of the tile once the products of the inputs are added to it. -/
def MicroUnit.outerRow (u : MicroUnit) (row : TileRow) (i : Nat) : TileRow × Flags := rowOfList ((List.range 128).map (u.outerElem row i))

/-- One row of `outer`. -/
def MicroUnit.outerStep (u : MicroUnit) (ct : TNum) (p : Shift × Flags) (i : Nat) : Shift × Flags :=
  (p.1.setRow ct i (u.outerRow (p.1.mx.row ct i) i).1, p.2 ||| (u.outerRow (p.1.mx.row ct i) i).2)

/-- The first n rows of `outer`. -/
def MicroUnit.outerRows (u : MicroUnit) (ct : TNum) (x : Shift) (n : Nat) : Shift × Flags := (List.range n).foldl (u.outerStep ct) (x, 0)

theorem zip_map_range {α β : Type} (f : Nat → α) (g : α × Nat → β) (n : Nat) :
    (((List.range n).map f).zip (List.range n)).map g = (List.range n).map fun k => g (f k, k) := by
  rw [List.zip_map_left, List.zip_eq_zipWith, List.zipWith_self, List.map_map, List.map_map]
  rfl

theorem execOuter_eq (s : State) :
    execOuter s = .next ((s.modX fun _ => (s.unit.outerRows s.tile s.x 128).1).raise (s.unit.outerRows s.tile s.x 128).2) := by
  simp only [execOuter, upto_zero, zip_map_range]
  rfl

section
variable (u : MicroUnit) (ct : TNum) (x : Shift)

theorem outerRows_succ (n : Nat) : u.outerRows ct x (n + 1) = u.outerStep ct (u.outerRows ct x n) n := by
  rw [MicroUnit.outerRows, List.range_succ, List.foldl_append]
  rfl

theorem onlyTiles_outerRows (n : Nat) : OnlyTiles x (u.outerRows ct x n).1 := by
  induction n with
  | zero => rfl
  | succ n ih =>
    rw [outerRows_succ]
    exact ih.trans (onlyTiles_setRow ..)

theorem outerRows_row (rises : RowsRise x) (n : Nat) :
    RowsRise (u.outerRows ct x n).1 ∧ ∀ i, (u.outerRows ct x n).1.mx.row ct i = if i < n then (u.outerRow (x.mx.row ct i) i).1 else x.mx.row ct i := by
  induction n with
  | zero => exact ⟨rises, fun i => (if_neg (Nat.not_lt_zero i)).symm⟩
  | succ n ih =>
    obtain ⟨still, rows⟩ := ih
    rw [outerRows_succ, MicroUnit.outerStep]
    refine ⟨Shift.rises_setRow still .., fun i => ?_⟩
    rw [Shift.row_setRow still, rows, rows]
    grind

theorem rowGet_outerRow (row : TileRow) (i : Nat) {n : Nat} (h : n < 128) :
    rowGet (u.outerRow row i).1 n = (roundTo .f32 .rne (ftzOf u.stat) 0
      (fvFma .rne (decodeFV .bf16 (el u.ain 16 0 i)) (u.bElem n) (decodeFtz (ftzOf u.stat) .f32 (rowGet row n))).1).1 := by
  have input : nbits u.ain.toNat (16 * i) 16 = el u.ain 16 0 i := by rw [el, Nat.mul_zero, Nat.zero_add]; rfl
  rw [MicroUnit.outerRow, rowGet_rowOfList _ h, List.getD_eq_getElem?_getD, List.getElem?_map, List.getElem?_range h]
  simp only [Option.map_some, Option.getD_some, MicroUnit.outerElem, input]
  exact Nat.mod_eq_of_lt (roundTo_f32_lt ..)

end

/-! ## The ports -/

theorem NMap.get?_none_of_no_key {α : Type} {m : NMap α} {a : Nat} (no : ∀ p ∈ m, p.1 ≠ a) : NMap.get? m a = none := by
  induction m with
  | nil => rfl
  | cons p m ih =>
    rw [NMap.get?, if_neg fun e => no p List.mem_cons_self e.symm, ih fun q hq => no q (List.mem_cons_of_mem p hq), ite_self]

theorem tileRow_eq (s : State) : s.tileRow = temp s 12 0 % 128 := by rw [State.tileRow, temp, el_eq_laneGet]

section
variable {s : State} {x : Shift} (h : OnLane s x)
include h

theorem shift_modX (f : Shift → Shift) : s.cur.sh.bind (s.modX f).sh? = some (f x) := by
  have after := (h.modX f).2
  rwa [State.modX_cur] at after

theorem bslot_sets : Sys2Proof.Machine.exec .bslot s = .next
    { (s.modUnit fun u => { u with bsl := some (if (x.mx.wslot x.wbh (temp s 14 0 % 8192)).state = 0 then some (x.mx.wslot x.wbh (temp s 14 0 % 8192)).body else none,
      x.bfmt, s.free) }) with free := s.free + 128 } := by
  have slot : (laneGet s.before.m[(14 : Fin 16)] 0).toNat = temp s 14 0 := (el_eq_laneGet ..).symm
  show execBslot s = _
  simp only [execBslot, h.x_eq, slot]

theorem crow_reads (a : Sel) (k : Nat) (e : Instr) (he : Sys2Proof.Machine.exec e s = .next (s.putSel a (rowLanes (s.x.mx.row s.tile s.tileRow) k) 64)) :
    ∃ v : VReg, Sys2Proof.Machine.exec e s = .next (s.putSel a v 64) ∧ ∀ n, n < 64 → el v 32 n 0 = rowGet (x.mx.row s.tile (temp s 12 0 % 128)) (k + n) := by
  rw [h.x_eq, tileRow_eq] at he
  exact ⟨_, he, fun n hn => el_rowLanes _ _ hn⟩

/-- A row written. -/
theorem cwrow_writes (e : Instr) (row : Shift → TileRow) (he : Sys2Proof.Machine.exec e s = .next (s.modX fun x => x.setRow s.tile s.tileRow (row x))) :
    ∃ t y, Sys2Proof.Machine.exec e s = .next t ∧ s.cur.sh.bind t.sh? = some y ∧ y.regs = x.regs ∧
      (RowsRise x → y.mx.row s.tile (temp s 12 0 % 128) = row x) := by
  refine ⟨_, _, he, shift_modX h _, rfl, fun rises => ?_⟩
  rw [tileRow_eq, Shift.row_setRow rises, if_pos rfl]

theorem cwrow_low (a : Sel) : ∃ t y, Sys2Proof.Machine.exec (.cwrow a) s = .next t ∧ s.cur.sh.bind t.sh? = some y ∧ y.regs = x.regs ∧ (RowsRise x →
    ∀ n, n < 128 → rowGet (y.mx.row s.tile (temp s 12 0 % 128)) n =
      if n < 64 then el (s.sel s.cur.imm a) 32 n 0 else rowGet (x.mx.row s.tile (temp s 12 0 % 128)) n) := by
  obtain ⟨t, y, run, hy, regs, row⟩ := cwrow_writes h (.cwrow a) (fun x => rowLanes (x.mx.row s.tile s.tileRow) 64 ++ s.sel s.cur.imm a) rfl
  refine ⟨t, y, run, hy, regs, fun rises n hn => ?_⟩
  rw [row rises, rowGet_append _ _ hn, tileRow_eq]
  split
  · rfl
  · rw [el_rowLanes _ _ (by omega), Nat.add_sub_cancel' (by omega)]

theorem cwrow_high (a : Sel) : ∃ t y, Sys2Proof.Machine.exec (.cwrowhi a) s = .next t ∧ s.cur.sh.bind t.sh? = some y ∧ y.regs = x.regs ∧ (RowsRise x →
    ∀ n, n < 128 → rowGet (y.mx.row s.tile (temp s 12 0 % 128)) n =
      if 64 ≤ n then el (s.sel s.cur.imm a) 32 (n - 64) 0 else rowGet (x.mx.row s.tile (temp s 12 0 % 128)) n) := by
  obtain ⟨t, y, run, hy, regs, row⟩ := cwrow_writes h (.cwrowhi a) (fun x => s.sel s.cur.imm a ++ rowLanes (x.mx.row s.tile s.tileRow) 0) rfl
  refine ⟨t, y, run, hy, regs, fun rises n hn => ?_⟩
  rw [row rises, rowGet_append _ _ hn, tileRow_eq]
  by_cases low : n < 64
  · rw [if_pos low, if_neg (by omega), el_rowLanes _ _ low, Nat.zero_add]
  · rw [if_neg low, if_pos (by omega)]

theorem outer_adds : ∃ t y, Sys2Proof.Machine.exec .outer s = .next t ∧ s.cur.sh.bind t.sh? = some y ∧ y.regs = x.regs ∧ y.sp = x.sp ∧ y.lane.m = x.lane.m ∧
    (RowsRise x → ∀ i n, i < 128 → n < 128 → rowGet (y.mx.row s.tile i) n = (roundTo .f32 .rne (ftzOf x.lane.stat) 0
      (fvFma .rne (decodeFV .bf16 (el x.lane.ain 16 0 i)) (x.lane.bElem n) (decodeFtz (ftzOf x.lane.stat) .f32 (rowGet (x.mx.row s.tile i) n))).1).1) := by
  have run : Sys2Proof.Machine.exec .outer s = _ := execOuter_eq s
  rw [h.unit_eq, h.x_eq] at run
  have only := (onlyTiles_outerRows x.lane s.tile x 128).fields
  have rows (rises : RowsRise x) := (outerRows_row x.lane s.tile x rises 128).2
  generalize x.lane.outerRows s.tile x 128 = r at run only rows
  obtain ⟨regs, sp, lane⟩ := only
  have after := ((h.modX fun _ => r.1).modUnit fun u => { u with flags := u.flags ||| r.2 }).2
  rw [State.modUnit_cur, State.modX_cur] at after
  refine ⟨_, _, run, after, regs, sp, (congrArg MicroUnit.m lane :), fun rises i n hi hn => ?_⟩
  have row := rows rises i
  rw [if_pos hi] at row
  exact (congrArg (rowGet · n) row).trans (rowGet_outerRow _ _ _ hn)

/-- Every row of a tile that is cleared. -/
theorem tclr_clears : ∃ t y, Sys2Proof.Machine.exec .tclr s = .next t ∧ s.cur.sh.bind t.sh? = some y ∧ y.regs = x.regs ∧
    ∀ i n, i < 128 → rowGet (y.mx.row s.tile i) n = 0 := by
  refine ⟨_, _, rfl, shift_modX h _, rfl, fun i n hi => ?_⟩
  have gone : NMap.get? (x.mx.tiles.filter fun p => p.1 / 128 != s.tile.val) (s.tile.val * 128 + i) = none := by
    refine NMap.get?_none_of_no_key fun p hp key => ?_
    have other := (List.mem_filter.1 hp).2
    rw [key, bne_iff_ne] at other
    omega
  rw [Matrix.row, Shift.modMx, NMap.getD, gone]
  simp [rowGet, nbits]

end

/-- Settles O39: each tile port sets its input, moves its half of a row or writes its rows, one row after another. -/
theorem tilePortsWorkOnTheirTile : Obligations.TilePortsWorkOnTheirTile := by
  unfold Obligations.TilePortsWorkOnTheirTile
  intro s x a h
  simp only [row_ofNum]
  refine ⟨rfl, rfl, bslot_sets h, ?_, crow_reads h a 64 (.crowhi a) rfl, cwrow_low h a, cwrow_high h a, outer_adds h, tclr_clears h⟩
  simpa only [Nat.zero_add] using crow_reads h a 0 (.crow a) rfl

end Sys2Proof.Machine

/-!
The function unit of a micro-word: the lane operations and the engine operations (Table 16.5, R306).
-/
namespace Sys2Proof.Machine
open Sys2Proof.Claims

/-! ## Lane operations -/

theorem toNat_ofNat_lane {n : Nat} (h : n < 64) : (BitVec.ofNat 32 n).toNat = n := by
  rw [BitVec.toNat_ofNat]
  exact Nat.mod_eq_of_lt (h.trans (by decide))

theorem laneGet_eq_zero_iff (v : VReg) (i : Nat) : laneGet v i = 0 ↔ el v 32 i 0 = 0 := by
  rw [el_eq_laneGet]
  exact BitVec.toNat_inj.symm

theorem laneGet_eq_one_iff (v : VReg) (i : Nat) : laneGet v i = 1 ↔ el v 32 i 0 = 1 := by
  rw [el_eq_laneGet]
  exact BitVec.toNat_inj.symm

theorem laneSum_eq (a : VReg) (n : Nat) : laneSum a n = ((List.range n).map fun j => el a 32 j 0).sum := by
  simp only [laneSum, upto_zero, List.sum_eq_foldl, el_eq_laneGet]

theorem el_ofLanes (f : Nat → Lane) {i : Nat} (h : i < 64) : el (ofLanes f) 32 i 0 = (f i).toNat := by
  rw [el_eq_laneGet, laneGet_ofLanes _ h]

theorem el_bcast (n : Nat) {i : Nat} (h : i < 64) : el (bcast n) 32 i 0 = n % 2 ^ 32 := by
  rw [bcast, el_ofLanes _ h, BitVec.toNat_ofNat]

/-- A register that gathers the highest active lane that goes to each place. -/
theorem el_gatherLanes {vl : Nat} (le : vl ≤ 64) (dest : Nat → Option Nat) (goes : Nat → Nat → Prop) [∀ i k, Decidable (goes i k)]
    (same : ∀ i k, dest i = some k ↔ goes i k) {k : Nat} (h : k < 64) :
    el (gatherLanes vl dest) 32 k 0 = (((List.range vl).filter fun i => decide (goes i k)).getLast?).getD 0 := by
  have test : (fun i => dest i == some k) = fun i => decide (goes i k) := funext fun i => by
    rw [Bool.eq_iff_iff, beq_iff_eq, decide_eq_true_iff, same]
  rw [gatherLanes, el_ofLanes _ h, upto_zero, test]
  cases last : ((List.range vl).filter fun i => decide (goes i k)).getLast? with
  | none => rfl
  | some i =>
    have lt := List.mem_range.1 (List.mem_filter.1 (List.mem_of_getLast? last)).1
    exact toNat_ofNat_lane (lt.trans_le le)

section
variable {s : State} (le : s.before.vl ≤ 64) (imm : BitVec 12) (d a b : Sel)
include le

theorem lane_lidx : ∀ k, k < s.before.vl → el (ofLanes fun i => BitVec.ofNat 32 i) 32 k 0 = k := fun k hk => by
  rw [el_ofLanes _ (by omega), toNat_ofNat_lane (by omega)]

theorem lane_pnz : ∀ k, k < s.before.vl → el (ofLanes fun i => if laneGet (s.sel imm a) i = 0 then 0 else 1) 32 k 0 = if src s imm a k = 0 then 0 else 1 :=
  fun k hk => by
    rw [el_ofLanes _ (by omega), src]
    simp only [laneGet_eq_zero_iff]
    split <;> rfl

theorem lane_pscan : ∀ k, k < s.before.vl → el (ofLanes fun i => BitVec.ofNat 32 (laneSum (s.sel s.cur.imm a) i)) 32 k 0 = total s a k := fun k hk => by
  rw [el_ofLanes _ (by omega), BitVec.toNat_ofNat, laneSum_eq]
  rfl

theorem lane_ptot : ∀ k, k < s.before.vl → el (bcast (laneSum (s.sel s.cur.imm a) s.before.vl)) 32 k 0 = total s a s.before.vl := fun k hk => by
  rw [el_bcast _ (by omega), laneSum_eq]
  rfl

theorem lane_pclamp : ∀ k, k < s.before.vl → el (ofLanes fun i => BitVec.ofNat 32 (min (laneGet (s.sel imm a) i).toNat imm.toNat)) 32 k 0 =
    min (src s imm a k) imm.toNat := fun k hk => by
  have lt : src s imm a k < 2 ^ 32 := Nat.mod_lt _ (by decide)
  rw [el_ofLanes _ (by omega), BitVec.toNat_ofNat, ← el_eq_laneGet]
  exact Nat.mod_eq_of_lt ((Nat.min_le_left ..).trans_lt lt)

theorem lane_pcnt : ∀ k, k < s.before.vl → el (ofLanes fun i => if (laneGet (s.sel imm a) i).toNat = imm.toNat then 1 else 0) 32 k 0 =
    if src s imm a k = imm.toNat then 1 else 0 := fun k hk => by
  rw [el_ofLanes _ (by omega), src, el_eq_laneGet]
  split <;> rfl

theorem lane_pcomp : ∀ k, k < 64 →
    el (gatherLanes s.before.vl fun i => if laneGet (s.sel imm a) i = 1 then some (laneGet (s.sel imm b) i).toNat else none) 32 k 0 =
      packed s (fun i k => src s imm a i = 1 ∧ src s imm b i = k) k := fun k hk =>
  el_gatherLanes le _ (fun i k => src s imm a i = 1 ∧ src s imm b i = k) (fun i k => by
    simp only [src, el_eq_laneGet (s.sel imm b), laneGet_eq_one_iff, Option.ite_none_right_eq_some, Option.some.injEq]) hk

theorem lane_pcompf : ∀ k, k < 64 →
    el (gatherLanes s.before.vl fun i => if laneGet (s.sel imm a) i = 0 ∧ (laneGet (s.sel imm b) i).toNat ≤ i then some (i - (laneGet (s.sel imm b) i).toNat) else none) 32 k 0 =
      packed s (fun i k => src s imm a i = 0 ∧ src s imm b i + k = i) k := fun k hk =>
  el_gatherLanes le _ (fun i k => src s imm a i = 0 ∧ src s imm b i + k = i) (fun i k => by
    simp only [src, el_eq_laneGet (s.sel imm b), laneGet_eq_zero_iff, Option.ite_none_right_eq_some, Option.some.injEq]
    omega) hk

end

/-- The lane operations of Table 16.5 give each lane its value. -/
theorem laneStep_runs {s : State} {i : Instr} {d : Sel} {n : Nat} {f : Nat → Nat} (step : laneStep s i = some (d, n, f)) (le : s.before.vl ≤ 64) :
    ∃ v : VReg, Sys2Proof.Machine.exec i s = .next (s.putSel d v n) ∧ ∀ k, k < n → el v 32 k 0 = f k := by
  unfold laneStep at step
  split at step
  case h_10 => cases step
  all_goals obtain ⟨rfl, rfl, rfl⟩ : _ ∧ _ ∧ _ := by simpa using step
  case h_1 d a imm => exact ⟨_, rfl, fun k _ => rfl⟩
  case h_2 => exact ⟨_, rfl, lane_lidx le⟩
  case h_3 a => exact ⟨_, rfl, lane_pnz le _ a⟩
  case h_4 a => exact ⟨_, rfl, lane_pscan le a⟩
  case h_5 a b => exact ⟨_, rfl, lane_pcomp le _ a b⟩
  case h_6 a b => exact ⟨_, rfl, lane_pcompf le _ a b⟩
  case h_7 a => exact ⟨_, rfl, lane_ptot le a⟩
  case h_8 a imm => exact ⟨_, rfl, lane_pclamp le imm a⟩
  case h_9 a imm => exact ⟨_, rfl, lane_pcnt le imm a⟩

end Sys2Proof.Machine

/-!
The engine operations of a micro-word on 72-bit values, and what a destination takes (Table 16.5, R306).
-/
namespace Sys2Proof.Machine
open Sys2Proof.Claims

/-! ## Engine operations -/

theorem toInt_eq_signed (v : Addr) : v.toInt = signed 72 v.toNat := by
  rw [signed, Nat.mod_eq_of_lt v.isLt, BitVec.toInt]
  have half : 2 * v.toNat < 2 ^ 72 ↔ v.toNat < 2 ^ (72 - 1) := by omega
  simp only [half]
  rfl

theorem wide_eq (s : State) (imm : BitVec 12) (a : Sel) : wide s imm a = ((s.sel imm a).setWidth 72 : Addr).toNat := (BitVec.toNat_setWidth ..).symm

/-- A 72-bit value in a register, by its residue. -/
theorem setWidth_ofInt (r : Int) : (BitVec.ofInt 72 r).setWidth 2048 = BitVec.ofNat 2048 (r % 2 ^ 72).toNat := by
  apply BitVec.eq_of_toNat_eq
  have small : (r % 2 ^ 72).toNat < 2 ^ 72 := by omega
  rw [BitVec.toNat_setWidth_of_le (by decide), BitVec.toNat_ofInt, BitVec.toNat_ofNat,
    Nat.mod_eq_of_lt (small.trans (Nat.pow_lt_pow_right (by decide) (by decide)))]
  rfl

theorem ofInt_toNat (v : Addr) : BitVec.ofInt 72 v.toNat = v := by
  rw [BitVec.ofInt_natCast, BitVec.ofNat_toNat, BitVec.setWidth_eq]

section
variable (x y : Addr)

theorem alu_add : x + y = BitVec.ofInt 72 (x.toNat + y.toNat) := by rw [BitVec.ofInt_add, ofInt_toNat, ofInt_toNat]

theorem alu_sub : x - y = BitVec.ofInt 72 (x.toNat - y.toNat) := by
  rw [Int.sub_eq_add_neg, BitVec.ofInt_add, BitVec.ofInt_neg, ofInt_toNat, ofInt_toNat, BitVec.sub_eq_add_neg]

theorem alu_mul : x * y = BitVec.ofInt 72 (x.toNat * y.toNat) := by rw [BitVec.ofInt_mul, ofInt_toNat, ofInt_toNat]

theorem alu_min : (if x.toInt < y.toInt then x else y) = BitVec.ofInt 72 (min (signed 72 x.toNat) (signed 72 y.toNat)) := by
  rw [← toInt_eq_signed, ← toInt_eq_signed]
  split
  · next lt => rw [min_eq_left lt.le, BitVec.ofInt_toInt]
  · next ge => rw [min_eq_right (not_lt.1 ge), BitVec.ofInt_toInt]

theorem alu_max : (if x.toInt < y.toInt then y else x) = BitVec.ofInt 72 (max (signed 72 x.toNat) (signed 72 y.toNat)) := by
  rw [← toInt_eq_signed, ← toInt_eq_signed]
  split
  · next lt => rw [max_eq_right lt.le, BitVec.ofInt_toInt]
  · next ge => rw [max_eq_left (not_lt.1 ge), BitVec.ofInt_toInt]

theorem alu_and : x &&& y = BitVec.ofInt 72 (x.toNat &&& y.toNat : Nat) := by rw [← BitVec.toNat_and, ofInt_toNat]
theorem alu_or : x ||| y = BitVec.ofInt 72 (x.toNat ||| y.toNat : Nat) := by rw [← BitVec.toNat_or, ofInt_toNat]
theorem alu_xor : x ^^^ y = BitVec.ofInt 72 (x.toNat ^^^ y.toNat : Nat) := by rw [← BitVec.toNat_xor, ofInt_toNat]

theorem alu_shl (n : Nat) : x <<< n = BitVec.ofInt 72 (x.toNat * 2 ^ n) := by
  apply BitVec.eq_of_toNat_eq
  have cast : ((x.toNat : Int) * 2 ^ n) = ((x.toNat * 2 ^ n : Nat) : Int) := by norm_cast
  rw [cast, BitVec.ofInt_natCast, BitVec.toNat_ofNat, BitVec.toNat_shiftLeft, Nat.shiftLeft_eq]

theorem alu_shr (n : Nat) : x >>> n = BitVec.ofInt 72 (x.toNat / 2 ^ n) := by
  have cast : ((x.toNat : Int) / 2 ^ n) = ((x.toNat / 2 ^ n : Nat) : Int) := by norm_cast
  rw [cast, ← Nat.shiftRight_eq_div_pow, ← BitVec.toNat_ushiftRight, ofInt_toNat]

theorem alu_sra (n : Nat) : x.sshiftRight n = BitVec.ofInt 72 (signed 72 x.toNat / 2 ^ n) := by
  have shifted : signed 72 x.toNat / 2 ^ n = (x.sshiftRight n).toInt := by
    rw [BitVec.toInt_sshiftRight, Int.shiftRight_eq_div_pow, toInt_eq_signed]
    norm_cast
  rw [shifted, BitVec.ofInt_toInt]

end

/-- The engine operations of Table 16.5 on 72-bit values. -/
theorem engineAlu_runs {s : State} {fop : BitVec 8} {d a b e : Sel} {imm : BitVec 12} {r : Int}
    (step : engineStep s (.microEngineAlu fop d a b imm) = some (e, r)) :
    Sys2Proof.Machine.exec (.microEngineAlu fop d a b imm) s = .next (s.putSel e (BitVec.ofNat 2048 (r % 2 ^ 72).toNat) 1) := by
  have run : execMicroEngineAlu fop d a b imm s =
      .next (s.putSel d ((engineAlu fop.toNat ((s.sel imm a).setWidth 72) ((s.sel imm b).setWidth 72)).setWidth 2048) 1) := rfl
  show execMicroEngineAlu fop d a b imm s = _
  rw [← setWidth_ofInt, run]
  simp only [engineStep, wide_eq] at step
  generalize ((s.sel imm a).setWidth 72 : Addr) = x at step
  generalize ((s.sel imm b).setWidth 72 : Addr) = y at step
  generalize fop.toNat = n at step
  split at step
  case h_12 => cases step
  all_goals obtain ⟨rfl, rfl⟩ : _ ∧ _ := by simpa using step
  case h_1 => rw [← alu_add]; rfl
  case h_2 => rw [← alu_sub]; rfl
  case h_3 => rw [← alu_mul]; rfl
  case h_4 => rw [← alu_min]; rfl
  case h_5 => rw [← alu_max]; rfl
  case h_6 => rw [← alu_and]; rfl
  case h_7 => rw [← alu_or]; rfl
  case h_8 => rw [← alu_xor]; rfl
  case h_9 => rw [← alu_shl]; rfl
  case h_10 => rw [← alu_shr]; rfl
  case h_11 => rw [← alu_sra]; rfl

theorem toNat_emod_of_lt {n : Nat} (h : n < 2 ^ 72) : ((n : Int) % 2 ^ 72).toNat = n := by omega

theorem engineStep_runs {s : State} {i : Instr} {d : Sel} {r : Int} (step : engineStep s i = some (d, r)) :
    Sys2Proof.Machine.exec i s = .next (s.putSel d (BitVec.ofNat 2048 (r % 2 ^ 72).toNat) 1) := by
  unfold engineStep at step
  split at step
  case h_1 => exact engineAlu_runs step
  case h_2 e a imm =>
    obtain ⟨rfl, rfl⟩ : e = d ∧ _ = r := by simpa using step
    have cast : (wide s imm a : Int) % 2 ^ imm.toNat = (wide s imm a % 2 ^ imm.toNat : Nat) := by norm_cast
    have lt : wide s imm a < 2 ^ 72 := Nat.mod_lt _ (by decide)
    rw [cast, toNat_emod_of_lt ((Nat.mod_le ..).trans_lt lt)]
    rfl
  case h_3 e a imm =>
    obtain ⟨rfl, rfl⟩ : e = d ∧ _ = r := by simpa only [Option.some.injEq, Prod.mk.injEq] using step
    have low : wide s imm a % 2 ^ 32 = (s.sel imm a).toNat % 2 ^ 32 := Nat.mod_mod_of_dvd _ (pow_dvd_pow 2 (by decide))
    rw [low, toNat_emod_of_lt (by omega)]
    rfl
  case h_4 => cases step

/-! ## What a destination takes -/

theorem execMicroVectorFop_eq (s : State) {fop : BitVec 8} {ft : BitVec 2} {d a b : Sel} {imm : BitVec 12} {i : Instr} (op : vectorOp fop ft d a b imm = some i) :
    Sys2Proof.Machine.exec (.microVectorFop fop ft d a b imm) s =
      .next (((s.modX fun _ => (vectorResult i s.before.stat (s.sel imm a) (s.sel imm b) (s.sel imm d) s.x s.before.vl).1.2.2).putSel d
        (vectorResult i s.before.stat (s.sel imm a) (s.sel imm b) (s.sel imm d) s.x s.before.vl).1.1
        (vectorResult i s.before.stat (s.sel imm a) (s.sel imm b) (s.sel imm d) s.x s.before.vl).2).raise
        (vectorResult i s.before.stat (s.sel imm a) (s.sel imm b) (s.sel imm d) s.x s.before.vl).1.2.1) := by
  show execMicroVectorFop fop ft d a b imm s = _
  rw [execMicroVectorFop, op]

/-- A temporary written: the others stay, and it takes the lanes or the 72-bit value. -/
theorem putSel_temporary {s : State} (h : Stands s) (k : Fin 16) (v : VReg) (n : Nat) : ∃ u, Becomes s (s.putSel (.m k) v n) u ∧
    (∀ l, l ≠ k → u.m[l] = s.unit.m[l]) ∧
    (s.onLane = true → ∀ j, j < 64 → el u.m[k] 32 j 0 = if j < n then el v 32 j 0 else el s.unit.m[k] 32 j 0) ∧
    (s.onLane = false → u.m[k].toNat = v.toNat % 2 ^ 72) := by
  refine ⟨s.unit.putTemp s.onLane k v n, h.becomes _, fun l ne => putTemp_other _ _ _ _ _ ne, fun lane j hj => ?_, fun engine => ?_⟩
  · rw [lane, el_putTemp _ _ _ _ hj]
  · rw [engine, toNat_putTemp]

end Sys2Proof.Machine

/-!
The division steps of a micro-routine (R331).
-/
namespace Sys2Proof.Machine
open Sys2Proof.Claims

/-! ## Operands -/

/-- The significand and the exponent of a finite operand of F32. -/
def F32Bounds (p : Ex) : Prop := 0 < p.n ∧ p.n < 2 ^ 24 ∧ -149 ≤ p.e + p.n.log2 ∧ p.e + p.n.log2 ≤ 127

theorem decodeFloat_f32 (c : Nat) : decodeFloat .f32 c =
    if (true && decide (nbits c 23 8 = 2 ^ 8 - 1)) = true then (if nbits c 0 23 = 0 then .inf (nbit c 31) else .nan (!nbit (nbits c 0 23) 22))
    else if Fmt.f32 = .e4m3 ∧ nbits c 23 8 = 15 ∧ nbits c 0 23 = 7 then .nan false
    else if nbits c 23 8 = 0 then
      if nbits c 0 23 = 0 then .zero (nbit c 31) else .fin { neg := nbit c 31, n := nbits c 0 23, d := 1, e := 1 - 127 - (23 : Nat) }
    else .fin { neg := nbit c 31, n := 2 ^ 23 + nbits c 0 23, d := 1, e := (nbits c 23 8 : Int) - 127 - (23 : Nat) } := rfl

theorem decodeFloat_f32_bounds {c : Nat} {p : Ex} (h : decodeFloat .f32 c = .fin p) : F32Bounds p := by
  have fraction : nbits c 0 23 < 2 ^ 23 := Nat.mod_lt _ (by decide)
  have field : nbits c 23 8 < 2 ^ 8 := Nat.mod_lt _ (by decide)
  rw [decodeFloat_f32] at h
  simp only [Bool.true_and, decide_eq_true_eq, reduceCtorEq, false_and, if_false] at h
  split at h
  · split at h <;> cases h
  · next finite =>
    split at h
    · split at h
      · cases h
      · next nonzero =>
        cases h
        have low : (nbits c 0 23).log2 < 23 := (Nat.log2_lt nonzero).2 fraction
        exact ⟨Nat.pos_of_ne_zero nonzero, by dsimp only; omega, by dsimp only; omega, by dsimp only; omega⟩
    · next normal =>
      cases h
      have log : (2 ^ 23 + nbits c 0 23).log2 = 23 := (Nat.log2_eq_iff (by omega)).2 ⟨by omega, by omega⟩
      exact ⟨by dsimp only; omega, by dsimp only; omega, by simp only [log]; omega, by simp only [log]; omega⟩

theorem decodeFtz_f32_bounds {ftz : Bool} {c : Nat} {p : Ex} (h : decodeFtz ftz .f32 c = .fin p) : F32Bounds p := by
  unfold decodeFtz at h
  split at h
  · cases h
  · exact decodeFloat_f32_bounds h

/-! ## The start -/

section
variable (ftz : Bool) (free : Nat) (a b : Lane)

theorem divStart_special (h : (∀ p, decodeFtz ftz .f32 a.toNat ≠ .fin p) ∨ ∀ q, decodeFtz ftz .f32 b.toNat ≠ .fin q) :
    (divStart ftz free a b).1 = BitVec.ofNat 32 (divSpecial (fvDiv (decodeFtz ftz .f32 a.toNat) (decodeFtz ftz .f32 b.toNat)).1
      (fvDiv (decodeFtz ftz .f32 a.toNat) (decodeFtz ftz .f32 b.toNat)).2) := by
  unfold divStart
  generalize decodeFtz ftz .f32 a.toNat = u at h
  generalize decodeFtz ftz .f32 b.toNat = v at h
  rcases h with h | h
  · cases u with
    | fin p => exact absurd rfl (h p)
    | _ => rfl
  · cases v with
    | fin q => exact absurd rfl (h q)
    | _ => cases u <;> rfl

/-- The special mark. -/
theorem divSpecial_mark (v : FV) (fl : Flags) : divSpecial v fl % 2 ^ 32 / 2 ^ 30 % 2 = 1 := by
  have small := fl.isLt
  have sign : bnat v.neg ≤ 1 := by unfold bnat; split <;> decide
  unfold divSpecial
  dsimp only
  generalize bnat v.neg = neg at sign
  cases v <;> dsimp only <;> omega

variable {p q : Ex}

/-- The significand of an operand in [2^23, 2^24). -/
def Ex.significand (p : Ex) : Nat := p.n * 2 ^ (23 - p.n.log2)

theorem significand_lt (h : F32Bounds p) : p.significand < 2 ^ 24 := by
  obtain ⟨pos, lt, _, _⟩ := h
  have log : p.n.log2 < 24 := (Nat.log2_lt (by omega)).2 lt
  calc p.n * 2 ^ (23 - p.n.log2) < 2 ^ (p.n.log2 + 1) * 2 ^ (23 - p.n.log2) := Nat.mul_lt_mul_of_pos_right Nat.lt_log2_self (Nat.two_pow_pos _)
    _ = 2 ^ 24 := by rw [← Nat.pow_add]; congr 1; omega

/-- What `divpre` leaves for finite operands. -/
theorem divStart_finite (hp : decodeFtz ftz .f32 a.toNat = .fin p) (hq : decodeFtz ftz .f32 b.toNat = .fin q) :
    let fa := p.significand
    let fb := q.significand
    let r := divStart ftz free a b
    r.2.1.toNat = (if fb ≤ fa then fa else 2 * fa) ∧ r.2.2.1.toNat = 2 * fb ∧ r.2.2.2 = 0 ∧ r.1.toNat / 2 ^ 30 % 2 = 0 ∧
      (r.1.toNat / 2 ^ 31 % 2 = 1 ↔ p.neg ≠ q.neg) ∧
      ((r.1.toNat % 2 ^ 10 : Nat) : Int) - 512 = (p.e + p.n.log2) - (q.e + q.n.log2) - (if fb ≤ fa then 0 else 1) := by
  have bp := decodeFtz_f32_bounds hp
  have bq := decodeFtz_f32_bounds hq
  have la := significand_lt bp
  have lb := significand_lt bq
  obtain ⟨_, _, plo, phi⟩ := bp
  obtain ⟨_, _, qlo, qhi⟩ := bq
  have start : divStart ftz free a b = (BitVec.ofNat 32 (bnat (p.neg != q.neg) * 2 ^ 31 +
        ((p.e + p.n.log2) - (q.e + q.n.log2) - ((if q.significand ≤ p.significand then 0 else 1 : Nat) : Int) + 512).toNat),
      BitVec.ofNat 32 (p.significand * 2 ^ (if q.significand ≤ p.significand then 0 else 1)), BitVec.ofNat 32 (2 * q.significand), 0) := by
    unfold divStart
    rw [hp, hq]
    rfl
  intro fa fb r
  rw [show r = _ from start]
  have sign : bnat (p.neg != q.neg) ≤ 1 := by unfold bnat; split <;> decide
  have differ : bnat (p.neg != q.neg) = 1 ↔ p.neg ≠ q.neg := by simp [bnat]
  rw [← differ]
  generalize bnat (p.neg != q.neg) = neg at sign
  simp only [BitVec.toNat_ofNat]
  by_cases le : fb ≤ fa
  · simp only [show q.significand ≤ p.significand from le, le, if_true]
    refine ⟨?_, ?_, trivial, ?_, ?_, ?_⟩ <;> omega
  · simp only [show ¬q.significand ≤ p.significand from le, le, if_false]
    refine ⟨?_, ?_, trivial, ?_, ?_, ?_⟩ <;> omega

end

/-! ## Steps of the lane sequencer -/

theorem before_vl_modUnit {s : State} {f : MicroUnit → MicroUnit} (st : Stands s) (keeps : ∀ u, (f u).vl = u.vl) : (s.modUnit f).before.vl = s.before.vl := by
  rw [State.before, State.before, State.modUnit_cur, st.unit_modUnit]
  cases s.cur.old with
  | none => exact keeps _
  | some _ => rfl

/-- Temporary k written in the active lanes. -/
theorem OnLane_putActive {s : State} {x : Shift} (h : OnLane s x) (k : Fin 16) (v : VReg) :
    OnLane (s.putActive (.m k) v) { x with lane := x.lane.putTemp true k v s.before.vl } ∧ (s.putActive (.m k) v).before.vl = s.before.vl ∧
      (s.putActive (.m k) v).cur = s.cur := by
  have eq : s.putActive (.m k) v = s.modUnit (MicroUnit.putTemp true k v s.before.vl) := by rw [State.putActive, putSel_temp, h.onLane]
  rw [eq]
  exact ⟨h.modUnit _, before_vl_modUnit (.inl ⟨x, h⟩) fun _ => rfl, State.modUnit_cur ..⟩

theorem el_ofLaneList_map {α : Type} (g : Nat → α) (w : α → Lane) {i : Nat} (h : i < 64) :
    el (ofLaneList (((upto 0 64).map g).map w)) 32 i 0 = (w (g i)).toNat := by
  rw [el_eq_laneGet, laneGet_ofLaneList _ h, upto_zero]
  simp [h]

/-- Lane i of temporary k after the active lanes of it were written. -/
theorem el_putActive (u : MicroUnit) (k : Fin 16) (v : VReg) {n i : Nat} (hi : i < 64) (hn : i < n) : el (u.putTemp true k v n).m[k] 32 i 0 = el v 32 i 0 := by
  rw [el_putTemp _ _ _ _ hi, if_pos hn]

/-- What `divpre` leaves in m0 to m3 of an active lane. -/
theorem divpre_leaves {s : State} {x : Shift} (h : OnLane s x) (a b : Sel) : ∃ t u, Sys2Proof.Machine.exec (.divpre (.m 0) a b) s = .next t ∧
    s.cur.sh.bind t.sh? = some u ∧ ∀ i, i < 64 → i < s.before.vl →
      let r := divStart (ftzOf s.before.stat) (s.free + 3 * i) (laneGet (s.sel s.cur.imm a) i) (laneGet (s.sel s.cur.imm b) i)
      el u.lane.m[(0 : Fin 16)] 32 i 0 = r.1.toNat ∧ el u.lane.m[(1 : Fin 16)] 32 i 0 = r.2.1.toNat ∧ el u.lane.m[(2 : Fin 16)] 32 i 0 = r.2.2.1.toNat ∧
        el u.lane.m[(3 : Fin 16)] 32 i 0 = r.2.2.2.toNat := by
  generalize ha : s.sel s.cur.imm a = va
  generalize hb : s.sel s.cur.imm b = vb
  let r := (upto 0 64).map fun i => divStart (ftzOf s.before.stat) (s.free + 3 * i) (laneGet va i) (laneGet vb i)
  obtain ⟨h0, vl0, cur0⟩ := OnLane_putActive h 0 (ofLaneList (r.map (·.1)))
  obtain ⟨h1, vl1, cur1⟩ := OnLane_putActive h0 1 (ofLaneList (r.map (·.2.1)))
  obtain ⟨h2, vl2, cur2⟩ := OnLane_putActive h1 2 (ofLaneList (r.map (·.2.2.1)))
  obtain ⟨h3, _, cur3⟩ := OnLane_putActive h2 3 (ofLaneList (r.map (·.2.2.2)))
  have run : execDivpre (.m 0) a b s = .next { ((((s.putActive (.m 0) (ofLaneList (r.map (·.1)))).putActive (.m 1) (ofLaneList (r.map (·.2.1)))).putActive (.m 2)
      (ofLaneList (r.map (·.2.2.1)))).putActive (.m 3) (ofLaneList (r.map (·.2.2.2)))) with free := s.free + 192 } := by
    rw [execDivpre, ha, hb]
  have after := h3.2
  rw [cur3, cur2, cur1, cur0] at after
  rw [vl2, vl1, vl0] at after
  refine ⟨_, _, run, after, fun i hi hn => ⟨?_, ?_, ?_, ?_⟩⟩ <;> dsimp only
  · rw [putTemp_other _ 3 _ _ _ (by decide), putTemp_other _ 2 _ _ _ (by decide), putTemp_other _ 1 _ _ _ (by decide), el_putActive _ _ _ hi hn, el_ofLaneList_map _ _ hi]
  · rw [putTemp_other _ 3 _ _ _ (by decide), putTemp_other _ 2 _ _ _ (by decide), el_putActive _ _ _ hi hn, el_ofLaneList_map _ _ hi]
  · rw [putTemp_other _ 3 _ _ _ (by decide), el_putActive _ _ _ hi hn, el_ofLaneList_map _ _ hi]
  · rw [el_putActive _ _ _ hi hn, el_ofLaneList_map _ _ hi]

end Sys2Proof.Machine

/-!
The division steps and the micro-operations settle their obligation (R306, R331).
-/
namespace Sys2Proof.Machine
open Sys2Proof.Claims

theorem src_eq (s : State) (imm : BitVec 12) (a : Sel) (i : Nat) : src s imm a i = (laneGet (s.sel imm a) i).toNat := el_eq_laneGet ..

theorem temp_eq (s : State) (k : Fin 16) (i : Nat) : temp s k i = (laneGet s.before.m[k] i).toNat := el_eq_laneGet ..

theorem OnlyGens.lane_eq {x y : Shift} (h : OnlyGens x y) : y.lane = x.lane := by rw [h]

section
variable {s : State} {x : Shift} (h : OnLane s x)
include h

/-- The start of a division in every active lane (R331). -/
theorem divpre_starts (a b : Sel) : ∃ t u, Sys2Proof.Machine.exec (.divpre (.m 0) a b) s = .next t ∧ s.cur.sh.bind t.sh? = some u ∧
    ∀ i, i < 64 → i < s.before.vl →
      let m (k : Fin 16) : Nat := el u.lane.m[k] 32 i 0
      let va := decodeFtz (ftzOf s.before.stat) .f32 (src s s.cur.imm a i)
      let vb := decodeFtz (ftzOf s.before.stat) .f32 (src s s.cur.imm b i)
      ((∀ p, va ≠ .fin p) ∨ (∀ q, vb ≠ .fin q) → m 0 / 2 ^ 30 % 2 = 1) ∧
      ∀ p q, ∀ ka kb : Nat, va = .fin p → vb = .fin q → 2 ^ ka ≤ p.n → p.n < 2 ^ (ka + 1) → 2 ^ kb ≤ q.n → q.n < 2 ^ (kb + 1) →
        let fa := p.n * 2 ^ (23 - ka)
        let fb := q.n * 2 ^ (23 - kb)
        m 1 = (if fb ≤ fa then fa else 2 * fa) ∧ m 2 = 2 * fb ∧ m 3 = 0 ∧ m 0 / 2 ^ 30 % 2 = 0 ∧ (m 0 / 2 ^ 31 % 2 = 1 ↔ p.neg ≠ q.neg) ∧
        ((m 0 % 2 ^ 10 : Nat) : Int) - 512 = (p.e + ka) - (q.e + kb) - (if fb ≤ fa then 0 else 1) := by
  obtain ⟨t, u, run, hu, lanes⟩ := divpre_leaves h a b
  refine ⟨t, u, run, hu, fun i hi hn => ?_⟩
  obtain ⟨m0, m1, m2, m3⟩ := lanes i hi hn
  simp only [m0, m1, m2, m3, src_eq]
  refine ⟨fun special => ?_, fun p q ka kb hp hq palo pahi qblo qbhi => ?_⟩
  · rw [divStart_special _ _ _ _ special, BitVec.toNat_ofNat]
    exact divSpecial_mark ..
  · have pn : p.n ≠ 0 := (Nat.lt_of_lt_of_le (Nat.two_pow_pos ka) palo).ne'
    have qn : q.n ≠ 0 := (Nat.lt_of_lt_of_le (Nat.two_pow_pos kb) qblo).ne'
    obtain rfl : p.n.log2 = ka := (Nat.log2_eq_iff pn).2 ⟨palo, pahi⟩
    obtain rfl : q.n.log2 = kb := (Nat.log2_eq_iff qn).2 ⟨qblo, qbhi⟩
    obtain ⟨num, den, quot, rest⟩ := divStart_finite _ (s.free + 3 * i) _ _ hp hq
    exact ⟨num, den, by rw [quot]; rfl, rest⟩

/-- Five quotient bits in every active lane (R331). -/
theorem divq_divides : ∃ t u, Sys2Proof.Machine.exec .divq s = .next t ∧ s.cur.sh.bind t.sh? = some u ∧
    ∀ i, i < 64 → i < s.before.vl → temp s 2 i ≠ 0 → temp s 1 i < temp s 2 i → 32 * temp s 3 i + 32 < 2 ^ 32 →
      el u.lane.m[(1 : Fin 16)] 32 i 0 < temp s 2 i ∧
      el u.lane.m[(3 : Fin 16)] 32 i 0 * temp s 2 i + el u.lane.m[(1 : Fin 16)] 32 i 0 = 32 * (temp s 3 i * temp s 2 i + temp s 1 i) := by
  let r := (upto 0 64).map fun i =>
    if temp s 2 i = 0 then ((Config.freeWord (s.free + 2 * i)).toNat, (Config.freeWord (s.free + (2 * i + 1))).toNat)
    else (32 * temp s 1 i - 32 * temp s 1 i / temp s 2 i * temp s 2 i, 32 * temp s 3 i + 32 * temp s 1 i / temp s 2 i)
  obtain ⟨h1, vl1, cur1⟩ := OnLane_putActive h 1 (ofLaneList (r.map fun p => BitVec.ofNat 32 p.1))
  obtain ⟨h3, _, cur3⟩ := OnLane_putActive h1 3 (ofLaneList (r.map fun p => BitVec.ofNat 32 p.2))
  have run : execDivq s = .next { ((s.putActive (.m 1) (ofLaneList (r.map fun p => BitVec.ofNat 32 p.1))).putActive (.m 3)
      (ofLaneList (r.map fun p => BitVec.ofNat 32 p.2))) with free := s.free + 128 } := by
    simp only [execDivq, ← temp_eq]
    rfl
  have after := h3.2
  rw [cur3, cur1, vl1] at after
  refine ⟨_, _, run, after, fun i hi hn nonzero lt room => ?_⟩
  dsimp only
  have lt2 : temp s 2 i < 2 ^ 32 := Nat.mod_lt _ (by decide)
  have quot : 32 * temp s 1 i / temp s 2 i < 32 := (Nat.div_lt_iff_lt_mul (Nat.pos_of_ne_zero nonzero)).2 (by omega)
  have whole := Nat.div_add_mod' (32 * temp s 1 i) (temp s 2 i)
  have rest := Nat.mod_lt (32 * temp s 1 i) (Nat.pos_of_ne_zero nonzero)
  have m1 : el (x.lane.putTemp true 1 (ofLaneList (r.map fun p => BitVec.ofNat 32 p.1)) s.before.vl).m[(1 : Fin 16)] 32 i 0 = 32 * temp s 1 i % temp s 2 i := by
    rw [el_putActive _ _ _ hi hn, el_ofLaneList_map _ _ hi, if_neg nonzero, BitVec.toNat_ofNat]
    dsimp only
    omega
  have m3 (u : MicroUnit) : el (u.putTemp true 3 (ofLaneList (r.map fun p => BitVec.ofNat 32 p.2)) s.before.vl).m[(3 : Fin 16)] 32 i 0 =
      32 * temp s 3 i + 32 * temp s 1 i / temp s 2 i := by
    rw [el_putActive _ _ _ hi hn, el_ofLaneList_map _ _ hi, if_neg nonzero, BitVec.toNat_ofNat]
    exact Nat.mod_eq_of_lt (by dsimp only; omega)
  rw [putTemp_other _ 3 _ _ _ (by decide), m1, m3]
  refine ⟨rest, ?_⟩
  generalize 32 * temp s 1 i / temp s 2 i = q at whole
  linarith

/-! ## The end of a division -/

omit h in
theorem divEnd_onlyGens (stat : Word) (free g m0 m1 m2 m3 : Nat) (x : Shift) : OnlyGens x (divEnd stat free g m0 m1 m2 m3 x).2.2 := by
  unfold divEnd
  dsimp only
  split
  · exact OnlyGens.drawIf ..
  · split
    · rfl
    · exact OnlyGens.drawIf ..

omit h in
/-- A quotient that is rounded, in a mode without draws. -/
theorem divEnd_rounds {stat : Word} (still : rmOf stat ≠ .sr) (free g m1 m3 : Nat) {m0 m2 : Nat} (x : Shift) (plain : m0 / 2 ^ 30 % 2 = 0) (den : m2 ≠ 0)
    (num : m3 * m2 + m1 ≠ 0) : (divEnd stat free g m0 m1 m2 m3 x).1 = BitVec.ofNat 32 (roundTo .f32 (rmOf stat) (ftzOf stat) 0 (.fin
      { neg := decide (m0 / 2 ^ 31 % 2 = 1), n := m3 * m2 + m1, d := m2, e := (m0 % 2 ^ 10 : Nat) - 512 - 29 })).1 := by
  have mark : nbit m0 30 = false := by rw [nbit, Nat.testBit_eq_decide_div_mod_eq, plain]; rfl
  have sign : nbit m0 31 = decide (m0 / 2 ^ 31 % 2 = 1) := Nat.testBit_eq_decide_div_mod_eq
  simp only [divEnd, mark, sign, Bool.false_eq_true, if_false, if_neg den, if_neg num, roundDraw, Shift.drawIf, if_neg still, nbits_zero]

theorem divfin_rounds (k : Fin 16) (a : Sel) (still : rmOf s.before.stat ≠ .sr) :
    ∃ t u, Sys2Proof.Machine.exec (.divfin (.m k) a) s = .next t ∧ s.cur.sh.bind t.sh? = some u ∧
      ∀ i, i < 64 → i < s.before.vl → let w := src s s.cur.imm a i
        w / 2 ^ 30 % 2 = 0 → temp s 2 i ≠ 0 → temp s 3 i * temp s 2 i + temp s 1 i ≠ 0 →
        el u.lane.m[k] 32 i 0 = (roundTo .f32 (rmOf s.before.stat) (ftzOf s.before.stat) 0 (.fin
          { neg := decide (w / 2 ^ 31 % 2 = 1), n := temp s 3 i * temp s 2 i + temp s 1 i, d := temp s 2 i, e := (w % 2 ^ 10 : Nat) - 512 - 29 })).1 := by
  let f (x : Shift) (i : Nat) : Lane × Flags × Shift :=
    divEnd s.before.stat (s.free + i) i (src s s.cur.imm a i) (temp s 1 i) (temp s 2 i) (temp s 3 i) x
  have only : OnlyGens x (foldLanes f x s.before.vl).2.2 := by
    rw [foldLanes_eq]
    exact OnlyGens.shiftAfter (fun x j => divEnd_onlyGens ..) x _
  have value (i : Nat) (hi : i < 64) (hn : i < s.before.vl) := laneGet_foldLanes f x hn hi
  have run : execDivfin (.m k) a s = .next { (((s.modX fun _ => (foldLanes f x s.before.vl).2.2).putActive (.m k) (foldLanes f x s.before.vl).1).raise
      (foldLanes f x s.before.vl).2.1) with free := s.free + 64 } := by
    simp only [execDivfin, ← temp_eq, ← src_eq, h.x_eq]
    rfl
  generalize foldLanes f x s.before.vl = r at only value run
  have lane : r.2.2.lane = x.lane := only.lane_eq
  have drawn := h.modX fun _ => r.2.2
  have vl : (s.modX fun _ => r.2.2).before.vl = s.before.vl := by
    rw [State.before, State.before, State.modX_cur, drawn.unit_eq, h.unit_eq, lane]
  obtain ⟨put, _, cur⟩ := OnLane_putActive drawn k r.1
  have after := (put.modUnit fun u => { u with flags := u.flags ||| r.2.1 }).2
  rw [State.modUnit_cur, cur, State.modX_cur, vl] at after
  refine ⟨_, _, run, after, fun i hi hn plain den num => ?_⟩
  have lane_i : el (r.2.2.lane.putTemp true k r.1 s.before.vl).m[k] 32 i 0 = (f (shiftAfter f x i) i).1.toNat := by
    rw [el_putActive _ _ _ hi hn, el_eq_laneGet, value i hi hn]
    rfl
  refine lane_i.trans ?_
  rw [show f (shiftAfter f x i) i = _ from rfl, divEnd_rounds still _ _ _ _ _ plain den num, BitVec.toNat_ofNat]
  exact Nat.mod_eq_of_lt (roundTo_f32_lt ..)

end

/-- Settles O37: each operation writes its value to its destination, and each division step keeps its relation in every active lane. -/
theorem microOperationsAndDivisionStepsComplete : Obligations.MicroOperationsAndDivisionStepsComplete := by
  unfold Obligations.MicroOperationsAndDivisionStepsComplete
  exact ⟨⟨fun s i d n f step le _ => laneStep_runs step le, fun s i d r step => engineStep_runs step, fun s d a imm => rfl,
      fun s fop ft d a b imm i op => execMicroVectorFop_eq s op, fun s k v n st => putSel_temporary st k v n⟩,
    fun s x a b h => divpre_starts h a b, fun s x h => divq_divides h, fun s x k a h still => divfin_rounds h k a still⟩

end Sys2Proof.Machine

/-!
The address generators of the lane sequencer, and those of an engine (Table 16.6).
-/
namespace Sys2Proof.Machine
open Sys2Proof.Claims

/-! ## The lane sequencer -/

section
variable {s : State}

/-- The bytes that an access of the lane sequencer reads. -/
def State.laneRead (s : State) (a : MAcc) : List Byte :=
  match a.lane with
  | some l => s.lane.bytes (laneKey s.myCore l a.ea.toNat) a.n
  | none => s.pad.bytes (padKey s.myCore a.ea.toNat) a.n

theorem readAcc_onLane (lane : s.onLane = true) (a : MAcc) : s.readAcc a = (s.laneRead a, s) := if_pos lane

theorem reads_onLane (lane : s.onLane = true) (accs : List MAcc) (l : List Nat) :
    accs.foldl (fun (p : List Nat × State) a => let q := p.2.readAcc a; (p.1 ++ [ofLE q.1], q.2)) (l, s) =
      (l ++ accs.map fun a => number (s.laneRead a), s) := by
  induction accs generalizing l with
  | nil => simp
  | cons a accs ih =>
    rw [List.foldl_cons]
    simp only [readAcc_onLane lane] at ih ⊢
    rw [ih, ofLE_eq_number]
    simp

theorem readInto_onLane (lane : s.onLane = true) (accs : List MAcc) (md : Fin 16) :
    s.readInto accs md = s.putActive (.m md) (ofLaneList ((accs.map fun a => number (s.laneRead a)).map (BitVec.ofNat 32))) := by
  rw [State.readInto, reads_onLane lane, if_pos lane]
  rfl

/-- The access of lane j. -/
def State.laneAcc (s : State) (write : Bool) (sp : Space) (ma md : Fin 16) (j : Nat) : MAcc :=
  { write := write, sp := sp, ea := temp s ma j, n := 4, data := bytesOf 4 (temp s md j), lane := if sp == .lane then some j else none, via := none }

theorem laneAccs_eq (write : Bool) (sp : Space) (ma md : Fin 16) :
    s.laneAccs write sp ma md = (List.range s.before.vl).map (s.laneAcc write sp ma md) := by
  simp only [State.laneAccs, upto_zero, ← temp_eq, leBytes_eq_bytesOf]
  rfl

theorem padBytes_eq (ea n : Nat) : s.pad.bytes (padKey s.myCore ea) n = padBytes s ea n := by
  simp only [Mem.bytes_eq_map, padBytes, padKey, Nat.add_assoc]

theorem laneBytes_eq (l ea n : Nat) : s.lane.bytes (laneKey s.myCore l ea) n = laneBytes s l ea n := by
  simp only [Mem.bytes_eq_map, laneBytes, laneKey, Nat.add_assoc]

theorem laneRead_pad (a d : Fin 16) (j : Nat) : s.laneRead (s.laneAcc false .pad a d j) = padBytes s (temp s a j) 4 := padBytes_eq ..
theorem laneRead_lane (a d : Fin 16) (j : Nat) : s.laneRead (s.laneAcc false .lane a d j) = laneBytes s j (temp s a j) 4 := laneBytes_eq ..

theorem laneRead_length (a : MAcc) : (s.laneRead a).length = a.n := by
  unfold State.laneRead
  split <;> rw [Mem.bytes_eq_map, List.length_map, List.length_range]

/-- A read of every active lane (Table 16.6). -/
theorem lanes_read {x : Shift} (h : OnLane s x) {e : Instr} {sp : Space} {a d : Fin 16}
    (he : Sys2Proof.Machine.exec e s = .next (s.readInto (s.laneAccs false sp a d) d)) :
    ∃ t u, Sys2Proof.Machine.exec e s = .next t ∧ Becomes s t u ∧
      ∀ j, j < 64 → el u.m[d] 32 j 0 = if j < s.before.vl then number (s.laneRead (s.laneAcc false sp a d j)) else el s.unit.m[d] 32 j 0 := by
  rw [readInto_onLane h.onLane, laneAccs_eq, State.putActive, putSel_temp, h.onLane] at he
  refine ⟨_, _, he, Stands.becomes (.inl ⟨x, h⟩) _, fun j hj => ?_⟩
  rw [el_putTemp _ _ _ _ hj]
  refine ite_congr rfl (fun hn => ?_) fun _ => rfl
  have lt : number (s.laneRead (s.laneAcc false sp a d j)) < 2 ^ 32 := by
    have := number_lt (s.laneRead (s.laneAcc false sp a d j))
    rwa [laneRead_length] at this
  rw [el_eq_laneGet, laneGet_ofLaneList _ hj, List.getD_eq_getElem?_getD, List.getElem?_map, List.getElem?_map, List.getElem?_map,
    List.getElem?_range hn]
  exact (BitVec.toNat_ofNat ..).trans (Nat.mod_eq_of_lt lt)

/-- A write of every active lane to PAD. -/
theorem lanes_write_pad (lane : s.onLane = true) (accs : List Nat) (ea : Nat → Nat) (data : Nat → List Byte) (acc : Nat → MAcc)
    (hl : ∀ j, (acc j).lane = none) (he : ∀ j, (acc j).ea = ea j) (hd : ∀ j, (acc j).data = data j) :
    (accs.map acc).foldl State.writeAcc s = { s with pad := accs.foldl (fun m j => m.put (s.myCore * 2 ^ 20 + ea j) (data j)) s.pad } := by
  induction accs generalizing s with
  | nil => rfl
  | cons j accs ih =>
    have step : s.writeAcc (acc j) = s.putPad s.myCore (ea j) (data j) := by
      rw [State.writeAcc, if_pos lane]
      simp only [hl, he, hd]
      rfl
    rw [List.map_cons, List.foldl_cons, step]
    exact ih (s := s.putPad s.myCore (ea j) (data j)) lane

/-- A write of every active lane to LANE. -/
theorem lanes_write_lane (lane : s.onLane = true) (accs : List Nat) (ea : Nat → Nat) (data : Nat → List Byte) (acc : Nat → MAcc)
    (hl : ∀ j, (acc j).lane = some j) (he : ∀ j, (acc j).ea = ea j) (hd : ∀ j, (acc j).data = data j) :
    (accs.map acc).foldl State.writeAcc s = { s with lane := accs.foldl (fun m j => m.put ((s.myCore * 64 + j) * 4096 + ea j) (data j)) s.lane } := by
  induction accs generalizing s with
  | nil => rfl
  | cons j accs ih =>
    have step : s.writeAcc (acc j) = s.putLane s.myCore j (ea j) (data j) := by
      rw [State.writeAcc, if_pos lane]
      simp only [hl, he, hd]
      rfl
    rw [List.map_cons, List.foldl_cons, step]
    exact ih (s := s.putLane s.myCore j (ea j) (data j)) lane

/-- The address generators of the lane sequencer (Table 16.6). -/
theorem lane_generators {x : Shift} (h : OnLane s x) (a d : Fin 16) :
    let lanes := List.range s.before.vl
    let reads (i : Instr) (bs : Nat → List Byte) : Prop := ∃ t u, Sys2Proof.Machine.exec i s = .next t ∧ Becomes s t u ∧
      ∀ j, j < 64 → el u.m[d] 32 j 0 = if j < s.before.vl then number (bs j) else el s.unit.m[d] 32 j 0
    reads (.padrd a d) (fun j => padBytes s (temp s a j) 4) ∧ reads (.lanerd a d) (fun j => laneBytes s j (temp s a j) 4) ∧
    Sys2Proof.Machine.exec (.padwr a d) s = .next
      { s with pad := lanes.foldl (fun m j => m.put (s.myCore * 2 ^ 20 + temp s a j) (bytesOf 4 (temp s d j))) s.pad } ∧
    Sys2Proof.Machine.exec (.lanewr a d) s = .next
      { s with lane := lanes.foldl (fun m j => m.put ((s.myCore * 64 + j) * 4096 + temp s a j) (bytesOf 4 (temp s d j))) s.lane } := by
  have padrd : Sys2Proof.Machine.exec (.padrd a d) s = .next (s.readInto (s.laneAccs false .pad a d) d) :=
    congrArg (fun l => Host.Outcome.next (s.readInto l d)) (if_pos h.onLane)
  have padwr : s.accsOf (.padwr a d) = s.laneAccs true .pad a d := if_pos h.onLane
  intro lanes reads
  refine ⟨?_, ?_, ?_, ?_⟩
  · simpa only [laneRead_pad] using lanes_read h padrd
  · simpa only [laneRead_lane] using lanes_read h (e := .lanerd a d) (sp := .lane) rfl
  · show execPadwr a d s = _
    rw [execPadwr, padwr, laneAccs_eq]
    exact congrArg _ (lanes_write_pad h.onLane _ _ _ _ (fun _ => rfl) (fun _ => rfl) fun _ => rfl)
  · show Host.Outcome.next ((s.laneAccs true .lane a d).foldl State.writeAcc s) = _
    rw [laneAccs_eq]
    exact congrArg _ (lanes_write_lane h.onLane _ _ _ _ (fun _ => rfl) (fun _ => rfl) fun _ => rfl)

end
end Sys2Proof.Machine

/-!
The address generators of an engine (Table 16.6).
-/
namespace Sys2Proof.Machine
open Sys2Proof.Claims

/-! ## Pieces of an access -/

/-- The bytes of a run, cut at sectors and put together again. -/
theorem flatMap_sectorsFrom {α : Type} (l : List α) (base : Int) (fuel : Nat) (ea : Int) (n : Nat) (from_ : base ≤ ea) (room : n = 0 ∨ n + (ea % 32).toNat ≤ 32 * fuel) :
    (sectorsFrom fuel ea n).flatMap (fun p => (l.drop (p.1 - base).toNat).take p.2) = (l.drop (ea - base).toNat).take n := by
  induction fuel generalizing ea n with
  | zero => simp [sectorsFrom, show n = 0 by omega]
  | succ fuel ih =>
    rw [sectorsFrom]
    split
    · next empty => simp [empty]
    · next some =>
      generalize hk : min n (32 - (ea % 32).toNat) = k
      have le : k ≤ n := by omega
      have at_ : (ea + k - base).toNat = (ea - base).toNat + k := by omega
      have fits : n - k = 0 ∨ n - k + ((ea + k) % 32).toNat ≤ 32 * fuel := by omega
      rw [List.flatMap_cons, ih (ea + k) (n - k) (by omega) fits, at_, ← List.drop_drop, ← List.take_add, Nat.add_sub_cancel' le]

/-- The data of the pieces of a write is its data. -/
theorem pieces_data (a : MAcc) (whole : a.data.length = a.n) : a.pieces.flatMap (·.data) = a.data := by
  rw [MAcc.pieces, List.flatMap_map]
  refine (flatMap_sectorsFrom a.data a.ea _ a.ea a.n le_rfl (.inr ?_)).trans ?_
  · omega
  · rw [sub_self, Int.toNat_zero, List.drop_zero, ← whole, List.take_length]

theorem pieces_write {a b : MAcc} (h : b ∈ a.pieces) : b.write = a.write ∧ b.via = a.via := by
  obtain ⟨p, _, rfl⟩ := List.mem_map.1 h
  exact ⟨rfl, rfl⟩

/-! ## A piece that goes over the fabric -/

theorem collapseFab_fab (s : State) (r : FabAt) (ea : Int) (core : Nat) : (s.collapseFab r ea core).fab = s.fab := by
  unfold State.collapseFab
  split
  · split <;> rfl
  · rfl

theorem PartOnly.ops {s t : State} (h : PartOnly s t) : t.fab.ops = s.fab.ops := by rw [h]

/-- The use of a handle leaves the operations in the fabric as they are. -/
theorem usePiece_ops {s v : State} {a : MAcc} {r : Nat} (via : a.via = some r) (h : s.usePiece a = some v) : v.fab.ops = s.fab.ops := by
  simp only [State.usePiece, via] at h
  split at h
  · rw [← Option.some.inj h]
  · next place _ =>
    split at h
    · cases h
    · have used : ((s.useFab place a.ea a.write).noteJobRoute s.unitJob.id r).fab.ops = s.fab.ops := (partOnly_useEntry ..).ops
      rw [← Option.some.inj h, ← used]
      split
      · rw [collapseFab_fab]
      · rfl

theorem injectPiece_adds {s v : State} {j : Job} (h : OnEngine s j) {b : MAcc} {r : Nat} (write : b.write = true) (via : b.via = some r)
    (used : s.usePiece b = some v) (pkg pa key : Nat) (hops : List Byte) :
    ∃ o, (s.injectPiece b (pkg, pa, key, hops)).fab.ops = s.fab.ops ++ [o] ∧ o.job = some j.id ∧ o.pkg = pkg ∧ o.key = key ∧ o.hops = hops ∧ o.act = .write pa b.data := by
  have job : s.unitJob = j := by
    obtain ⟨_, k, hk, hj⟩ := h
    simp [State.unitJob, hk, hj]
  rw [State.injectPiece, used, ← usePiece_ops via used, job, write]
  exact ⟨_, rfl, rfl, rfl, rfl, rfl, rfl⟩

section
variable {s : State} {j : Job} (h : OnEngine s j) (a d : Fin 16) (imm : BitVec 12)
include h

/-- A dword read into a temporary. -/
theorem dword_read {e : Instr} {sp : Space} (he : Sys2Proof.Machine.exec e s = .next (s.readInto [unitAcc s false sp a 8 []] d)) :
    ∃ w : VReg, Sys2Proof.Machine.exec e s = .next { ((s.readAcc (unitAcc s false sp a 8 [])).2.putSel (.m d) w 1) with free := s.free + 1 } ∧
      w.toNat % 2 ^ 64 = number (s.readAcc (unitAcc s false sp a 8 [])).1 % 2 ^ 64 := by
  rw [State.readInto, if_neg (Bool.eq_false_iff.1 h.onLane)] at he
  refine ⟨_, he, ?_⟩
  have low (n hi : Nat) : (BitVec.ofNat 2048 (n + hi * 2 ^ 64)).toNat % 2 ^ 64 = n % 2 ^ 64 := by
    rw [BitVec.toNat_ofNat, Nat.mod_mod_of_dvd _ (pow_dvd_pow 2 (by decide)), Nat.add_mul_mod_self_right]
  rw [low, ← ofLE_eq_number]
  rfl

theorem accsOf_padrd : s.accsOf (.padrd a d) = [unitAcc s false .pad a 8 []] := if_neg (Bool.eq_false_iff.1 h.onLane)

theorem accsOf_padwr : s.accsOf (.padwr a d) = [unitAcc s true .pad a 8 (bytesOf 8 s.before.m[d].toNat)] := by
  rw [← leBytes_eq_bytesOf]
  exact if_neg (Bool.eq_false_iff.1 h.onLane)

theorem padrd_engine : Sys2Proof.Machine.exec (.padrd a d) s = .next (s.readInto [unitAcc s false .pad a 8 []] d) :=
  congrArg (fun l => Host.Outcome.next (s.readInto l d)) (accsOf_padrd h a d)

theorem padwr_engine : Sys2Proof.Machine.exec (.padwr a d) s = .next (s.writeAcc (unitAcc s true .pad a 8 (bytesOf 8 s.before.m[d].toNat))) :=
  congrArg (fun l : List MAcc => Host.Outcome.next (l.foldl State.writeAcc s)) (accsOf_padwr h a d)

omit h in
theorem spwr_engine : Sys2Proof.Machine.exec (.spwr a d) s = .next (s.writeAcc (unitAcc s true s.unitSpace a 8 (bytesOf 8 s.before.m[d].toNat))) := by
  rw [← leBytes_eq_bytesOf]
  rfl

omit h in
/-- A slot that the unit holds filled from its space. -/
theorem xfer_fills {n : QNum} (slot : s.slotRing (s.before.m[d].toNat % 2 ^ 72) = some n) :
    let r := s.readAcc (unitAcc s false s.unitSpace a (s.slotBytes n) [])
    Sys2Proof.Machine.exec (.xfer a d imm) s = .next (r.2.putSpace (s.ring n).sp (spDom (s.ring n).sp s.myCore) (s.before.m[d].toNat % 2 ^ 72) r.1) := by
  have slot' : s.slotRing (s.before.at_ d) = some n := slot
  show execXfer a d imm s = _
  simp only [execXfer, State.accsOf, slot']
  rfl

omit h in
/-- A slot that the unit holds moved to its space. -/
theorem xferb_moves {n : QNum} (slot : s.slotRing (s.before.m[a].toNat % 2 ^ 72) = some n) :
    Sys2Proof.Machine.exec (.xferb a d imm) s =
      .next (s.writeAcc (unitAcc s true s.unitSpace d (s.slotBytes n) (s.slotData n (s.before.m[a].toNat % 2 ^ 72)))) := by
  have slot' : s.slotRing (s.before.at_ a) = some n := slot
  show execXferb a d imm s = _
  simp only [execXferb, State.accsOf, slot']
  rfl

/-- The bytes sent go over the named handle, one write for each piece. -/
theorem send_sends :
    let r := unitAcc s false s.unitSpace a 256 []
    let w := { unitAcc s true .glob d 256 (s.readAcc r).1 with via := some (imm.toNat % 8) }
    Sys2Proof.Machine.exec (.send a d imm) s = .next (s.readAcc r).2 ∧ s.accsOf (.send a d imm) = [r, w] ∧
    ((s.readAcc r).1.length = 256 → w.pieces.flatMap (·.data) = (s.readAcc r).1) ∧
    ∀ b ∈ w.pieces, ∀ pkg pa key hops v, s.pieceAway b = .ok (some (pkg, pa, key, hops)) → s.usePiece b = some v →
      ∃ o, (s.injectPiece b (pkg, pa, key, hops)).fab.ops = s.fab.ops ++ [o] ∧ o.job = some j.id ∧ o.pkg = pkg ∧ o.key = key ∧ o.hops = hops ∧
        o.act = .write pa b.data := by
  intro r w
  refine ⟨rfl, rfl, fun whole => pieces_data w whole, fun b hb pkg pa key hops v _ used => ?_⟩
  obtain ⟨write, via⟩ := pieces_write hb
  exact injectPiece_adds h write via used ..

omit h in
/-- 64 sums of F32 values, each rounded once. -/
theorem radd_adds :
    let y := s.readAcc (unitAcc s false s.unitSpace a 256 [])
    let z := y.2.readAcc (unitAcc s false .pad d 256 [])
    let ftz := ftzOf s.before.stat
    let word (bs : List Byte) (k : Nat) : FV := decodeFtz ftz .f32 (number ((bs.drop (4 * k)).take 4))
    let sums := (List.range 64).flatMap fun k => bytesOf 4 (roundTo .f32 .rne ftz 0 (fvAdd .rne (word z.1 k) (word y.1 k)).1).1
    ∃ fl, Sys2Proof.Machine.exec (.radd a d) s = .next ((z.2.writeAcc (unitAcc s true .pad d 256 sums)).raise fl) := by
  intro y z ftz word sums
  show ∃ fl, execRadd a d s = .next ((z.2.writeAcc (unitAcc s true .pad d 256 sums)).raise fl)
  simp only [execRadd, State.accsOf, upto_zero, ofLE_eq_number, leBytes_eq_bytesOf, List.flatMap_map]
  exact ⟨_, rfl⟩

end
end Sys2Proof.Machine

/-!
The ring operations of an engine (R307), and the address generators settled.
-/
namespace Sys2Proof.Machine
open Sys2Proof.Claims

section
variable {s : State} {j : Job} (h : OnEngine s j)
include h

/-- An engine stands where its jobs and what steps stay. -/
theorem OnEngine_congr {t : State} (cur : t.cur = s.cur) (jobs : t.jobs = s.jobs) : OnEngine t j := by
  unfold OnEngine State.job?
  rw [cur, jobs]
  exact h

theorem OnEngine_modJob {i : Nat} (hi : s.cur.job = some i) {f : Job → Job} (keeps : ∀ e, (f e).id = e.id) : OnEngine (s.modJob i f) (f j) := by
  obtain ⟨ne, k, hk, hj⟩ := h
  obtain rfl := Option.some.inj (hk.symm.trans hi)
  exact ⟨ne, k, hk, (State.job?_modJob s k keeps).trans (congrArg (Option.map f) hj)⟩

end

theorem modUnit_memories (s : State) (f : MicroUnit → MicroUnit) : (s.modUnit f).pad = s.pad ∧ (s.modUnit f).crew = s.crew ∧ (s.modUnit f).chip = s.chip := by
  unfold State.modUnit
  split
  · simp
  · split <;> exact ⟨rfl, rfl, rfl⟩

/-! ## A slot taken -/

section
variable {s : State} {j : Job} (h : OnEngine s j) (d : Fin 16) (imm : BitVec 12) (claim : Bool)

/-- The state in which a slot has been taken and no unit waits for it. -/
def State.slotWon (s : State) (imm : BitVec 12) (claim : Bool) : State :=
  (s.takeSlot (s.ring (s.unitRing imm)) s.myCore claim).dropWaiter s.me s.cur.unit

/-- What a unit holds once it has taken a slot. -/
def MicroUnit.hold (n k : Nat) (claim : Bool) (u : MicroUnit) : MicroUnit := { u with held := (n, k, claim) :: u.held }

theorem slotWon_cur : (s.slotWon imm claim).cur = s.cur := by simp [State.slotWon, State.takeSlot, State.dropWaiter]

theorem putRing_jobs (s : State) (q : Ring) (core off : Nat) (bs : List Byte) : (s.putRing q core off bs).jobs = s.jobs := by
  rw [State.putRing]
  cases q.sp <;> rfl

theorem slotWon_jobs : (s.slotWon imm claim).jobs = s.jobs := by simp [State.slotWon, State.takeSlot, State.dropWaiter, putRing_jobs]

theorem slotWon_ringByte (q : Ring) (core off : Nat) :
    (s.slotWon imm claim).ringByte q core off = (s.takeSlot (s.ring (s.unitRing imm)) s.myCore claim).ringByte q core off := rfl

include h in
theorem unitTake_eq : s.unitTake d imm claim = ((s.slotWon imm claim).modUnit
    (MicroUnit.hold (s.unitRing imm).val (s.nextSlot (s.ring (s.unitRing imm)) s.myCore claim) claim)).putActive (.m d)
      (BitVec.ofNat 2048 (s.slotAt (s.ring (s.unitRing imm)) s.myCore (s.nextSlot (s.ring (s.unitRing imm)) s.myCore claim))) :=
  congrArg (((s.slotWon imm claim).modUnit
    (MicroUnit.hold (s.unitRing imm).val (s.nextSlot (s.ring (s.unitRing imm)) s.myCore claim) claim)).putActive (.m d)) (if_neg (Bool.eq_false_iff.1 h.onLane))

/-- A change of the unit's record leaves the rings. -/
theorem ringByte_modUnit (s : State) (f : MicroUnit → MicroUnit) (st : Stands s) (q : Ring) (core off : Nat) :
    (s.modUnit f).ringByte q core off = s.ringByte q core off := by
  rw [(st.becomes f).2.1]
  rfl

include h in
theorem slot_taken : ∃ t, Sys2Proof.Machine.exec (if claim then .claim d imm else .wait d imm) s = .next t ∧
    t.unit.held = ((s.unitRing imm).val, s.nextSlot (s.ring (s.unitRing imm)) s.myCore claim, claim) :: s.unit.held ∧
    t.unit.m[d].toNat = s.slotAt (s.ring (s.unitRing imm)) s.myCore (s.nextSlot (s.ring (s.unitRing imm)) s.myCore claim) % 2 ^ 72 ∧
    ∀ q core off, t.ringByte q core off = (s.takeSlot (s.ring (s.unitRing imm)) s.myCore claim).ringByte q core off := by
  have run : Sys2Proof.Machine.exec (if claim then .claim d imm else .wait d imm) s = .next (s.unitTake d imm claim) := by cases claim <;> rfl
  refine ⟨_, run, ?_⟩
  rw [unitTake_eq h d imm claim]
  generalize s.nextSlot (s.ring (s.unitRing imm)) s.myCore claim = k
  have won := OnEngine_congr h (slotWon_cur imm claim) (slotWon_jobs imm claim)
  have holds := won.modUnit (MicroUnit.hold (s.unitRing imm).val k claim)
  have unit : ((s.slotWon imm claim).modUnit (MicroUnit.hold (s.unitRing imm).val k claim)).unit = s.unit.hold (s.unitRing imm).val k claim := by
    rw [holds.unit_eq, h.unit_eq]
  rw [State.putActive, putSel_temp, holds.onLane]
  have after := (show Stands _ from .inr ⟨_, holds⟩).unit_modUnit (MicroUnit.putTemp false d
    (BitVec.ofNat 2048 (s.slotAt (s.ring (s.unitRing imm)) s.myCore k)) ((s.slotWon imm claim).modUnit (MicroUnit.hold (s.unitRing imm).val k claim)).before.vl)
  rw [unit] at after
  refine ⟨?_, ?_, fun q core off => ?_⟩
  · rw [after]; rfl
  · rw [after, toNat_putTemp, BitVec.toNat_ofNat, Nat.mod_mod_of_dvd _ (pow_dvd_pow 2 (by decide))]
  · rw [ringByte_modUnit _ _ (.inr ⟨_, holds⟩), ringByte_modUnit _ _ (.inr ⟨_, won⟩), slotWon_ringByte]

/-! ## A slot given on -/

/-- The state of the slot that a unit holds of a ring changed. -/
def State.slotGiven (s : State) (imm : BitVec 12) (claim : Bool) (k : Nat) : State :=
  (s.putRing (s.ring (s.unitRing imm)) s.myCore (0x40 + k) [if claim then 2 else 0]).modUnit
    fun u => { u with held := u.held.filter fun h => h.1 != (s.unitRing imm).val }

theorem unitGive_eq {k i : Nat} {c : Bool} (held : s.unit.held.find? (fun h => h.1 == (s.unitRing imm).val) = some ((s.unitRing imm).val, k, c))
    (hi : s.cur.job = some i) : s.unitGive imm claim = (s.slotGiven imm claim k).modJob i fun e => { e with done := e.done + 1 } := by
  unfold State.unitGive
  simp only [held, hi]
  rfl

theorem putRing_memories {q : Ring} (hsp : q.sp = .pad ∨ q.sp = .crew ∨ q.sp = .chip) (k : Nat) (bs : List Byte) :
    let t := s.putRing q s.myCore (0x40 + k) bs
    t.pad = (if q.sp = .pad then s.pad.put (s.myCore * 2 ^ 20 + (q.base + 0x40 + k)) bs else s.pad) ∧
    t.crew = (if q.sp = .crew then s.crew.put (s.myCore / 8 * 2 ^ 21 + (q.base + 0x40 + k)) bs else s.crew) ∧
    t.chip = (if q.sp = .chip then s.chip.put (s.myCore / 64 * 2 ^ 26 + (q.base + 0x40 + k)) bs else s.chip) := by
  rw [State.putRing, Nat.add_assoc q.base]
  rcases hsp with sp | sp | sp <;> rw [sp] <;> exact ⟨rfl, rfl, rfl⟩

include h in
theorem slot_given {k : Nat} {c : Bool} (held : s.unit.held.find? (fun h => h.1 == (s.unitRing imm).val) = some ((s.unitRing imm).val, k, c)) :
    let q := s.ring (s.unitRing imm)
    let at_ := q.base + 0x40 + k
    let st : List Byte := [if claim then 2 else 0]
    ∃ t, Sys2Proof.Machine.exec (if claim then .pub imm else .rel imm) s = .next t ∧ (∀ h ∈ t.unit.held, h.1 ≠ (s.unitRing imm).val) ∧
      (q.sp = .pad ∨ q.sp = .crew ∨ q.sp = .chip → t.pad = (if q.sp = .pad then s.pad.put (s.myCore * 2 ^ 20 + at_) st else s.pad) ∧
        t.crew = (if q.sp = .crew then s.crew.put (s.myCore / 8 * 2 ^ 21 + at_) st else s.crew) ∧
        t.chip = (if q.sp = .chip then s.chip.put (s.myCore / 64 * 2 ^ 26 + at_) st else s.chip)) := by
  obtain ⟨i, hi, _⟩ := h.2
  have run : Sys2Proof.Machine.exec (if claim then .pub imm else .rel imm) s = .next (s.unitGive imm claim) := by cases claim <;> rfl
  rw [unitGive_eq imm claim held hi] at run
  intro q at_ st
  have put : OnEngine (s.putRing q s.myCore (0x40 + k) st) j := OnEngine_congr h (s.putRing_cur ..) (putRing_jobs ..)
  have given : OnEngine (s.slotGiven imm claim k) _ := put.modUnit fun u => { u with held := u.held.filter fun h => h.1 != (s.unitRing imm).val }
  have next : (s.slotGiven imm claim k).cur.job = some i := (congrArg Cur.job ((State.modUnit_cur ..).trans (s.putRing_cur ..))).trans hi
  have counted := OnEngine_modJob given next (f := fun e => { e with done := e.done + 1 }) fun _ => rfl
  obtain ⟨pad, crew, chip⟩ : (s.slotGiven imm claim k).pad = _ ∧ (s.slotGiven imm claim k).crew = _ ∧ (s.slotGiven imm claim k).chip = _ := modUnit_memories ..
  refine ⟨_, run, ?_, fun hsp => ?_⟩
  · rw [counted.unit_eq]
    intro e he
    exact bne_iff_ne.1 (List.mem_filter.1 he).2
  · rw [State.modJob_pad, State.modJob_crew, State.modJob_chip, pad, crew, chip]
    exact putRing_memories hsp k st

end

/-- Settles O38: the address generators move their words, and the ring operations take and give their slot. -/
theorem addressGeneratorsMoveTheirWords : Obligations.AddressGeneratorsMoveTheirWords := by
  unfold Obligations.AddressGeneratorsMoveTheirWords
  refine ⟨fun s x a d h _ => lane_generators h a d, fun s j a d imm h => ?_⟩
  refine ⟨dword_read h a d (padrd_engine h a d), dword_read h a d (e := .sprd a d) rfl, padwr_engine h a d, spwr_engine a d, fun n => xfer_fills a d imm,
    fun n => xferb_moves a d imm, send_sends h a d imm, radd_adds a d, fun claim => ?_, fun pub k c held => slot_given h imm pub held⟩
  obtain ⟨t, run, held, at_, bytes⟩ := slot_taken h d imm claim
  refine ⟨t, run, held, at_, fun memories hsp => ?_⟩
  have taken := State.ringByte_takeSlot memories hsp s.myCore claim
  rw [bytes, bytes]
  exact taken

end Sys2Proof.Machine

/-!
Launches, nodes, the dispatcher, freezes and thaws (R240 to R254, R428 to R434).
-/
namespace Sys2Proof.Machine
open Sys2Proof.Claims

/-! ## Cached copies -/

theorem partOnly_stored (s : State) (m : Mem) (c : NMap Held) : PartOnly s { s with glob := m, cache := c } := rfl

theorem partOnly_cacheBack (s : State) (drop : Bool) (line : Nat) : PartOnly s (s.cacheBack drop line) := by
  unfold State.cacheBack
  split
  · rfl
  · dsimp only
    split
    · exact partOnly_stored s _ _
    · exact partOnly_stored s s.glob _

theorem partOnly_cacheRange (drop : Bool) (ctx fuel : Nat) (s : State) (va n : Nat) : PartOnly s (s.cacheRange drop ctx fuel va n) := by
  induction fuel generalizing s va n with
  | zero => rfl
  | succ fuel ih =>
    rw [State.cacheRange]
    split
    · rfl
    · split
      · exact ih ..
      · refine PartOnly.trans ?_ (ih ..)
        split
        · rfl
        · exact PartOnly.foldl (fun s l => partOnly_cacheBack s drop l) _ _

theorem partOnly_cacheBufs (s : State) (drop : Bool) (ctx : Nat) (p : Pkt) (modes : List Nat) : PartOnly s (s.cacheBufs drop ctx p modes) := by
  unfold State.cacheBufs
  split
  · rfl
  · exact PartOnly.foldl (fun s b => partOnly_cacheRange drop ctx _ s _ _) _ _

theorem partOnly_sawTable (s : State) (ctx : Nat) (addr : Addr) : PartOnly s (s.sawTable ctx addr) := partOnly_touchVirt ..

/-! ## Launches (R238 to R240) -/

section
variable {s : State} {q idx : Nat} {p : Pkt} (at_ : (s.queue q).pkts.find? (fun z => z.idx == idx) = some p) (ready : s.launchReady q p = true)
include at_ ready

theorem launch_refused {st d : Nat} (bad : s.readTable (wbits (s.queue q).cfg 28 12) p.launchAddr q idx (wbits (s.queue q).cfg 40 7) = .error (st, d)) :
    execLaunch q idx s = .next ((s.sawTable (wbits (s.queue q).cfg 28 12) p.launchAddr).finishPkt q idx st d) := by
  simp only [execLaunch, at_, ready, bad, Bool.not_true, Bool.false_eq_true, if_false]

theorem launch_resident {T : GTable} {k : Nat} (good : s.readTable (wbits (s.queue q).cfg 28 12) p.launchAddr q idx (wbits (s.queue q).cfg 40 7) = .ok T)
    (free : s.freeTable = some k) : ∃ u : State, execLaunch q idx s = .next ((u.armTable k).launchFinish k) ∧ u.table? k = some T ∧ u.shifts = s.shifts := by
  let seen := (s.sawTable T.ctx T.addr).cacheBufs true T.ctx p [1, 3]
  let noted := seen.modQueue q fun Q => { Q with pkts := Q.pkts.map fun x => if x.idx = idx then { x with table := some k } else x }
  have part : PartOnly s seen := (partOnly_sawTable ..).trans (partOnly_cacheBufs ..)
  refine ⟨{ noted with tables := NMap.set noted.tables k T }, ?_, NMap.get?_set_same .., part.shifts⟩
  simp only [execLaunch, at_, ready, good, free, Bool.not_true, Bool.false_eq_true, if_false, Option.getD_some]
  rfl

end

theorem State.table?_modTable_same {s : State} {t : Nat} {T : GTable} (h : s.table? t = some T) (f : GTable → GTable) : (s.modTable t f).table? t = some (f T) := by
  unfold State.table? at h ⊢
  unfold State.modTable
  rw [h]
  exact NMap.get?_set_same ..

/-! ## Nodes (R244, R245, R253) -/

section
variable {s : State} {t n : Nat} {T : GTable} {x : Node} (table : s.table? t = some T) (node : s.node? t n = some x)

section
variable (live : (s.ctx T.ctx).frzState = 0) (st : x.state = 2) (kind : x.kind = 0) (unchecked : x.checked = false) (due : x.ready < s.dcc)
  (first : s.earlierUnchecked (t, n, x) = false)
include table node live st kind unchecked due first

omit table node in
theorem nodeCheck_goes : ¬(x.state ≠ 2 ∨ x.kind ≠ 0 ∨ x.checked = true ∨ (s.ctx T.ctx).frzState ≠ 0 ∨ s.dcc ≤ x.ready ∨ s.earlierUnchecked (t, n, x) = true) := by
  simp [st, kind, unchecked, live, due, first]

/-- A READY node whose turn to be checked has come. -/
theorem nodeCheck_takesEffect (e : Nat) (y : Node) :
    (s.checkNode T x = .error e → execNodeCheck t n s = .next ((s.sawHeaders T x).nodeFail t n e)) ∧
    (s.checkNode T x = .ok y → s.earlierClash (t, n, y) T.ctx = [] → execNodeCheck t n s = .next ((s.sawHeaders T x).setNode t n fun _ => { y with checked := true })) ∧
    (∀ z zs, s.checkNode T x = .ok y → s.earlierClash (t, n, y) T.ctx = z :: zs → execNodeCheck t n s = .next ((s.sawHeaders T x).waitFor t n y (z :: zs))) := by
  have goes := nodeCheck_goes live st kind unchecked due first
  simp only [execNodeCheck, table, node]
  rw [if_neg goes]
  refine ⟨fun bad => ?_, fun good free => ?_, fun z zs good clash => ?_⟩
  · rw [bad]
  · rw [good]; dsimp only; rw [free]
  · rw [good]; dsimp only; rw [clash]

end

section
variable (live : (s.ctx T.ctx).frzState = 0) (st : x.state = 2) (kind : x.kind = 1)
include table node live st kind

theorem cond_malformed (bad : 5 < nbits (x.d 10) 0 3 ∨ nbits (x.d 10) 32 16 < nbits (x.d 10) 16 16 ∨ T.nodes.length ≤ nbits (x.d 10) 32 16) :
    execCondEvaluate t n s = .next (s.nodeFail t n 0x0B) := by
  simp only [execCondEvaluate, table, node]
  rw [if_neg (by simp [st, kind, live]), if_pos bad]

section
variable (good : ¬(5 < nbits (x.d 10) 0 3 ∨ nbits (x.d 10) 32 16 < nbits (x.d 10) 16 16 ∨ T.nodes.length ≤ nbits (x.d 10) 32 16))
include good

theorem cond_unreadable {f : FaultInfo} (bad : s.virtBytes partUnit T.ctx x.condaddr 8 false = .error f) : execCondEvaluate t n s = .next (s.nodeFail t n 0x0F) := by
  simp only [execCondEvaluate, table, node]
  rw [if_neg (by simp [st, kind, live]), if_neg good, bad]

theorem cond_false {bs : List Byte} (read : s.virtBytes partUnit T.ctx x.condaddr 8 false = .ok bs)
    (no : condCode (nbits (x.d 10) 0 3) (w64 (ofLE bs)) (w64 (x.d 9)) = false) :
    execCondEvaluate t n s = .next (((s.touchVirt partUnit T.ctx x.condaddr 8 false).setNode t n fun x => { x with iter := 0 }).completeNode t n T
      { x with iter := 0 } (T.exits x)) := by
  simp only [execCondEvaluate, table, node]
  rw [if_neg (by simp [st, kind, live]), if_neg good, read]
  dsimp only
  rw [if_neg (by simp [no])]

end
end

include table node

theorem nodeComplete_runs (ready : s.completeReady t n T x = true) : execNodeComplete t n s = .next (s.completeNode t n T x (T.succs x)) := by
  simp only [execNodeComplete, table, node, ready, if_true]

/-- A window that ends begins the next and drops its samples (R249). -/
theorem windowEnd_runs (live : (s.ctx T.ctx).frzState = 0) (ended : s.windowOver T n x = true) :
    ∃ u U, execRebalanceWindowEnd t n s = .next u ∧ u.table? t = some U ∧ NMap.get? U.windows n = some s.dcc ∧ (∀ a ∈ U.samples, a.node ≠ n) ∧
      u.shifts = s.shifts := by
  have goes : ¬(!s.windowOver T n x) = true ∧ ¬(s.ctx T.ctx).frzState ≠ 0 := by simp [ended, live]
  simp only [execRebalanceWindowEnd, table, node]
  rw [if_neg (not_or.2 goes)]
  refine ⟨_, _, rfl, State.table?_modTable_same table _, NMap.get?_set_same .., fun a ha => ?_, State.modTable_shifts ..⟩
  exact bne_iff_ne.1 (List.mem_filter.1 ha).2

end

end Sys2Proof.Machine

/-!
Dispatch decisions, freezes and thaws (R247, R251, R428 to R434).
-/
namespace Sys2Proof.Machine
open Sys2Proof.Claims

/-! ## The dispatcher (R247, R251) -/

section
variable {s : State} (none_out : s.switchedOut = [])
include none_out

theorem dispatch_decides : execDispatchDecision s = .next s.decision := by
  rw [execDispatchDecision, none_out]
  rfl

theorem dispatch_nothing (order : s.dispatchOrder = []) : execDispatchDecision s = .next s := by
  rw [dispatch_decides none_out, State.decision, order, List.foldl_nil]

theorem dispatch_places {r : ReadyNode} {T : GTable} {x : Node} {ps : List Pick} (order : s.dispatchOrder = [r]) (table : s.table? r.1 = some T)
    (node : s.node? r.1 r.2.1 = some x) (st : x.state = 2) (free : s.earlierClash (r.1, r.2.1, x) T.ctx = []) (plan : s.plan T x = some ps) :
    execDispatchDecision s = .next (s.placeNode r.1 r.2.1 T x ps) := by
  have late : s.lateClash (r.1, r.2.1, x) = [] := by
    simp only [State.lateClash, table]
    exact free
  rw [dispatch_decides none_out, State.decision, order, List.foldl_cons, List.foldl_nil]
  simp only [table, node, st, late, plan, ne_eq, not_true, if_false]

end

/-! ## Turns given on -/

/-- Shifts keep their context, and nothing changes but the shifts and the cores. -/
def TurnsOnly (s t : State) : Prop :=
  t = { s with cores := t.cores, shifts := t.shifts } ∧ ∀ a ∈ t.shifts, ∃ b ∈ s.shifts, b.2.place.ctx = a.2.place.ctx

theorem TurnsOnly.refl (s : State) : TurnsOnly s s := ⟨rfl, fun a ha => ⟨a, ha, rfl⟩⟩

theorem TurnsOnly.trans {s t u : State} (h : TurnsOnly s t) (g : TurnsOnly t u) : TurnsOnly s u := by
  obtain ⟨eq, from_⟩ := h
  obtain ⟨eq', from'⟩ := g
  refine ⟨?_, fun a ha => ?_⟩
  · rw [eq] at eq'
    exact eq'
  · obtain ⟨b, hb, same⟩ := from' a ha
    obtain ⟨c, hc, same'⟩ := from_ b hb
    exact ⟨c, hc, same'.trans same⟩

theorem turnsOnly_modCore (s : State) (c : Nat) (f : Core → Core) : TurnsOnly s (s.modCore c f) := ⟨rfl, fun a ha => ⟨a, ha, rfl⟩⟩

theorem turnsOnly_modSh (s : State) (i : Nat) {f : Shift → Shift} (keeps : ∀ x, (f x).place.ctx = x.place.ctx) : TurnsOnly s (s.modSh i f) := by
  unfold State.modSh
  split
  · exact .refl s
  · next x at_ =>
    refine ⟨rfl, fun a ha => ?_⟩
    rcases NMap.mem_of_mem_set ha with rfl | ha
    · exact ⟨(i, x), NMap.mem_of_get? at_, (keeps x).symm⟩
    · exact ⟨a, ha, rfl⟩

theorem turnsOnly_startLoad (s : State) (core ctx : Nat) (tag : Word) (keep : Option Nat) : TurnsOnly s (s.startLoad core ctx tag keep) := by
  unfold State.startLoad
  split
  · split
    · exact .refl s
    · refine ⟨rfl, fun a ha => ?_⟩
      obtain ⟨b, hb, rfl⟩ := List.mem_map.1 ha
      refine ⟨b, hb, ?_⟩
      split <;> rfl
  · exact .refl s

theorem turnsOnly_prefetch (s : State) (core : Nat) : TurnsOnly s (s.prefetch core) := by
  unfold State.prefetch
  split
  · split
    · exact .refl s
    · split
      · exact .refl s
      · dsimp only
        split
        · exact turnsOnly_startLoad ..
        · exact .refl s
  · exact .refl s

theorem turnsOnly_giveTurns (s : State) : TurnsOnly s s.giveTurns := by
  refine List.foldlRecOn (motive := TurnsOnly s) s.cores _ (.refl s) fun t ht c _ => ht.trans ?_
  dsimp only
  split
  · exact .refl t
  · split
    · exact .refl t
    · refine TurnsOnly.trans ?_ (turnsOnly_prefetch ..)
      exact (turnsOnly_modCore ..).trans (turnsOnly_modSh _ _ fun _ => rfl)

theorem TurnsOnly.kept {s t : State} (h : TurnsOnly s t) : t.ctxs = s.ctxs ∧ t.glob = s.glob := by
  rw [h.1]
  exact ⟨rfl, rfl⟩

/-! ## Freezes (R426, R427) -/

theorem State.ctx_congr {s t : State} (h : t.ctxs = s.ctxs) (c : Nat) : t.ctx c = s.ctx c := by rw [State.ctx, State.ctx, h]

/-- A context whose new value is not that of an absent one. -/
theorem State.ctx_modCtx_new (s : State) (c : Nat) {f : Ctx → Ctx} (ne : f (s.ctx c) ≠ Ctx.zero) : (s.modCtx c f).ctx c = f (s.ctx c) :=
  NMap.getD_put_new _ _ ne

/-- A freeze begun: the context's state, and no byte of memory. -/
theorem freezeGo_begins {s : State} {ctx : Nat} {v : Word} (lt : ctx < 4096) (go : v.getLsbD 0 = true) (good : s.ctxfrzBad ctx v = false) :
    ∃ u, execFreezeGo 64 ctx v s = .next u ∧ (u.ctx ctx).frzState = 1 ∧ (u.ctx ctx).frzErr = 0 ∧ u.glob = s.glob := by
  have run : execFreezeGo 64 ctx v s = .next (s.writeCtxfrz ctx v) := congrArg _ (if_pos ⟨rfl, lt, go⟩)
  refine ⟨_, run, ?_⟩
  unfold State.writeCtxfrz
  rw [good, if_neg Bool.false_ne_true]
  dsimp only
  rw [if_pos go]
  generalize hm : s.modCtx ctx (fun c => { c with frzAddr := w64 (wbits v 12 40 * 4096) }) = m
  have glob : m.glob = s.glob := by rw [← hm]; rfl
  generalize hf : m.modCtx ctx (fun c => { c with frzState := 1, frzErr := 0 }) = f
  have begun : (f.ctx ctx).frzState = 1 ∧ (f.ctx ctx).frzErr = 0 := by
    rw [← hf, State.ctx_modCtx_new _ _ fun e => absurd (show 1 = Ctx.zero.frzState from congrArg Ctx.frzState e) (by decide)]
    exact ⟨rfl, rfl⟩
  have globf : f.glob = s.glob := by rw [← hf, ← glob]; rfl
  have queues : ((f.ctxQueues ctx).foldl (fun (s : State) (q : Nat × HQueue) => s.modQueue q.1 fun Q => { Q with atFreeze := Q.st }) f).ctxs = f.ctxs ∧
      ((f.ctxQueues ctx).foldl (fun (s : State) (q : Nat × HQueue) => s.modQueue q.1 fun Q => { Q with atFreeze := Q.st }) f).glob = f.glob :=
    List.foldlRecOn (motive := fun u : State => u.ctxs = f.ctxs ∧ u.glob = f.glob) _ _ ⟨rfl, rfl⟩ fun u hu q _ => hu
  generalize (f.ctxQueues ctx).foldl (fun (s : State) (q : Nat × HQueue) => s.modQueue q.1 fun Q => { Q with atFreeze := Q.st }) f = g at queues
  have shifts : ((g.ctxShifts ctx).foldl (fun (s : State) (e : Nat × Shift) => s.modSh e.1 fun x => { x with pend := { x.pend with preempt := true } }) g).ctxs = g.ctxs ∧
      ((g.ctxShifts ctx).foldl (fun (s : State) (e : Nat × Shift) => s.modSh e.1 fun x => { x with pend := { x.pend with preempt := true } }) g).glob = g.glob :=
    List.foldlRecOn (motive := fun u : State => u.ctxs = g.ctxs ∧ u.glob = g.glob) _ _ ⟨rfl, rfl⟩ fun u hu e _ => by
      simpa using hu
  obtain ⟨ctxs, globs⟩ := shifts
  rw [State.ctx_congr (ctxs.trans queues.1)]
  exact ⟨begun.1, begun.2, globs.trans (queues.2.trans globf)⟩

theorem storeQuiet_glob_part (s : State) (pa key : Nat) (bs : List Byte) : PartOnly s (s.storeQuiet (.glob pa key) bs) := by
  rw [← State.writeLine_eq_storeQuiet]
  exact partOnly_writeLine ..

/-- A line stored leaves the shifts. -/
theorem storeAt_glob_shifts (s : State) (pa key : Nat) (bs : List Byte) : (s.storeAt (.glob pa key) bs).shifts = s.shifts := by
  unfold State.storeAt
  dsimp only
  split
  · exact (storeQuiet_glob_part ..).shifts
  · exact (storeQuiet_glob_part ..).shifts

/-- No shift of a context is left once it is taken off the part. -/
theorem frzRemove_shifts (s : State) (ctx : Nat) : ∀ a ∈ (s.frzRemove ctx).shifts, a.2.place.ctx ≠ ctx := by
  intro a ha
  unfold State.frzRemove at ha
  obtain ⟨b, hb, same⟩ := (turnsOnly_giveTurns _).2 a ha
  rw [← same]
  have queues : ((s.ctxQueues ctx).foldl (fun (s : State) (q : Nat × HQueue) =>
      s.modQueue q.1 fun Q => { Q with st := 0, pkts := [], cpls := [], counted := 0, oldest := none }) s).shifts = s.shifts :=
    List.foldlRecOn (motive := fun u : State => u.shifts = s.shifts) _ _ rfl fun u hu q _ => hu
  obtain ⟨mem, other⟩ := List.mem_filter.1 hb
  rw [queues] at mem
  intro mine
  have listed : b ∈ s.ctxShifts ctx := List.mem_filter.2 ⟨mem, beq_iff_eq.2 mine⟩
  have gone : (s.ctxShifts ctx).any (fun e => e.1 == b.1) = true := List.any_eq_true.2 ⟨b, listed, beq_self_eq_true _⟩
  dsimp only at other
  rw [gone] at other
  exact Bool.false_ne_true other

/-- An image written, and its context off the part (R427, R428). -/
theorem freezeImage_written {s : State} {ctx : Nat} (begun : (s.ctx ctx).frzState = 1) (quiet : s.freezeQuiet ctx = true) (fits : s.frzTooBig ctx = false)
    (there : s.frzUnwritable (s.frzBase ctx) (sealImage (s.imageBody ctx) (s.ctxQueues ctx).length (s.ctxShifts ctx).length).length = false)
    (goes : s.frzWaits (s.frzBase ctx) (sealImage (s.imageBody ctx) (s.ctxQueues ctx).length (s.ctxShifts ctx).length).length = false) :
    ∃ u, execFreezeImageWrite ctx s = .next u ∧ (u.ctx ctx).frzState = 2 ∧ (u.ctx ctx).frzErr = 0 ∧ ∀ a ∈ u.shifts, a.2.place.ctx ≠ ctx := by
  have run : execFreezeImageWrite ctx s = .next (((s.writeImage (s.frzBase ctx) (sealImage (s.imageBody ctx) (s.ctxQueues ctx).length (s.ctxShifts ctx).length)).frzRemove
      ctx).modCtx ctx fun x => { x with frzState := 2, frzErr := 0, frzShifts := (s.ctxShifts ctx).length }) := by
    unfold execFreezeImageWrite
    rw [if_neg (by simp [begun, quiet]), fits, if_neg Bool.false_ne_true]
    dsimp only
    rw [there, if_neg Bool.false_ne_true, goes, if_neg Bool.false_ne_true]
  have gone := frzRemove_shifts (s.writeImage (s.frzBase ctx) (sealImage (s.imageBody ctx) (s.ctxQueues ctx).length (s.ctxShifts ctx).length)) ctx
  generalize (s.writeImage (s.frzBase ctx) (sealImage (s.imageBody ctx) (s.ctxQueues ctx).length (s.ctxShifts ctx).length)).frzRemove ctx = w at run gone
  refine ⟨_, run, ?_, ?_, gone⟩ <;>
    rw [State.ctx_modCtx_new _ _ fun e => absurd (show 2 = Ctx.zero.frzState from congrArg Ctx.frzState e) (by decide)]

/-! ## Thaws (R426, R430) -/

theorem thaw_runs {s : State} {ctx : Nat} {v : Word} (lt : ctx < 4096) (thaws : v.getLsbD 1 = true) (good : s.ctxfrzBad ctx v = false) :
    execThaw 64 ctx v s = .next ((s.writeCtxfrz ctx v).thaw ctx) := by
  rw [execThaw, if_pos ⟨rfl, lt, thaws⟩, State.putCtxfrz, thaws, good]
  rfl

theorem jobDone_kept (s : State) (id : Nat) (tok : Word) : (s.jobDone id tok).ctxs = s.ctxs ∧ (s.jobDone id tok).glob = s.glob := by
  unfold State.jobDone
  split <;> exact ⟨rfl, rfl⟩

theorem recheckCopies_kept (s : State) (ctx : Nat) : (s.recheckCopies ctx).ctxs = s.ctxs ∧ (s.recheckCopies ctx).glob = s.glob := by
  refine List.foldlRecOn (motive := fun u : State => u.ctxs = s.ctxs ∧ u.glob = s.glob) s.jobs _ ⟨rfl, rfl⟩ fun u hu j _ => ?_
  split
  · exact hu
  · split
    · exact hu
    · split
      · exact hu
      · exact ⟨(jobDone_kept ..).1.trans hu.1, (jobDone_kept ..).2.trans hu.2⟩

theorem thawComplete_resumes {s : State} {ctx : Nat} (rises : Safety.Rises s.ctxs) (thawed : (s.ctx ctx).frzState = 3) :
    ∃ u, execThawComplete ctx s = .next u ∧ (u.ctx ctx).frzState = 0 ∧ u.glob = s.glob := by
  have run : execThawComplete ctx s = .next (((s.modCtx ctx fun c => { c with frzState := 0 }).recheckCopies ctx).giveTurns) := by
    rw [execThawComplete, if_pos thawed]
  refine ⟨_, run, ?_⟩
  obtain ⟨ctxs, glob⟩ := (turnsOnly_giveTurns ((s.modCtx ctx fun c => { c with frzState := 0 }).recheckCopies ctx)).kept
  obtain ⟨ctxs', glob'⟩ := recheckCopies_kept (s.modCtx ctx fun c => { c with frzState := 0 }) ctx
  rw [State.ctx_congr (ctxs.trans ctxs'), State.ctx_modCtx rises]
  exact ⟨rfl, glob.trans glob'⟩

/-- Settles O53: each launch, node, decision, freeze and thaw runs the branch that its conditions name. -/
theorem graphsAndFreezesTakeEffect : Obligations.GraphsAndFreezesTakeEffect := by
  unfold Obligations.GraphsAndFreezesTakeEffect
  intro s q idx t n st d ctx k e v p T x y bs f
  have well (cc : x.d 10 % 8 ≤ 5) (le : nbits (x.d 10) 16 16 ≤ nbits (x.d 10) 32 16) (lt : nbits (x.d 10) 32 16 < T.nodes.length) :
      ¬(5 < nbits (x.d 10) 0 3 ∨ nbits (x.d 10) 32 16 < nbits (x.d 10) 16 16 ∨ T.nodes.length ≤ nbits (x.d 10) 32 16) := by
    rw [nbits_zero]
    omega
  refine ⟨fun at_ ready => ⟨fun bad => ?_, fun good free => ?_⟩, fun table node live => ⟨fun hst kind unchecked due first => ?_, fun hst kind => ⟨fun bad => ?_,
      fun cc le lt => ⟨fun bad => ?_, fun read no => ?_⟩⟩, nodeComplete_runs table node, windowEnd_runs table node live⟩,
    fun order out => dispatch_nothing out order, fun r ps out order table node hst free plan => dispatch_places out order table node hst free plan,
    fun lt => ⟨fun go good => freezeGo_begins lt go good, fun begun quiet fits there goes => freezeImage_written begun quiet fits there goes,
      fun thaws good => thaw_runs lt thaws good, fun rises thawed => thawComplete_resumes rises thawed⟩⟩
  · rw [← nbits, ← nbits] at bad
    exact launch_refused at_ ready bad
  · exact launch_resident at_ ready good free
  · exact nodeCheck_takesEffect table node live hst kind unchecked due first e y
  · exact cond_malformed table node live hst kind (by rw [nbits_zero]; exact bad)
  · exact cond_unreadable table node live hst kind (well cc le lt) bad
  · exact cond_false table node live hst kind (well cc le lt) read (by rw [nbits_zero, ofLE_eq_number]; exact no)

end Sys2Proof.Machine
